-- ==== Sys2Proof/Word.lean ====
section
/-! DEFINITION. The words of the ZX4: bytes, register words, and the sparse tables in which State holds
its arrays (R10, R11). Register contents are bit vectors; counts and indices are natural numbers. -/

namespace Sys2Proof

/-- A byte of memory, of a lane or of a packet. -/
abbrev Byte := BitVec 8
/-- A 32-bit register or a 32-bit lane of the vector engine. -/
abbrev W32 := BitVec 32
/-- A 64-bit register. -/
abbrev W64 := BitVec 64

/-- A finite table with a default, as data: (index, value) pairs. In canonical form the indices rise strictly and
no entry equals the default, so that equal tables are equal lists (Machine/Ops.lean holds its reads and writes). -/
abbrev Tbl (α : Type) := List (Nat × α)

end Sys2Proof
end

