-- ==== Sys2Proof/Syntax.lean ====
section
/-! DEFINITION. The commands and events of the ZX4: one constructor of Instr per row of spec/opcode_table.json, with
the operands the cited rules give it. An event of the arithmetic clock domain carries, as its first operand, the count
MCC at which it takes place (R39). Values the physical world supplies (a bit flipped on a wire, the outcome of a
self-test, a measured power) are operands too. -/

namespace Sys2Proof

/-- Direction round the ring (R55). -/
inductive Dir where
  | cw | ccw
  deriving DecidableEq, Repr

/-- Element formats of Table 5.1, with UINT8 (R110). -/
inductive Elem where
  | fp32 | bf16 | fp16 | e5m2 | e4m3 | e3m2 | e2m3 | e2m1 | int8 | uint8 | int32
  deriving DecidableEq, Repr

/-- An operand format of the arrays: an element format, with or without an MX scale (R82, R98). -/
structure OpFmt where
  elem : Elem
  mx : Bool
  deriving DecidableEq, Repr

/-- Accumulation of a pass (Table 4.1). -/
inductive Acc where
  | fp32 | acc16 | int32
  deriving DecidableEq, Repr

/-- A position-relative field: its value at logical position q is v + q * k (R159). -/
structure Rel where
  v : Nat
  k : Nat
  deriving DecidableEq, Repr

/-- A scratchpad address of a bundle: a position-relative base, and a cell counter whose value times 64 is
added when one is named (R162). -/
structure SpAddr where
  base : Rel
  ct : Option Nat
  deriving DecidableEq, Repr

/-- One predicate named by an operation: the comparator, and whether it is taken inverted (R163). -/
structure Pred where
  cmp : Nat
  invert : Bool
  deriving DecidableEq, Repr

/-- Bits flipped by the physical world: (byte or symbol index, bits). -/
abbrev Noise := List (Nat × Byte)

/-- A row source of a pass (Table 4.2, R85). -/
inductive RowSrc where
  | ring (d : Dir)
  | sp (a : Rel)
  | tile (reg block lane : Nat) (transposed : Bool)
  deriving DecidableEq, Repr

/-- The operands of a row pass (Table 4.2), as an ARRAY queue entry carries them. -/
structure PassDesc where
  xf : OpFmt
  wf : OpFmt
  acc : Acc
  rows : Nat
  src0 : RowSrc
  src1 : Option RowSrc
  scale : Rel
  mask : Nat
  ins : List (Option Rel)
  outs : List Rel
  stride : Nat
  deriving DecidableEq, Repr

/-- ALU1 operations (Table 6.1). -/
inductive Alu1 where
  | add | sub | mul | fma | min | max | abs | neg | eq | ne | lt | le | gt | ge | select
  | and | or | xor | shl | shr | iadd | isub | imul | pass
  deriving DecidableEq, Repr

/-- FUNC operations (Table 6.1). -/
inductive Func where
  | exp | exp2 | log | log2 | recip | sqrt | rsqrt | tanh | sigmoid | erf | geluErf | geluTanh | silu
  deriving DecidableEq, Repr

/-- ALU2 operations (Table 6.1). -/
inductive Alu2 where
  | add | sub | mul | fma | min | max | select
  deriving DecidableEq, Repr

/-- Which operand ALU2 takes as X (Table 6.1). -/
inductive Abc where
  | a | b | c
  deriving DecidableEq, Repr

/-- Reduction operations (Table 6.3). -/
inductive RedOp where
  | sum | sumsq | max | min | prod | isum | count | argmax | argmin
  deriving DecidableEq, Repr

/-- Reduction axis (R125). -/
inductive Axis where
  | lanes | words
  deriving DecidableEq, Repr

/-- Where an operand of a vector descriptor comes from (Table 6.1, source stage). -/
inductive VSrc where
  | none
  | tile (reg row : Nat)
  | sp (base : Rel)
  | scalar (bits : W32)
  | rowTile (reg row : Nat)
  | rowSp (base : Rel)
  | colTile (reg row : Nat)
  | colSp (base : Rel)
  | laneIndex
  | bernoulli
  | expand (base : Rel)
  deriving DecidableEq, Repr

/-- One operand: source, format and signed strides per loop level (Table 6.2). -/
structure VOperand where
  src : VSrc
  fmt : Elem
  strides : List Int
  deriving DecidableEq, Repr

/-- The mask of a vector descriptor (Table 6.2). -/
inductive VMask where
  | none
  | plane (base : Rel)
  | alu1
  deriving DecidableEq, Repr

/-- The sink of a vector descriptor (Table 6.1). -/
inductive VSink where
  | tile (reg row : Nat)
  | sp (base : Rel)
  | ring
  | maskPlane (base : Rel)
  | counter
  | compress (base : Rel)
  deriving DecidableEq, Repr

/-- A vector descriptor (Table 6.2), as a VECTOR queue entry carries it. -/
structure VecDesc where
  opA : VOperand
  opB : VOperand
  opC : VOperand
  alu1 : Option Alu1
  func : Option Func
  alu2 : Option (Alu2 × Abc)
  red : Option (RedOp × Axis × Nat)
  sink : VSink
  sinkFmt : Elem
  mxOut : Bool
  stochastic : Bool
  sat : Bool
  outStrides : List Int
  loops : List Nat
  count : Nat
  mask : VMask
  zeroMode : Bool
  keep : Nat
  limit : Nat
  ctr : Option Nat
  mxb : Nat
  mxWords : Bool
  status : Option Rel
  deriving DecidableEq, Repr

/-- Row engine operations (Table 6.7). -/
inductive RowOp where
  | statSoftmax | statLnorm | statRms | finalSoftmax | finalLnorm | finalRms | applySoftmax | applyNorm | lse
  | bdotSoftmax | bdotLnorm | bdotRms | bemitSoftmax | bemitLnorm | bemitRms
  | mergeSoftmax | mergeLnorm | mergeRms | mergeBackward | spill | fill
  deriving DecidableEq, Repr

/-- Mask of a row engine descriptor (Table 6.8). -/
inductive RowMask where
  | none | causal | window
  deriving DecidableEq, Repr

/-- A row engine descriptor (Table 6.8). STATUS names a scratchpad word by cell position and address. DESIGN CHOICE (log entry 24):
`recB` names record B of a MERGE (R138), for which Table 6.8 has no field: the first of its records in the side memory, or none where
they come with the released lanes. -/
structure RowDesc where
  op : RowOp
  fmtIn : Elem
  fmtOut : Elem
  rows : Nat
  n : Nat
  off : Nat
  first : Bool
  recIdx : Nat
  brecIdx : Nat
  recB : Option Nat
  scale : W32
  mask : RowMask
  row0 : Int
  diag : Int
  width : Nat
  eps : W32
  na : Nat
  nb : Nat
  outDir : Dir
  outLanes : List Nat
  outLaps : Nat
  outDest : Nat
  status : Option (Nat × Nat)
  deriving DecidableEq, Repr

/-- A run entry of the PORT queue (R200). -/
structure PortRun where
  outbound : Bool
  stream : Nat
  words : Nat
  deriving DecidableEq, Repr

/-- The four band queues (Table 8.1). -/
inductive QName where
  | array | vector | row | port
  deriving DecidableEq, Repr

/-- What a queue entry holds besides its slot tag and sequence number (R164). -/
inductive QBody where
  | array (d : PassDesc)
  | vector (d : VecDesc)
  | row (d : RowDesc)
  | port (d : PortRun)
  deriving DecidableEq, Repr

/-- Destination of a capture (R57). A weight capture names array (none = all, normal mode), chunk, orientation and
format (R87, R89); a row-stream capture feeds the row source of the active pass. -/
inductive CapDest where
  | tile (reg block lane esize : Nat)
  | bank (a : SpAddr)
  | weight (array : Option Nat) (chunk : Nat) (transposed : Bool) (fmt : OpFmt)
  | rowStream
  deriving DecidableEq, Repr

/-- Source of an emitted lane: the next 64 bytes staged by a ring-emission sink, a scratchpad word or a tile lane. -/
inductive EmSrc where
  | staged
  | sp (a : SpAddr)
  | tile (reg block lane esize : Nat)
  deriving DecidableEq, Repr

/-- Source of a weight chunk other than the ring (R87). -/
inductive ChunkSrc where
  | sp (a : SpAddr)
  | tile (reg block lane esize : Nat)
  deriving DecidableEq, Repr

/-- Counter operations (R162). -/
inductive CtrOp where
  | set (v : Rel)
  | add (v : Rel)
  | copy (j : Nat)
  deriving DecidableEq, Repr

/-- Comparator relations (R163). -/
inductive CmpRel where
  | eq | ne | lt | ge
  deriving DecidableEq, Repr

/-- A comparator configuration (R163, R416). The all-zero configuration compares CT0 with 0 by EQ, unsigned. -/
structure CmpCfg where
  ctr : Nat
  rel : CmpRel
  signed : Bool
  second : Option Nat
  value : Nat
  deriving DecidableEq, Repr

/-- The operations of a bundle (R158). -/
inductive CellOp where
  | capture (d : Dir) (dest : CapDest) (noise : Noise)
  | emission (d : Dir) (lane dest laps : Nat) (tag : Rel) (src : EmSrc)
  | laneReg (d : Dir) (v : Rel)
  | weightChunk (array : Option Nat) (chunk : Nat) (transposed : Bool) (fmt : OpFmt) (src : ChunkSrc)
  | swap (mask : Nat)
  | passStart (seq : Nat)
  | vecStart (seq : Nat)
  | seed (salt : W32)
  | modeSet (wide : Bool)
  | counter (i : Nat) (op : CtrOp)
  | comparator (i : Nat) (cfg : CmpCfg)
  deriving DecidableEq, Repr

/-- An operation with its predicate (R163). -/
structure BundleOp where
  op : CellOp
  pred : Option Pred
  deriving DecidableEq, Repr

/-- Skew of a broadcast bundle (R159). -/
inductive Skew where
  | none | cw | ccw
  deriving DecidableEq, Repr

/-- What the head injects (R59, R65, R131): a word popped from the band port buffer, the row engine's results or a
seam word; with the lap count and one tag per direction. -/
inductive InjSrc where
  | popped
  | rowEngine
  | seam
  deriving DecidableEq, Repr

/-- The two moments of a head injection (R59): the head takes lanes at AGE -129, and later places each on the ring. -/
inductive Injection where
  | take (src : InjSrc) (cw ccw : Bool) (lanes : List Nat) (laps tagCw tagCcw : Nat)
  | place
  deriving DecidableEq, Repr

/-- The header of a command packet (Table 15.5): ring 0-15, or 16 for the management ring (R320); FLAGS; TAG;
whether a byte that the opcode does not use is non-zero (R309); and, for a packet that is none of Table 15.7's commands,
the opcode it has in place of the row's (R310). -/
structure CmdHdr where
  ring : Nat
  flags : Nat
  tag : Nat
  reserved : Bool
  badOp : Option Nat := none
  deriving DecidableEq, Repr

/-- Opcodes of Table 15.7. -/
def opcodes : List Nat :=
  [0x01, 0x02, 0x03, 0x10, 0x11, 0x12, 0x13, 0x14, 0x15, 0x16, 0x20, 0x21, 0x30, 0x31, 0x32, 0x40, 0x41, 0x50, 0x51, 0x60,
   0x61, 0x70, 0x71, 0x80, 0x90, 0x91, 0x92, 0x93, 0x94]

/-- A band entry of a maquette (R193). -/
structure BandEntry where
  idle : List Nat
  perCell : Bool
  nContexts : Nat
  seqImg : List Byte
  armImg : List Byte
  cellImgs : List (Nat × List Byte)
  seqCrc : Nat
  armCrc : Nat
  cellCrcs : List (Nat × Nat)
  deriving DecidableEq, Repr

/-- A seam route (Table 9.9): sending and receiving logical band, and track. -/
structure SeamRoute where
  src : Nat
  dst : Nat
  track : Nat
  deriving DecidableEq, Repr

/-- A maquette image as the loader reads it: the 256 header bytes, and the tables. Region and context entries are their
bytes (Tables 11.5, 10.5, 10.2); the byte layout of a band entry is not given, so band entries are records. sigBlock
is the 208-byte signature block when present, and signedBytes the bytes it signs. -/
structure Maquette where
  hdr : List Byte
  bands : List BandEntry
  seams : List SeamRoute
  regions : List (List Byte)
  contexts : List (List Byte)
  sigBlock : Option (List Byte)
  signedBytes : List Byte
  deriving DecidableEq, Repr

/-- A Flomor image: the 512 header bytes and the ciphertext (R349). -/
structure FlomorImage where
  hdr : List Byte
  cipher : List Byte
  deriving DecidableEq, Repr

/-- A DIMM as start-up or DIMM_ONLINE finds it in a socket (Table 11.1): type accepted, capacity in GiB, rated MT/s,
and whether its training and read-back pass. -/
structure DimmProbe where
  rdimmEcc : Bool
  capGiB : Nat
  ratedMts : Nat
  testOk : Bool
  deriving DecidableEq, Repr

/-- Agents that access registers, mailboxes and windows (R295, R317). -/
inductive Agent where
  | host
  | core (n : Nat)
  deriving DecidableEq, Repr

/-- Transports of an SPDM message: DOE, MCTP over SMBus, MCTP over vendor-defined messages (R319, R347). -/
inductive Transport where
  | doe | mctp | mctpVdm
  deriving DecidableEq, Repr

/-- Readers of a memory line (Table 11.3). A stream context's message carries its generation (R206). -/
inductive MemReader where
  | stream (ctx gen : Nat)
  | update (chan : Nat)
  | scrub
  | window (a : Agent)
  | merge (a : Agent)
  | migration
  | dump
  deriving DecidableEq, Repr

/-- Shared units (R30): a memory device, a plinth-to-plinth link, a plinth-to-I/O link. -/
inductive SharedUnit where
  | device (u : Nat)
  | plinthLink (i : Nat)
  | ioLink (k : Nat)
  deriving DecidableEq, Repr

/-- Messages a port sends in CTRL, MSG and TRAIN frames, and sequenced frames with a body (Tables 12.1, 12.2, 13.4). -/
inductive Msg where
  | quiesce | quiesceOk | quiesceRefuse
  | fail (chan gen cause rank : Nat)
  | stepFail (chan gen cause rank : Nat)
  | nanReport (chan : Nat) (valid : Bool) (rank element : Nat)
  | drain (chan gen : Nat)
  | drainDone (chan gen : Nat)
  | castAt (chan atGtc : Nat)
  deriving DecidableEq, Repr

/-- A sequenced frame waiting or unacknowledged at a port. Data bodies are 256 bytes (R235). -/
inductive Frame where
  | red (chan gen offset : Nat) (body : List Byte)
  | param (chan gen offset : Nat) (body : List Byte)
  | msg (m : Msg)
  | error (code typ seq chan gen : Nat)
  deriving DecidableEq, Repr

/-- What is wrong with a MSG or ERROR frame (Table 12.7a): the kind of a MSG entry, or COUNT of a MSG or of an ERROR frame. -/
inductive MsgFault where
  | kind
  | count
  | errorCount
  | reserved (typ : Nat)
  deriving DecidableEq, Repr

/-- What a received frame is when it fails (R241, Table 12.7a). `bytes` is a frame as it comes in, whose CRC says whether it fails, with
the sixteenths of a nanosecond of the stamps taken of its arrival and of the reply. -/
inductive FrameFail where
  | bytes (arrival reply : Nat) (frame : List Byte)
  | crc
  | uncorrectable
  | reservedType
  | ahead
  deriving DecidableEq, Repr

/-- One term of a channel node: its own contribution, or an edge by link number (R256). -/
inductive Term where
  | localTerm
  | edge (link : Nat)
  deriving DecidableEq, Repr

/-- PLDM sensors (Table 15.9) and state sensors (R321). -/
inductive Sensor where
  | numeric (id : Nat)
  | power
  | partition (p : Nat)
  | base (command value : Nat)
  deriving DecidableEq, Repr

/-- Where a router self-test was called from is not observable; its outcome per band is. -/
abbrev BandOutcome := List (Nat × Bool)

/-- What Flomor and the detection of step 4 of R332 find: DIMMs, the router self-tests that fail, the stacks whose training fails, the
laser modules, the link to the host, whether REFCLK is there (R404), and whether the pairwise test of the derived keys fails (R343). -/
structure StartupFind where
  dimms : List DimmProbe := []
  badRouters : List Nat := []
  badStacks : List Nat := []
  lasers : List Bool := []
  pcieRate : Nat := 0
  pcieWidth : Nat := 0
  pcieFlit : Bool := false
  refclk : Bool := false
  keyFails : Bool := false
  deriving DecidableEq, Repr

/-- The type of a DOE object, and the index of a request of DOE discovery (Table 14.1). -/
structure DoeType where
  typ : Nat
  index : Nat := 0
  deriving DecidableEq, Repr

/-- What SET_POWER_STATE names, and what Flomor finds where the command leaves STANDBY (R323, R332). -/
structure PowerGoal where
  target : Nat
  found : StartupFind := {}
  deriving DecidableEq, Repr

/-- What a band port has scheduled when it looks ahead (R46): for each inbound stream the words from the present cycle to
the end of the window that starts at the next boundary, and for each outbound stream those of the window. -/
structure PortWindow where
  band : Nat
  pops : List (Nat × Nat)
  sends : List (Nat × Nat)
  deriving DecidableEq, Repr

/-- The report of a BIND (R195, R311): its address, 0 for none; the address of the binding table, which EXPLICIT uses; and
whether a program that was loaded does not verify. -/
structure BindReport where
  addr : Nat
  badLoad : Bool
  table : Nat := 0
  deriving DecidableEq, Repr

/-- The full identifier of the context that a message belongs to (R206): its index and the generation that the message carries. -/
structure CtxMsg where
  index : Nat
  gen : Nat
  deriving DecidableEq, Repr

/-- A grant of a multicast's target (R206, R211): the generation that it carries, and the endpoint that grants. -/
structure Grant where
  gen : Nat
  endpoint : Fin 8
  deriving DecidableEq, Repr

/-- What a TRAIN frame says of the port that sends it (Table 12.4): its credits of the three classes, and its next SEQ. -/
structure TrainStart where
  credits : List Nat
  seq : Nat
  deriving DecidableEq, Repr

/-- Clock monitor findings at a sync pulse (Table 2.2): per region a jitter and a duty deviation in 0.1 %, and per
crossing of two regions a skew in 1/64 cycle; and the local copies of counts that have moved off: the region, MCC or the
partition whose JCC it is, and by how much. -/
structure MonFind where
  jitter : List (Nat × Nat)
  duty : List (Nat × Nat)
  skew : List (Nat × Nat × Nat)
  slips : List (Nat × Option (Fin 4) × Nat)
  deriving DecidableEq, Repr

/-- JTAG instructions (R406). -/
inductive Jtag where
  | bypass | idcode | samplePreload | extest
  deriving DecidableEq, Repr

/-- A read of host memory that fails (R290): the ring whose command issued it; and, where the command at HEAD was read and it is
its bulk input that fails, the command's opcode, TAG and IRQ flag. -/
structure BulkCmd where
  opcode : Nat
  tag : Nat
  irq : Bool
  deriving DecidableEq, Repr
structure DmaRead where
  ring : Nat
  bulk : Option BulkCmd := none
  deriving DecidableEq, Repr

/-- The requester's nonce of CHALLENGE or GET_MEASUREMENTS; `failing`: the row of Table 17.1 whose continuous test of the entropy for the
responder's own nonce fails, if one does (R343). -/
structure Nonce where
  bytes : List Byte
  failing : Option Nat := none
  deriving DecidableEq, Repr

/-- A message in an established session: the session, and the tag of its AES-256-GCM encryption (R347). -/
structure SessionMsg where
  id : Nat
  tag : List Byte := []
  deriving DecidableEq, Repr

/-- FINISH: the session, the requester's verify data, and the signature of a mutually authenticated requester (R347). -/
structure FinishMsg where
  id : Nat
  mac : List Byte := []
  sig : List Byte := []
  deriving DecidableEq, Repr

/-- What KEY_EXCHANGE carries (R347): the requester's ECDHE point, its leaf key where it is mutually authenticated, and the row of
Table 17.1 that a continuous test of the entropy source or the pairwise test of the new key pair finds failing (R343). -/
structure KeyShare where
  point : List Byte
  peer : Option (List Byte) := none
  failing : Option Nat := none
  deriving DecidableEq, Repr

/-- The leaf of a chain that SET_CERTIFICATE brings (R346): whether the chain is well formed, and the leaf's public key. -/
structure CertLeaf where
  ok : Bool
  key : List Byte
  deriving DecidableEq, Repr

/-- The bus that an MCTP message comes over (R319). -/
inductive MctpBus where
  | smbus | pcie
  deriving DecidableEq, Repr

/-- Operands of the MCTP rows with the bus of the message: an endpoint ID, a TAG, the width of a read, a sensor, whether the flash
write of an update succeeds, whether the new Flomor accepts the state, and IDENTIFY. -/
structure MctpEid where
  eid : Nat
  bus : MctpBus := .smbus
  deriving DecidableEq, Repr
structure MctpTag where
  tag : Nat
  bus : MctpBus := .smbus
  deriving DecidableEq, Repr
structure MctpWidth where
  width : Nat
  bus : MctpBus := .smbus
  deriving DecidableEq, Repr
structure PldmQuery where
  sensor : Sensor
  bus : MctpBus := .smbus
  deriving DecidableEq, Repr
structure PldmFlag where
  on : Bool
  bus : MctpBus := .smbus
  deriving DecidableEq, Repr

/-- Privilege modes of an application core (R293). -/
inductive Priv where
  | user | supervisor | machine
  deriving DecidableEq, Repr

/-- The atomic memory operations of RV64A (R293, R294). -/
inductive AmoOp where
  | swap | add | and | or | xor | min | max | minu | maxu
  deriving DecidableEq, Repr

/-- What an instruction of an application core that reaches no memory writes: the pc, integer, floating-point and vector
registers, CSRs, and the mode (R293). The customer's program decides it. -/
structure CoreStep where
  pc : W64
  xs : List (Nat × W64)
  fs : List (Nat × W64)
  vs : List (Nat × BitVec 256)
  csrs : List (Nat × W64)
  priv : Priv
  deriving DecidableEq, Repr

/-- What an application core does (R293, R294): instruction fetches, loads, stores, AMO and LR/SC at a physical address; an
instruction without an access; WFI; and an interrupt that it takes (R297). -/
inductive CoreOp where
  | load (size : Nat)
  | store (bytes : List Byte)
  | amo (op : AmoOp) (size : Nat) (value : W64)
  | fetch (size : Nat)
  | lr (size : Nat)
  | sc (bytes : List Byte) (ok : Bool)
  | retire (w : CoreStep)
  | wfi
  | interrupt
  deriving DecidableEq, Repr

/-- The commands and events of the ZX4, in the order of spec/opcode_table.json. `h` is a command packet's header, `t`
the MCC of an event of the arithmetic domain, `p` a partition, `b` a global band, `q` a logical and `pos` a physical
position, `k` a plinth die, `l` a link, `c` a channel. -/
inductive Instr where
  /-- R311. KIND 0 identity, 1 fabric. -/
  | queryInfo (h : CmdHdr) (kind : Nat)
  /-- R323. 0 ACTIVE, 1 IDLE, 2 STANDBY, 3 AUX. -/
  | setPowerState (h : CmdHdr) (goal : PowerGoal)
  /-- R328. -/
  | setFreqLevel (h : CmdHdr) (level : Nat)
  /-- R194. `img` is the image as the read of LOC, address and size returns it. -/
  | loadMaquette (h : CmdHdr) (part loc addr size : Nat) (img : Maquette)
  /-- R195. With EXPLICIT, `table` is the binding table. -/
  | bind (h : CmdHdr) (part loc : Nat) (explicit : Bool) (table : List (Nat × Nat)) (report : BindReport)
  /-- R207, R312. -/
  | start (h : CmdHdr) (part : Nat) (jobSeed : W64) (atMcc : Nat)
  /-- R207 step 4. -/
  | startAccepted (p : Fin 4)
  /-- R207. -/
  | startDrainTimeout (p : Fin 4)
  /-- R169. -/
  | armatureLeaveReset (t : Nat) (p : Fin 4)
  /-- R40. -/
  | startCountReached (t : Nat) (p : Fin 4)
  /-- R50. -/
  | hold (h : CmdHdr) (part : Nat)
  /-- R50. -/
  | pauseAtBoundary (t : Nat) (p : Fin 4)
  /-- R50. -/
  | resume (h : CmdHdr) (part : Nat)
  /-- R50, R381. -/
  | resumeAtBoundary (t : Nat) (p : Fin 4)
  /-- R313. -/
  | cast (h : CmdHdr) (part atGtc : Nat)
  /-- R374. -/
  | castAtBoundary (t : Nat) (p : Fin 4)
  /-- R28, R170. -/
  | abort (h : CmdHdr) (part : Nat)
  /-- R170. `unfinished`: bands in per-cell mode with a cell program that has not reached its end. -/
  | partitionDone (t : Nat) (p : Fin 4) (unfinished : List Nat)
  /-- R228. -/
  | migrationUnitCopy (p : Fin 4) (handle : Nat)
  /-- R311, R314. -/
  | regionMapQuery (h : CmdHdr) (part handle : Nat)
  /-- R314. -/
  | regionMapPin (h : CmdHdr) (part handle : Nat)
  /-- R314. -/
  | regionMapUnpin (h : CmdHdr) (part handle : Nat)
  /-- R314. -/
  | regionMapAttach (h : CmdHdr) (part handle srcPart srcHandle : Nat)
  /-- R229. -/
  | regionMigrate (h : CmdHdr) (part handle tier device : Nat)
  /-- R244. -/
  | linkTrain (h : CmdHdr) (link : Nat)
  /-- R244. -/
  | linkRecal (h : CmdHdr) (link : Nat)
  /-- R244. -/
  | linkDrain (h : CmdHdr) (link : Nat)
  /-- R271. -/
  | channelOpen (h : CmdHdr) (chan : Nat)
  /-- R272. -/
  | channelClose (h : CmdHdr) (chan : Nat)
  /-- R352. `flashOk`: the read-back of step 5 matches. -/
  | fwUpdate (h : CmdHdr) (loc addr size : Nat) (img : FlomorImage) (flashOk : Bool)
  /-- R338. `accepts`: the new image accepts the state it is given. -/
  | fwActivateLiveHandover (h : CmdHdr) (accepts : Bool)
  /-- R339. -/
  | fwActivateAtWarmReset (h : CmdHdr)
  /-- R366, R377. -/
  | dumpTensor (h : CmdHdr) (part loc point step addr len : Nat)
  /-- R368. -/
  | dumpCopyComplete (p : Fin 4)
  /-- R373. -/
  | digestTapArm (h : CmdHdr) (part loc tap addr entries : Nat)
  /-- R373. -/
  | digestTapDisarm (h : CmdHdr) (part loc tap : Nat)
  /-- R74. -/
  | fenceCell (h : CmdHdr) (cell : Nat)
  /-- R74. -/
  | fenceAtBoundary (t : Nat) (p : Fin 4)
  /-- R75. `pass`: the cell self-test, or every router of a LOST band, passes. -/
  | unfenceCell (h : CmdHdr) (cell : Nat) (pass : Bool)
  /-- R77. -/
  | routerSelfTest (b : Fin 32) (pass : Bool)
  /-- R299. `selfTestFails` is the set (a mask) of the cores whose start-up self-test failed. -/
  | appCoresBoot (h : CmdHdr) (addr size entry mask : Nat) (selfTestFails : Nat)
  /-- R231. -/
  | dimmOffline (h : CmdHdr) (chan : Nat)
  /-- R231. -/
  | dimmOnline (h : CmdHdr) (chan : Nat) (found : Option DimmProbe)
  /-- R231. -/
  | stackRetrain (h : CmdHdr) (stack : Nat) (ok : Bool)
  /-- R245. -/
  | laserOffline (h : CmdHdr) (n : Nat)
  /-- R245. -/
  | laserOnline (h : CmdHdr) (n : Nat) (recognised : Bool)
  /-- R330. `failing`: the pre-operational test that fails (R343). -/
  | warmReset (failing : Option Nat)
  /-- R305. -/
  | crDb (a : Agent) (ring : Fin 16) (value : W32)
  /-- R303. -/
  | crCfg (a : Agent) (ring : Fin 16) (value : W32)
  /-- R316. -/
  | mbSlotWrite (a : Agent) (m : Fin 64) (off : Nat) (bytes : List Byte)
  /-- R316. -/
  | mbCommit (a : Agent) (m : Fin 64)
  /-- R316. -/
  | mbRelease (a : Agent) (m : Fin 64) (value : W32)
  /-- R317. -/
  | mbCfg (a : Agent) (m : Fin 64) (value : W32)
  /-- R26. -/
  | glbPartMap (a : Agent) (value : W32)
  /-- R283. -/
  | glbApBase (a : Agent) (value : W64)
  /-- R300. -/
  | glbAppCtl (a : Agent) (value : W32)
  /-- R300. -/
  | glbAppIrq (a : Agent) (value : W32)
  /-- R173. -/
  | glbFlag (a : Agent) (p : Fin 4) (f : Fin 64) (value : W32)
  /-- R389. -/
  | errSts (a : Agent) (value : W32)
  /-- R113. -/
  | arrNum (a : Agent) (b : Fin 32) (pos : Fin 128) (value : W32)
  /-- R286. A vector's mask bit, or the function mask when none. -/
  | msixUnmask (vector : Option (Fin 256))
  /-- R13. A write of a register at an offset: BAR0 from 0 on, BAR4 from 0x1_0000_0000 on, configuration space from
  0x2_0000_0000 on (Tables 14.2, 14.3). -/
  | registerWrite (a : Agent) (off size : Nat) (value : W64)
  /-- R284. A read of the aperture from 0 on; the host's reads of BAR0 stand from 0x10_0000_0000 on, those of BAR4 from
  0x20_0000_0000 on, those of configuration space from 0x30_0000_0000 on (R281). -/
  | bar2Read (off len : Nat)
  /-- R284. -/
  | bar2Write (off : Nat) (bytes : List Byte)
  /-- R281. -/
  | unsupportedRequest (requester addr : Nat)
  /-- R281. -/
  | malformedTlp (requester addr : Nat)
  /-- R281. -/
  | poisonedWrite (requester bar addr : Nat) (first4 : W32)
  /-- R392. -/
  | unexpectedCompletion (requester : Nat)
  /-- R290. The engine, and the ring whose command issued the read. -/
  | dmaError (engine : Fin 8) (rd : DmaRead) (hostAddr : Nat)
  /-- R290. -/
  | completionTimeout (engine : Fin 8) (rd : DmaRead) (hostAddr : Nat)
  /-- R277, R392. Data object type, and length in bytes. -/
  | doeObject (typ : DoeType) (len : Nat) (whileBusy : Bool)
  /-- R291. -/
  | flr
  /-- R292. Into D3hot, or out of it. -/
  | d3hot (enter : Bool)
  /-- R329. -/
  | perstAsserted
  /-- R39. `failing`: as for WARM_RESET. -/
  | perstDeasserted (found : StartupFind) (failing : Option Nat)
  /-- R278. -/
  | dlDown
  /-- R286. -/
  | mergedMessage (vector : Fin 256)
  /-- R319. Command code of the MCTP control message, and the EID assigned by a Set Endpoint ID. -/
  | mctpControl (command : Nat) (eid : MctpEid)
  /-- R392. -/
  | mctpBadPacket
  /-- R320. -/
  | vdmCommandPacket (opcode loc : Nat) (tag : MctpTag)
  /-- R320. -/
  | vdmBar0Read (off : Nat) (width : MctpWidth)
  /-- R321. -/
  | pldmMonitoring (query : PldmQuery)
  /-- R321. -/
  | pldmFirmwareUpdate (img : FlomorImage) (flashOk : PldmFlag)
  /-- R321. -/
  | activateFirmware (accepts : PldmFlag)
  /-- R398. -/
  | pldmIdentify (on : PldmFlag)
  /-- R405. -/
  | ident
  /-- R347. -/
  | getVersion (tr : Transport)
  /-- R347. -/
  | getCapabilities (tr : Transport)
  /-- R347. -/
  | negotiateAlgorithms (tr : Transport) (offered : List Nat)
  /-- R347. -/
  | getDigests (tr : Transport)
  /-- R346. -/
  | getCertificate (tr : Transport) (slot : Nat)
  /-- R347. -/
  | challenge (tr : Transport) (slot : Nat) (nonce : Nonce)
  /-- R348. Index 0xFF asks for every block. -/
  | getMeasurements (tr : Transport) (index : Nat) (nonce : Nonce)
  /-- R347. `peerKey` is the leaf key of a mutually authenticated requester's chain, when one is presented. -/
  | keyExchange (tr : Transport) (share : KeyShare)
  /-- R347. -/
  | finish (tr : Transport) (session : FinishMsg)
  /-- R347. -/
  | heartbeat (tr : Transport) (session : SessionMsg)
  /-- R347. -/
  | keyUpdate (tr : Transport) (session : SessionMsg)
  /-- R347. -/
  | endSession (tr : Transport) (session : SessionMsg)
  /-- R346. -/
  | setCertificate (tr : Transport) (slot : Nat) (chain : List Byte) (leaf : CertLeaf)
  /-- R356. `failing`: the row of Table 17.1 that fails, if one does. -/
  | selfTest (tr : Transport) (session : SessionMsg) (failing : Option Nat)
  /-- R356. -/
  | provision (tr : Transport) (session : SessionMsg) (keyHash : List Byte) (suite reqMaq reqApp readBackOk : Bool)
  /-- R357. -/
  | zeroise (tr : Transport) (session : SessionMsg)
  /-- R357. -/
  | decommission (tr : Transport) (session : SessionMsg)
  /-- R332 step 1. `wireOpen`: the breakwire records an opening; `failing`: as R343; `fence`, `lost`, `failed`: from flash. -/
  | por (wireOpen : Bool) (failing : Option Nat)
  /-- R332 steps 2 to 4. `slotOk`: the journal shows the last write complete. -/
  | mainRailsPowerUp (found : StartupFind)
  /-- R332 step 5. -/
  | ready
  /-- R333. -/
  | backoffExpiry (found : StartupFind)
  /-- R354. The image a committed MB63 message leads to. -/
  | recoveryMessage (img : FlomorImage) (found : StartupFind)
  /-- R354. -/
  | recoveryTimeout
  /-- R326. Measured voltage in 0.1 V. -/
  | mainInputLost (volts : Nat)
  /-- R324. -/
  | mainInputRestored
  /-- R326. -/
  | thermalTrip (die : Nat) (tenthC : Nat)
  /-- R402. MAIN_EN# going high, or low. -/
  | mainEn (high : Bool)
  /-- R357. -/
  | coverOpening
  /-- R327. Mean input power in W, and hottest compute die in degrees C, of the window; auxiliary power in W. -/
  | powerManagerWindow (meanW hottest auxW : Nat)
  /-- R335. -/
  | holdupTest
  /-- R335. Mean current in mA, voltage drop and V_full in mV. -/
  | holdupTestComplete (milliA dropMv fullMv : Nat)
  /-- R336. -/
  | flashCommitComplete
  /-- R364. -/
  | lifetimeCounterCommit
  /-- R44. -/
  | frequencyPause
  /-- R44. -/
  | frequencyRestart
  /-- R41. -/
  | syncPulse (found : MonFind)
  /-- R37. -/
  | pllUnlock (region : Fin 46)
  /-- R40. -/
  | jccWrap (p : Fin 4)
  /-- R362. -/
  | patinaSample (gtc : Nat)
  /-- R46. The band programs' schedule of the window, which each band port tests. -/
  | holdRequest (t : Nat) (p : Fin 4) (windows : List PortWindow)
  /-- R47. -/
  | holdDecision (t : Nat) (p : Fin 4)
  /-- R159. -/
  | bundleIssue (t : Nat) (b : Fin 32) (q : Fin 128) (slot : Nat) (skew : Skew) (order : Nat) (ops : List BundleOp)
  /-- R61. -/
  | capture (t : Nat) (b : Fin 32) (q : Fin 128) (d : Dir) (dest : CapDest) (noise : Noise) (pred : Option Pred)
  /-- R57. -/
  | emission (t : Nat) (b : Fin 32) (q : Fin 128) (d : Dir) (lane dest laps : Nat) (tag : Rel) (src : EmSrc) (pred : Option Pred)
  /-- R416. -/
  | laneRegisterWrite (t : Nat) (b : Fin 32) (q : Fin 128) (d : Dir) (v : Rel) (pred : Option Pred)
  /-- R58. -/
  | laneRemoval (t : Nat) (b : Fin 32)
  /-- R65. -/
  | bandPortPop (t : Nat) (b : Fin 32) (streams : List Nat)
  /-- R59. -/
  | headInjection (t : Nat) (b : Fin 32) (inj : Injection)
  /-- R62. -/
  | headRelease (t : Nat) (b : Fin 32) (noise : List (Dir × Nat × Noise))
  /-- R66. -/
  | seamPlacement (t : Nat) (b : Fin 32) (dst : Fin 32) (track : Fin 4) (tag : Nat)
  /-- R66. -/
  | seamArrival (t : Nat) (b : Fin 32) (inject : Bool)
  /-- R83. -/
  | rowPassStart (t : Nat) (b : Fin 32) (q : Fin 128) (seq : Nat) (pred : Option Pred)
  /-- R92. -/
  | rowEntry (t : Nat) (b : Fin 32) (q : Fin 128)
  /-- R86. -/
  | partialSumRead (t : Nat) (b : Fin 32) (q : Fin 128) (noise : Noise)
  /-- R94. -/
  | outputWrite (t : Nat) (b : Fin 32) (q : Fin 128)
  /-- R87. -/
  | weightChunkWrite (t : Nat) (b : Fin 32) (q : Fin 128) (chunks : List CellOp) (pred : Option Pred)
  /-- R88. -/
  | swap (t : Nat) (b : Fin 32) (q : Fin 128) (mask : Nat) (pred : Option Pred)
  /-- R91. -/
  | modeSet (t : Nat) (b : Fin 32) (q : Fin 128) (wide : Bool) (pred : Option Pred)
  /-- R107. -/
  | seedOperation (t : Nat) (b : Fin 32) (q : Fin 128) (salt : W32) (pred : Option Pred)
  /-- R162. -/
  | counterOperation (t : Nat) (b : Fin 32) (q : Fin 128) (i : Fin 8) (op : CtrOp) (pred : Option Pred)
  /-- R163. -/
  | comparatorConfiguration (t : Nat) (b : Fin 32) (q : Fin 128) (i : Fin 4) (cfg : CmpCfg) (pred : Option Pred)
  /-- R118. -/
  | vectorDescriptorStart (t : Nat) (b : Fin 32) (q : Fin 128) (seq : Nat) (pred : Option Pred)
  /-- R119. -/
  | vectorWordIssue (t : Nat) (b : Fin 32) (q : Fin 128)
  /-- R128. -/
  | vectorResultWrite (t : Nat) (b : Fin 32) (q : Fin 128)
  /-- R129. -/
  | operationStatusWord (t : Nat) (b : Fin 32) (q : Fin 128)
  /-- R369. -/
  | tapOperation (t : Nat) (b : Fin 32) (tap : Nat) (fmt : Elem) (n tag : Nat)
  /-- R369. -/
  | digestRecordRelease (t : Nat) (b : Fin 32)
  /-- R166. -/
  | queuePush (t : Nat) (b : Fin 32) (queue : QName) (tag : Nat) (body : QBody)
  /-- R164. -/
  | queueRelease (t : Nat) (b : Fin 32) (vector : Bool)
  /-- R165. -/
  | cellFifoDelivery (t : Nat) (b : Fin 32) (vector : Bool)
  /-- R132. -/
  | rowDescriptorConsumption (t : Nat) (b : Fin 32)
  /-- R134. -/
  | rowGroupRelease (t : Nat) (b : Fin 32)
  /-- R140. -/
  | rowEngineDrain (t : Nat) (b : Fin 32)
  /-- R200. -/
  | portRunEntry (t : Nat) (b : Fin 32)
  /-- R170. -/
  | sequencerEnd (t : Nat) (b : Fin 32)
  /-- R171. -/
  | flagSet (t : Nat) (b : Fin 32) (f : Fin 64) (v : W32)
  /-- R171. -/
  | flagAdd (t : Nat) (b : Fin 32) (f : Fin 64) (v : W32)
  /-- R171. -/
  | flagWait (t : Nat) (b : Fin 32) (f : Fin 64) (eq : Bool) (v : W32)
  /-- R172. -/
  | flagUpdateApplied (t : Nat) (p : Fin 4)
  /-- R172. -/
  | waitEnd (t : Nat) (b : Fin 32)
  /-- R168. -/
  | mccRead (t : Nat) (b : Fin 32)
  /-- R170. -/
  | armatureEnd (t : Nat) (b : Fin 32)
  /-- R170. -/
  | armatureFault (t : Nat) (b : Fin 32)
  /-- R174. -/
  | waitWatchdog (t : Nat) (b : Fin 32)
  /-- R206. -/
  | streamTransferIssue (k : Fin 4) (engine : Fin 64)
  /-- R208. -/
  | fetchWordArrival (k : Fin 4) (ctx : Nat) (gen : Nat) (noise : Noise)
  /-- R204. -/
  | updateCountReached (k : Fin 4) (ctx : Nat)
  /-- R203. -/
  | storeWord (k : Fin 4) (ctx : CtxMsg)
  /-- R211. -/
  | mcastGrant (k : Fin 4) (ctx : Nat) (grant : Grant)
  /-- R211. -/
  | mcastTimeout (k : Fin 4) (ctx : Nat)
  /-- R206. -/
  | drainTokenReturn (k : Fin 4) (ctx : Nat)
  /-- R22. -/
  | shardHandoff (k : Fin 4) (ctx : CtxMsg)
  /-- R220. `flips` are the symbols of the line that the device returns wrong (0-35 lower codeword, 36-71 upper,
  72-75 ADDR_CHK). -/
  | memoryReadResponse (reader : MemReader) (addr : Nat) (flips : Noise)
  /-- R221. -/
  | refresh (unit : Fin 28) (bank : Nat)
  /-- R221. -/
  | phyCalibration (unit : Fin 28)
  /-- R221. -/
  | patrolScrub (unit : Fin 28) (flips : List (Nat × Noise))
  /-- R221. -/
  | tempHigh (unit : Fin 28) (above : Bool)
  /-- R231. -/
  | dimmRemoved (c : Fin 12)
  /-- R30. -/
  | sharedUnitFailure (u : SharedUnit)
  /-- R238. -/
  | frameTransmit (l : Fin 32)
  /-- R241. -/
  | crcFailure (l : Fin 32) (kind : FrameFail)
  /-- R240. -/
  | ack (l : Fin 32) (seq : Nat)
  /-- R241. -/
  | nak (l : Fin 32) (seq : Nat)
  /-- R237. -/
  | credit (l : Fin 32) (cls granted : Nat)
  /-- R249. t1 in 1/16 ns, and the sixteenths of a nanosecond of the arrival and departure stamps, t2 and t3. -/
  | timeReq (l : Fin 32) (t1 t2 t3 : Nat)
  /-- R249. Both messages of a response: t2 and t3; and the sixteenths of the arrival stamp t4. -/
  | timeResp (l : Fin 32) (t2 t3 t4 : Nat)
  /-- R246. -/
  | root (l : Fin 32) (hops prio id : Nat)
  /-- R242. FAB_ID, link number, protocol version, credits and next SEQ. -/
  | train (l : Fin 32) (peerId peerLink version : Nat) (start : TrainStart)
  /-- R256. -/
  | red (l : Fin 32) (seq chan gen offset : Nat) (body : List Byte)
  /-- R266. -/
  | param (l : Fin 32) (seq chan gen offset : Nat) (body : List Byte)
  /-- R244. `seq` of a MSG or ERROR row: SEQ in 12 bits, and above them the number of the entry in its frame's body (R235). -/
  | quiesce (l : Fin 32) (seq : Nat)
  /-- R244. -/
  | quiesceOk (l : Fin 32) (seq : Nat)
  /-- R244. -/
  | quiesceRefuse (l : Fin 32) (seq : Nat)
  /-- R269. -/
  | fail (l : Fin 32) (seq chan gen cause rank : Nat)
  /-- R269. -/
  | stepFail (l : Fin 32) (seq chan gen cause rank : Nat)
  /-- R262. -/
  | nanReport (l : Fin 32) (seq chan : Nat) (valid : Bool) (rank element : Nat)
  /-- R272. -/
  | drain (l : Fin 32) (seq chan gen : Nat)
  /-- R272. -/
  | drainDone (l : Fin 32) (seq chan gen : Nat)
  /-- R274. -/
  | castAt (l : Fin 32) (seq chan atGtc : Nat)
  /-- R251. -/
  | error (l : Fin 32) (seq : Nat) (entry : W64)
  /-- R241. -/
  | retryTimeout (l : Fin 32)
  /-- R242. -/
  | trainingStateComplete (l : Fin 32) (peerId peerLink version : Nat)
  /-- R242. -/
  | trainingStateTimeout (l : Fin 32)
  /-- R242. -/
  | lossOfLock (l : Fin 32)
  /-- R234. Codewords uncorrectable that no CRC_FAILURE reports and symbols corrected in the window, and the mean error
  rate as 10^-n: it exceeds 10^-n for every n above `rateExp`. -/
  | fecWindow (l : Fin 32) (uncorrectable corrected rateExp : Nat)
  /-- R246. -/
  | rootAdvertisement
  /-- R249. The sixteenths of the stamp t1. -/
  | timeExchange (t1 : Nat)
  /-- R248. -/
  | parentReselection
  /-- R250. -/
  | holdoverExpiry
  /-- R245. -/
  | laserDegraded (n : Fin 4) (wavelength : Fin 8) (outPwr : BitVec 8)
  /-- R245. -/
  | laserFailed (n : Fin 4) (wavelength : Fin 8) (outPwr : BitVec 8)
  /-- R245. -/
  | laserRemoved (n : Fin 4)
  /-- R408. -/
  | latchOpened (n : Fin 4)
  /-- R245. -/
  | wavelengthLock (n : Fin 4)
  /-- R257. -/
  | unitFold (c : Fin 1024)
  /-- R259. -/
  | deadline (c : Fin 1024)
  /-- R265. -/
  | optimiserStep (c : Fin 1024)
  /-- R267. -/
  | paramTransfer (c : Fin 1024)
  /-- R267. -/
  | paramMulticastTimeout (c : Fin 1024)
  /-- R244. -/
  | linkDrainTimeout (l : Fin 32)
  /-- R245. `absent`: the module is not there. -/
  | wavelengthLockTimeout (n : Fin 4) (absent : Bool)
  /-- R337. -/
  | auxInputLost (bankExhausted : Bool)
  /-- R236. -/
  | ctrlUnknownKind (l : Fin 32)
  /-- R270. A MSG entry of an unknown kind, or a MSG or ERROR frame with a bad COUNT (Table 12.7a). -/
  | msgUnknown (l : Fin 32) (seq chan : Nat) (fault : MsgFault)
  /-- R294. -/
  | applicationCoreAccess (core : Fin 32) (addr : Nat) (op : CoreOp)
  /-- R300. -/
  | pcieLinkRetrain (rate width : Nat) (flit : Bool)
  /-- R406. -/
  | boundaryScanInstruction (i : Jtag)
  deriving DecidableEq, Repr

end Sys2Proof
end

