-- ==== Sys2Proof/Decode.lean ====
section
/-! DEFINITION. Words of the opcode table. No row of spec/opcode_table.json gives bits: a command packet names its
opcode in byte 0 and its parameters follow (Tables 15.5, 15.7), and the other rows are events. So no word of the table
spells a command, and a command reaches the queue from outside. -/

namespace Sys2Proof

/-- The command a word spells by the table's bits: the table gives none. -/
def decodeTableWord (_nbits _w : Nat) : Option Instr := none

end Sys2Proof
end

