-- ==== Sys2Proof/Config.lean ====
section
/-! DEFINITION. What an implementation fixes and the spec leaves open: constants without a body, so that no proof can
see their values. -/

namespace Sys2Proof

/-- The n-th free value: a value the spec leaves open, new each time it is asked for (log entry 1). -/
opaque Config.freeValue : Nat → W64

/-- The vector engine's TANH, SIGMOID, ERF, GELU_ERF, GELU_TANH and SILU, numbered 0 to 5, on FP32 patterns: one fixed
algorithm that the spec does not give (R117, log entry 2). -/
opaque Config.vecFunc : Nat → W32 → W32

/-- What the start value of CHECK's CRC-16 contributes to every CHECK, which all cover the same number of bits; Table 3.2
gives the generator only (log entry 3). -/
opaque Config.checkStart : BitVec 16

/-- SHA-384 of bytes (R342). -/
opaque Config.sha384 : List Byte → List Byte

/-- The other algorithms of Table 17.1: SHA-256; the KDF in counter mode with HMAC-SHA-384, of a key and a label, to 384 bits;
HKDF-SHA-384 for sessions; ECDH on P-384, of a private key and a point; the P-384 private key of a seed and its public point; an
ECDSA signature on P-384 by a private key (R342, R345). -/
opaque Config.sha256 : List Byte → List Byte
opaque Config.kdf : List Byte → List Byte → List Byte
opaque Config.hkdf : List Byte → List Byte → List Byte
opaque Config.ecdh : List Byte → List Byte → List Byte
opaque Config.p384Key : List Byte → List Byte
opaque Config.p384Public : List Byte → List Byte
opaque Config.ecdsaSign : List Byte → List Byte → List Byte

/-- An ECDSA signature on P-256 by a private key; the keystream of AES-256-GCM under a key, by byte; the tag of a message of a session, by
its secret, the number of the message and its request code (R342, R347). -/
opaque Config.ecdsaSign256 : List Byte → List Byte → List Byte
opaque Config.gcmStream : List Byte → Nat → Byte
opaque Config.sessionTag : List Byte → Nat → Nat → List Byte

/-- CTR_DRBG (R342): its state from 48 bytes of entropy, the bytes that a request for some number of them returns, and the state
after a request. -/
opaque Config.drbgSeed : List Byte → List Byte
opaque Config.drbgOut : List Byte → Nat → List Byte
opaque Config.drbgNext : List Byte → List Byte

/-- Brorunath's manufacturer code in the IDCODE, which the BSDL file gives (R406). -/
opaque Config.maker : BitVec 11

/-- Whether an ECDSA signature verifies: suite, public point, message, signature (R342). -/
opaque Config.ecdsaVerify : Bool → List Byte → List Byte → List Byte → Bool

/-- Whether AES-256-GCM decryption under a key yields the tag: key, header with TAG zeroed, ciphertext, TAG (R350). -/
opaque Config.gcmTagOk : List Byte → List Byte → List Byte → List Byte → Bool

/-- The plaintext of that decryption: key, header, ciphertext. -/
opaque Config.gcmPlain : List Byte → List Byte → List Byte → List Byte

/-- The links of slot 0 (R346): the Brorunath root and intermediate certificates, the DeviceID certificate of a public key, and
the Alias certificate that a DeviceID key issues for an Alias public key, the digest and the SVN of the measured image. -/
opaque Config.rootCert : List Byte
opaque Config.interCert : List Byte
opaque Config.deviceCert : List Byte → List Byte
opaque Config.aliasCert : List Byte → List Byte → List Byte → Nat → List Byte

/-- The training data of a TRAIN frame as its fields, and the fields of received training data: FAB_ID, link number, protocol version,
the credits of three classes, the next SEQ. Table 12.4 names them and gives no layout (R235, R242). -/
opaque Config.trainBody : List Nat → List Byte
opaque Config.trainData : List Byte → Nat → Nat

/-- The UUID of the module, which MCTP control gives (R319). -/
opaque Config.uuid : List Byte

/-- The digest of the mask ROM (Table 17.3). -/
opaque Config.romDigest : List Byte

/-- Shared status codes as they stand in a status packet written to memory; the spec names them and gives no numbers. -/
opaque Config.statusCode : Nat → Byte

/-- The device description block that application cores read: its byte at an offset, of the values it shows (Table 14.6; its
layout is not given). -/
opaque Config.deviceBlock : List Nat → Nat → Byte

/-- Bytes of a lane that is emitted from the vector engine's ring output when nothing stands there, which the spec leaves
open: logical cell, JCC, byte. No other thing may make them differ (R109, log entry 20). -/
opaque Config.unstaged : Nat → Nat → Nat → Byte

/-- Byte address of an Armature core's current instruction: band, and the cycle of MCC. The instruction set is private, so that
nothing is known of it (R168, log entry 14). -/
opaque Config.armPc : Nat → Nat → W32

/-- Private encodings captured in a cut (Table 18.6): object, band, position, byte. -/
opaque Config.cutByte : Nat → Nat → Nat → Nat → Byte

/-- The 64 bytes of a queue entry as a cut shows them, whose encoding is not given: slot tag, sequence number, descriptor, byte
(Table 18.6, log entry 14). -/
opaque Config.entryByte : Nat → Nat → QBody → Nat → Byte

/-- Bytes of a cut that show state whose layout is not given: object, the state as numbers, byte (Table 18.6, log entry 14). -/
opaque Config.cutState : Nat → List Nat → Nat → Byte

/-- Values of the PLDM sensors that nothing in the model measures, by sensor and count (R321). -/
opaque Config.sensor : Nat → Nat → Nat

end Sys2Proof
end

