-- ==== Sys2Proof/Machine/Tables.lean ====
section
/-! DEFINITION. Reads and writes of sparse tables and of byte memory in canonical form, little-endian fields, the
CRCs and the symbol code of the memories (R11, R56, R193, R218). -/

namespace Sys2Proof.Machine

/-- The value of a table at an index: its entry, or the default. -/
def tget {α : Type} (d : α) : Tbl α → Nat → α
  | [], _ => d
  | (k, v) :: r, i => if k = i then v else tget d r i

/-- A table without the entries of an index. -/
def terase {α : Type} (i : Nat) : Tbl α → Tbl α
  | [] => []
  | (k, v) :: r => if k = i then terase i r else (k, v) :: terase i r

/-- A table with an entry put before the first larger index. -/
def tins {α : Type} (i : Nat) (v : α) : Tbl α → Tbl α
  | [] => [(i, v)]
  | (k, w) :: r => if i < k then (i, v) :: (k, w) :: r else (k, w) :: tins i v r

/-- Write a table: an entry equal to the default is not listed. -/
def tset {α : Type} [DecidableEq α] (d : α) (t : Tbl α) (i : Nat) (v : α) : Tbl α :=
  if v = d then terase i t else tins i v (terase i t)

/-- Change a table's entry by a function. -/
def tmod {α : Type} [DecidableEq α] (d : α) (t : Tbl α) (i : Nat) (f : α → α) : Tbl α :=
  tset d t i (f (tget d t i))

/-- Change every listed entry of a table by a function that leaves the default alone. -/
def tmap {α : Type} [DecidableEq α] (d : α) (f : Nat → α → α) (t : Tbl α) : Tbl α :=
  t.filterMap (fun x => if f x.1 x.2 = d then none else some (x.1, f x.1 x.2))

/-- Canonical form of a table: indices rise strictly, and no entry equals the default. -/
def twf {α : Type} [DecidableEq α] (d : α) : Tbl α → Bool
  | [] => true
  | [(_, v)] => v ≠ d
  | (k, v) :: (k', v') :: r => decide (v ≠ d) && decide (k < k') && twf d ((k', v') :: r)

/-- Byte memory in its canonical form: addresses rise strictly, and no listed byte is zero. -/
abbrev Memory.wf (m : List Host.Cell) : Prop := twf (0 : Byte) m = true

/-- One byte of memory; a byte that is not listed is zero. -/
def readByte (m : List Host.Cell) (a : Nat) : Byte := tget 0 m a

/-- Write one byte. -/
def writeByte (m : List Host.Cell) (a : Nat) (v : Byte) : List Host.Cell := tset 0 m a v

/-- `n` bytes from an address on. -/
def readBytes (m : List Host.Cell) (a : Nat) : Nat → List Byte
  | 0 => []
  | n + 1 => readByte m a :: readBytes m (a + 1) n

/-- Write bytes from an address on. -/
def writeBytes (m : List Host.Cell) (a : Nat) : List Byte → List Host.Cell
  | [] => m
  | v :: r => writeBytes (writeByte m a v) (a + 1) r

/-- The number that bytes spell, least significant first (R11). -/
def leNat : List Byte → Nat
  | [] => 0
  | b :: r => b.toNat + 256 * leNat r

/-- The `n` bytes of a number, least significant first (R11). -/
def leBytes : Nat → Nat → List Byte
  | 0, _ => []
  | n + 1, v => BitVec.ofNat 8 v :: leBytes n (v / 256)

/-- The field of `n` bytes at an offset of a byte list. -/
def field (bs : List Byte) (off n : Nat) : Nat := leNat ((bs.drop off).take n)

/-- Bits hi to lo of a number. -/
def bits (v lo n : Nat) : Nat := v / 2 ^ lo % 2 ^ n

/-- One bit of a number as a flag. -/
def bitOf (v i : Nat) : Bool := v / 2 ^ i % 2 = 1

/-- 1 for true, 0 for false. -/
def b2n (b : Bool) : Nat := if b then 1 else 0

/-- Zero bytes. -/
def zeros (n : Nat) : List Byte := List.replicate n 0

/-- Exactly `n` bytes: cut, or padded with zeros. -/
def fit (n : Nat) (bs : List Byte) : List Byte := (bs ++ zeros n).take n

/-- Two's complement value of the low `n` bits. -/
def signed (n v : Nat) : Int := if v % 2 ^ n < 2 ^ (n - 1) then (v % 2 ^ n : Nat) else (v % 2 ^ n : Nat) - (2 ^ n : Nat)

/-- The `n`-bit two's complement pattern of an integer. -/
def unsigned (n : Nat) (v : Int) : Nat := (v % (2 ^ n : Nat)).toNat

/-- A saturating count. -/
def satAdd (max v n : Nat) : Nat := if v + n > max then max else v + n

/-- The smallest multiple of `m` that is at least `v`. -/
def roundUp (v m : Nat) : Nat := (v + m - 1) / m * m

/-- Eight steps of a CRC register that shifts left, of `w` bits. -/
def crcLeft (w : Nat) (poly : BitVec w) : Nat → BitVec w → BitVec w
  | 0, c => c
  | n + 1, c => crcLeft w poly n (if c.msb then (c <<< 1) ^^^ poly else c <<< 1)

/-- CRC-16 with generator x^16 + x^12 + x^5 + 1 (Table 3.2), from a start value. -/
def crc16 (init : BitVec 16) (bs : List Byte) : BitVec 16 :=
  bs.foldl (fun c b => crcLeft 16 0x1021 8 (c ^^^ ((BitVec.setWidth 16 b) <<< (8 : Nat)))) init

/-- Eight steps of a CRC register that shifts right. -/
def crcRight (poly : W32) : Nat → W32 → W32
  | 0, c => c
  | n + 1, c => crcRight poly n (if c.getLsbD 0 then (c >>> 1) ^^^ poly else c >>> 1)

/-- The register of CRC-32C after some bytes, from a register. -/
def crc32cStep (c : W32) (bs : List Byte) : W32 :=
  bs.foldl (fun c b => crcRight 0x82F63B78 8 (c ^^^ (BitVec.setWidth 32 b))) c

/-- CRC-32C. -/
def crc32c (bs : List Byte) : W32 := crc32cStep 0xFFFFFFFF bs ^^^ 0xFFFFFFFF

/-- Multiplication by α in GF(2^8) with polynomial 0x11D (R218). -/
def gfX (a : Byte) : Byte := if a.msb then (a <<< 1) ^^^ 0x1D else a <<< 1

/-- Multiplication in GF(2^8), by the bits of the second factor from `n` down. -/
def gfMulAux (a b : Byte) : Nat → Byte
  | 0 => 0
  | n + 1 => gfX (gfMulAux a (b >>> 1) n) ^^^ (if b.getLsbD 0 then a else 0)

/-- Multiplication in GF(2^8) (R218). -/
def gfMul (a b : Byte) : Byte := gfMulAux a b 8

/-- α to a power. -/
def gfPow : Nat → Byte
  | 0 => 1
  | n + 1 => gfX (gfPow n)

/-- The four check symbols of 32 data bytes (R218). -/
def rsEncode (d : List Byte) : List Byte :=
  let r := d.foldl (fun (r : Byte × Byte × Byte × Byte) b =>
    let f := b ^^^ r.1
    (r.2.1 ^^^ gfMul f 0x0F, r.2.2.1 ^^^ gfMul f 0x36, r.2.2.2 ^^^ gfMul f 0x78, gfMul f 0x40)) (0, 0, 0, 0)
  [r.1, r.2.1, r.2.2.1, r.2.2.2]

/-- Syndrome j of an error pattern: symbol i is the coefficient of x^(35 - i) (R218). -/
def rsSyndrome (e : List (Nat × Byte)) (j : Nat) : Byte :=
  e.foldl (fun a p => a ^^^ gfMul p.2 (gfPow ((35 - p.1) * j % 255))) 0

/-- What the decoder makes of a codeword (R218, R220). -/
inductive Ecc where
  | clean
  | corrected (symbol : Nat) (value : Byte)
  | uncorrectable
  deriving DecidableEq, Repr

/-- Decode from the symbols in error: an error of one symbol, or one that looks like it, is corrected. -/
def rsDecode (e : List (Nat × Byte)) : Ecc :=
  let s := fun j => rsSyndrome e j
  if s 0 = 0 ∧ s 1 = 0 ∧ s 2 = 0 ∧ s 3 = 0 then .clean
  else
    match (List.range 36).find? (fun i =>
      let l := gfPow (35 - i)
      s 0 ≠ 0 && gfMul (s 0) l == s 1 && gfMul (s 1) l == s 2 && gfMul (s 2) l == s 3) with
    | some i => .corrected i (s 0)
    | none => .uncorrectable

end Sys2Proof.Machine
end

