-- ==== Sys2Proof/Machine/Numeric.lean ====
section
/-! DEFINITION. Numbers: the element formats, the array step, rounding, the generators, conversions and the functions
of the vector and row engines (chapter 05 and R117, R131 of spec/). Every finite value is exact until it is rounded. -/

namespace Sys2Proof.Machine

/-- A number of a floating-point format: value m × 2^e with its sign, an infinity, or NaN. -/
inductive Num where
  | nan
  | inf (neg : Bool)
  | fin (neg : Bool) (m : Nat) (e : Int)
  deriving DecidableEq, Repr

/-- Exponent bits, fraction bits and bias of a format (Table 5.1); 0 exponent bits mark an integer format. -/
def fmtShape : Elem → Nat × Nat × Nat
  | .fp32 => (8, 23, 127) | .bf16 => (8, 7, 127) | .fp16 => (5, 10, 15) | .e5m2 => (5, 2, 15) | .e4m3 => (4, 3, 7)
  | .e3m2 => (3, 2, 3) | .e2m3 => (2, 3, 1) | .e2m1 => (2, 1, 1) | .int8 => (0, 8, 0) | .uint8 => (0, 8, 0)
  | .int32 => (0, 32, 0)

/-- Bits of an element. -/
def elemBits : Elem → Nat
  | .fp32 | .int32 => 32 | .bf16 | .fp16 => 16 | .e5m2 | .e4m3 | .int8 | .uint8 => 8 | .e3m2 | .e2m3 => 6 | .e2m1 => 4

/-- Whether a format is an integer format. -/
def elemInt : Elem → Bool
  | .int8 | .uint8 | .int32 => true
  | _ => false

/-- The magnitude code of the largest finite value (Table 5.1). -/
def maxCode : Elem → Nat
  | .fp32 => 0x7F7FFFFF | .bf16 => 0x7F7F | .fp16 => 0x7BFF | .e5m2 => 0x7B | .e4m3 => 0x7E | .e3m2 => 0x1F
  | .e2m3 => 0x1F | .e2m1 => 7 | .int8 => 127 | .uint8 => 255 | .int32 => 0x7FFFFFFF

/-- The value of an element pattern (Table 5.1). -/
def decodeElem (f : Elem) (p : Nat) : Num :=
  match f with
  | .int8 => let v := signed 8 p; .fin (decide (v < 0)) v.natAbs 0
  | .uint8 => .fin false (p % 256) 0
  | .int32 => let v := signed 32 p; .fin (decide (v < 0)) v.natAbs 0
  | f =>
    let (eb, mb, bias) := fmtShape f
    let neg := bitOf p (eb + mb)
    let ex := bits p mb eb
    let fr := p % 2 ^ mb
    let top := 2 ^ eb - 1
    if (f = .fp32 ∨ f = .bf16 ∨ f = .fp16 ∨ f = .e5m2) ∧ ex = top then (if fr = 0 then .inf neg else .nan)
    else if f = .e4m3 ∧ ex = top ∧ fr = 7 then .nan
    else if ex = 0 then .fin neg fr (1 - (bias : Int) - (mb : Int))
    else .fin neg (2 ^ mb + fr) ((ex : Int) - (bias : Int) - (mb : Int))

/-- Magnitude code of m × 2^e rounded to a format: to nearest, ties to even, or stochastically with a 16-bit draw
(R105). The code runs on past the largest finite value, so that overflow is seen by comparing with `maxCode`. -/
def roundCode (f : Elem) (draw : Option Nat) (m : Nat) (e : Int) : Nat :=
  if m = 0 then 0
  else
    let (_, mb, bias) := fmtShape f
    let emin : Int := 1 - (bias : Int)
    let top : Int := (Nat.log2 m : Int) + e
    let qe : Int := (if top < emin then emin else top) - (mb : Int)
    let low : Nat × Nat × Nat :=
      if e ≥ qe then (m * 2 ^ (e - qe).toNat, 0, 1)
      else let d := 2 ^ (qe - e).toNat; (m / d, m % d, d)
    let up : Bool := match draw with
      | none => decide (2 * low.2.1 > low.2.2 ∨ (2 * low.2.1 = low.2.2 ∧ low.1 % 2 = 1))
      | some r => decide (low.2.1 * 65536 / low.2.2 + r ≥ 65536)
    (qe - (emin - (mb : Int))).toNat * 2 ^ mb + low.1 + b2n up

/-- Sign bit in place. -/
def withSign (f : Elem) (neg : Bool) (code : Nat) : Nat :=
  let (eb, mb, _) := fmtShape f
  code + b2n neg * 2 ^ (eb + mb)

/-- Flag bits of the operation status word (Table 6.5). -/
def fEmpty : Nat := 1
def fInfRow : Nat := 2
def fNanRow : Nat := 4
def fNanIn : Nat := 8
def fInvalid : Nat := 16
def fDivZero : Nat := 32
def fOverflow : Nat := 64
def fSaturated : Nat := 128
def fCompressOvf : Nat := 256

/-- Canonical NaN of binary32. -/
def nan32 : W32 := 0x7FC00000

/-- An infinity of binary32. -/
def inf32 (neg : Bool) : W32 := if neg then 0xFF800000 else 0x7F800000

/-- A zero of binary32. -/
def zero32 (neg : Bool) : W32 := if neg then 0x80000000 else 0

/-- Value of a binary32 pattern. -/
def dec32 (x : W32) : Num := decodeElem .fp32 x.toNat

/-- Whether a pattern is a NaN of binary32. -/
def isNan32 (x : W32) : Bool := dec32 x = .nan

/-- The flags of an operation whose NaN result comes from a NaN among its operands (R117): a signalling one is an invalid operation
of IEEE 754 too. -/
def nanFlags (xs : List W32) : Nat :=
  fNanIn ||| (if xs.any (fun x => isNan32 x && x &&& 0x00400000 == 0) then fInvalid else 0)

/-- A finite exact value to binary32, to nearest; overflow gives an infinity and its flag. -/
def fin32 (neg : Bool) (m : Nat) (e : Int) : W32 × Nat :=
  let c := roundCode .fp32 none m e
  if c > maxCode .fp32 then (inf32 neg, fOverflow) else (BitVec.ofNat 32 (withSign .fp32 neg c), 0)

/-- Two exact values as integers over one exponent. -/
def align (m1 : Nat) (e1 : Int) (m2 : Nat) (e2 : Int) : Nat × Nat × Int :=
  if e1 ≤ e2 then (m1, m2 * 2 ^ (e2 - e1).toNat, e1) else (m1 * 2 ^ (e1 - e2).toNat, m2, e2)

/-- A signed magnitude as an integer. -/
def sInt (neg : Bool) (m : Nat) : Int := if neg then -(m : Int) else m

/-- The sum of two exact values to binary32. A sum that cancels is +0; two zeros of one sign keep it. -/
def addExact (n1 : Bool) (m1 : Nat) (e1 : Int) (n2 : Bool) (m2 : Nat) (e2 : Int) : W32 × Nat :=
  let (a, b, e) := align m1 e1 m2 e2
  let s := sInt n1 a + sInt n2 b
  if s = 0 then (zero32 (n1 && n2 && m1 == 0 && m2 == 0), 0) else fin32 (decide (s < 0)) s.natAbs e

/-- Addition of binary32 (R117). -/
def add32 (x y : W32) : W32 × Nat :=
  match dec32 x, dec32 y with
  | .nan, _ => (nan32, nanFlags [x, y])
  | _, .nan => (nan32, nanFlags [x, y])
  | .inf a, .inf b => if a = b then (inf32 a, 0) else (nan32, fInvalid)
  | .inf a, _ => (inf32 a, 0)
  | _, .inf b => (inf32 b, 0)
  | .fin n1 m1 e1, .fin n2 m2 e2 => addExact n1 m1 e1 n2 m2 e2

/-- Sign reversed. -/
def neg32 (x : W32) : W32 := x ^^^ 0x80000000

/-- Subtraction of binary32. -/
def sub32 (x y : W32) : W32 × Nat := add32 x (neg32 y)

/-- Whether a number is a zero. -/
def isZero : Num → Bool
  | .fin _ 0 _ => true
  | _ => false

/-- The exact product of two numbers, or what IEEE 754 makes of it: none where it is invalid. -/
def mulNum (a b : Num) : Option Num :=
  match a, b with
  | .nan, _ => some .nan
  | _, .nan => some .nan
  | .inf p, .inf q => some (.inf (p != q))
  | .inf p, .fin q m _ => if m = 0 then none else some (.inf (p != q))
  | .fin p m _, .inf q => if m = 0 then none else some (.inf (p != q))
  | .fin p m e, .fin q m' e' => some (.fin (p != q) (m * m') (e + e'))

/-- A number to binary32. -/
def num32 : Num → W32 × Nat
  | .nan => (nan32, fNanIn)
  | .inf n => (inf32 n, 0)
  | .fin n m e => if m = 0 then (zero32 n, 0) else fin32 n m e

/-- Multiplication of binary32. -/
def mul32 (x y : W32) : W32 × Nat :=
  match mulNum (dec32 x) (dec32 y) with
  | none => (nan32, fInvalid)
  | some .nan => (nan32, nanFlags [x, y])
  | some v => num32 v

/-- Fused multiply-add, one rounding. DESIGN CHOICE (log entry 23): zero times infinity plus a quiet NaN sets NAN_IN and INVALID, which
IEEE 754 leaves open. -/
def fma32 (x y z : W32) : W32 × Nat :=
  match mulNum (dec32 x) (dec32 y), dec32 z with
  | none, .nan => (nan32, fNanIn ||| fInvalid)
  | none, _ => (nan32, fInvalid)
  | some .nan, _ => (nan32, nanFlags [x, y, z])
  | some _, .nan => (nan32, nanFlags [x, y, z])
  | some (.inf a), .inf b => if a = b then (inf32 a, 0) else (nan32, fInvalid)
  | some (.inf a), _ => (inf32 a, 0)
  | some (.fin _ _ _), .inf b => (inf32 b, 0)
  | some (.fin n1 m1 e1), .fin n2 m2 e2 => addExact n1 m1 e1 n2 m2 e2

/-- Order of two numbers that are not NaN, with -0 below +0: whether the first is less. -/
def ltNum (a b : Num) : Bool :=
  match a, b with
  | .nan, _ => false
  | _, .nan => false
  | .inf p, .inf q => p && !q
  | .inf p, _ => p
  | _, .inf q => !q
  | .fin p m e, .fin q m' e' =>
    let (x, y, _) := align m e m' e'
    let s := sInt p x
    let t := sInt q y
    decide (s < t) || (s == t && m == 0 && p && !q)

/-- MIN and MAX of binary32: NaN when either is NaN (R117). -/
def min32 (x y : W32) : W32 × Nat :=
  if isNan32 x || isNan32 y then (nan32, nanFlags [x, y]) else (if ltNum (dec32 y) (dec32 x) then y else x, 0)

def max32 (x y : W32) : W32 × Nat :=
  if isNan32 x || isNan32 y then (nan32, nanFlags [x, y]) else (if ltNum (dec32 x) (dec32 y) then y else x, 0)

/-- Numeric comparison: less, and equal (zeros are equal; nothing compares with NaN). -/
def cmpLt (x y : W32) : Bool :=
  match dec32 x, dec32 y with
  | .fin p m e, .fin q m' e' => let (a, b, _) := align m e m' e'; decide (sInt p a < sInt q b)
  | a, b => ltNum a b

def cmpEq (x y : W32) : Bool :=
  match dec32 x, dec32 y with
  | .nan, _ => false
  | _, .nan => false
  | .inf p, .inf q => p == q
  | .fin p m e, .fin q m' e' => let (a, b, _) := align m e m' e'; decide (sInt p a = sInt q b)
  | _, _ => false

/-- A quotient of exact values to binary32: 96 further bits and a sticky bit. -/
def divExact (neg : Bool) (m1 : Nat) (e1 : Int) (m2 : Nat) (e2 : Int) : W32 × Nat :=
  let n := m1 * 2 ^ 96
  fin32 neg (2 * (n / m2) + (if n % m2 = 0 then 0 else 1)) (e1 - e2 - 97)

/-- Division of binary32, correctly rounded (R131). -/
def div32 (x y : W32) : W32 × Nat :=
  match dec32 x, dec32 y with
  | .nan, _ => (nan32, nanFlags [x, y])
  | _, .nan => (nan32, nanFlags [x, y])
  | .inf _, .inf _ => (nan32, fInvalid)
  | .inf a, .fin b _ _ => (inf32 (a != b), 0)
  | .fin a _ _, .inf b => (zero32 (a != b), 0)
  | .fin a m e, .fin b m' e' =>
    if m' = 0 then (if m = 0 then (nan32, fInvalid) else (inf32 (a != b), fDivZero))
    else if m = 0 then (zero32 (a != b), 0) else divExact (a != b) m e m' e'

/-- RECIP (R117). -/
def recip32 (x : W32) : W32 × Nat :=
  match dec32 x with
  | .nan => (nan32, nanFlags [x])
  | .inf n => (zero32 n, 0)
  | .fin n m e => if m = 0 then (inf32 n, fDivZero) else divExact n 1 0 m e

/-- Newton's iteration down to the integer square root. -/
def isqrtAux (n : Nat) : Nat → Nat → Nat
  | 0, x => x
  | k + 1, x => let y := (x + n / x) / 2; if y < x then isqrtAux n k y else x

/-- The integer square root. -/
def isqrt (n : Nat) : Nat := if n = 0 then 0 else isqrtAux n 512 (2 ^ (Nat.log2 n / 2 + 1))

/-- SQRT (R117). -/
def sqrt32 (x : W32) : W32 × Nat :=
  match dec32 x with
  | .nan => (nan32, nanFlags [x])
  | .inf n => if n then (nan32, fInvalid) else (x, 0)
  | .fin n m e =>
    if m = 0 then (x, 0) else if n then (nan32, fInvalid)
    else
      let (m', e') := if e % 2 = 0 then (m, e) else (2 * m, e - 1)
      let big := m' * 2 ^ 128
      let r := isqrt big
      fin32 false (2 * r + (if r * r = big then 0 else 1)) (e' / 2 - 65)

/-- RSQRT (R117). -/
def rsqrt32 (x : W32) : W32 × Nat :=
  match dec32 x with
  | .nan => (nan32, nanFlags [x])
  | .inf n => if n then (nan32, fInvalid) else (0, 0)
  | .fin n m e =>
    if m = 0 then (inf32 n, fDivZero) else if n then (nan32, fInvalid)
    else
      let (m', e') := if e % 2 = 0 then (m, e) else (2 * m, e - 1)
      let big := 2 ^ 256 / m'
      let r := isqrt big
      fin32 false (2 * r + (if r * r * m' = 2 ^ 256 then 0 else 1)) (-(e' / 2) - 129)

/-- Fraction bits of the fixed-point arithmetic in which the correctly rounded functions are evaluated. -/
def fxBits : Nat := 256

/-- ln 2 in that arithmetic. -/
def fxLn2 : Nat := 80260960185991308862233904206310070533990667611589946606122867505419956976171

/-- Taylor sum of exp at a fixed-point argument below 1: terms from index `i` on. -/
def expTerms (r : Nat) : Nat → Nat → Nat → Nat
  | 0, _, _ => 0
  | k + 1, i, t => t + expTerms r k (i + 1) (t * r / 2 ^ fxBits / (i + 1))

/-- exp of a fixed-point argument below 1. -/
def fxExp (r : Nat) : Nat := expTerms r 64 0 (2 ^ fxBits)

/-- exp of x × ln 2 (base 2) or of x, where x = ±m × 2^e is not zero and small enough not to overflow by far. -/
def expFin (base2 neg : Bool) (m : Nat) (e : Int) : W32 × Nat :=
  -- the argument in fixed point, as k ln 2 + r with 0 ≤ r < ln 2
  let s : Int := e + fxBits
  let v : Nat := if s ≥ 0 then m * 2 ^ s.toNat else m / 2 ^ (-s).toNat
  let unit : Nat := if base2 then 2 ^ fxBits else fxLn2
  let a : Int := sInt neg v
  let k : Int := a.fdiv unit
  let r : Nat := (a - k * unit).toNat
  let r' : Nat := if base2 then r * fxLn2 / 2 ^ fxBits else r
  if base2 ∧ r = 0 then fin32 false 1 k else fin32 false (2 * fxExp r' + 1) (k - fxBits - 1)

/-- EXP and EXP2: correctly rounded (R117). -/
def expf (base2 : Bool) (x : W32) : W32 × Nat :=
  match dec32 x with
  | .nan => (nan32, nanFlags [x])
  | .inf n => if n then (0, 0) else (x, 0)
  | .fin n m e =>
    if m = 0 then (0x3F800000, 0)
    else if (Nat.log2 m : Int) + e > 9 then (if n then (0, 0) else (inf32 false, fOverflow))
    else if (Nat.log2 m : Int) + e < -60 then (0x3F800000, 0)
    else expFin base2 n m e

/-- Sum of z^(2i+1)/(2i+1) from index `i` on. -/
def atanhTerms (z2 : Nat) : Nat → Nat → Nat → Nat
  | 0, _, _ => 0
  | k + 1, i, t => t / (2 * i + 1) + atanhTerms z2 k (i + 1) (t * z2 / 2 ^ fxBits)

/-- ln of m / 2^l for 2^l ≤ m < 2^(l+1), in fixed point. -/
def fxLogMant (m l : Nat) : Nat :=
  let z := (m - 2 ^ l) * 2 ^ fxBits / (m + 2 ^ l)
  2 * atanhTerms (z * z / 2 ^ fxBits) 84 0 z

/-- LOG and LOG2: correctly rounded (R117). -/
def logf (base2 : Bool) (x : W32) : W32 × Nat :=
  match dec32 x with
  | .nan => (nan32, nanFlags [x])
  | .inf n => if n then (nan32, fInvalid) else (x, 0)
  | .fin n m e =>
    if m = 0 then (inf32 true, fDivZero) else if n then (nan32, fInvalid)
    else
      let l := Nat.log2 m
      let k : Int := (l : Int) + e
      if m = 2 ^ l ∧ (base2 ∨ k = 0) then (if k = 0 then (0, 0) else fin32 (decide (k < 0)) k.natAbs 0)
      else
        let v : Int := k * fxLn2 + fxLogMant m l
        let w : Int := if base2 then (v * (2 ^ fxBits : Nat)).fdiv fxLn2 else v
        fin32 (decide (w < 0)) (2 * w.natAbs + 1) (-(fxBits : Int) - 1)

/-- 2 / sqrt π, sqrt (8 / π) and sqrt (1 / 2) in the fixed-point arithmetic. -/
def fxErf : Nat := 130657381209852114387528029350014196574164286124850014242073919076264802271585
def fxGelu : Nat := 184777440531124450200008084702946902002096553526136051377145485731653605029050
def fxHalfRoot : Nat := 81877371507464127617551201542979628307507432471243237061821853600756754782485

/-- A finite magnitude m × 2^e in fixed point. -/
def fxOf (m : Nat) (e : Int) : Nat :=
  let s : Int := e + fxBits
  if s ≥ 0 then m * 2 ^ s.toNat else m / 2 ^ (-s).toNat

/-- exp of minus a fixed-point magnitude, as F and k with F × 2^-(256 + k). -/
def fxExpNeg (v : Nat) : Nat × Nat :=
  let k := (v + fxLn2 - 1) / fxLn2
  (fxExp (k * fxLn2 - v), k)

/-- A quotient as a significand and an exponent. -/
def fxQuot (n d : Nat) : Nat × Int := (2 * (n * 2 ^ 320 / d) + 1, -321)

/-- The largest argument, in fixed point, at which the functions below are not yet at their limits. -/
def fxClamp (v : Nat) : Nat := min v (512 * 2 ^ fxBits)

/-- 1 / (1 + exp (-a)) for a = ±v: numerator and denominator. -/
def fxSigmoid (neg : Bool) (v : Nat) : Nat × Nat :=
  let (f, k) := fxExpNeg (fxClamp v)
  let one := 2 ^ (fxBits + k)
  if neg then (f, one + f) else (one, one + f)

/-- Sum of the series x (1 + 2x²/3 (1 + 2x²/5 (1 + ...))) of erf × exp x², from the term `t` with index `i` on. -/
def erfTerms (x2 : Nat) : Nat → Nat → Nat → Nat
  | 0, _, _ => 0
  | k + 1, i, t => t + erfTerms x2 k (i + 1) (2 * t * x2 / 2 ^ fxBits / (2 * i + 3))

/-- erf of a fixed-point magnitude, in fixed point. -/
def fxErfOf (v : Nat) : Nat :=
  if v ≥ 13 * 2 ^ fxBits then 2 ^ fxBits
  else
    let x2 := v * v / 2 ^ fxBits
    let (f, k) := fxExpNeg x2
    min (2 ^ fxBits - 1) (erfTerms x2 800 0 v * f / 2 ^ (fxBits + k) * fxErf / 2 ^ fxBits)

/-- x times a quotient, as a number. -/
def mulQuot (neg : Bool) (m : Nat) (e : Int) (q : Nat × Nat) : Num :=
  let (a, b) := fxQuot q.1 q.2
  .fin neg (m * a) (e + b)

/-- TANH, SIGMOID, ERF, GELU_ERF, GELU_TANH and SILU, numbered 0 to 5, of a finite number, to well over 100 bits. -/
def funcExact (i : Nat) (neg : Bool) (m : Nat) (e : Int) : Num :=
  let v := fxOf m e
  match i with
  | 0 =>
    if (Nat.log2 m : Int) + e < -60 then .fin neg m e
    else
      let (f, k) := fxExpNeg (fxClamp (2 * v))
      let one := 2 ^ (fxBits + k)
      mulQuot neg 1 0 (one - f, one + f)
  | 1 => mulQuot false 1 0 (fxSigmoid neg v)
  | 2 => if (Nat.log2 m : Int) + e < -60 then .fin neg (m * fxErf) (e - fxBits) else .fin neg (fxErfOf v) (-(fxBits : Int))
  | 3 =>
    let g := fxErfOf (fxClamp v * fxHalfRoot / 2 ^ fxBits)
    .fin neg (m * (if neg then 2 ^ fxBits - g else 2 ^ fxBits + g)) (e - fxBits - 1)
  | 4 =>
    let c := fxClamp v
    mulQuot neg m e (fxSigmoid neg (fxGelu * (c + 44715 * (c * c / 2 ^ fxBits * c / 2 ^ fxBits) / 1000000) / 2 ^ fxBits))
  | _ => mulQuot neg m e (fxSigmoid neg v)

/-- Whether a pattern of binary32 is within 2 units in the last place of a number. -/
def within2 (v : W32) (x : Num) : Bool :=
  match dec32 v, x with
  | .fin n1 m1 e1, .fin n2 m2 e2 =>
    let q : Int := max ((Nat.log2 m2 : Int) + e2 - 23) (-149)
    let (a, b, e) := align m1 e1 m2 e2
    let d := (sInt n1 a - sInt n2 b).natAbs
    let (d', u, _) := align d e 2 q
    decide (d' ≤ u)
  | .inf a, .inf b => a == b
  | _, _ => false

/-- One of the functions without correct rounding (R117): the implementation's algorithm where it keeps to 2 units in the last
place of the exact value, as every implementation does, and the nearest value otherwise. At an infinity the value is the limit. -/
def funcApprox (i : Nat) (x : W32) : W32 × Nat :=
  match dec32 x with
  | .nan => (nan32, nanFlags [x])
  | .inf n => (match i with
    | 0 | 2 => if n then 0xBF800000 else 0x3F800000
    | 1 => if n then 0 else 0x3F800000
    | _ => if n then 0x80000000 else x, 0)
  | .fin n m e =>
    let exact := funcExact i n m e
    let v := Config.vecFunc i x
    if within2 v exact then (v, 0) else num32 exact

/-- A FUNC operation (Table 6.1, R117). -/
def funcOp (f : Func) (x : W32) : W32 × Nat :=
  match f with
  | .exp => expf false x
  | .exp2 => expf true x
  | .log => logf false x
  | .log2 => logf true x
  | .recip => recip32 x
  | .sqrt => sqrt32 x
  | .rsqrt => rsqrt32 x
  | .tanh => funcApprox 0 x
  | .sigmoid => funcApprox 1 x
  | .erf => funcApprox 2 x
  | .geluErf => funcApprox 3 x
  | .geluTanh => funcApprox 4 x
  | .silu => funcApprox 5 x

/-- INT32 to binary32, to nearest. -/
def intToFp (v : W32) : W32 :=
  let i := v.toInt
  if i = 0 then 0 else (fin32 (decide (i < 0)) i.natAbs 0).1

/-- m × 2^e rounded to an integer, to nearest, ties to even. -/
def roundInt (m : Nat) (e : Int) : Nat :=
  if e ≥ 0 then m * 2 ^ e.toNat
  else
    let d := 2 ^ (-e).toNat
    let q := m / d
    let r := m % d
    if 2 * r > d ∨ (2 * r = d ∧ q % 2 = 1) then q + 1 else q

/-- A value clamped to an integer target, with SATURATED. -/
def clampInt (f : Elem) (v : Int) : Nat × Nat :=
  let (lo, hi) : Int × Int := match f with
    | .int8 => (-128, 127)
    | .uint8 => (0, 255)
    | _ => (-2147483648, 2147483647)
  if v < lo then (unsigned 32 lo, fSaturated) else if v > hi then (unsigned 32 hi, fSaturated) else (unsigned 32 v, 0)

/-- A binary32 value converted to a format (Table 5.6): rounding by RNE, or by a draw; SAT on or off. -/
def narrow (f : Elem) (draw : Option Nat) (sat : Bool) (x : W32) : Nat × Nat :=
  match f with
  | .fp32 => (x.toNat, 0)
  | .int8 | .uint8 | .int32 =>
    match dec32 x with
    | .nan => (0, fInvalid)
    | .inf n => let c := clampInt f (if n then -4294967296 else 4294967296); (c.1 % 2 ^ elemBits f, c.2)
    | .fin n m e => let c := clampInt f (sInt n (roundInt m e)); (c.1 % 2 ^ elemBits f, c.2)
  | f =>
    let canon : Nat := match f with
      | .bf16 => 0x7FC0 | .fp16 => 0x7E00 | .e5m2 => 0x7E | .e4m3 => 0x7F | _ => 0
    let satable : Bool := sat && f != .bf16
    match dec32 x with
    | .nan => (canon, 0)
    | .inf n =>
      if f = .e4m3 then (if sat then (withSign f n (maxCode f), fSaturated) else (canon, 0))
      else (withSign f n (maxCode f + 1), 0)
    | .fin n m e =>
      let c := roundCode f draw m e
      if c ≤ maxCode f then (withSign f n c, 0)
      else if satable then (withSign f n (maxCode f), fSaturated)
      else if f = .e4m3 then (canon, fOverflow) else (withSign f n (maxCode f + 1), fOverflow)

/-- A source element widened to a lane (R114, R415): its 32-bit pattern. -/
def widen (f : Elem) (p : Nat) : W32 :=
  match f with
  | .fp32 | .int32 => BitVec.ofNat 32 p
  | .int8 => BitVec.ofNat 32 (unsigned 32 (signed 8 p))
  | .uint8 => BitVec.ofNat 32 (p % 256)
  | f => (num32 (decodeElem f p)).1

/-- The generator of R106. -/
def mix64 (z : W64) : W64 :=
  let z := (z ^^^ (z >>> 30)) * 0xBF58476D1CE4E5B9
  let z := (z ^^^ (z >>> 27)) * 0x94D049BB133111EB
  z ^^^ (z >>> 31)

def unseeded : W64 := 0x6D2B79F5

def seedGen (job : W64) (lcell a : Nat) (salt : W32) : W64 :=
  let z := mix64 (job ^^^ BitVec.ofNat 64 (lcell * 2 ^ 40) ^^^ BitVec.ofNat 64 (a * 2 ^ 32) ^^^ salt.setWidth 64)
  let s : W32 := z.setWidth 32
  if s = 0 then unseeded else s.setWidth 64

def advanceGen (g : W64) : W64 :=
  let s : W32 := g.setWidth 32
  let s := s ^^^ (s <<< 13)
  let s := s ^^^ (s >>> 17)
  (s ^^^ (s <<< 5)).setWidth 64

def drawGen (g : W64) (i : Nat) : Nat :=
  let u : W32 := g.setWidth 32 + BitVec.ofNat 32 (i + 1) * 0x9E3779B9
  let u := u ^^^ (u >>> 16)
  let u := u * 0x85EBCA6B
  let u := u ^^^ (u >>> 13)
  let u := u * 0xC2B2AE35
  let u := u ^^^ (u >>> 16)
  (u >>> 16).toNat

/-- A product scaled by MX scale bytes (R98): value × 2^(s - 127) for each. -/
def scaleNum (v : Num) (s : Option Nat) : Num :=
  match s, v with
  | none, v => v
  | some 0xFF, _ => .nan
  | some k, .fin n m e => .fin n m (e + (k : Int) - 127)
  | some _, v => v

/-- Flag bits of ARR_NUM (Table 5.7). -/
def nNanIn : Nat := 1
def nInvalid : Nat := 2
def nInfIn : Nat := 4
def nOverflow : Nat := 8
def nIntWrap : Nat := 16

/-- The terms of a step truncated to the window of 64 bits and added (R99): sum in units of 2^(top - 63). -/
def windowSum (ts : List (Bool × Nat × Int)) (top : Int) : Int :=
  ts.foldl (fun a t =>
    let sh : Int := t.2.2 - top + 63
    a + sInt t.1 (if sh ≥ 0 then t.2.1 * 2 ^ sh.toNat else t.2.1 / 2 ^ (-sh).toNat)) 0

/-- The exponent of the leading bit of the largest term. -/
def topExp (ts : List (Bool × Nat × Int)) : Option Int :=
  ts.foldl (fun a t =>
    if t.2.1 = 0 then a
    else
      let x : Int := (Nat.log2 t.2.1 : Int) + t.2.2
      match a with
      | none => some x
      | some y => some (if y < x then x else y)) none

/-- The finite terms of a list of numbers. -/
def finTerms (ts : List Num) : List (Bool × Nat × Int) :=
  ts.filterMap fun t => match t with
    | .fin n m e => some (n, m, e)
    | _ => none

/-- One output of a floating-point step (R99, R103): psum and the products, rounded to `f` by `draw`. -/
def stepOutput (f : Elem) (draw : Option Nat) (psum : Num) (prods : List (Option Num)) : Nat × Nat :=
  let canon : Nat := if f = .fp32 then 0x7FC00000 else 0x7FC0
  let ts := psum :: prods.filterMap id
  if ts.any (· = .nan) then (canon, nNanIn)
  else if prods.any (· = none) then (canon, nInvalid)
  else if ts.any (· = .inf true) && ts.any (· = .inf false) then (canon, nInvalid)
  else if ts.any (· = .inf true) then (withSign f true (maxCode f + 1), nInfIn)
  else if ts.any (· = .inf false) then (withSign f false (maxCode f + 1), nInfIn)
  else
    let fs := finTerms ts
    match topExp fs with
    | none => (withSign f (fs.all (·.1)) 0, 0)
    | some top =>
      let s := windowSum fs top
      if s = 0 then (0, 0)
      else
        let c := roundCode f draw s.natAbs (top - 63)
        if c > maxCode f then (withSign f (decide (s < 0)) (maxCode f + 1), nOverflow)
        else (withSign f (decide (s < 0)) c, 0)

/-- One output of an integer step (Table 5.2). -/
def stepInt (psum : Int) (xs ws : List Int) : Nat × Nat :=
  let s := (List.zipWith (· * ·) xs ws).foldl (· + ·) psum
  (unsigned 32 s, if s < -2147483648 ∨ s > 2147483647 then nIntWrap else 0)

/-- MX quantisation of one scale block (R111): scale byte, and the elements' patterns each with its flags. `draws` are the lanes' draws when
the sink rounds stochastically. -/
def mxQuant (f : Elem) (vs : List W32) (draws : List (Option Nat)) : Nat × List (Nat × Nat) :=
  let ns := vs.map dec32
  if ns.any (fun v => v = .nan ∨ v = .inf true ∨ v = .inf false) then (0xFF, vs.map (fun _ => (0, 0)))
  else
    match topExp (finTerms ns) with
    | none => (0, ns.map (fun v => (match v with | .fin n _ _ => withSign f n 0 | _ => 0, 0)))
    | some top =>
      let emax : Int := match f with
        | .e2m1 | .e2m3 => 2 | .e3m2 => 4 | .e4m3 => 8 | _ => 15
      let x0 := top - emax
      let x : Int := if x0 < -127 then -127 else if x0 > 127 then 127 else x0
      ((x + 127).toNat, List.zipWith (fun v d => match v with
        | .fin n m e =>
          let c := roundCode f d m (e - x)
          if c > maxCode f then (withSign f n (maxCode f), fSaturated) else (withSign f n c, 0)
        | _ => (0, 0)) ns draws)

/-- A number as a binary64 pattern, to nearest (R371). -/
def code64 (m : Nat) (e : Int) : Nat :=
  if m = 0 then 0
  else
    let top : Int := (Nat.log2 m : Int) + e
    let qe : Int := (if top < -1022 then -1022 else top) - 52
    let low : Nat × Nat × Nat :=
      if e ≥ qe then (m * 2 ^ (e - qe).toNat, 0, 1) else let d := 2 ^ (qe - e).toNat; (m / d, m % d, d)
    (qe + 1074).toNat * 2 ^ 52 + low.1 + b2n (decide (2 * low.2.1 > low.2.2 ∨ (2 * low.2.1 = low.2.2 ∧ low.1 % 2 = 1)))

/-- Sign, magnitude and exponent of a finite binary64 pattern. -/
def dec64 (x : Nat) : Bool × Nat × Int :=
  let ex := bits x 52 11
  let fr := x % 2 ^ 52
  (bitOf x 63, if ex = 0 then fr else 2 ^ 52 + fr, if ex = 0 then -1074 else (ex : Int) - 1075)

/-- Addition of a finite value to a binary64 sum, rounded to nearest. -/
def add64 (x : W64) (n : Bool) (m : Nat) (e : Int) : W64 :=
  let (n1, m1, e1) := dec64 x.toNat
  let (a, b, ee) := align m1 e1 m e
  let s := sInt n1 a + sInt n b
  if s = 0 then BitVec.ofNat 64 (b2n (n1 && n && m1 == 0 && m == 0) * 2 ^ 63)
  else BitVec.ofNat 64 (code64 s.natAbs ee + b2n (decide (s < 0)) * 2 ^ 63)

/-- A binary64 sum divided by a count, rounded to binary64 and then to binary32 (R371). -/
def mean64 (x : W64) (count : Nat) : W32 :=
  let (n, m, e) := dec64 x.toNat
  if m = 0 ∨ count = 0 then zero32 (n && count != 0)
  else
    let q := m * 2 ^ 128
    let c := code64 (2 * (q / count) + (if q % count = 0 then 0 else 1)) (e - 129)
    let (_, m', e') := dec64 c
    (fin32 n m' e').1

end Sys2Proof.Machine
end

