-- ==== Sys2Proof/Machine/HostState.lean ====
section
/-! DEFINITION. The state of the always-on domain, the clocks, the error log, the command path, the host attachment,
power and security (chapters 02, 14-17, 19 of spec/). Every structure is plain data, and its default values are the
reset values the register tables give; a default with no reset value in the spec is named in the assumption log. -/

namespace Sys2Proof.Machine

/-- Severities (Table 19.1). -/
inductive Sev where
  | corrected | deferred | jobFatal | moduleFatal
  deriving DecidableEq, Repr

/-- An error record (Table 19.2). CLASS is the upper byte of `code`; `part` and `unit` are absent for none. -/
structure ErrRec where
  gtc : Nat := 0
  sev : Sev := .corrected
  secondary : Bool := false
  part : Option Nat := none
  code : Nat := 0
  unit : Option Nat := none
  time : Nat := 0
  ctx : List Byte := []
  deriving DecidableEq, Repr

/-- The error log (R386-R391, Table 19.6). `slots` holds the records by index modulo 4,096; `recent` the GTC of the
last unsuppressed record of each code and unit (R387); `modRec` the record MOD_FATAL names; `spUe` and `spCe` Flomor's
counts of scratchpad errors per cell (R391). -/
structure ErrLog where
  head : Nat := 0
  ack : Nat := 0
  modFatal : Bool := false
  modRec : Nat := 0xFFFFFFFF
  overflow : Bool := false
  firstValid : Bool := false
  suppressed : Nat := 0
  first : Nat := 0xFFFFFFFF
  lost : Nat := 0
  peerMctp : Nat := 0
  peerDoe : Nat := 0
  adviseCell : Nat := 0
  adviseValid : Bool := false
  slots : Tbl ErrRec := []
  recent : List (Nat × Option Nat × Nat) := []
  spUe : Tbl Nat := []
  spCe : Tbl (List Nat) := []
  unassigned : Nat := 0
  deriving DecidableEq, Repr

/-- Whether the arithmetic clocks run (R39, R44). -/
inductive ClkRun where
  | stopped | running | pause
  deriving DecidableEq, Repr

/-- Clocks and time (Tables 2.6-2.8). `phase` is the part of a nanosecond already elapsed, in 1/378 ns. `pulse` is the
MCC of the latest sync pulse whose findings were taken; `breach` counts the consecutive sync intervals per region with a
jitter or duty breach, `realign` holds the crossings to be realigned (Table 2.2); `locked` and `aligned` say whether the
arithmetic PLLs report lock and their crossings are aligned, `fastLock` whether those of the fixed-frequency regions do, and `coreLock` those of the control cores and
the endpoint, which run before Flomor locks the fast PLLs (R34, R332); `pauseGtc` is the GTC at which the frequency pause began.
`copies` says how far a region's local copy differs from the count it follows (R39, R41): key 5 r for MCC, 5 r + 1 + p for JCC
of partition p. `timeState` is the fabric time state (Table 12.7). -/
structure Clock where
  run : ClkRun := .stopped
  mcc : Nat := 0
  gtc : Nat := 0
  phase : Nat := 0
  syncMcc : Nat := 0
  syncGtc : Nat := 0
  curLevel : Nat := 5
  tgtLevel : Nat := 5
  pendingChange : Bool := false
  queuedTgt : Option Nat := none
  freqAt : Nat := 0
  pauses : Nat := 0
  stsJitter : Bool := false
  stsDuty : Bool := false
  stsSkewCorr : Bool := false
  stsSkewFail : Bool := false
  stsSlip : Bool := false
  stsUnlock : Bool := false
  stsRegion : Nat := 0
  jitterLimit : Byte := 0x14
  dutyLimit : Byte := 0x32
  breach : Tbl Nat := []
  realign : List (Nat × Nat) := []
  pulse : Option Nat := none
  locked : Bool := false
  aligned : Bool := false
  fastLock : Bool := false
  coreLock : Bool := false
  pauseGtc : Nat := 0
  copies : Tbl Nat := []
  timeState : Nat := 0
  deriving DecidableEq, Repr

/-- Status codes of the status packets (R310, Table 15.7 and the tables it names). -/
inductive Status where
  | ok | badOpcode | badParam | noResource | busy | partitionState | notDrained | fenceConflict | fault | timeout
  | signatureRejected | holdupLow | steppingMismatch
  deriving DecidableEq, Repr

/-- A status packet (Table 15.6). `result` is bytes 16 to 27 as one little-endian number. -/
structure StatusPkt where
  opcode : Nat
  status : Status
  tag : Nat
  phase : Bool
  ring : Nat
  slot : Nat
  gtc : Nat
  result : Nat
  record : Nat
  deriving DecidableEq, Repr

/-- One command ring (Tables 15.2, 15.4): CR_BASE and CR_SBASE without their reserved bits, CR_CFG, CR_STS, CR_DB and
CR_PTR, and the next phase bit. -/
structure CmdRing where
  base : W64 := 0
  sbase : W64 := 0
  enable : Bool := false
  loc : Bool := false
  log2 : Nat := 4
  tail : Nat := 0
  head : Nat := 0
  done : Nat := 0
  phase : Bool := true
  busy : Bool := false
  overrun : Bool := false
  fetchErr : Bool := false
  deriving DecidableEq, Repr

/-- A command waiting on the management ring (R320). -/
structure MgmtCmd where
  opcode : Nat
  loc : Nat
  tag : Nat
  deriving DecidableEq, Repr

/-- An object that a command claims (R308). -/
inductive Claim where
  | module
  | firmware
  | part (p : Nat)
  | region (p h : Nat)
  | link (l : Nat)
  | channel (c : Nat)
  | band (b : Nat)
  | core (n : Nat)
  | dimm (c : Nat)
  | laser (n : Nat)
  | stack (n : Nat)
  deriving DecidableEq, Repr

/-- A flash commit that waits (R336), with what it writes; of an image, whether the slot reads back as it was written (R352); the lifetime counters carry their values (R364), and a certificate chain is
as the security block has wrapped it (R341). -/
inductive Commit where
  | image (i : FlomorImage) (ok : Bool := true)
  | fenceMap (cell : Nat) (fenced : Bool)
  | lostBand (b : Nat) (lost : Bool)
  | linkCal (l : Nat)
  | stackFailed (s : Nat) (failed : Bool)
  | counters (values : Tbl Nat)
  | journal
  | keys (tr : Transport) (slot : Nat) (chain : List Byte)
  deriving DecidableEq, Repr

/-- What a command in progress waits for. -/
inductive FlightKind where
  | setPower (target : Nat)
  | setFreq
  | start (p : Nat)
  | hold (p : Nat)
  | resume (p : Nat)
  | cast (p : Nat)
  | abort (p : Nat)
  | pin (p h : Nat)
  | migrate (p h : Nat)
  | link (l : Nat) (drain : Bool)
  | fence (cell : Nat)
  | dump (p : Nat)
  | dimmOff (c : Nat)
  | laserOff (n : Nat)
  | laserOn (n : Nat)
  | stack (n : Nat) (ok : Bool)
  | flash (c : Commit) (result : Nat)
  | pldm (c : Commit)
  deriving DecidableEq, Repr

/-- A command in progress: its ring and slot, opcode, TAG, IRQ flag, claims (R308), and what it waits for. -/
structure Flight where
  ring : Nat
  slot : Nat
  opcode : Nat
  tag : Nat
  irq : Bool
  claims : List Claim
  kind : FlightKind
  deriving DecidableEq, Repr

/-- A mailbox (R316, Table 15.4). `slot` lists the bytes of the data slot that are not zero. -/
structure Mailbox where
  sender : Nat := 0x3F
  receiver : Nat := 0x3F
  full : Bool := false
  arrived : Bool := false
  emptied : Bool := false
  seq : Nat := 0
  refused : Nat := 0
  slot : Tbl Byte := []
  deriving DecidableEq, Repr

/-- One MSI-X table entry with the merging state of R286: GTC of the last message, and whether one is due after it. -/
structure Vector where
  addr : W64 := 0
  data : W32 := 0
  masked : Bool := true
  pendingBit : Bool := false
  last : Option Nat := none
  merge : Bool := false
  deriving DecidableEq, Repr

/-- MSI-X state (R285, R286): MSI-X Enable and the function mask of its Message Control, and the pending bits of the application cores' interrupt controller (R297). -/
structure Msix where
  enable : Bool := false
  fnMask : Bool := false
  vecs : Tbl Vector := []
  plic : Tbl Bool := []
  deriving DecidableEq, Repr

/-- A request of the module to host memory, or a status packet written there (R287, R288). -/
inductive HostSend where
  | status (p : StatusPkt)
  | read (engine addr len : Nat)
  | write (engine addr : Nat) (relaxed : Bool) (data : List Byte)
  deriving DecidableEq, Repr

/-- The endpoint (R277-R292, Table 14.8): GLB_AP_BASE bits 47:30, GLB_AP_STS, GLB_PCIE_STS, whether PERST# is asserted, whether an event of R278 lasts,
D3hot, the DOE error state, and AER's uncorrectable error status; of configuration space the Command register, the
bases of the three BARs (R280), Device Control, Device Status, Link Control and Device Control 2 (Table 14.1), and the engine that
makes the next transfer (R287); AER's masks and severities; whether a DOE response stands ready, the words written to the mailbox and
those of the response that are still to be read; whether REFCLK was there when PERST# was last deasserted (R404); the GTC until which a
function-level reset leaves the function not ready (R291), and what waits to be sent to the host (R292). -/
structure Pcie where
  apBase : Nat := 0
  refused : Nat := 0
  rate : Nat := 0
  flit : Bool := false
  width : Nat := 0
  retrains : Nat := 0
  perst : Bool := false
  down : Bool := false
  d3hot : Bool := false
  doeError : Bool := false
  aerSts : Nat := 0
  cmd : Nat := 0
  bar0 : Nat := 0
  bar2 : Nat := 0
  bar4 : Nat := 0
  devCtl : Nat := 0x2010
  lnkCtl : Nat := 0
  devCtl2 : Nat := 0
  engine : Nat := 0
  devSts : Nat := 0
  aerMask : Nat := 0x400000
  aerSev : Nat := 0x462030
  aerCorMask : Nat := 0x2000
  doeReady : Bool := false
  doeIn : List Nat := []
  doeOut : List Nat := []
  refclk : Bool := false
  flrUntil : Nat := 0
  held : List HostSend := []
  deriving DecidableEq, Repr

/-- An application core (R293): its state (Table 14.8), pc, integer, floating-point and vector registers, CSRs, privilege mode,
and the line that an LR has reserved. -/
structure AppCore where
  st : Nat := 0
  pc : W64 := 0
  xs : Tbl W64 := []
  fs : Tbl W64 := []
  vs : Tbl (BitVec 256) := []
  csrs : Tbl W64 := []
  priv : Priv := .machine
  reserve : Option Nat := none
  deriving DecidableEq, Repr

/-- The application cores; the words written to the interrupt controller and timer ranges, and the sources in service (R294,
R297); and what the device description block holds: the values that stood when the cores were last booted (Table 14.6). -/
structure App where
  cores : Tbl AppCore := []
  plicMem : Tbl W32 := []
  timerMem : Tbl W32 := []
  serving : Tbl Bool := []
  block : List Nat := []
  deriving DecidableEq, Repr

/-- Power states (Table 16.1). -/
inductive PowerState where
  | active | idle | standby | aux
  deriving DecidableEq, Repr

/-- How AUX was entered (R324). -/
inductive AuxWhy where
  | por | mainLost | held
  deriving DecidableEq, Repr

/-- Stages of start-up (Table 16.7). -/
inductive Stage where
  | auxWait | rails | rom | backoff | recovery | flomorInit | ready
  deriving DecidableEq, Repr

/-- Power and resets (Table 16.7, R322-R338). `testGtc` dates the latest hold-up test; `mainOk` and `mainEnLow` are the
54 V input in its range and the MAIN_EN# pin (R402); `warmAt` is the GTC at which a warm reset begins (R330);
`coldStart` lasts from POR to the next READY (R351), `warmStart` from a warm reset to the next READY; `flomorUp`
says that Flomor runs and not the ROM loader (R329, R332). -/
structure Power where
  st : PowerState := .aux
  ready : Bool := false
  stage : Stage := .auxWait
  armed : Bool := false
  cause : BitVec 9 := 1
  attempts : Nat := 0
  backoff : Nat := 0
  recovered : Bool := false
  pmLevel : Nat := 0
  cap : Nat := 0
  stepsDown : Nat := 0
  coolWindows : Nat := 0
  mainW : Nat := 0
  auxW : Nat := 0
  energy : Nat := 0
  testGtc : Option Nat := none
  valid : Bool := false
  testing : Bool := false
  deferred : List Commit := []
  deferredCount : Nat := 0
  waiting : List Commit := []
  onBank : Bool := false
  auxWhy : AuxWhy := .por
  mainOk : Bool := false
  mainEnLow : Bool := false
  warmAt : Option Nat := none
  coldStart : Bool := true
  warmStart : Bool := false
  flomorUp : Bool := false
  deriving DecidableEq, Repr

/-- The fields of a Flomor header that stay of interest once the image runs or is committed (Table 17.4). -/
structure FwId where
  version : Nat := 0
  svn : Nat := 0
  keySlot : Nat := 0
  pinSvn : Bool := false
  revoke : Nat := 0
  digest : List Byte := []
  deriving DecidableEq, Repr

/-- Entries of the journal (R352, R353): BEGIN with VERSION and the digest of the whole image, one after each sector of 64 KiB,
and COMPLETE. -/
inductive JournalEntry where
  | begin_ (version : Nat) (digest : List Byte)
  | sector (n : Nat)
  | complete
  deriving DecidableEq, Repr

/-- Flash contents (R353, Table 16.4). The journal holds the entries of the last update; the persisted counters are those of
R364; `certs` is the key store area (R341, R346). -/
structure Flash where
  image : Option FlomorImage := none
  journal : List JournalEntry := []
  fenceMap : List Nat := []
  lost : List Nat := []
  failedStacks : List Nat := []
  linkCal : List Nat := []
  counters : Tbl Nat := []
  certs : Tbl (List Byte) := []
  deriving DecidableEq, Repr

/-- States of the security block (Table 17.9). -/
inductive SecState where
  | selfTest | operational | error | zeroised
  deriving DecidableEq, Repr

/-- An SPDM session (R347): its transport and number, the leaf key of a mutually authenticated requester, its secret, whether
FINISH has completed it, the KEY_UPDATEs, and the messages received since the latest key. -/
structure Session where
  tr : Transport
  id : Nat
  peerKey : Option (List Byte)
  secret : List Byte := []
  established : Bool
  updates : Nat
  received : Nat := 0
  deriving DecidableEq, Repr

/-- How far the SPDM exchange of a transport has come: GET_VERSION, GET_CAPABILITIES, NEGOTIATE_ALGORITHMS. -/
inductive SpdmPhase where
  | none | version | capabilities | negotiated
  deriving DecidableEq, Repr

/-- The security block (R341-R359, Tables 17.2 and 17.9). Fuses are values of the part, kept across every reset. `deviceKey`,
`cdi` and `aliasKey` are derived at a start of Flomor, with the public keys of the first and the last (R345); `drbg` and
`drbgCount` are the state of the random bit generator and the requests since it was seeded (R342); `suiteDoe` and `suiteMctp` are the
suites negotiated (R347); `privMem` lists the bytes of the
private memory that are not zero (R341). -/
structure Sec where
  st : SecState := .selfTest
  approved : Bool := false
  tamper : Bool := false
  zeroised : Bool := false
  provisioned : Bool := false
  reqMaq : Bool := false
  reqApp : Bool := false
  custSuite : Bool := false
  custHash : List Byte := []
  fwRevoke : BitVec 4 := 0
  fwKeyHash : Tbl (List Byte × Bool) := []
  decommissioned : Bool := false
  minSvn : Nat := 0
  running : FwId := {}
  booted : FwId := {}
  appDigest : List Byte := []
  maqDigest : Tbl (List Byte) := []
  rejImages : Nat := 0
  rejSpdm : Nat := 0
  sessions : List Session := []
  spdmDoe : SpdmPhase := .none
  spdmMctp : SpdmPhase := .none
  suiteDoe : Nat := 2
  suiteMctp : Nat := 2
  keysDerived : Bool := false
  uds : List Byte := []
  imgKey : List Byte := []
  deviceKey : List Byte := []
  devicePub : List Byte := []
  cdi : List Byte := []
  aliasKey : List Byte := []
  aliasPub : List Byte := []
  drbg : List Byte := []
  drbgCount : Nat := 0
  privMem : Tbl Byte := []
  waitingImage : Option FlomorImage := none
  deriving DecidableEq, Repr

/-- The fused identity (Tables 0.1, 12.11) and the factory fence map (R78): stepping B0, grade ZX4-B, FAB_ID. -/
structure Ident where
  b0 : Bool := false
  gradeB : Bool := false
  fabId : Nat := 0
  factoryFence : List Nat := []
  deriving DecidableEq, Repr

/-- Pins and indicators of the board (R398, R402, R405, R406), and the endpoint ID and the PLDM terminus ID of the MCTP endpoint (R319). `prsntLow` says that PRSNT_PWR# is
low: the power connector is mated. -/
structure Board where
  prsntLow : Bool := true
  identify : Bool := false
  eid : Nat := 0
  tid : Nat := 0
  jtag : Jtag := .idcode
  deriving DecidableEq, Repr

/-- An SPDM answer: the response's name with its payload, or ERROR with its reason (R347, Table 19.7). -/
inductive SpdmAns where
  | version (supported : List Nat)
  | capabilities (mutualAuth psk chunking : Bool)
  | algorithms (suite : Nat) (aead dhe : String)
  | digests (slots : List (Nat × List Byte))
  | certificate (slot : Nat) (chain : List Byte)
  | challengeAuth (slot : Nat) (nonce sig : List Byte)
  | measurements (blocks : List (Nat × List Byte)) (nonce sig : List Byte)
  | keyExchangeRsp (session : Nat) (point sig : List Byte)
  | finishRsp | heartbeatAck | keyUpdateAck | endSessionAck | setCertificateRsp
  | vendor (result : Nat)
  | errBusy | errInvalid | errUnexpected
  deriving DecidableEq, Repr

/-- What the module sends out: to the host, an application core, the management controller, a link partner or a
sequencer. The list of it in State is the model's own record of the outside. -/
inductive Out where
  | status (p : StatusPkt)
  | msix (vector : Nat)
  | completion (data : List Byte)
  | completerAbort
  | unsupported
  | retryStatus
  | errorMessage (fatal : Bool)
  | hostRead (engine addr len : Nat)
  | hostWrite (engine addr : Nat) (relaxed : Bool) (data : List Byte)
  | coreData (core : Nat) (data : List Byte)
  | coreFault (core : Nat) (store : Bool)
  | vdmData (data : W64)
  | mctpAnswer (command : Nat) (ok : Bool) (data : List Byte)
  | pldmBase (command : Nat) (data : List Byte)
  | pldmValue (v : Nat)
  | pldmStatus (ok retry : Bool)
  | spdm (tr : Transport) (a : SpdmAns)
  | mcc (band mcc : Nat)
  | frame (link : Nat) (bytes : List Byte)
  | boundary (i : Jtag) (data : List Bool)
  | doe (typ : Nat)
  deriving DecidableEq, Repr

end Sys2Proof.Machine
end

