-- ==== Sys2Proof/Machine/PartState.lean ====
section
/-! DEFINITION. The state of a partition (chapters 01, 02, 08, 09, 18 of spec/) and the patina counters (Table 18.2). -/

namespace Sys2Proof.Machine

/-- Partition states (Table 1.5). -/
inductive PState where
  | empty | loaded | bound | running | paused | cast | done
  deriving DecidableEq, Repr

/-- A flag with its last-setter record (R171-R173). `setter` is a band, 32 for the host. -/
structure Flag where
  value : W32 := 0
  setter : Option Nat := none
  setGtc : Nat := 0
  deriving DecidableEq, Repr

/-- A flag update issued and not yet applied (R172): issuing band, MCC of issue, flag, whether it adds, and v. -/
structure FlagUpd where
  band : Nat
  at_ : Nat
  flag : Nat
  add : Bool
  v : W32
  deriving DecidableEq, Repr

/-- What one schedule fault names (Table 9.6): LOSER and WINNER are 0xFF where there is none. -/
structure SFault where
  code : Nat
  jcc : Nat
  band : Nat
  ppos : Nat
  lpos : Nat := 0xFF
  lane : Nat := 0
  ccw : Bool := false
  bank : Nat := 0
  cmp : Nat := 0
  tag : Nat := 0
  loser : Nat := 0xFF
  winner : Nat := 0xFF
  deriving DecidableEq, Repr

/-- Causes of a cast, as object 0x01 codes them (Table 18.6). -/
inductive CastCause where
  | command | fabricCommand | castAt | schedFault | watchdog | otherFatal
  deriving DecidableEq, Repr

/-- A pending cast (R50, R187, R380): the boundary in MCC, or in JCC for an error that the island detects, its cause, whether
it sets FAULT_CAST, and the bands whose watchdog has expired. -/
structure PendCast where
  at_ : Option Nat := none
  jcc : Option Nat := none
  cause : CastCause
  fault : Bool
  atGtc : Nat := 0
  wd : List Nat := []
  record : Option Nat := none
  deriving DecidableEq, Repr

/-- An armed digest tap (R373). -/
structure ArmedTap where
  tap : Nat
  loc : Nat
  addr : Nat
  entries : Nat
  next : Nat
  deriving DecidableEq, Repr

/-- A DUMP_TENSOR that waits for the end of its step (R366), or copies; `doneJcc` is the JCC at DONE of that step. -/
structure DumpJob where
  ring : Nat
  slot : Nat
  loc : Nat
  handle : Nat
  step : Nat
  addr : Nat
  len : Nat
  copying : Bool
  startGtc : Nat
  startTime : Nat
  doneJcc : Nat := 0
  deriving DecidableEq, Repr

/-- Patina counters of a band (Table 18.2). -/
structure PatBand where
  run : Nat := 0
  hold : Nat := 0
  req : Nat := 0
  array : Nat := 0
  vector : Nat := 0
  portIn : Nat := 0
  portOut : Nat := 0
  sfaults : Nat := 0
  deriving DecidableEq, Repr

/-- Patina counters of a memory unit. -/
structure PatMem where
  ce : Nat := 0
  ue : Nat := 0
  charged : Nat := 0
  moved : Nat := 0
  deriving DecidableEq, Repr

/-- Patina counters of a link. -/
structure PatLink where
  tx : Nat := 0
  rx : Nat := 0
  replays : Nat := 0
  fecUe : Nat := 0
  deriving DecidableEq, Repr

/-- Patina counters of a channel. -/
structure PatCh where
  nan : Nat := 0
  steps : Nat := 0
  deriving DecidableEq, Repr

/-- The live counters, in the order of the patina block; `lifeCe`, `lifeUe` and `lifeRep` are the lifetime counters as
loaded from flash and added to by R364. -/
structure PatLive where
  band : Tbl PatBand := []
  mem : Tbl PatMem := []
  link : Tbl PatLink := []
  ch : Tbl PatCh := []
  hours : Nat := 0
  lifeCe : Tbl Nat := []
  lifeUe : Tbl Nat := []
  lifeRep : Tbl Nat := []
  deriving DecidableEq, Repr

/-- What a cut keeps beside the stopped bands (R374, Table 18.6): counts at the boundary, the cause, the time state, whether
it was taken while held, the bound bands, the link capture, the first record, AT_GTC and the patina counters. -/
structure Cut where
  jcc : Nat
  mcc : Nat
  gtc : Nat
  cause : CastCause
  time : Nat
  held : Bool
  mask : Nat
  capture : List (List Byte)
  record : Option Nat
  atGtc : Nat
  patina : PatLive
  deriving DecidableEq, Repr

/-- One partition (Tables 1.4, 1.5, 2.7, 2.8, 8.7, 9.7). `held` is IN_HOLD. `hold*` describe holds (Table 2.7);
`reqs` the band ports' requests of the boundary `reqFor` in MCC, `decided` the last boundary decided on; `pauseAt`, `resumeAt`, `startAt` boundaries in MCC at
which PAUSED, RUNNING and a START take effect; `captured` the GTC of the latest cut with the entries of its link capture (R376); `endJcc` the JCC of the first hold boundary after the last END (R170); `castGtc` a CAST that waits for its AT_GTC; `pendFatal` the cast that
R381 keeps pending; `faulted` a job-fatal error since CAST was last left; `binding` the physical band and rotation of
each logical band (R71). -/
structure Part where
  st : PState := .empty
  held : Bool := false
  faultCast : Bool := false
  jcc : Nat := 0
  wrap : Bool := false
  holdUnits : Nat := 0
  holdBand : Nat := 0
  holdOut : Bool := false
  holdLast : Nat := 0
  holdNow : Nat := 0
  reqs : List (Nat × Bool × Bool) := []
  reqFor : Option Nat := none
  decided : Option Nat := none
  startAt : Option Nat := none
  startDrains : Bool := false
  armAt : Option Nat := none
  pauseAt : Option Nat := none
  resumeAt : Option Nat := none
  pendCast : Option PendCast := none
  castGtc : Option (Nat × CastCause) := none
  pendFatal : Option PendCast := none
  faulted : Bool := false
  jobSeed : W64 := 0
  reqSeed : W64 := 0
  reqAt : Nat := 0
  reqGtc : Nat := 0
  runs : Nat := 0
  maq : Option Maquette := none
  binding : List (Nat × Nat) := []
  bindOk : Bool := false
  flags : Tbl Flag := []
  updates : List FlagUpd := []
  sfCount : Nat := 0
  sfFirst : Nat := 0
  sfBands : List Nat := []
  sfaults : List (SFault × Nat) := []
  taps : List ArmedTap := []
  dump : List DumpJob := []
  doneJcc : Nat := 0
  captureAt : Option (Nat × Nat) := none
  cut : Option Cut := none
  captured : Option (Nat × List (List Byte)) := none
  endJcc : Option Nat := none
  ctxMap : List (Nat × Nat) := []
  digests : Nat := 0
  deriving DecidableEq, Repr

/-- The patina block (R360-R364). `base` is the live memory and link counts at the previous lifetime commit; the GTC spent in ACTIVE
towards the next full hour is `activeNs` and, while ACTIVE, what has passed since `activeFrom` (R364). -/
structure Patina where
  live : PatLive := {}
  sample : PatLive := {}
  sampleGtc : Nat := 0
  seq : Nat := 0
  base : PatLive := {}
  activeNs : Nat := 0
  activeFrom : Option Nat := none
  deriving DecidableEq, Repr

end Sys2Proof.Machine
end

