-- ==== Sys2Proof/Machine/IslandState.lean ====
section
/-! DEFINITION. The state of the static island and of the Armature cores: cells, rings, seam, queues, the head
(chapters 03-06, 08, 10, 18 of spec/). -/

namespace Sys2Proof.Machine

/-- Byte memory read and written in one cycle (R180): `mem` is the contents after every write so far (bytes not listed
are zero), and `old` holds, for the writes of the last cycles, newest first, the cycle, the address and the byte that
stood there before. -/
structure Store where
  mem : List Host.Cell := []
  old : List (Nat × Nat × Byte) := []
  deriving DecidableEq, Repr

/-- A register used from the cycle after its write (R162, R416): `new` holds from the cycle after `cyc`. -/
structure Delayed (α : Type) where
  old : α
  new : α
  cyc : Nat
  deriving DecidableEq, Repr

/-- A lane on the ring or in a head stage (R55-R62). `origin` is the physical position at which its AGE is 0, `birth`
the JCC of that cycle, modulo 2^48; `placed` is false in the inbound alignment stage; `emitted` marks a cell's lane. -/
structure Lane where
  ccw : Bool
  idx : Nat
  origin : Nat
  birth : Nat
  life : Nat
  dest : Nat
  tag : Nat
  check : BitVec 16
  data : List Byte
  placed : Bool
  emitted : Bool
  deriving DecidableEq, Repr

/-- A seam word in flight (R66): its lanes by index, TAG, CHECK of each lane and the JCC of its placement. -/
structure SeamWord where
  src : Nat
  dst : Nat
  track : Nat
  placedAt : Nat
  tag : Nat
  lanes : List (Nat × List Byte × BitVec 16)
  deriving DecidableEq, Repr

/-- A queue or cell FIFO entry (R164): slot tag, sequence number, MCC of the push, the descriptor, and in a cell FIFO the JCC
of its delivery. -/
structure QEntry where
  tag : Nat
  seq : Nat
  at_ : Nat
  body : QBody
  got : Option Nat := none
  deriving DecidableEq, Repr

/-- A released descriptor on its way to the cell FIFOs (Table 8.1), with the JCC of its delivery. -/
structure Delivery where
  at_ : Nat
  vector : Bool
  entry : QEntry
  deriving DecidableEq, Repr

/-- Armature core states (Table 8.3). -/
inductive ArmState where
  | halted | running | stallQueue | waitFlag | done | fault
  deriving DecidableEq, Repr

/-- An Armature core as it shows (R168-R175): the queue it stalls on with the entry it pushes, the flag it waits on, the
cycle of JCC from which its watchdog counts, whether a wait has been satisfied, and the MCC of that. -/
structure Arm where
  st : ArmState := .halted
  queue : QName := .array
  push : Option (Nat × QBody) := none
  flag : Nat := 0
  eq : Bool := false
  want : W32 := 0
  since : Nat := 0
  satisfied : Bool := false
  satisfiedAt : Nat := 0
  haltedFrom : ArmState := .halted
  deriving DecidableEq, Repr

/-- A band port word (R199): TAG, the lanes it carries as a mask, and 512 bytes. -/
structure PortWord where
  tag : Nat
  mask : Nat
  data : List Byte
  deriving DecidableEq, Repr

/-- A run that is current (R200): stream, words left, and the JCC from which words may be popped or accepted. -/
structure CurRun where
  stream : Nat
  left : Nat
  from_ : Nat
  deriving DecidableEq, Repr

/-- A digest tap that covers lanes (R369, R371): statistics so far. Sums of the integer formats are exact, those of the
floating formats FP64 patterns. -/
structure Tap where
  tap : Nat
  fmt : Elem
  left : Nat
  count : Nat
  nan : Nat
  posInf : Nat
  negInf : Nat
  finite : Nat
  minV : Option W32
  maxV : Option W32
  sumI : Int
  sumF : W64
  crc : W32
  doneAt : Option Nat
  deriving DecidableEq, Repr

/-- A resident block (R80, R89): 256 element patterns, W[k][n] at 16 k + n after orientation, scales, format. -/
structure Block where
  fmt : OpFmt
  transposed : Bool
  elems : List Nat
  scales : List Nat
  deriving DecidableEq, Repr

/-- A row that has begun to enter one array (R84, R92): its array, step and half, the resident block it meets, the
generator's state when it was advanced, and its bytes and scale byte once it has `ended`. `row` is its number, `at_` the JCC of its entry. -/
structure RowPart where
  array : Nat
  step : Nat
  half : Nat
  row : Nat
  blk : Option Block
  gen : Option W64
  ok : Bool
  xs : List Nat
  sx : Nat
  ended : Bool := false
  at_ : Nat := 0
  deriving DecidableEq, Repr

/-- An array pass in progress (R83-R86): the JCC `e0` at which its first row enters, the entry cycles done, the mode it
runs in, the latency P, the logical position that resolves its fields, and rows whose step is not yet complete. -/
structure Pass where
  d : PassDesc
  e0 : Nat
  n : Nat
  wide : Bool
  lat : Nat
  performed : Bool
  q : Nat
  part : List RowPart
  deriving DecidableEq, Repr

/-- A step in flight in one array (R86, R94): the JCC of its partial-sum read and output write, its addresses, its rows,
the generator state that rounds it, and the partial-sum word once read. `ok` is false once a read was lost. -/
structure Step where
  array : Nat
  readAt : Nat
  writeAt : Nat
  inAddr : Option Nat
  outAddr : Nat
  acc : Acc
  xf : OpFmt
  rows : List RowPart
  gen : W64
  psum : Option (List Byte)
  ok : Bool
  performed : Bool
  deriving DecidableEq, Repr

/-- A shadow (R87-R89): the format and orientation that chunk 0 fixed, and the bytes of each
chunk that is available. -/
structure Shadow where
  fmt : OpFmt
  transposed : Bool
  chunks : List (Nat × List Byte)
  deriving DecidableEq, Repr

/-- A chunk on its way to the shadows (Table 4.6): the JCC from which it is available, the array it names, its number,
orientation, format, bytes, and the tile register or the bank it was read from. -/
structure PendChunk where
  at_ : Nat
  array : Option Nat
  chunk : Nat
  transposed : Bool
  fmt : OpFmt
  data : List Byte
  tile : Option Nat := none
  bank : Option Nat := none
  deriving DecidableEq, Repr

/-- A write of a tile register (R90, R115): its cycle, register, path (0 for a lane of the blocked layout, else one more than
the row), the addresses it covers, whether it was performed, and whether it is that of a predicated-off operation, which
asks for its port alone (R163). -/
structure TileWrite where
  cyc : Nat
  reg : Nat
  path : Nat
  addrs : List Nat
  done : Bool
  ghost : Bool := false
  deriving DecidableEq, Repr

/-- 64 bytes of a row source (R85): the pass by the JCC of its first entry, the source (0, 1; 4 for row scales) and the
access. A lane captured as a row stream waits with the JCC of its capture, source 2 for CW and 3 for CCW. -/
structure RowData where
  pass : Nat
  src : Nat
  k : Nat
  data : List Byte
  deriving DecidableEq, Repr

/-- A request for a scratchpad bank port in a cycle (R178, R179), its order among those of one code, and whether the port
was granted to it. -/
structure BankReq where
  cyc : Nat
  write : Bool
  code : Nat
  bank : Nat
  order : Nat := 0
  held : Bool := true
  deriving DecidableEq, Repr

/-- A lane that a cell has emitted (R57), by its slot, and the tile register or the bank its data was read from. -/
structure EmitNote where
  cyc : Nat
  ccw : Bool
  idx : Nat
  tile : Option Nat
  bank : Option Nat
  deriving DecidableEq, Repr

/-- A vector result on its way to the sink (R128): the JCC of its write, the bytes with their byte enables as (address,
byte) pairs, the banks it needs, the values a counter receives, and words for ring emission. `tile` writes go to the
tile registers; `src` is the start of the descriptor that the word belongs to, and `sub` is 1 for the scale bytes of MX blocks, whose
write comes after that of a word in its cycle. -/
structure VecOut where
  at_ : Nat
  tile : Bool
  bytes : List (Nat × Byte)
  banks : List Nat
  ctr : Option (Nat × W32)
  ring : List (List Byte)
  flags : Nat
  last : Bool
  performed : Bool
  src : Nat := 0
  sub : Nat := 0
  deriving DecidableEq, Repr

/-- The operands of one vector word as they were read: its number, whether a read was lost, the lanes of A, B and C, the
mask plane's bits, and the generator state that rounds it. An expand stream's word waits one cycle for its own read (R124). -/
structure VecWord where
  w : Nat
  lost : Bool
  a : List W32
  b : List W32
  c : List W32
  plane : Nat
  gen : W64
  deriving DecidableEq, Repr

/-- The vector engine's active descriptor (R118-R130): issue cycle, words issued, W and L, broadcast words read at issue,
reduction state (values, element numbers, words combined, whether anything was active), compressed elements, the
expand position and the flags gathered. -/
structure VecRun where
  d : VecDesc
  start : Nat
  issued : Nat
  words : Nat
  lat : Nat
  performed : Bool
  q : Nat
  bcast : List (Option (List W32))
  acc : List (Option (W32 × Nat))
  active : List Bool
  run : List (List (Option W32))
  accN : Nat
  lanesOut : List (W32 × Nat)
  results : Nat
  packed : List (List Byte)
  packedN : Nat
  packedWords : Nat
  taken : Nat
  mxBuf : List (List (Option W32) × List Bool × W64)
  held : Option VecWord
  flags : Nat
  deriving DecidableEq, Repr

/-- A cell (Table 3.1, R416). Tile register r occupies bytes 4096 r on of `tiles`; `spErr` holds the stored symbols in
error of the scratchpad (R197), keyed by bank word times 80 plus symbol. `reqs`, `tileReads` and `tileWrites` are the
port requests of the present and the last cycles, `emits` its emissions; `rowsOf` names by its first entry the pass whose
rows `rowsDone` counts; `early` holds, by JCC, the seed operation (false) and the swap (true) that a row or a word of their
cycle has brought forward. -/
structure Cell where
  sp : Store := {}
  spErr : Tbl Byte := []
  tiles : Store := {}
  ct : Tbl (Delayed W32) := []
  cmp : Tbl (Delayed CmpCfg) := []
  laneCw : Delayed Nat := ⟨0, 0, 0⟩
  laneCcw : Delayed Nat := ⟨0, 0, 0⟩
  wide : Bool := false
  acc16 : Bool := false
  resident : Tbl (Option Block) := []
  shadow : Tbl (Option Shadow) := []
  gens : Tbl W64 := []
  passes : List Pass := []
  chunkQ : List PendChunk := []
  rowData : List RowData := []
  steps : List Step := []
  rowsDone : Nat := 0
  rowsOf : Nat := 0
  arrNum : W32 := 0
  arrayFifo : List QEntry := []
  vecFifo : List QEntry := []
  vec : Option VecRun := none
  vecOld : Option VecRun := none
  ctrSink : List (Nat × Nat) := []
  vecOuts : List VecOut := []
  vecStatus : List (Nat × Nat × Option W32) := []
  descs : Nat := 0
  vecFlags : Nat := 0
  staged : List (List Byte) := []
  reqs : List BankReq := []
  tileReads : List (Nat × Nat) := []
  tileWrites : List TileWrite := []
  emits : List EmitNote := []
  early : List (Nat × Bool) := []
  bundle : Option (Nat × Nat × Nat) := none
  program : List Byte := []
  deriving DecidableEq, Repr

/-- A record of a released lane that MERGE takes in cycle `at_` of JCC, for a row (R131, R138). -/
structure LanePair where
  at_ : Nat
  row : Nat
  m : W32
  s : W32
  deriving DecidableEq, Repr

/-- The row engine's active descriptor (R131-R142): the JCC of its consumption, groups done, the JCC of the last one, the flags
gathered, its drain point once it is known, the cycles done on the side memory, and the records of released lanes that wait
for their cycle. -/
structure RowRun where
  d : RowDesc
  start : Nat
  count : Nat
  lastAt : Nat
  flags : Nat
  drainAt : Option Nat
  side : Nat
  laneQ : List LanePair
  deriving DecidableEq, Repr

/-- A result lane of the row engine: the JCC in which it is ready, its place and DEST by the descriptor's OUT, data. -/
structure RowLane where
  at_ : Nat
  idx : Nat
  ccw : Bool
  laps : Nat
  dest : Nat
  data : List Byte
  deriving DecidableEq, Repr

/-- A pop of the inbound buffer: its JCC, stream, the run as it stood before when a word was taken, and whether HEAD_OVERRUN
has been raised in the cycle (R65). -/
structure PopNote where
  cyc : Nat
  stream : Nat
  run : Option CurRun
  ovf : Bool
  deriving DecidableEq, Repr

/-- A band with its head, queues and Armature core (Tables 3.6, 6.14, 8.7, 9.8, R65, R164, R199). `outAt` is the JCC of the
latest band-port release of lanes. `popped`, `seamGot`,
`seamOut` are the words the head holds in the JCC named with them; `rowOut` the row engine's result lanes; `used` the pop of a cycle.
`armPc` is 0 while the Armature core has not left reset, else one more than the MCC at which it last stopped or started; `armImem`
and `armData` are its instruction and data memory as BIND or the last band reset left them (R168, R169). -/
structure Band where
  bound : Bool := false
  lband : Nat := 0
  rot : Nat := 0
  idle : List Nat := []
  perCell : Bool := false
  loaded : Bool := false
  seqState : Nat := 0
  seqEnd : Option Nat := none
  arrCompat : Bool := false
  vecCompat : Bool := false
  rowCompat : Bool := false
  digCompat : Bool := false
  lost : Bool := false
  persistPending : Bool := false
  fenceBusy : Bool := false
  lanes : List Lane := []
  qArray : List QEntry := []
  qVector : List QEntry := []
  qRow : List QEntry := []
  qPort : List QEntry := []
  pushes : Tbl Nat := []
  deliveries : List Delivery := []
  arm : Arm := {}
  armPc : Nat := 0
  seqImg : List Byte := []
  armImem : List Byte := []
  armData : List Byte := []
  inStreams : Tbl (List PortWord) := []
  outStreams : Tbl (List PortWord) := []
  allocIn : Tbl Nat := []
  allocOut : Tbl Nat := []
  inRuns : Tbl (Option CurRun) := []
  outRun : Option CurRun := none
  popped : Option (Nat × PortWord) := none
  seamGot : Option (Nat × SeamWord) := none
  seamOut : Option (Nat × List (Nat × List Byte × BitVec 16)) := none
  seamQueue : List SeamWord := []
  used : Option PopNote := none
  tap : Option Tap := none
  tapSeq : Tbl Nat := []
  outAt : Option Nat := none
  records : Tbl W64 := []
  row : Option RowRun := none
  rowOut : List RowLane := []
  rowIn : List (Nat × List (Nat × List Byte)) := []
  rowStatus : List (Nat × Nat × Nat × W32) := []
  rowFlags : Nat := 0
  rowDescs : Nat := 0
  rowEmpty : Nat := 0
  rowInf : Nat := 0
  rowNan : Nat := 0
  ringChecks : Nat := 0
  deriving DecidableEq, Repr

end Sys2Proof.Machine
end

