-- ==== Sys2Proof/Machine/RowRecords.lean ====
section
/-! DEFINITION. The records of the row engine's side memory, and the operations that take them one by one (R131, R133, R135, R136,
R138, R142 of spec/). Records stand in `records` by index, m or mean in bits 31:0. -/

namespace Sys2Proof.Machine

/-- What a record counts: soft maximum, layer norm or RMS norm. -/
inductive RowKind where
  | softmax | lnorm | rms
  deriving DecidableEq, Repr

/-- How an operation is carried out: by groups of 32, by groups of 16 of two streams, by lanes of records, or by records
of the side memory. -/
inductive RowForm where
  | stat (k : RowKind)
  | apply (norm : Bool)
  | bdot (k : RowKind)
  | bemit (k : RowKind)
  | final (k : RowKind)
  | lse
  | merge (k : Option RowKind)
  | spill
  | fill
  deriving DecidableEq, Repr

/-- The form of an operation (Table 6.7). -/
def rowForm : RowOp → RowForm
  | .statSoftmax => .stat .softmax
  | .statLnorm => .stat .lnorm
  | .statRms => .stat .rms
  | .finalSoftmax => .final .softmax
  | .finalLnorm => .final .lnorm
  | .finalRms => .final .rms
  | .applySoftmax => .apply false
  | .applyNorm => .apply true
  | .lse => .lse
  | .bdotSoftmax => .bdot .softmax
  | .bdotLnorm => .bdot .lnorm
  | .bdotRms => .bdot .rms
  | .bemitSoftmax => .bemit .softmax
  | .bemitLnorm => .bemit .lnorm
  | .bemitRms => .bemit .rms
  | .mergeSoftmax => .merge (some .softmax)
  | .mergeLnorm => .merge (some .lnorm)
  | .mergeRms => .merge (some .rms)
  | .mergeBackward => .merge none
  | .spill => .spill
  | .fill => .fill

/-- A record as its two words, and back. -/
def recOf (bd : Band) (i : Nat) : W32 × W32 :=
  let r : W64 := tget 0 bd.records (i % 131072)
  (BitVec.setWidth 32 r, BitVec.setWidth 32 (r >>> (32 : Nat)))
def recBits (r : W32 × W32) : W64 := BitVec.setWidth 64 r.1 ||| (BitVec.setWidth 64 r.2 <<< (32 : Nat))
def putRec (i : Nat) (r : W32 × W32) (bd : Band) : Band :=
  { bd with records := tset 0 bd.records (i % 131072) (recBits r) }

/-- +infinity and −infinity. -/
def pInf : W32 := 0x7F800000
def nInf : W32 := 0xFF800000
def one32 : W32 := 0x3F800000

/-- Initial record at FIRST (Table 6.9). -/
def recInit : RowKind → W32 × W32
  | .softmax => (nInf, 0)
  | _ => (0, 0)

/-- A count as FP32. -/
def natFp (n : Nat) : W32 := intToFp (BitVec.ofNat 32 n)

/-- Apply a flagged binary operation to flagged values. -/
def fl2 (f : W32 → W32 → W32 × Nat) (a b : W32 × Nat) : W32 × Nat :=
  let r := f a.1 b.1
  (r.1, r.2 ||| a.2 ||| b.2)

/-- A value without flags. -/
def nf (x : W32) : W32 × Nat := (x, 0)

/-- Union of the flags of a list of flagged values. -/
def flagsOf (l : List (W32 × Nat)) : Nat := l.foldl (fun a x => a ||| x.2) 0

/-- The pairwise update of R135 from a partial mean and sum of squared deviations. -/
def lnormMerge (r : W32 × W32) (n ng : Nat) (mg m2g : W32 × Nat) : (W32 × W32) × Nat :=
  let nn := nf (natFp n)
  let gg := nf (natFp ng)
  let n2 := nf (natFp (n + ng))
  let d := fl2 sub32 mg (nf r.1)
  let mean := fl2 add32 (nf r.1) (fl2 mul32 d (fl2 div32 gg n2))
  let m2 := fl2 add32 (fl2 add32 (nf r.2) m2g) (fl2 mul32 (fl2 mul32 d d) (fl2 div32 (fl2 mul32 nn gg) n2))
  ((mean.1, m2.1), mean.2 ||| m2.2)

/-- Two marks beside the flags of Table 6.5: rstd has become infinite, and an output has overflowed on narrowing (Table 6.14). -/
def fRstd : Nat := 512
def fNarrow : Nat := 1024

/-- Flags of a row in a special state (R133, Table 6.10); none for a plain row. -/
def rowState (norm : Bool) (r : W32 × W32) : Nat :=
  if norm then (if isNan32 r.1 then (if isNan32 r.2 then fNanRow else fInfRow) else 0)
  else if isNan32 r.1 then fNanRow
  else if r.1 = pInf then fInfRow
  else if r.1 = nInf then fEmpty
  else 0

/-- FINAL on one record (R135), with its flags. -/
def finalRec (k : RowKind) (nTotal : Nat) (eps : W32) (r : W32 × W32) : (W32 × W32) × Nat :=
  match k with
  | .softmax => (r, rowState false r)
  | _ =>
    let st := rowState true r
    if st ≠ 0 then (r, st)
    else
      let a := fl2 add32 (fl2 div32 (nf r.2) (nf (natFp nTotal))) (nf eps)
      let mean := if k = .rms then 0 else r.1
      if a.1 = 0 then ((mean, pInf), fDivZero ||| fRstd ||| a.2)
      else
        let q := rsqrt32 a.1
        ((mean, q.1), q.2 ||| a.2)

/-- MERGE of two records (R138, R156). -/
def mergeRec (k : Option RowKind) (na nb : Nat) (a b : W32 × W32) : (W32 × W32) × Nat :=
  match k with
  | none =>
    let x := add32 a.1 b.1
    let y := add32 a.2 b.2
    ((x.1, y.1), x.2 ||| y.2)
  | some .softmax =>
    if isNan32 a.1 || isNan32 b.1 then ((nan32, nan32), 0)
    else if a.1 = pInf || b.1 = pInf then
      let s := if a.1 = pInf then (if b.1 = pInf then (add32 a.2 b.2).1 else a.2) else b.2
      ((pInf, s), 0)
    else
      let m := (max32 a.1 b.1).1
      if m = nInf then ((nInf, 0), 0)
      else
        let t := fun (r : W32 × W32) => mul32 r.2 (expf false (sub32 r.1 m).1).1
        let s := fl2 add32 (t a) (t b)
        ((m, s.1), s.2)
  | some k =>
    if isNan32 a.1 then (a, 0)
    else if isNan32 b.1 then (b, 0)
    else match k with
      | .rms => let s := add32 a.2 b.2; ((a.1, s.1), s.2)
      | _ => lnormMerge a na nb (nf b.1) (nf b.2)

/-- Flags of the status word of a row engine descriptor (Table 6.5), and those that ROW_STS takes of them (Table 6.14). -/
def rowWordMask : Nat := fEmpty ||| fInfRow ||| fNanRow ||| fNanIn ||| fInvalid ||| fDivZero ||| fOverflow
def rowStsOf (f : Nat) : Nat :=
  (f &&& (fEmpty ||| fInfRow ||| fNanRow ||| fInvalid)) ||| (if f &&& fRstd ≠ 0 then fDivZero else 0) |||
    (if f &&& fNarrow ≠ 0 then fOverflow else 0)

/-- Note flags of the active descriptor, in the band too. -/
def rowNote (flags : Nat) (bd : Band) : Band :=
  { bd with
    rowFlags := bd.rowFlags ||| rowStsOf flags
    row := bd.row.map (fun r => { r with flags := r.flags ||| (flags &&& rowWordMask) }) }

/-- Count a row in a special state (R142). -/
def rowCount (st : Nat) (bd : Band) : Band :=
  let bd := if st &&& fEmpty ≠ 0 then { bd with rowEmpty := satAdd 0xFFFF bd.rowEmpty 1 } else bd
  let bd := if st &&& fInfRow ≠ 0 then { bd with rowInf := satAdd 0xFFFF bd.rowInf 1 } else bd
  if st &&& fNanRow ≠ 0 then { bd with rowNan := satAdd 0xFFFF bd.rowNan 1 } else bd

/-- Read and finalise row i (R135). DEDUCED (log entry 24): N_total, OFF + N of the last descriptor, is that of the FINAL descriptor. -/
def finalOne (k : RowKind) (d : RowDesc) (bd : Band) (i : Nat) : Band :=
  let r := finalRec k (d.off + d.n) d.eps (recOf bd (d.recIdx + i))
  rowNote r.2 (rowCount (r.2 &&& (fEmpty ||| fInfRow ||| fNanRow)) (putRec (d.recIdx + i) r.1 bd))

/-- Merge row i with record B (R138, R156). DEDUCED (log entry 24): record A of every kind is number REC + i; a MERGE of a backward
kind does not use BREC. -/
def mergeOne (k : Option RowKind) (d : RowDesc) (bOf : Nat → W32 × W32) (bd : Band) (i : Nat) : Band :=
  let r := mergeRec k d.na d.nb (recOf bd (d.recIdx + i)) (bOf i)
  rowNote r.2 (putRec (d.recIdx + i) r.1 bd)

/-- Log-sum-exp of a record, with its flags (R136, Table 6.10). -/
def lseOf (r : W32 × W32) : W32 × Nat :=
  let st := rowState false r
  if st = fNanRow then (nan32, st)
  else if st = fInfRow then (pInf, st)
  else if st = fEmpty then (nInf, st)
  else fl2 add32 (nf r.1) (logf false r.2)

/-- Cycles that an operation on the side memory takes (Table 6.7). -/
def rowCycles (d : RowDesc) : Nat :=
  match rowForm d.op with
  | .lse => (d.rows + 31) / 32
  | .spill => (d.rows + 15) / 16
  | _ => d.rows

/-- Cycle `i` of an operation on the side memory: one record of FINAL, one pair of MERGE, the flags of 32 records of LSE
(R131, R135, R138). DESIGN CHOICE (log entry 24): record B of row i is number RECB + i of the side memory where the descriptor names it;
Table 6.8 has no field for it. -/
def sideOne (d : RowDesc) (bd : Band) (i : Nat) : Band :=
  match rowForm d.op, d.recB with
  | .final k, _ => finalOne k d bd i
  | .merge k, some b => mergeOne k d (fun i => recOf bd (b + i)) bd i
  | .lse, _ => rowNote (flagsOf (((List.range 32).filter (fun n => decide (32 * i + n < d.rows))).map (fun n =>
      lseOf (recOf bd (d.recIdx + 32 * i + n))))) bd
  | _, _ => bd

/-- Cycles of an operation on the side memory that are over after `n` cycles of JCC: the first falls in the cycle after the
consumption (Table 6.11). -/
def sideDue (d : RowDesc) (n : Nat) : Nat :=
  match rowForm d.op, d.recB with
  | .final _, _ | .lse, _ | .merge _, some _ => min n (rowCycles d)
  | _, _ => 0

/-- The row engine works on up to cycle `age` after the consumption of its descriptor: its records one by one, and the pairs of
released lanes whose cycle has come (Table 6.7). -/
def sideStep (j age : Nat) (bd : Band) : Band :=
  match bd.row with
  | none => bd
  | some r =>
    let n := sideDue r.d age
    let now := fun (x : LanePair) => decide ((j + 2 ^ 48 - x.at_ % 2 ^ 48) % 2 ^ 48 < 2 ^ 47)
    let due := r.laneQ.filter now
    if n ≤ r.side ∧ due = [] then bd
    else
      let bd := (List.range (n - r.side)).foldl (fun bd i => sideOne r.d bd (r.side + i)) bd
      let bd := match rowForm r.d.op with
        | .merge k => due.foldl (fun bd (x : LanePair) => mergeOne k r.d (fun _ => (x.m, x.s)) bd x.row) bd
        | _ => bd
      { bd with row := bd.row.map (fun r => { r with side := max n r.side, laneQ := r.laneQ.filter (fun x => !now x) }) }

end Sys2Proof.Machine
end

