-- ==== Sys2Proof/Machine/RimState.lean ====
section
/-! DEFINITION. The state of the plinth dies, the memory devices, the links and the reduction channels (chapters 10-13
of spec/). -/

namespace Sys2Proof.Machine

/-- A memory device: S0-S15 are units 0-15, D0-D11 units 16-27 (Table 11.9, R230). `rated` is the capacity in GiB that the
device has when it is online; `hour` the GTC of its corrected errors of the last hour; `lastCe` the whole second of GTC of
its latest corrected record. -/
structure MemDev where
  st : Nat := 0
  tempHigh : Bool := false
  rate : Nat := 0
  cap : Nat := 0
  rated : Nat := 0
  ceWarn : Bool := false
  hour : List Nat := []
  lastCe : Option Nat := none
  refreshGtc : Nat := 0
  scrubAt : Nat := 0
  deriving DecidableEq, Repr

/-- A bound region (R222-R228). `members` are the units it lies on, `start` its device-relative start in bytes; an import
names the region it is attached to. `copied` counts the 64 KiB units of a copy in progress to `target`; `chansDone` the
steps that each channel has written and that the update count does not show yet, `deadSteps` those of them, numbered from 1, that
the count never shows because a channel failed in them (R268, R269). -/
structure Region where
  size : Nat := 0
  tier : Nat := 0
  spread : Bool := false
  affinity : Nat := 0xFF
  pref : Nat := 0
  pinFlag : Bool := false
  param : Bool := false
  imported : Bool := false
  attached : Option (Nat × Nat) := none
  bound : Bool := false
  members : List Nat := []
  start : Nat := 0
  count : Nat := 0
  failed : Bool := false
  pinned : Bool := false
  lastRead : Nat := 0
  readGtc : Nat := 0
  copied : Nat := 0
  target : Option (List Nat × Nat) := none
  chansDone : Tbl Nat := []
  deadSteps : List Nat := []
  deriving DecidableEq, Repr

/-- States of a stream context as the model stores them; the waits are computed (Table 10.8). -/
inductive CtxSt where
  | free | allocated | running | done | fault | draining
  deriving DecidableEq, Repr

/-- A stream context (R201, Table 10.2). `img` is its 64 bytes with GEN and endpoints written; `bands` its target bands;
`next` the next word to request, `words` the number of the next word to deliver or take, `moved` the words delivered or stored,
`passed` one past the word whose wait has ended, `flight` the words requested; `parked` those that wait
for RESUME (R375). A multicast transfer that is held has its first word, the words, the GTC at which its data was in the
engine, and the endpoints that granted (R211). `runAt` is the first word of the merged transfer that a STORE context makes,
`runLen` the words stored of it (R202). `addressed` are the memory units the context has addressed, `tokens` the drain tokens out
(R206). After its release a context keeps its bytes and its count, which the registers show (R215). -/
structure Ctx where
  st : CtxSt := .free
  part : Nat := 0
  gen : Nat := 0
  img : List Byte := []
  lband : Nat := 0
  bands : List Nat := []
  next : Nat := 0
  words : Nat := 0
  flight : List Nat := []
  parked : List PortWord := []
  held : Option (Nat × List PortWord × Nat) := none
  grants : List Nat := []
  passed : Nat := 0
  runAt : Nat := 0
  runLen : Nat := 0
  moved : Nat := 0
  addressed : List Nat := []
  tokens : Nat := 0
  deriving DecidableEq, Repr

/-- A copy of a digest record that is pending: where it goes, and its 64 bytes (R373). -/
structure TapCopy where
  loc : Nat
  addr : Nat
  data : List Byte
  deriving DecidableEq, Repr

/-- A plinth die (Tables 10.8, 11.9). `last` is the context index that each engine served last. -/
structure Plinth where
  mcastTo : Nat := 100
  stale : Nat := 0
  sel : Nat := 0
  ctxs : Tbl Ctx := []
  last : Tbl Nat := []
  autoMigrate : Bool := true
  coldRuns : Nat := 4
  lowWater : Nat := 10
  migMax : Nat := 1
  periodH : Nat := 24
  passes : Nat := 0
  ceLimit : W32 := 1000
  copies : List TapCopy := []
  deriving DecidableEq, Repr

/-- A CTRL message that waits for a frame (Table 12.2, R238): its counts and stamps are those of the moment it goes, but for
the arrival stamp t2 of a response; `frac` is the departure's part of a nanosecond in 1/16 ns (R249). -/
inductive Ctrl where
  | ack
  | credit (cls : Nat)
  | timeReq (frac : Nat)
  | timeResp (t2 frac : Nat)
  | root
  deriving DecidableEq, Repr

/-- Link states (Table 12.4). -/
inductive LinkSt where
  | down | optical | equalise | fecLock | param | active | retrain | drained | recal | failed | noLight
  deriving DecidableEq, Repr

/-- A link port (Tables 12.4, 12.8, 12.9). `mode` is the training mode, 0 live, 1 seeded, 2 cold; `phase` the state that
RETRAIN and RECAL pass through. Counts by credit class are in tables; `unacked` lists sequenced frames from the oldest;
`replay` those still to be sent again; `drain` is set while the port drains, `drainOk` once both ends agree (R244). `row` counts entries into
RETRAIN in a row; `slot*` is the transmit slot of R238, `slotOff` the offset that its transfer sends next; `ctrl` are the CTRL
messages that wait and `sinceCtrl` the frames sent since the last CTRL frame; `peer*` what the partner's TRAIN frame gave;
`msgSeq` is the SEQ of the MSG frame accepted last; `errorGtc` dates the latest ERROR frame queued, `errorSent` the latest one sent. -/
structure Link where
  st : LinkSt := .down
  mode : Nat := 2
  phase : Nat := 0
  row : Nat := 0
  calLive : Bool := false
  recalAdvise : Bool := false
  parent : Bool := false
  retrains : Nat := 0
  retryTo : Nat := 0x28
  retryMax : Nat := 8
  recalSer : Nat := 5
  peerId : Nat := 0
  peerLink : Nat := 0
  replays : Nat := 0
  fecUe : Nat := 0
  fecCe : Nat := 0
  viol : Nat := 0
  violLast : Nat := 0
  txSeq : Nat := 0
  rxSeq : Nat := 0
  queue : List Frame := []
  unacked : List (Nat × Frame) := []
  replay : List (Nat × Frame) := []
  stuck : Nat := 0
  progressGtc : Nat := 0
  nakSent : Bool := false
  nakDue : Bool := false
  granted : Tbl Nat := []
  sent : Tbl Nat := []
  given : Tbl Nat := []
  received : Tbl Nat := []
  root : Option (Nat × Nat × Nat) := none
  t1 : Nat := 0
  drain : Bool := false
  drainOk : Bool := false
  drainGtc : Nat := 0
  errorGtc : Option Nat := none
  errorSent : Option Nat := none
  slotCls : Nat := 0
  slotLeft : Nat := 0
  slotChan : Nat := 0
  slotOff : Nat := 0
  ctrl : List Ctrl := []
  sinceCtrl : Nat := 0
  accepted : Nat := 0
  acceptedFrom : Nat := 0
  credited : Tbl Nat := []
  creditFrom : Nat := 0
  peerCredits : List Nat := []
  peerSeq : Nat := 0
  msgSeq : Option Nat := none
  deriving DecidableEq, Repr

/-- A laser source module (R245, Table 12.9). -/
structure Laser where
  st : Nat := 0
  outPwr : BitVec 8 := 0
  deriving DecidableEq, Repr

/-- The fabric time of the module (Tables 12.7, 12.11). `offsets` are the latest exchanges with the parent, in 1/16 ns; `slew` the
nanoseconds still to be lengthened or shortened, and `slewAge` the time since the last one (R249). -/
structure Fabric where
  rootPrio : Nat := 1
  holdoverMs : Nat := 10
  parent : Option Nat := none
  hops : Nat := 0
  steps : Nat := 0
  offset : Int := 0
  rootId : Nat := 0
  rootPrioOf : Nat := 0
  offsets : List Int := []
  lostGtc : Nat := 0
  slew : Int := 0
  slewAge : Nat := 0
  deriving DecidableEq, Repr

/-- Channel states (Table 13.7). -/
inductive ChSt where
  | free | open_ | active | fault | draining
  deriving DecidableEq, Repr

/-- One RED or PARAM body not yet consumed: its number counted from CHANNEL_OPEN, bytes, GTC of acceptance. -/
structure RxBody where
  offset : Nat
  body : List Byte
  gtc : Nat
  deriving DecidableEq, Repr

/-- An edge of a channel at work (R256-R263): RED units waiting, how many have been accepted since CHANNEL_OPEN, the
NAN_REPORTs waiting and how many are to be dropped, and whether the drain token of the edge has come (R272). -/
structure EdgeQ where
  red : List RxBody := []
  next : Nat := 0
  reports : List (Bool × Nat × Nat) := []
  skip : Nat := 0
  drained : Bool := false
  deriving DecidableEq, Repr

/-- A reduction channel (Tables 13.7, 13.8, R254-R273). `edges` holds the CH_EDGE registers. All unit numbers below count
from CHANNEL_OPEN: `fold` is the next unit to fold, `waitFrom` the GTC at which its wait began, `localNext` the local
units handed over, `updated` the units that the optimiser has taken, `paramNext` the PARAM units received or made.
`switched` are the ranks that use their backup in this step; `reduced` the sums waiting for the update engine; `outQ` the
PARAM units not yet forwarded, `outFrom` the GTC at which the next transfer was complete, `outPart` the bytes of a unit in
the making; `returned` the PARAM units of the step already forwarded; `nanLow` the lowest local NaN source of the step, and
`repDue` those of finished steps with the edges whose reports are awaited; `owner` is CH_STS OWNER, set at CHANNEL_OPEN. -/
structure Chan where
  cfg : W32 := 0
  nextGen : Nat := 0
  units : Nat := 0
  shard : Nat := 0
  deadline : Nat := 0
  preg : Nat := 0
  pbase : Nat := 0
  mreg : Nat := 0
  sreg : Nat := 0
  mbase : Nat := 0
  sbase : Nat := 0
  opts : Tbl W32 := []
  edges : Tbl Nat := []
  st : ChSt := .free
  cause : Nat := 0
  gen : Nat := 0
  steps : Nat := 0
  nan : Nat := 0
  src : Option (Nat × Nat) := none
  switches : Nat := 0
  elems : Nat := 0
  stale : Nat := 0
  pw1 : W32 := 0
  pw2 : W32 := 0
  edgeQ : Tbl EdgeQ := []
  localQ : List RxBody := []
  localNext : Nat := 0
  nextShard : Nat := 0
  fold : Nat := 0
  waitFrom : Option Nat := none
  switched : List Nat := []
  reduced : List (Nat × List W32) := []
  updated : Nat := 0
  outQ : List RxBody := []
  outPart : List Byte := []
  outFrom : Option Nat := none
  paramNext : Nat := 0
  returned : Nat := 0
  nanLow : Option (Nat × Nat) := none
  repDue : List (Option (Nat × Nat) × List Nat) := []
  drainSent : Bool := false
  owner : Bool := false
  deriving DecidableEq, Repr

end Sys2Proof.Machine
end

