-- ==== Sys2Proof/Machine/State.lean ====
section
/-! DEFINITION. The machine state of the ZX4, its reasons to stop, and the state after power-on reset. -/

namespace Sys2Proof.Machine

/-- Reasons a step stops the machine. No meaning raises one: every violation the spec names is answered and recorded
(R392), and every error has a response of its own (R390). -/
inductive Fault where
  /-- Raised by no meaning; safe. -/
  | none
  deriving DecidableEq, Repr

/-- Reasons a step is refused. -/
inductive Refusal where
  /-- A command or event whose meaning is not in the model; raised by its arm of `exec`; safe, since the run stops. -/
  | notModelled (mnemonic : String)
  deriving DecidableEq, Repr

/-- The whole state. `pending` is the queue of commands that wait, oldest first; `out` what the module has sent out,
newest first; `free` the model's counter of free values. Bands, cells and partitions are indexed by their global
numbers; a region by 65,536 times its partition plus its handle, a memory device by its unit index (R230). `mem` is the
tier memory by device physical address, `memErr` its stored symbols in error (line number times 80 plus symbol), `poison`
the codewords marked POISON; `passQ` the moves that a migration pass has still to look at, each a rule of R227 and a region; `castSeen` the AT_GTC values acted on (R274). -/
structure State where
  pending : List Instr := []
  out : List Out := []
  free : Nat := 0
  ident : Ident := {}
  clk : Clock := {}
  log : ErrLog := {}
  rings : Tbl CmdRing := []
  mgmt : List MgmtCmd := []
  flights : List Flight := []
  mbox : Tbl Mailbox := []
  msix : Msix := {}
  pcie : Pcie := {}
  app : App := {}
  pwr : Power := {}
  flash : Flash := {}
  sec : Sec := {}
  board : Board := {}
  partMap : List Nat := [0, 0, 0, 0, 0, 0, 0, 0]
  parts : Tbl Part := []
  wdog : Tbl Nat := []
  bands : Tbl Band := []
  cells : Tbl Cell := []
  seam : List SeamWord := []
  fence : List Nat := []
  patina : Patina := {}
  mem : List Host.Cell := []
  memErr : Tbl Byte := []
  poison : Tbl Bool := []
  devs : Tbl MemDev := []
  plinths : Tbl Plinth := []
  regions : Tbl Region := []
  passQ : List (Nat × Nat) := []
  links : Tbl Link := []
  lasers : Tbl Laser := []
  fab : Fabric := {}
  chans : Tbl Chan := []
  redMcastTo : Nat := 100
  castSeen : List Nat := []
  deriving DecidableEq, Repr

/-- The module right after power-on reset (Table 16.7): AUX, nothing running, every register at its reset value. -/
def State.reset : State := {}

end Sys2Proof.Machine
end

