-- ==== Sys2Proof/Machine/Ops.lean ====
section
/-! DEFINITION. Operations that every family uses: time, interrupts, error records, faults and casts, bands and cells. -/

namespace Sys2Proof.Machine

/-- Send something out of the module. -/
def emit (o : Out) (s : State) : State := { s with out := o :: s.out }

/-- Take a free value: one that the spec leaves open. -/
def takeFree (s : State) : W64 × State := (Config.freeValue s.free, { s with free := s.free + 1 })

/-- `n` bytes that the spec leaves open. -/
def freeBytes : Nat → State → List Byte × State
  | 0, s => ([], s)
  | n + 1, s =>
    let (v, s) := takeFree s
    let (r, s) := freeBytes n s
    (BitVec.ofNat 8 v.toNat :: r, s)

/-- Tables of State. -/
def getPart (s : State) (p : Nat) : Part := tget {} s.parts p
def setPart (p : Nat) (v : Part) (s : State) : State := { s with parts := tset {} s.parts p v }
def modPart (p : Nat) (f : Part → Part) (s : State) : State := setPart p (f (getPart s p)) s
def getBand (s : State) (b : Nat) : Band := tget {} s.bands b
def setBand (b : Nat) (v : Band) (s : State) : State := { s with bands := tset {} s.bands b v }
def modBand (b : Nat) (f : Band → Band) (s : State) : State := setBand b (f (getBand s b)) s
def getCell (s : State) (c : Nat) : Cell := tget {} s.cells c
def setCell (c : Nat) (v : Cell) (s : State) : State := { s with cells := tset {} s.cells c v }
def modCell (c : Nat) (f : Cell → Cell) (s : State) : State := setCell c (f (getCell s c)) s

/-- The group of a global band (R25), and the partition that owns the band: 4 for none (Table 1.3). -/
def groupOf (b : Nat) : Nat := b / 16 * 4 + b % 16 / 4
def partOf (s : State) (b : Nat) : Nat := s.partMap.getD (groupOf b) 4

/-- The plinth die that serves a global band (R8). -/
def plinthOf (b : Nat) : Nat := b % 16 / 4

/-- The partition that owns a band, if any (R25). -/
def ownerOf (s : State) (b : Nat) : Option Nat := if partOf s b < 4 then some (partOf s b) else none

/-- The bands of a partition, and those that a maquette is bound to. -/
def bandsOf (s : State) (p : Nat) : List Nat := (List.range 32).filter (fun b => partOf s b = p)
def boundBands (s : State) (p : Nat) : List Nat := (bandsOf s p).filter (fun b => (getBand s b).bound)

/-- Age of something born at JCC `birth`, modulo 2^48, as a signed number (R56). -/
def ageAt (j birth : Nat) : Int := signed 48 (j + 2 ^ 48 - birth % 2 ^ 48)

/-- A patina counter moved on, modulo 2^64 (R360). -/
def cnt (v n : Nat) : Nat := (v + n) % 2 ^ 64

/-- Send a vector's message (R286). -/
def sendMsix (v : Nat) (s : State) : State :=
  emit (.msix v) { s with msix := { s.msix with
    vecs := tmod {} s.msix.vecs v (fun x => { x with pendingBit := false, merge := false, last := some s.clk.gtc }) } }

/-- Whether the function sends no request: it is in D3hot (R292), or Bus Master Enable of its Command register is 0 (PRESUMED, log
entry 47). -/
def quiet (s : State) : Bool := s.pcie.d3hot || !bitOf s.pcie.cmd 2

/-- Whether a vector's message has to wait: MSI-X is not enabled, the function or the vector is masked, or the function sends
nothing (R286, R292). -/
def msixHeld (s : State) (v : Nat) : Bool :=
  !s.msix.enable || s.msix.fnMask || (tget {} s.msix.vecs v).masked || quiet s

/-- What a request to host memory is to the outside. -/
def hostOutOf : HostSend → Out
  | .status p => .status p
  | .read e a n => .hostRead e a n
  | .write e a r bs => .hostWrite e a r bs

/-- The module sends a request to the host, or keeps it while it sends nothing (R292). -/
def emitHost (x : HostSend) (s : State) : State :=
  if quiet s then { s with pcie := { s.pcie with held := s.pcie.held ++ [x] } } else emit (hostOutOf x) s

/-- What waited goes out, in its order, once the function sends requests again (R292). -/
def flushHeld (s : State) : State :=
  if quiet s then s else s.pcie.held.foldl (fun t x => emit (hostOutOf x) t) { s with pcie := { s.pcie with held := [] } }

/-- An uncorrectable error of the Base Specification, by its bit in AER's registers: its status bit; Device Status, by its severity;
and an error message, unless it is masked, or neither Device Control nor SERR# Enable asks for one, or the function is in D3hot
(R277; PRESUMED, log entry 47). -/
def aerError (bit : Nat) (s : State) : State :=
  let p := s.pcie
  let fatal := bitOf p.aerSev bit
  let s := { s with pcie := { p with
    aerSts := p.aerSts ||| 2 ^ bit, devSts := p.devSts ||| (if fatal then 4 else 2) ||| (if bit = 20 then 8 else 0) } }
  if bitOf p.aerMask bit || p.d3hot || !(bitOf p.devCtl (if fatal then 2 else 1) || bitOf p.cmd 8) then s
  else emit (.errorMessage fatal) s

/-- A request of the host ends with Completer Abort or Unsupported Request, and AER shows it (R281). -/
def completerAbort (s : State) : State := emit .completerAbort (aerError 15 s)
def unsupportedRequest (s : State) : State := emit .unsupported (aerError 20 s)

/-- An event on a vector (R286, R292, R297): a message, a pending bit when masked, or a message due 1 µs after the
previous one; and the interrupt controller's source n + 1. -/
def signal (v : Nat) (s : State) : State :=
  let x := tget {} s.msix.vecs v
  let s := if v ≤ 90 then { s with msix := { s.msix with plic := tset false s.msix.plic (v + 1) true } } else s
  if msixHeld s v then
    { s with msix := { s.msix with vecs := tmod {} s.msix.vecs v (fun x => { x with pendingBit := true }) } }
  else match x.last with
    | some g => if s.clk.gtc < g + 1000 then
        { s with msix := { s.msix with vecs := tmod {} s.msix.vecs v (fun x => { x with merge := true }) } }
      else sendMsix v s
    | none => sendMsix v s

/-- A record's 16 context bytes from fields (offset, value), each in its place (R384). -/
def ctxOf (fs : List (Nat × Nat)) : List Byte := leBytes 16 (fs.foldl (fun a f => a + f.2 * 256 ^ f.1) 0)

/-- A record of the present moment. -/
def mkRec (s : State) (sev : Sev) (code : Nat) (unit part : Option Nat) (ctx : List (Nat × Nat)) : ErrRec :=
  { gtc := s.clk.gtc, sev := sev, code := code, unit := unit, part := part, time := s.clk.timeState, ctx := ctxOf ctx }

/-- Write a record into the log (R386): its slot, ERR_HEAD, overflow, ERR_FIRST, MOD_FATAL and the vectors (R379). -/
def writeRec (r : ErrRec) (s : State) : State :=
  let g := s.log
  let i := g.head
  let ovf := decide (tget {} g.slots (i % 4096) ≠ {}) && decide ((i + 2 ^ 32 - 4096 - g.ack) % 2 ^ 32 < 2 ^ 31)
  let fatal : Bool := r.sev = .jobFatal || r.sev = .moduleFatal
  let s := { s with log := { g with
    head := (i + 1) % 2 ^ 32
    slots := tset {} g.slots (i % 4096) r
    overflow := g.overflow || ovf
    lost := if ovf then satAdd 0xFFFFFFFF g.lost 1 else g.lost
    first := if fatal && !g.firstValid then i else g.first
    firstValid := g.firstValid || fatal
    modFatal := g.modFatal || decide (r.sev = .moduleFatal)
    modRec := if r.sev = .moduleFatal && !g.modFatal then i else g.modRec
    recent := if fatal then g.recent
      else (r.code, r.unit, r.gtc) :: g.recent.filter (fun x => !(x.1 == r.code && x.2.1 == r.unit)) } }
  let s := if r.sev = .corrected then s else signal 84 s
  if r.sev = .moduleFatal then signal 85 s else s

/-- Codes that R387 never suppresses, beside the fatal ones. -/
def neverSuppressed (code : Nat) : Bool := [0x0B01, 0x0A04, 0x030C, 0x0503, 0x0903].contains code

/-- Whether R387 suppresses a record. -/
def suppressedNow (r : ErrRec) (s : State) : Bool :=
  (r.sev = .corrected || r.sev = .deferred) && !neverSuppressed r.code &&
  s.log.recent.any (fun x => x.1 == r.code && x.2.1 == r.unit && decide (s.clk.gtc < x.2.2 + 1000000))

/-- Log a record, or count it as suppressed (R387); answers its index when it is written. -/
def logRec (r : ErrRec) (s : State) : State × Option Nat :=
  if suppressedNow r s then
    ({ s with log := { s.log with suppressed := satAdd 0xFFFF s.log.suppressed 1 } }, none)
  else (writeRec r s, some s.log.head)

/-- Log a deferred record. -/
def logDeferred (code : Nat) (unit part : Option Nat) (ctx : List (Nat × Nat)) (s : State) : State :=
  (logRec (mkRec s .deferred code unit part ctx) s).1

/-- Log a corrected record. -/
def logCorrected (code : Nat) (unit part : Option Nat) (ctx : List (Nat × Nat)) (s : State) : State :=
  (logRec (mkRec s .corrected code unit part ctx) s).1

/-- The smaller of two counts, where there are two. -/
def sooner (a b : Option Nat) : Option Nat :=
  match a, b with
  | some x, some y => some (min x y)
  | some x, none => some x
  | none, y => y

/-- Ask for a cast at a boundary (R50, R187, R380). A cast already due at that boundary or before takes FAULT_CAST and
the fault's cause; a later one moves forward. -/
def askCast (c : PendCast) (q : Part) : Part :=
  match q.pendCast with
  | none => { q with pendCast := some c }
  | some d =>
    let base := if c.fault && !d.fault then { c with atGtc := d.atGtc } else d
    { q with pendCast := some { base with at_ := sooner c.at_ d.at_, jcc := sooner c.jcc d.jcc, fault := c.fault || d.fault, wd := d.wd ++ c.wd } }

/-- The first hold boundary at least 40 cycles on (R187, R380). -/
def faultBoundary (s : State) : Nat := roundUp (s.clk.mcc + 40) 64

/-- The boundary of JCC at which the cast for an error at JCC `f` takes effect (R187). -/
def jccBoundary (f : Nat) : Nat := roundUp (f + 40) 64 % 2 ^ 48

/-- A job-fatal error against a partition (R380, R381): its record, and the cast; `jcc` is the JCC of an error that the island
detects, and there is none for one of the rim. -/
def jobFatal (p : Nat) (code : Nat) (unit : Option Nat) (ctx : List (Nat × Nat)) (cause : CastCause)
    (jcc : Option Nat) (s : State) : State :=
  let q := getPart s p
  let part := some p
  let second := { mkRec s .deferred code unit part ctx with secondary := true }
  match q.st with
  | .running | .paused =>
    if q.faulted || !q.sfaults.isEmpty then (logRec second s).1
    else
      let i := s.log.head
      let c : PendCast := {
        at_ := if jcc.isSome then none else some (faultBoundary s), jcc := jcc.map jccBoundary, cause := cause, fault := true, record := some i }
      let s := writeRec (mkRec s .jobFatal code unit part ctx) s
      modPart p (fun q => if q.st = .running then { askCast c q with faulted := true }
        else { q with pendFatal := some c, faulted := true }) s
  | .cast => (logRec second s).1
  | _ => (logRec (mkRec s .deferred code unit part ctx) s).1

/-- Whether a schedule fault comes before another one in the order of R188. -/
def SFault.before (f g : SFault) : Bool :=
  decide (ageAt g.jcc f.jcc > 0) || (f.jcc == g.jcc && (decide (f.band < g.band) ||
    (f.band == g.band && (decide (f.ppos < g.ppos) || (f.ppos == g.ppos && decide (f.code < g.code))))))

/-- The first schedule fault of a partition since START (R188). -/
def firstFault (q : Part) : Option SFault :=
  q.sfaults.foldl (fun (a : Option SFault) (x : SFault × Nat) => match a with
    | none => some x.1
    | some f => some (if x.1.before f then x.1 else f)) none

/-- The JCC of the cast that the schedule faults of a partition ask for (R187): the first hold boundary at least 40 cycles of
JCC after the first fault. -/
def schedBoundary (q : Part) : Option Nat := (firstFault q).map (fun f => jccBoundary f.jcc)

/-- Whether the boundary of a pending cast has come. -/
def PendCast.due (s : State) (q : Part) (c : PendCast) : Bool :=
  c.at_.any (fun a => decide (a ≤ s.clk.mcc)) || c.jcc.any (fun j => decide (ageAt q.jcc j ≥ 0))

/-- The cast for a fault of a partition, if one is asked for: a fault pending before keeps its cause (R187, R380, R188). -/
def faultAsked (q : Part) : Option PendCast :=
  match q.pendCast.filter (·.fault) with
  | some c => some c
  | none => if q.sfaults = [] then none else some { cause := .schedFault, fault := true }

/-- The cast that is due at a boundary, if one is (R50, R187, R274): one asked for, one for the schedule faults, or one for an
AT_GTC that has come; a fault that waits joins it, with its cause. -/
def castDue (s : State) (q : Part) : Option PendCast :=
  let byGtc : Option PendCast := (q.castGtc.filter (fun g => decide (g.1 ≤ s.clk.gtc))).map (fun g =>
    { cause := g.2, fault := false, atGtc := g.1 })
  let asked := q.pendCast.filter (PendCast.due s q)
  let sched := (schedBoundary q).any (fun j => decide (ageAt q.jcc j ≥ 0))
  if byGtc.isNone && asked.isNone && !sched then none
  else (((faultAsked q).orElse (fun _ => asked)).orElse (fun _ => byGtc)).map (fun c =>
    match byGtc with
    | some d => { c with atGtc := d.atGtc }
    | none => c)

/-- A schedule fault (R187, R188): counted at once, kept with the first one of its band, and recorded at the cast boundary. -/
def schedFault (p : Nat) (f : SFault) (s : State) : State :=
  let s := { s with patina := { s.patina with live := { s.patina.live with
    band := tmod {} s.patina.live.band f.band (fun x => { x with sfaults := cnt x.sfaults 1 }) } } }
  modPart p (fun q =>
    let q := { q with
      sfCount := satAdd 0xFFFF q.sfCount 1
      sfBands := if q.sfBands.contains f.band then q.sfBands else q.sfBands ++ [f.band]
      sfaults := if q.sfaults.any (fun x => x.1.band == f.band) then
          q.sfaults.map (fun (x : SFault × Nat) => if x.1.band == f.band then (if f.before x.1 then f else x.1, satAdd 0xFFFF x.2 1) else x)
        else q.sfaults ++ [(f, 0)] }
    { q with sfFirst := (firstFault q).elim q.sfFirst (·.band) }) s

/-- A schedule fault at a cell. -/
def cellFault (p j cell code : Nat) (f : SFault → SFault) (s : State) : State :=
  let b := cell / 128
  let pos := cell % 128
  let lp := (pos + 128 - (getBand s b).rot) % 128
  schedFault p (f { code := code, jcc := j, band := b, ppos := pos, lpos := lp }) s

/-- One chunk written into one shadow (R87-R89): the shadow, or the schedule fault. -/
def chunkInto (sh : Option Shadow) (x : PendChunk) : Except Nat Shadow :=
  if x.fmt.mx && x.transposed then .error 0x020D
  else if x.chunk = 0 then .ok { fmt := x.fmt, transposed := x.transposed, chunks := [(0, x.data)] }
  else match sh with
    | none => .error 0x021E
    | some s =>
      if s.transposed ≠ x.transposed ∨ s.fmt ≠ x.fmt then .error 0x020D
      else .ok { s with chunks := (x.chunk, x.data) :: s.chunks.filter (·.1 != x.chunk) }

/-- The arrays whose shadows a chunk names (R87). -/
def chunkArrays (wide : Bool) (x : PendChunk) : List Nat :=
  if wide then (match x.array with | some a => if a < 4 then [a] else [] | none => []) else [0, 1, 2, 3]

/-- Apply one chunk to its shadows; in normal mode the four shadows are alike, and one fault is raised. DESIGN CHOICE (log
entry 22): a chunk number that its format does not have is kept and stands for nothing, and in wide-and-shallow mode a chunk
that names no array 0-3 is dropped, both with no fault, since the spec names none. -/
def applyChunk (p cell : Nat) (x : PendChunk) (s : State) : State :=
  let c := getCell s cell
  let as := chunkArrays c.wide x
  match as with
  | [] => s
  | a :: _ =>
    match chunkInto (tget none c.shadow a) x with
    | .error code => cellFault p x.at_ cell code id s
    | .ok sh => modCell cell (fun c => { c with shadow := as.foldl (fun t i => tset none t i (some sh)) c.shadow }) s

/-- Whether two chunks of one cycle meet in a shadow (R87). -/
def chunkClash (wide : Bool) (x y : PendChunk) : Bool :=
  x.at_ == y.at_ && (!wide || (chunkArrays wide x).any (fun a => (chunkArrays wide y).contains a))

/-- Write the chunks of a list, in order; those that clash raise SHADOW_PORT and are not written. -/
def settleList (p cell : Nat) (all : List PendChunk) : List PendChunk → State → State
  | [], s => s
  | x :: r, s =>
    let wide := (getCell s cell).wide
    let clash := (all.filter (chunkClash wide x)).length > 1
    settleList p cell all r (if clash then cellFault p x.at_ cell 0x020E id s else applyChunk p cell x s)

/-- Write the chunks of a cell that are available by cycle `j`, those of an earlier cycle first (Table 4.6). -/
def settleChunks (p j cell : Nat) (s : State) : State :=
  let c := getCell s cell
  let due := c.chunkQ.filter (fun x => decide (ageAt j x.at_ ≥ 0))
  if due = [] then s
  else
    let order := due.foldl (fun l x => l.takeWhile (fun y => decide (ageAt j y.at_ ≥ ageAt j x.at_)) ++ x ::
      l.dropWhile (fun y => decide (ageAt j y.at_ ≥ ageAt j x.at_))) []
    settleList p cell due order (modCell cell (fun c =>
      { c with chunkQ := c.chunkQ.filter (fun x => decide (ageAt j x.at_ < 0)) }) s)

/-- The chunks that a cycle makes available reach their shadows, in every cell (R88). -/
def settleCells (s : State) : State :=
  (s.cells.map (·.1)).foldl (fun s cell =>
    if (getCell s cell).chunkQ = [] then s else
      let p := partOf s (cell / 128)
      settleChunks p (getPart s p).jcc cell s) s

/-- The row engines work on their records (R131). -/
def settleRows (s : State) : State :=
  (s.bands.map (·.1)).foldl (fun s b =>
    match (getBand s b).row with
    | none => s
    | some r =>
      let j := (getPart s (partOf s b)).jcc
      modBand b (sideStep j (ageAt j r.start).toNat) s) s

/-- A fifth entry that no start of the cycle of its delivery has made room for is discarded (R165). -/
def overrunCell (s : State) (cell : Nat) : State :=
  let c := getCell s cell
  if c.arrayFifo.length ≤ 4 ∧ c.vecFifo.length ≤ 4 then s
  else
    let p := partOf s (cell / 128)
    let fault := fun (l : List QEntry) (s : State) => match l.drop 4 with
      | [] => s
      | e :: _ => cellFault p (e.got.getD (getPart s p).jcc) cell 0x021A id s
    setCell cell { c with arrayFifo := c.arrayFifo.take 4, vecFifo := c.vecFifo.take 4 } (fault c.vecFifo (fault c.arrayFifo s))

/-- What the end of a cycle settles in the cells. -/
def closeCells (s : State) : State := (s.cells.map (·.1)).foldl overrunCell s

/-- JCC with every digit the partition holds. -/
def jccOf (s : State) (p : Nat) : Nat := (getPart s p).jcc

/-- Period of the arithmetic clock at a level, in 1/378 ns (Table 2.3). -/
def period : Nat → Nat
  | 0 => 252 | 1 => 280 | 2 => 315 | 3 => 360 | 4 => 420 | _ => 504

/-- Cycles of JCC that are left of `d`: JCC goes no further than the next boundary, where the decision of R47 is due; and once
every sequencer has executed END, the count ends at the first hold boundary after (R170), unless the cast for a fault is still to
come (log entry 45): then it ends at the boundary of that cast. -/
def Part.runFor (d : Nat) (q : Part) : Nat :=
  let d := min d (64 - q.jcc % 64)
  let left := fun (e : Nat) => (e + 2 ^ 48 - q.jcc) % 2 ^ 48
  match q.endJcc with
  | none => d
  | some e => match faultAsked q with
    | none => min d (left e)
    | some c => match sooner c.jcc (schedBoundary q) with
      | none => d
      | some j => min d (left (if ageAt j e > 0 then j else e))

/-- Whether JCC of a partition advances: RUNNING and not held (R40). -/
def Part.islandRuns (q : Part) : Bool := q.st = .running && !q.held && q.runFor 1 == 1

/-- A hold has lasted `n` more units (R48). -/
def Part.moreUnits (n : Nat) (q : Part) : Part :=
  { q with holdUnits := (q.holdUnits + n) % 2 ^ 64, holdNow := satAdd 0xFFFF q.holdNow n }

/-- A partition moved on from MCC `m` by `d` cycles: its JCC (R40), or the units of a hold that begin before the last of them
(R48). -/
def Part.tick (m d : Nat) (q : Part) : Part :=
  if q.islandRuns then
    { q with jcc := (q.jcc + q.runFor d) % 2 ^ 48, wrap := q.wrap || decide (q.jcc + q.runFor d ≥ 2 ^ 48) }
  else if q.st = .running ∧ q.held = true then q.moreUnits ((m + d - 1) / 64 - m / 64)
  else q

/-- The run and hold cycles of one band over `d` cycles (Table 18.2). -/
def patCycles (s : State) (d : Nat) (t : Tbl PatBand) (b : Nat) : Tbl PatBand :=
  let q := getPart s (partOf s b)
  if !(getBand s b).bound || q.st ≠ .running then t
  else tmod {} t b (fun x => if q.held then { x with hold := cnt x.hold d } else { x with run := cnt x.run (q.runFor d) })

/-- The nanoseconds by which `d` ns of the GTC are lengthened or shortened while ALIGNED, at most one in 5,000 (200 ppm), and
what is left (R249); the time from which the next nanosecond counts starts anew when a slew is used up. -/
def slewOf (d : Nat) (f : Fabric) : Int × Fabric :=
  if f.slew = 0 then (0, f)
  else
    let n := min f.slew.natAbs ((f.slewAge + d) / 5000)
    let v : Int := if 0 < f.slew then n else -n
    (v, { f with slew := f.slew - v, slewAge := if n = f.slew.natAbs then 0 else f.slewAge + d - 5000 * n })

/-- A GTC moved on by `d` ns and a correction. -/
def gtcPlus (g d : Nat) (v : Int) : Nat := ((g + d : Nat) + v : Int).toNat % 2 ^ 64

/-- The captures of the latest sync pulse that `d` cycles pass (R41, R42), with which realignments end (Table 2.2): one falls at every
multiple of 4,096. -/
def passPulses (d : Nat) (f : Fabric) (c : Clock) : Clock :=
  let k := (c.mcc + d) / 4096 * 4096
  let x := (c.phase + (k - c.mcc) * period c.curLevel) / 378
  if c.mcc < k then { c with syncMcc := k % 2 ^ 64, syncGtc := gtcPlus c.gtc x (slewOf x f).1, realign := [] } else c

/-- The samples of the multiples of 1,000,000 ns that the GTC has passed since it was `g` (R362). `live` gives the counters as they
were at a GTC. In AUX the block has no power. -/
def passSamples (g : Nat) (live : Nat → PatLive) (s : State) : State :=
  let k := s.clk.gtc / 1000000 * 1000000
  if g < k ∧ s.pwr.st ≠ .aux then
    { s with patina := { s.patina with
      sample := live k, sampleGtc := k, seq := (s.patina.seq + (s.clk.gtc / 1000000 - g / 1000000)) % 2 ^ 32 } }
  else s

/-- The live counters after `d` more cycles (Table 18.2). -/
def liveAfter (s : State) (d : Nat) : PatLive :=
  { s.patina.live with band := (List.range 32).foldl (patCycles s d) s.patina.live.band }

/-- The cycles after which the GTC reaches `k`. -/
def cyclesTo (s : State) (k : Nat) : Nat :=
  let w := period s.clk.curLevel
  ((k - s.clk.gtc) * 378 - s.clk.phase + (w - 1)) / w

/-- The clocks run for `d` cycles: MCC, GTC, the sync pulses, the JCC of every partition, the patina counters and their samples
(R39 to R42, R362). -/
def tickAll (d : Nat) (s : State) : State :=
  let x := s.clk.phase + d * period s.clk.curLevel
  let w := slewOf (x / 378) s.fab
  passSamples s.clk.gtc (fun k => liveAfter s (min d (cyclesTo s k))) { s with
    fab := w.2
    clk := { passPulses d s.fab s.clk with
      mcc := (s.clk.mcc + d) % 2 ^ 64, gtc := gtcPlus s.clk.gtc (x / 378) w.1, phase := x % 378 }
    parts := [0, 1, 2, 3].foldl (fun t p => tmod {} t p (Part.tick s.clk.mcc d)) s.parts
    patina := { s.patina with live := liveAfter s d } }

/-- The hold requests that stand for a boundary, and whether its test has found the whole window covered (R46). -/
def reqsAt (q : Part) (at_ : Nat) : List (Nat × Bool × Bool) := if q.reqFor = some at_ then q.reqs else []
def windowCovered (q : Part) (at_ : Nat) : Bool := q.reqFor == some at_ && q.reqs.isEmpty

/-- The requester of lowest index. -/
def lowReq : List (Nat × Bool × Bool) → Option (Nat × Bool × Bool)
  | [] => none
  | x :: r => match lowReq r with
    | some y => if y.1 < x.1 then some y else some x
    | none => some x

/-- A hold unit begins or is extended at a boundary (R47, R48, Tables 2.7, 18.2). DESIGN CHOICE (log entry 33): CLK_HOLD_UNITS_Pn
counts a unit at the boundary at which it begins; the spec gives only the total after a hold. -/
def holdUnit (p : Nat) (rs : List (Nat × Bool × Bool)) (s : State) : State :=
  let s := { s with patina := { s.patina with live := { s.patina.live with
    band := rs.foldl (fun t x => tmod {} t x.1 (fun y => { y with req := cnt y.req 1 })) s.patina.live.band } } }
  modPart p (fun q =>
    if q.held then q.moreUnits 1
    else
      let low := (lowReq rs).getD (0, true, false)
      Part.moreUnits 1 { q with held := true, holdNow := 0, holdBand := low.1, holdOut := !low.2.1 }) s

/-- A hold in progress ends (CLK_HOLD_LAST_Pn). DESIGN CHOICE (log entry 33): one that PAUSED, a cast, DONE or ABORT ends counts as
completed, and its units are stored as for one that is released; the spec does not say. -/
def endHold (q : Part) : Part := if q.held then { q with held := false, holdLast := q.holdNow, holdNow := 0 } else q

/-- The hold controller's decision takes effect at the boundary of the present cycle (R47, R48, R50), once: JCC does not pass it
until the test has found the window covered (R46). DESIGN CHOICE (log entry 6): a boundary for which no test is queued is one
that JCC does not pass either. At a boundary at which PAUSED, the cast, a START or a RESUME takes effect, or at which the
maquette ends, that event comes first. -/
def holdDecide (p : Nat) (s : State) : State :=
  let q := getPart s p
  let b := s.clk.mcc
  if b % 64 ≠ 0 ∨ q.st ≠ .running ∨ s.clk.run ≠ .running ∨ q.decided = some b ∨ q.pauseAt = some b ∨
      (castDue s q).isSome ∨ q.endJcc = some q.jcc then s
  else
    let s := modPart p (fun q => { q with decided := some b }) s
    if windowCovered q b then modPart p endHold s else holdUnit p (reqsAt q b) s

/-- The decisions for the present cycle, where it is a boundary. -/
def decideHolds (s : State) : State :=
  if s.clk.mcc % 64 = 0 then [0, 1, 2, 3].foldl (fun s p => holdDecide p s) s else s

/-- Time passes, and what is due by the new cycle settles. -/
def tickOn (d : Nat) (s : State) : State := settleRows (settleCells (tickAll d s))

/-- The clocks run for `d` cycles, stopping for the decisions of the next two boundaries: by the second, every partition whose
boundaries are not tested on the way is held. -/
def advanceCycles (d : Nat) (s : State) : State :=
  if d = 0 then s
  else
    let span := fun (d : Nat) (s : State) => decideHolds (tickOn d s)
    let s := closeCells s
    let k := 64 - s.clk.mcc % 64
    if d ≤ k then span d s
    else if d ≤ k + 64 then span (d - k) (span k s)
    else span (d - k - 64) (span 64 (span k s))

/-- The arithmetic clocks stop for a frequency change (R44 step 4). -/
def pauseClocks (s : State) : State :=
  { s with clk := { s.clk with run := .pause, pauseGtc := s.clk.gtc, locked := false, aligned := false } }

/-- Whether a frequency change stops the clocks before `d` more cycles have run, or right after them (R44). -/
def pauseWithin (d : Nat) (c : Clock) : Bool := c.pendingChange && decide (c.mcc ≤ c.freqAt ∧ c.freqAt ≤ c.mcc + d)

/-- The clocks run up to the count N of a pending frequency change and stop before cycle N, whose sync pulse and hold decisions
wait with it (R45). -/
def runToPause (s : State) : State :=
  let n := s.clk.freqAt - s.clk.mcc
  let a := advanceCycles (n - 1) s
  let s := pauseClocks (if n = 0 then s else tickOn 1 (closeCells a))
  { s with clk := { s.clk with syncMcc := a.clk.syncMcc, syncGtc := a.clk.syncGtc } }

/-- The clocks run for `d` cycles, or to the count N of a pending frequency change, at which they stop (R44). -/
def runCycles (d : Nat) (s : State) : State := if pauseWithin d s.clk then runToPause s else advanceCycles d s

/-- Move on to a cycle of MCC; nothing happens when the clocks are stopped or the cycle has passed. -/
def advanceTo (t : Nat) (s : State) : State :=
  if s.clk.run = .running ∧ s.clk.mcc < t then runCycles (t - s.clk.mcc) s else s

/-- The GTC moves on without the arithmetic clocks, but not beyond the 40 µs that a frequency pause may last (R34, R44); while the
always-on domain keeps it, by whole ticks of 20 ns (R42). -/
def gtcTo (g : Nat) (s : State) : State :=
  let g := if s.clk.run = .pause then min g (s.clk.pauseGtc + 40000)
    else if s.pwr.st = .standby ∨ s.pwr.st = .aux then s.clk.gtc + (g - s.clk.gtc + 19) / 20 * 20 else g
  if s.clk.gtc < g then
    passSamples s.clk.gtc (fun _ => s.patina.live)
      { s with fab := (slewOf (g - s.clk.gtc) s.fab).2, clk := { s.clk with gtc := g, phase := 0 } }
  else s

/-- The clocks run to the first cycle whose GTC is `g` or more. A slew that lengthens the count is approached from below, in at most
`n` stages (R249). -/
def reachGtc : Nat → Nat → State → State
  | 0, _, s => s
  | n + 1, g, s =>
    if s.clk.gtc < g ∧ s.clk.run = .running then
      let c := cyclesTo s g
      reachGtc n g (runCycles (if 0 < s.fab.slew then c - c / 4096 else c) s)
    else s

/-- Move on to a GTC: by cycles while the clocks run. -/
def advanceGtc (g : Nat) (s : State) : State :=
  let s := reachGtc 16 g s
  if s.clk.run = .running then s else gtcTo g s

/-- An event of the static island of band `b` at MCC `t`: time moves on, and the event takes place only in a cycle that
runs, while the band is bound and its partition RUNNING and not held (R18, R44, R49). -/
def island (t b : Nat) (f : Nat → Nat → State → State) (s : State) : State :=
  let s := advanceTo t s
  let p := partOf s b
  if s.clk.run == .running && (getBand s b).bound && p < 4 && (getPart s p).islandRuns then f p (jccOf s p) s else s

/-- An operation of a band's sequencer program (R157): it takes place while the sequencer runs, which it does from a START to
its END. -/
def sequencer (t b : Nat) (f : Nat → Nat → State → State) (s : State) : State :=
  island t b (fun p j s => if (getBand s b).seqState = 1 then f p j s else s) s

/-- The physical position of a logical one (R7), and its cell's global index (R6). -/
def physOf (s : State) (b q : Nat) : Nat := (q + (getBand s b).rot) % 128
def cellOf (b pos : Nat) : Nat := b * 128 + pos

/-- An event of one cell of the island: it takes place in a cell that is not fenced and not at an idle position
(R72, R73). -/
def cellEvent (t b q : Nat) (f : Nat → Nat → Nat → State → State) (s : State) : State :=
  island t b (fun p j s =>
    let pos := physOf s b q
    if s.fence.contains (cellOf b pos) || (getBand s b).idle.contains pos then s else f p j (cellOf b pos) s) s

end Sys2Proof.Machine
end

