-- ==== Sys2Proof/Machine/Operands.lean ====
section
/-! DEFINITION. Operand forms of the cells: position-relative fields, counters, predicates, stores read and written in
one cycle, tile register lanes, the schedule of a pass's accesses and the bank ports (R54, R85, R90, R159-R163,
R178-R180, R416). -/

namespace Sys2Proof.Machine

/-- A position-relative field at a logical position, modulo `m` (R159). -/
def relVal (m q : Nat) (r : Rel) : Nat := (r.v + q * r.k) % m

/-- A one-cycle register as it is used in cycle `j` (R162, R416). -/
def Delayed.get {α : Type} (d : Delayed α) (j : Nat) : α := if d.cyc = j then d.old else d.new

/-- The register as it was used in the cycle before `j`, as long as it was not written twice in these two cycles. -/
def Delayed.past {α : Type} (d : Delayed α) (j : Nat) : α :=
  if d.cyc = j ∨ (d.cyc + 1) % 2 ^ 48 = j then d.old else d.new

/-- A one-cycle register at JCC 0 of a START: its value, with no write under way. -/
def Delayed.settle {α : Type} (d : Delayed α) : Delayed α := ⟨d.new, d.new, 0⟩

/-- Write a one-cycle register in cycle `j`. -/
def Delayed.put {α : Type} (d : Delayed α) (j : Nat) (v : α) : Delayed α := { old := d.get j, new := v, cyc := j }

/-- The configuration of a comparator that nothing has configured (R416). -/
def cmpZero : CmpCfg := { ctr := 0, rel := .eq, signed := false, second := none, value := 0 }

/-- A counter, and a comparator configuration, with their reset values. -/
def ctDef : Delayed W32 := ⟨0, 0, 0⟩
def cmpDef : Delayed CmpCfg := ⟨cmpZero, cmpZero, 0⟩
def ctAt (c : Cell) (j i : Nat) : W32 := (tget ctDef c.ct i).get j

/-- The predicate of a comparator in cycle `j` (R163). -/
def evalCmp (c : Cell) (j i : Nat) : Bool :=
  let g := (tget cmpDef c.cmp i).get j
  let a := ctAt c j g.ctr
  let b : W32 := match g.second with
    | some k => ctAt c j k
    | none => BitVec.ofNat 32 g.value
  match g.rel with
  | .eq => a == b
  | .ne => a != b
  | .lt => if g.signed then BitVec.slt a b else BitVec.ult a b
  | .ge => !(if g.signed then BitVec.slt a b else BitVec.ult a b)

/-- Whether an operation's predicate lets it take effect (R163). -/
def predOk (c : Cell) (j : Nat) : Option Pred → Bool
  | none => true
  | some p => if p.invert then !evalCmp c j p.cmp else evalCmp c j p.cmp

/-- A scratchpad address of a bundle (R159, R162). -/
def spAddrOf (c : Cell) (j q : Nat) (a : SpAddr) : Nat :=
  (relVal 0x80000 q a.base + (match a.ct with | some i => (ctAt c j i).toNat * 64 | none => 0)) % 0x80000

/-- Bank of a scratchpad address (R54). -/
def bankOf (a : Nat) : Nat := a / 64 % 16

/-- A byte of a store as a read in cycle `j` sees it: what stood there before every write of cycle `j` or later. -/
def Store.at (st : Store) (j a : Nat) : Byte :=
  st.old.foldl (fun v e => if e.2.1 = a ∧ ageAt e.1 j ≥ 0 ∧ ageAt e.1 j < 8 then e.2.2 else v) (readByte st.mem a)

/-- `n` bytes of a store in cycle `j`. -/
def Store.read (st : Store) (j a n : Nat) : List Byte := (List.range n).map (fun i => st.at j (a + i))

/-- Write one byte in cycle `j`; what stood there is kept for the reads of the last cycles. -/
def Store.put (st : Store) (j a : Nat) (v : Byte) : Store :=
  { mem := writeByte st.mem a v
    old := (j, a, readByte st.mem a) :: st.old.filter (fun e => decide (ageAt j e.1 ≥ 0 ∧ ageAt j e.1 < 8)) }

/-- Write (address, byte) pairs in cycle `j`. -/
def Store.puts (st : Store) (j : Nat) : List (Nat × Byte) → Store
  | [] => st
  | (a, v) :: r => Store.puts (st.put j a v) j r

/-- Consecutive bytes as pairs, from an address, modulo `m`. -/
def spread (m a : Nat) (bs : List Byte) : List (Nat × Byte) :=
  (List.range bs.length).map (fun i => ((a + i) % m, bs.getD i 0))

/-- Take back the writes of cycle `j` to some addresses (R90: neither access is performed). -/
def Store.undo (st : Store) (j : Nat) (as : List Nat) : Store :=
  let hit := fun (e : Nat × Nat × Byte) => e.1 = j ∧ as.contains e.2.1
  { mem := st.old.foldl (fun m e => if hit e then writeByte m e.2.1 e.2.2 else m) st.mem
    old := st.old.filter (fun e => ¬ hit e) }

/-- Bytes of an element in the blocked layout. -/
def elemBytes (f : Elem) : Nat := if elemBits f ≥ 32 then 4 else if elemBits f ≥ 16 then 2 else 1

/-- Address in `tiles` of byte i of lane `lane` of block `block` of a register, elements of `es` bytes (R90). -/
def tileAddr (reg block lane es i : Nat) : Nat :=
  reg * 4096 + (lane * (4 / es) + i / (16 * es)) % 16 * 256 + (block * 16 * es + i % (16 * es)) % 256

/-- The same byte of the block's transpose: element e of the lane is at (row, column) swapped (R90). -/
def tileAddrT (reg block lane es i : Nat) : Nat :=
  let e := i / es
  let r := lane * (4 / es) + e / 16
  let c := e % 16
  reg * 4096 + c * 256 + (block * 16 + r % 16) * es % 256 + i % es

/-- The 64 bytes of a tile lane as read in cycle `j`. -/
def tileLane (c : Cell) (j reg block lane es : Nat) (transposed : Bool) : List Byte :=
  (List.range 64).map (fun i =>
    c.tiles.at j (if transposed then tileAddrT reg block lane es i else tileAddr reg block lane es i))

/-- Rate of a pass: rows per array in two cycles (Table 4.1); 0 marks a combination outside the table. -/
def passRate (x w : OpFmt) (a : Acc) : Nat :=
  let fp8 := fun (e : Elem) => e = .e4m3 ∨ e = .e5m2
  let fp6 := fun (e : Elem) => e = .e2m3 ∨ e = .e3m2
  if x.mx ≠ w.mx then 0
  else if ¬ x.mx ∧ fp8 x.elem ∧ fp8 w.elem then (match a with | .fp32 => 2 | .acc16 => 4 | .int32 => 0)
  else if ¬ x.mx ∧ x.elem = w.elem ∧ (x.elem = .bf16 ∨ x.elem = .fp16) then
    (match a with | .fp32 => 1 | .acc16 => 2 | .int32 => 0)
  else if ¬ x.mx ∧ x.elem = .int8 ∧ w.elem = .int8 then (match a with | .int32 => 2 | _ => 0)
  else if x.mx ∧ x.elem = .e2m1 ∧ w.elem = .e2m1 then (match a with | .fp32 => 4 | _ => 0)
  else if x.mx ∧ fp6 x.elem ∧ fp6 w.elem then (match a with | .fp32 => 2 | _ => 0)
  else if x.mx ∧ fp8 x.elem ∧ fp8 w.elem then (match a with | .fp32 => 2 | _ => 0)
  else 0

/-- Bytes of one row (Table 4.1). -/
def rowBytes (f : OpFmt) : Nat := elemBits f.elem * 2

/-- Whether the two sources share a cycle's rows: at 128 row bytes per cycle (R85). -/
def Pass.two (p : Pass) : Bool :=
  !p.wide && rowBytes p.d.xf * 4 * passRate p.d.xf p.d.wf p.d.acc == 256

/-- Bytes that one source supplies per cycle, times two. -/
def Pass.bytes2 (p : Pass) : Nat :=
  let b := rowBytes p.d.xf * passRate p.d.xf p.d.wf p.d.acc * (if p.wide then 1 else 4)
  if p.two then b / 2 else b

/-- Units of a pass: groups in normal mode, shared rows in wide-and-shallow mode (R84). -/
def Pass.units (p : Pass) : Nat := if p.wide then p.d.rows else (p.d.rows + 3) / 4

/-- Entry cycles of a pass (R84). -/
def Pass.cycles (p : Pass) : Nat :=
  match passRate p.d.xf p.d.wf p.d.acc with
  | 4 => (p.units + 1) / 2
  | 1 => 2 * p.units
  | _ => p.units

/-- Bytes that source `s` supplies over the whole pass. -/
def Pass.srcBytes (p : Pass) (s : Nat) : Nat :=
  let rb := rowBytes p.d.xf
  if p.two then
    let rc := 128 / rb
    let full := p.d.rows / rc
    let rest := p.d.rows % rc
    (full * (rc / 2) + (if s = 0 then min rest (rc / 2) else rest - rc / 2)) * rb
  else if s = 0 then p.d.rows * rb else 0

/-- The source access made for entry cycle `n`, if one is (R85): access k falls in the first cycle that needs it. -/
def Pass.access (p : Pass) (s n : Nat) : Option Nat :=
  let k := (n * p.bytes2 + 127) / 128
  if p.bytes2 ≠ 0 ∧ 128 * k / p.bytes2 = n ∧ 64 * k < p.srcBytes s then some k else none

/-- The source of index `s`. -/
def Pass.src (p : Pass) (s : Nat) : Option RowSrc := if s = 0 then some p.d.src0 else p.d.src1

/-- The entry cycle of a row (R84). -/
def Pass.entry (p : Pass) (row : Nat) : Nat :=
  let u := if p.wide then row else row / 4
  match passRate p.d.xf p.d.wf p.d.acc with
  | 4 => u / 2
  | 1 => 2 * u
  | _ => u

/-- The scale word whose rows begin to enter in entry cycle `n` (R85), for MX formats. -/
def Pass.scaleWord (p : Pass) (n : Nat) : Option Nat :=
  let per := (if p.wide then 1 else 4) * passRate p.d.xf p.d.wf p.d.acc / 2
  let w := (n * per + 63) / 64
  if p.d.xf.mx ∧ 64 * w < p.d.rows ∧ p.entry (64 * w) = n then some w else none

/-- Address of access k of a scratchpad source (R85). -/
def Pass.srcAddr (p : Pass) (r : Rel) (k : Nat) : Nat := (relVal 0x80000 p.q r + 64 * k) % 0x80000

/-- The tile register lane that access k reads (R85): register, block, lane, element bytes, transposed. DESIGN CHOICE (log
entry 22): rows of MXFP4 and MXFP6, for which R85 gives no count, are read as 8-bit elements are, 4 lanes to a block. -/
def Pass.tileAcc (p : Pass) (reg block lane : Nat) (tr : Bool) (k : Nat) : Nat × Nat × Nat × Nat × Bool :=
  let es := elemBytes p.d.xf.elem
  let n := lane + k
  (reg, (block + n / (4 * es)) % (16 / es), n % (4 * es), es, tr)

/-- A bank request: requester code, order among the same code, bank, and whether it is a write. -/
structure Port where
  write : Bool
  code : Nat
  order : Nat
  bank : Nat
  deriving DecidableEq, Repr

/-- Place of a step among those of its array that read, or write, in its cycle: at 4 rows per array in two cycles an array has
two (R84). DESIGN CHOICE (log entry 48): R179 gives no order between two accesses of one requester; the earlier step comes
first. -/
def stepOrder (c : Cell) (write : Bool) (st : Step) : Nat :=
  (c.steps.filter (fun x => x.array == st.array && (if write then x.writeAt == st.writeAt else x.readAt == st.readAt))).findIdx
    (· == st)

/-- Requests of the arrays in cycle `j` (Table 9.2): partial sums, outputs, row sources and row scales. -/
def arrayPorts (c : Cell) (j : Nat) : List Port :=
  let steps := c.steps.flatMap (fun s =>
    (match s.inAddr with
      | some a => if s.readAt = j then [⟨false, s.array, stepOrder c false s, bankOf a⟩] else []
      | none => []) ++
    (if s.writeAt = j ∧ s.ok then [⟨true, s.array, stepOrder c true s, bankOf s.outAddr⟩] else []))
  let rows := c.passes.flatMap (fun p =>
    let n : Int := ageAt (j + 2) p.e0
    if n < 0 ∨ n.toNat ≥ p.cycles then []
    else
      let srcs := [0, 1].flatMap (fun s => match p.src s, p.access s n.toNat with
        | some (.sp r), some k => [(⟨false, 4 + s, 0, bankOf (p.srcAddr r k)⟩ : Port)]
        | _, _ => [])
      srcs ++ (match p.scaleWord n.toNat with
        | some w => [⟨false, 6, 0, bankOf ((relVal 0x80000 p.q p.d.scale + 64 * w) % 0x80000)⟩]
        | none => []))
  steps ++ rows

/-- Loop indices of word w, LOOP0 fastest (R119). -/
def loopIdx : List Nat → Nat → List Nat
  | [], _ => []
  | n :: r, w => (w % n) :: loopIdx r (w / n)

/-- Sum of indices times strides (R119). -/
def strideSum : List Nat → List Int → Int
  | i :: is, s :: ss => (i : Int) * s + strideSum is ss
  | _, _ => 0

/-- Whether the ALU2 stage, ALU1 or the sink uses operand C is not asked: an operand that is configured is read. -/
def vecOperands (d : VecDesc) : List VOperand := [d.opA, d.opB, d.opC]

/-- Address of an operand's scratchpad word for word w. -/
def spWordAddr (d : VecDesc) (q : Nat) (base : Rel) (strides : List Int) (w : Nat) : Nat :=
  ((((relVal 0x80000 q base : Nat) : Int) + 64 * strideSum (loopIdx d.loops w) strides).emod 0x80000).toNat / 64 * 64

/-- Row of a tile operand for word w. -/
def tileRow (d : VecDesc) (row : Nat) (strides : List Int) (w : Nat) : Nat :=
  (((row : Int) + strideSum (loopIdx d.loops w) strides).emod 16).toNat

/-- Banks of consecutive bank words. -/
def banksFrom (a n : Nat) : List Nat := (List.range n).map (fun i => bankOf (a + 64 * i))

/-- Bank words of a vector word in a format (R114). -/
def wordBanks (f : Elem) : Nat := elemBytes f

/-- Address of packed word k of a compress or expand stream (R123, R124). -/
def packAddr (q : Nat) (base : Rel) (strides : List Int) (k : Nat) : Nat :=
  ((((relVal 0x80000 q base : Nat) : Int) + 64 * (k : Int) * strides.headD 0).emod 0x80000).toNat / 64 * 64

/-- Address of the 8 bytes of word w in a mask plane: bits [5:0] of its base are ignored (R178). -/
def planeAddr (q : Nat) (base : Rel) (w : Nat) : Nat := (relVal 0x80000 q base / 64 * 64 + 8 * w) % 0x80000

/-- Read requests of the vector engine in cycle `j` (Table 9.2): those of the descriptor before come first (log entry 48). -/
def vecReadPorts (c : Cell) (j : Nat) : List Port :=
  (c.vecOld.toList.map (fun v => (v, 0)) ++ c.vec.toList.map (fun v => (v, 1))).flatMap fun (x : VecRun × Nat) =>
    let v := x.1
    let n : Int := ageAt j v.start
    if n < 0 then []
    else
      let w := n.toNat
      let d := v.d
      let one : Nat → VOperand → List Port := fun k o => match o.src with
        | .sp base => if w < v.words then
            (banksFrom (spWordAddr d v.q base o.strides w) (wordBanks o.fmt)).map (⟨false, 8 + k, x.2, ·⟩) else []
        | .expand base => if 1 ≤ w ∧ w ≤ v.words then
            (banksFrom (relVal 0x80000 v.q base) (wordBanks o.fmt)).map (⟨false, 8 + k, x.2, ·⟩) else []
        | .rowSp base => if w = 0 then
            (banksFrom (relVal 0x80000 v.q base) (wordBanks o.fmt)).map (⟨false, 0xB, k, ·⟩) else []
        | .colSp base => if w = 0 then [⟨false, 0xB, k, bankOf (relVal 0x80000 v.q base)⟩] else []
        | _ => []
      one 0 d.opA ++ one 1 d.opB ++ one 2 d.opC ++
      (match d.mask with
        | .plane base => if w < v.words then [(⟨false, 0xE, 0, bankOf (planeAddr v.q base w)⟩ : Port)] else []
        | _ => [])

/-- Place of a result among those that write in one cycle: by the start of its descriptor, scale bytes after the word. -/
def outOrder (outs : List VecOut) (o : VecOut) : Nat := 2 * outs.findIdx (fun x => x.src == o.src) + o.sub

/-- Write requests of the vector engine in cycle `j`: results, compress reservations and status words, the descriptors in the
order of their starts (log entry 48). -/
def vecWritePorts (c : Cell) (j : Nat) : List Port :=
  let outs := c.vecOuts.filter (·.at_ = j)
  let sts := c.vecStatus.filter (·.1 = j)
  outs.flatMap (fun o => o.banks.map (⟨true, 8, outOrder outs o, ·⟩)) ++
  sts.map (fun x => ⟨true, 0xE, sts.findIdx (· == x), bankOf x.2.1⟩)

/-- Every request of cycle `j`, with those that captures and chunks have made. -/
def portsAt (c : Cell) (j : Nat) : List Port :=
  arrayPorts c j ++ vecReadPorts c j ++ vecWritePorts c j ++
  (c.reqs.filter (·.cyc = j)).map (fun r => ⟨r.write, r.code, r.order, r.bank⟩)

/-- The requester that keeps a port from (code, order) on any of some banks in cycle `j` (R179), with the bank: of several the
one that is granted the port, which has the lowest code and comes first in the order of its code. A broadcast (code 0xB) does not
meet the words of its own descriptor, nor the mask plane of its word 0, whose reads follow it (R122; DEDUCED, log entry 23). -/
def portLoser (c : Cell) (j : Nat) (write : Bool) (code order : Nat) (banks : List Nat) : Option (Nat × Nat) :=
  ((portsAt c j).foldl (fun (a : Option Port) x =>
    if x.write = write ∧ banks.contains x.bank ∧ (x.code < code ∨ (x.code = code ∧ x.order < order)) ∧
        ¬ (code = 0xB ∧ 8 ≤ x.code ∧ x.code < 0xB ∧ x.order = 1) ∧ ¬ (code = 0xE ∧ write = false ∧ x.code = 0xB) then
      match a with
      | some y => if x.code < y.code ∨ (x.code = y.code ∧ x.order < y.order) then some x else some y
      | none => some x
    else a) none).map (fun x => (x.code, x.bank))

/-- Record a request in the cell for cycle `j`, beside those of the last cycles. -/
def addReq (j : Nat) (write : Bool) (code order bank : Nat) (c : Cell) : Cell :=
  { c with reqs := ⟨j, write, code, bank, order, true⟩ :: c.reqs.filter (fun r => decide (ageAt j r.cyc ≥ 0 ∧ ageAt j r.cyc < 4)) }

/-- BANK_READ or BANK_WRITE for an access that lost a port (R179, Table 9.6). -/
def bankFault (p j cell : Nat) (write : Bool) (loser : Nat) (w : Nat × Nat) (s : State) : State :=
  cellFault p j cell (if write then 0x0209 else 0x0208)
    (fun f => { f with loser := loser, winner := w.1, bank := w.2 }) s

/-- Stored symbols in error of one half of a bank word (R197). -/
def spErrOf (c : Cell) (word half : Nat) : List (Nat × Byte) :=
  (List.range 36).filterMap (fun i =>
    let e := tget 0 c.spErr (word * 80 + half * 36 + i)
    if e = 0 then none else some (i, e))

/-- One codeword as read: its bytes and what the decoder makes of it (R197, R198, R218). -/
def spDecode (c : Cell) (j word half : Nat) : List Byte × Ecc :=
  let good := c.sp.read j (word * 64 + half * 32) 32
  let e := spErrOf c word half
  let seen := e.foldl (fun bs x => if x.1 < 32 then bs.set x.1 (bs.getD x.1 0 ^^^ x.2) else bs) good
  match rsDecode e with
  | .clean => (seen, .clean)
  | .corrected i v => (if i < 32 then seen.set i (seen.getD i 0 ^^^ v) else seen, .corrected i v)
  | .uncorrectable => (seen, .uncorrectable)

/-- Context of a BAND record (Table 19.3). -/
def bandCtx (s : State) (j cell : Nat) (bank row where_ : Nat) : List (Nat × Nat) :=
  [(0, j), (6, cell % 128), (7, (cell % 128 + 128 - (getBand s (cell / 128)).rot) % 128), (8, bank), (9, where_),
   (10, row)]

/-- Flomor's advice to fence a cell (R391). -/
def advise (cell crit : Nat) (ctx : List (Nat × Nat)) (s : State) : State :=
  let s := (logRec (mkRec s .deferred 0x030C (some (cell / 128)) (ownerOf s (cell / 128)) (ctx ++ [(12, crit)])) s).1
  { s with log := { s.log with adviseCell := cell, adviseValid := true } }

/-- One SP_CORRECTED event of a cell, with criterion 2 of R391. -/
def spCorrected (j cell a : Nat) (s : State) : State :=
  let ctx := bandCtx s j cell (bankOf a) (a / 1024) 0
  let s := logCorrected 0x0308 (some (cell / 128)) (ownerOf s (cell / 128)) ctx s
  let hs := (s.clk.gtc :: tget [] s.log.spCe cell).filter (fun g => s.clk.gtc < g + 3600000000000)
  if hs.length ≥ 64 then advise cell 2 ctx { s with log := { s.log with spCe := tset [] s.log.spCe cell [] } }
  else { s with log := { s.log with spCe := tset [] s.log.spCe cell hs } }

/-- One SP_UNCORRECTABLE event: job-fatal for an island read, deferred for a window read (R198), with criterion 1 of
R391. -/
def spUncorrectable (p j cell a : Nat) (fatal : Bool) (s : State) : State :=
  let ctx := bandCtx s j cell (bankOf a) (a / 1024) 0
  let s := if fatal then jobFatal p 0x0309 (some (cell / 128)) ctx .otherFatal (some j) s
    else logDeferred 0x0309 (some (cell / 128)) (ownerOf s (cell / 128)) ctx s
  let n := tget 0 s.log.spUe cell
  let s := { s with log := { s.log with spUe := tset 0 s.log.spUe cell (n + 1) } }
  if n ≥ 1 then advise cell 1 ctx s else s

/-- An island read of one bank word in cycle `j`: the bytes used, and its error records (R197, R198). -/
def spReadWord (p j cell a : Nat) (s : State) : List Byte × State :=
  let c := getCell s cell
  let word := a % 0x80000 / 64
  let (b0, e0) := spDecode c j word 0
  let (b1, e1) := spDecode c j word 1
  let note := fun (e : Ecc) (s : State) => match e with
    | .clean => s
    | .corrected _ _ => spCorrected j cell (word * 64) s
    | .uncorrectable => spUncorrectable p j cell (word * 64) true s
  (b0 ++ b1, note e1 (note e0 s))

/-- An island read of `n` consecutive bank words. -/
def spReadWords (p j cell a : Nat) : Nat → State → List Byte × State
  | 0, s => ([], s)
  | n + 1, s =>
    let (x, s) := spReadWord p j cell a s
    let (y, s) := spReadWords p j cell (a + 64) n s
    (x ++ y, s)

/-- Clear the stored errors of the bank words in which bytes are written. -/
def clearErr (bs : List (Nat × Byte)) (t : Tbl Byte) : Tbl Byte :=
  t.filter (fun e => !bs.any (fun x => x.1 / 64 == e.1 / 80))

/-- Write bytes to a cell's scratchpad in cycle `j`. -/
def spWrite (j : Nat) (bs : List (Nat × Byte)) (c : Cell) : Cell :=
  { c with sp := c.sp.puts j bs, spErr := clearErr bs c.spErr }

/-- Raise a fault of a cell once for each operation that is not performed (R188). -/
def cellFaults (p j cell code : Nat) : Nat → State → State
  | 0, s => s
  | n + 1, s => cellFaults p j cell code n (cellFault p j cell code id s)

/-- A write of a tile register in cycle `j` (R90, R115): with a second write on the same path, or one on the other path that
covers a byte of it, neither is performed, and each raises TILE_PORT. A write that is not `on` only asks for its port (R163). -/
def tileWriteOp (p j cell reg path : Nat) (on : Bool) (pairs : List (Nat × Byte)) (s : State) : State :=
  let c := getCell s cell
  let here := c.tileWrites.filter (fun w => w.cyc == j)
  let live := fun (w : TileWrite) => w.done || w.ghost
  let meets := fun (w : TileWrite) => w.reg == reg &&
    (decide ((w.path = 0) = (path = 0)) || (live w && pairs.any (fun x => w.addrs.contains x.1)))
  let hit := here.filter meets
  let mine : TileWrite := { cyc := j, reg := reg, path := path, addrs := pairs.map (·.1), done := hit.isEmpty && on, ghost := hit.isEmpty && !on }
  if hit.isEmpty then
    modCell cell (fun c => { c with tileWrites := mine :: here, tiles := if on then c.tiles.puts j pairs else c.tiles }) s
  else
    cellFaults p j cell 0x020A ((hit.filter live).length + 1) (modCell cell (fun c => { c with
      tileWrites := mine :: here.map (fun w => if meets w then { w with done := false, ghost := false } else w)
      tiles := (hit.filter (·.done)).foldl (fun st w => st.undo j w.addrs) c.tiles }) s)

/-- An R90 write of a tile lane in cycle `j`. -/
def tileLaneWrite (p j cell reg block lane es : Nat) (on : Bool) (data : List Byte) (s : State) : State :=
  tileWriteOp p j cell reg 0 on ((List.range 64).map (fun i => (tileAddr reg block lane es i, data.getD i 0))) s

/-- Take back the lanes that a cell has emitted in cycle `j` from a source that turns out not to be read. -/
def unemit (j cell : Nat) (gone : EmitNote → Bool) (s : State) : State :=
  let hit := (getCell s cell).emits.filter (fun x => x.cyc == j && gone x)
  if hit.isEmpty then s
  else modBand (cell / 128) (fun bd => { bd with lanes := bd.lanes.filter (fun l =>
      !(l.emitted && l.birth == j && l.origin == cell % 128 && hit.any (fun x => x.ccw == l.ccw && x.idx == l.idx))) })
    (modCell cell (fun c => { c with emits := c.emits.filter (fun x => !(x.cyc == j && gone x)) }) s)

/-- Whether the pass reads a tile register through the ports of R90 in cycle `j`. -/
def passTileRead (c : Cell) (j reg : Nat) : Bool :=
  c.passes.any (fun p =>
    let n : Int := ageAt (j + 1) p.e0
    n ≥ 0 && [0, 1].any (fun s => match p.src s, p.access s n.toNat with
      | some (.tile r _ _ _), some _ => r == reg
      | _, _ => false))

/-- A read of a tile register through its R90 port in cycle `j`: whether it is performed. With a second one in the cycle
neither is, and each raises TILE_PORT. -/
def tileReadOp (p j cell reg : Nat) (s : State) : Bool × State :=
  let c := getCell s cell
  let n := (c.tileReads.filter (fun r => r.1 = j ∧ r.2 = reg)).length
  let note := fun (c : Cell) => { c with
    tileReads := (j, reg) :: c.tileReads.filter (fun r => decide (ageAt j r.1 ≥ 0 ∧ ageAt j r.1 < 4)) }
  if passTileRead c j reg then (false, cellFault p j cell 0x020A id (modCell cell note s))
  else if n = 0 then (true, modCell cell note s)
  else
    let gone := fun (x : PendChunk) => x.tile == some reg && x.at_ == (j + 1) % 2 ^ 48
    (false, cellFaults p j cell 0x020A (if n = 1 then 2 else 1)
      (unemit j cell (fun x => x.tile == some reg)
        (modCell cell (fun c => note { c with chunkQ := c.chunkQ.filter (fun x => !gone x) }) s)))

/-- Reads of weight chunks and emissions that were granted ports of some banks in cycle `j`, and that come after the requester `code` in
the order of R179, are taken back, and raise their faults (R54, R87). -/
def takeBackReads (p j cell code : Nat) (banks : List Nat) (s : State) : State :=
  let late := fun (r : BankReq) => r.cyc == j && !r.write && banks.contains r.bank && r.held && (r.code == 7 || decide (r.code ≥ 12))
  let l := (getCell s cell).reqs.filter late
  if l.isEmpty then s
  else
    let s := l.foldl (fun s r => bankFault p j cell false r.code (code, r.bank) s) s
    unemit j cell (fun x => x.bank.any (banks.contains ·)) (modCell cell (fun c => { c with
      reqs := c.reqs.map (fun r => if late r then { r with held := false } else r)
      chunkQ := c.chunkQ.filter (fun x => !(x.bank.any (banks.contains ·) && x.at_ == (j + 2) % 2 ^ 48)) }) s)

/-- An access to a bank by a weight chunk or an emission (read), or a capture (write), in cycle `j`, as requester `code` and
`order`: whether it is performed. It loses its port to the requesters of `portLoser`, and to one of its own code and order that
has asked before. One of these kinds that was granted the port in this cycle and comes later in the order of R179 is taken
back, and raises its fault (R54, R87, R179). -/
def bankOp (p j cell : Nat) (write : Bool) (code order bank : Nat) (s : State) : Bool × State :=
  let c := getCell s cell
  match portLoser c j write code (order + 1) [bank] with
  | some w => (false, bankFault p j cell write code w (modCell cell (fun c =>
      { c with reqs := ⟨j, write, code, bank, order, false⟩ :: c.reqs }) s))
  | none =>
    if write then
      let late := fun (r : BankReq) => r.cyc == j && r.write && r.bank == bank && r.held && (r.code == 7 || decide (r.code ≥ 12))
      let s2 := (c.reqs.filter late).foldl (fun s r => bankFault p j cell true r.code (code, bank) s) s
      let undo := if c.reqs.any late then (c.sp.old.filter (fun e => e.1 == j && bankOf e.2.1 == bank)).map (·.2.1) else []
      (true, modCell cell (fun c => addReq j true code order bank { c with
        reqs := c.reqs.map (fun r => if late r then { r with held := false } else r), sp := c.sp.undo j undo }) s2)
    else (true, modCell cell (addReq j false code order bank) (takeBackReads p j cell code [bank] s))

end Sys2Proof.Machine
end

