-- ==== Sys2Proof/Machine/Lanes.lean ====
section
/-! DEFINITION. Lanes as cells see them: ages, places, check fields and the ordered conditions of a capture (R55-R61, R184);
the row data of a cell (R85). -/

namespace Sys2Proof.Machine

/-- Age of a lane in cycle `j`, and the physical position of its slot (R55, R56). -/
def Lane.age (l : Lane) (j : Nat) : Int := ageAt j l.birth
def Lane.pos (l : Lane) (j : Nat) : Nat :=
  (((l.origin : Int) + (if l.ccw then -(l.age j) else l.age j)).emod 128).toNat

/-- Age at which a lane emitted by a cell enters the head (R60). -/
def Lane.headAge (l : Lane) : Nat := if l.ccw then l.origin + 1 else 128 - l.origin

/-- Whether a lane stands in its ring slot in cycle `j`: placed, not removed (R58), not taken off (R62). -/
def Lane.onRing (l : Lane) (j : Nat) : Bool :=
  l.placed && decide (l.age j ≤ l.life) && (l.dest == 0 || decide (l.age j < l.headAge))

/-- The lane in a slot in cycle `j`. -/
def laneAt (bd : Band) (j : Nat) (ccw : Bool) (idx pos : Nat) : Option Lane :=
  bd.lanes.find? (fun l => l.ccw == ccw && l.idx == idx && l.onRing j && l.pos j == pos)

/-- The bytes that CHECK covers: data, DEST, TAG and LIFE (Table 3.2). -/
def checkBytes (data : List Byte) (dest tag life : Nat) : List Byte :=
  data ++ leBytes 3 (dest % 4 + tag % 16 * 4 + life % 32768 * 64)

/-- CHECK without the part that its start value, which the spec does not give, contributes: two CHECK fields agree exactly when
these do (log entry 3). -/
def laneCheck (data : List Byte) (dest tag life : Nat) : BitVec 16 := crc16 0 (checkBytes data dest tag life)

/-- A lane as a reader sees it when bits flip: bytes 0 to 63 are data, 64 on the sideband of Table 3.2. -/
def Lane.flip (l : Lane) (j : Nat) (n : Noise) : Lane × Bool :=
  let data := n.foldl (fun d e => if e.1 < 64 then d.set e.1 (d.getD e.1 0 ^^^ e.2) else d) l.data
  let side := 1 + l.dest * 2 + l.tag * 8 + unsigned 16 (l.age j) * 128 + l.life * 2 ^ 23 + l.check.toNat * 2 ^ 38
  let x := leNat (n.foldl (fun d e => if 64 ≤ e.1 ∧ e.1 < 80 then d.set (e.1 - 64) (d.getD (e.1 - 64) 0 ^^^ e.2) else d)
    (leBytes 16 side))
  let age := signed 16 (bits x 7 16)
  ({ l with data := data, dest := bits x 1 2, tag := bits x 3 4, life := bits x 23 15,
            check := BitVec.ofNat 16 (bits x 38 16), birth := (((j : Int) - age).emod (2 ^ 48)).toNat }, bitOf x 0)

/-- RING_CHECK (R68): a job-fatal record that names the place, and the count of the band. -/
def ringCheck (p j b ppos lpos idx : Nat) (ccw : Bool) (s : State) : State :=
  let s := jobFatal p 0x0301 (some b) [(0, j), (6, ppos), (7, lpos), (8, 0xFF), (9, idx + b2n ccw * 8)] .otherFatal (some j) s
  modBand b (fun x => { x with ringChecks := x.ringChecks + 1 }) s

/-- Value that a capture compares with TAG (R184). -/
def ringTime (ccw : Bool) (j q : Nat) : Nat := (j + 2 ^ 48 - (if ccw then 127 - q else q)) % 16

/-- The AGE at which an injected lane leaves the alignment stage for the hop at the head (R59). -/
def placeAge (ccw : Bool) (rot : Nat) : Int := if ccw then ((rot % 128 : Nat) : Int) - 129 else -(((rot % 128 : Nat) : Int) + 1)

/-- The lane that a cell sees in a slot in cycle `j` (R58, R59): one that its own router emits in this cycle among them, but not
one that is placed in this cycle, which is in the hop at the head. -/
def laneSeen (bd : Band) (j : Nat) (ccw : Bool) (idx pos : Nat) : Option Lane :=
  bd.lanes.find? (fun l => l.ccw == ccw && l.idx == idx && l.onRing j && l.pos j == pos &&
    (l.emitted || decide (l.age j > placeAge ccw bd.rot)))

/-- The conditions of a capture in cycle `j`, in the order of R61, for lane `idx`: the data, or the fault of the first that
fails. -/
def captureTake (p j cell q idx : Nat) (ccw : Bool) (noise : Noise) (s : State) : Option (List Byte) × State :=
  let b := cell / 128
  let pos := cell % 128
  let fault := fun (code : Nat) (f : SFault → SFault) =>
    cellFault p j cell code (fun x => { f x with jcc := j, lane := idx, ccw := ccw }) s
  match laneSeen (getBand s b) j ccw idx pos with
  | none => (none, fault 0x0202 id)
  | some l0 =>
    let (l, valid) := l0.flip j noise
    if !valid then (none, fault 0x0202 id)
    else if laneCheck l.data l.dest l.tag l.life ≠ l.check then (none, ringCheck p j b pos q idx ccw s)
    else if l.dest ≠ 0 then (none, fault 0x0203 id)
    else if l.age j < 0 then (none, fault 0x0204 id)
    else if ringTime ccw j q ≠ l.tag then
      (none, fault 0x0205 (fun x => { x with cmp := ringTime ccw j q, tag := l.tag }))
    else (some l.data, s)

/-- Keep 64 bytes of row data (R85): the newest scale word stays until the next one, beside the data of the last cycles. -/
def keepRow (x : RowData) (c : Cell) : Cell :=
  let data := (c.rowData.filter (fun y => y.src != 4)).take 15
  { c with rowData := if x.src == 4 then x :: data else x :: data ++ c.rowData.filter (fun y => y.src == 4) }

end Sys2Proof.Machine
end

