-- ==== Sys2Proof/Machine/Arrays.lean ====
section
/-! DEFINITION. The matrix arrays: weight chunks, swap, mode set, row passes (chapter 04 and R97-R107 of spec/). -/

namespace Sys2Proof.Machine

/-- Chunks of a weight block (Table 4.1). -/
def chunkCount (f : OpFmt) : Nat := (elemBits f.elem * 32 + (if f.mx then 16 else 0) + 63) / 64

/-- Whether a format may be the weight format of a block (R87). -/
def weightFmt (f : OpFmt) : Bool :=
  if f.mx then [Elem.e2m1, .e2m3, .e3m2, .e4m3, .e5m2].contains f.elem
  else [Elem.e4m3, .e5m2, .bf16, .fp16, .int8].contains f.elem

/-- Element patterns packed in bytes, least significant first. -/
def unpackElems (f : Elem) (n : Nat) (bs : List Byte) : List Nat :=
  let v := leNat bs
  (List.range n).map (fun i => bits v (i * elemBits f) (elemBits f))

/-- A complete shadow as a block, oriented (R89). -/
def Shadow.block (s : Shadow) : Block :=
  let bytes := (List.range (chunkCount s.fmt)).flatMap (fun c =>
    fit 64 ((s.chunks.find? (fun x => x.1 == c)).elim [] (·.2)))
  let es := unpackElems s.fmt.elem 256 (bytes.take (elemBits s.fmt.elem * 32))
  let oriented := if s.transposed then
      (List.range 256).map (fun i => es.getD (i % 16 * 16 + i / 16) 0) else es
  let last := bytes.drop (64 * (chunkCount s.fmt - 1))
  { fmt := s.fmt, transposed := s.transposed, elems := oriented,
    scales := if s.fmt.mx then (last.take 16).map (·.toNat) else [] }

/-- Whether every chunk of a shadow's block is available (R88). -/
def Shadow.full (s : Shadow) : Bool := (List.range (chunkCount s.fmt)).all (fun c => s.chunks.any (·.1 == c))

/-- A chunk begins its way to a shadow. -/
def chunkOp (cell : Nat) (x : PendChunk) (s : State) : State := modCell cell (fun c => { c with chunkQ := c.chunkQ ++ [x] }) s

/-- A weight chunk from the scratchpad or a tile register (R87, Table 4.6); with its predicate false it asks for its
port and moves nothing (R163). -/
def weightChunkOp (p j cell q : Nat) (array : Option Nat) (chunk : Nat) (tr : Bool) (fmt : OpFmt) (src : ChunkSrc)
    (on : Bool) (s : State) : State :=
  let c := getCell s cell
  match src with
  | .sp a =>
    let addr := spAddrOf c j q a / 64 * 64
    let (ok, s1) := bankOp p j cell false 7 (array.getD 0) (bankOf addr) s
    if !ok || !on then s1
    else
      let (d, s2) := spReadWord p j cell addr s1
      chunkOp cell { at_ := (j + 2) % 2 ^ 48, array := array, chunk := chunk, transposed := tr, fmt := fmt, data := d, bank := some (bankOf addr) } s2
  | .tile reg block lane es =>
    let (ok, s1) := tileReadOp p j cell reg s
    if !ok || !on then s1
    else chunkOp cell { at_ := (j + 1) % 2 ^ 48, array := array, chunk := chunk, transposed := tr, fmt := fmt, data := tileLane c j reg block lane es false, tile := some reg } s1

/-- The swap (R88). -/
def swapOp (p j cell mask : Nat) (s : State) : State :=
  let c := getCell s cell
  let names := if c.wide then (List.range 4).filter (fun a => bitOf mask a) else [0, 1, 2, 3]
  let full := names.all (fun a => match tget none c.shadow a with | some sh => sh.full | none => false)
  if !full then cellFault p j cell 0x020C id s
  else modCell cell (fun c => { c with
    resident := names.foldl (fun t a => tset none t a ((tget none c.shadow a).map Shadow.block)) c.resident
    shadow := names.foldl (fun t a => tset none t a none) c.shadow }) s

/-- Whether a row occupies an array in cycle `j`. -/
def rowOccupies (c : Cell) (j : Nat) : Bool :=
  c.passes.any (fun p => decide (ageAt j p.e0 ≥ 0) && decide ((ageAt j p.e0).toNat < p.cycles))

/-- The mode set (R91). DESIGN CHOICE (log entry 22): it clears the shadows, and the spec does not say what becomes of a chunk that is
on its way to one; the chunk reaches the cleared shadow, under the new mode. -/
def modeSetOp (p j cell : Nat) (wide : Bool) (s : State) : State :=
  if rowOccupies (getCell s cell) j then cellFault p j cell 0x020F id s
  else modCell cell (fun c => { c with wide := wide, resident := [], shadow := [] }) s

/-- The pipeline length P (Table 4.5): in compatibility latency and on A0 the A0 value. -/
def pipeLen (wide acc16 a0 : Bool) : Nat :=
  match wide, acc16 with
  | false, false => if a0 then 14 else 11
  | false, true => if a0 then 16 else 12
  | true, false => if a0 then 15 else 12
  | true, true => if a0 then 17 else 13

/-- Latencies of the arrays of a band: A0 values on A0 and in compatibility latency (R95). -/
def arrA0 (s : State) (b : Nat) : Bool := !s.ident.b0 || (getBand s b).arrCompat

/-- Whether an earlier pass still occupies an array in the cycle of a first entry (R93, Table 4.4). -/
def passBusy (c : Cell) (e0 : Nat) : Bool :=
  c.passes.any (fun p => decide (ageAt e0 p.e0 ≥ 0) && decide ((ageAt e0 p.e0).toNat < p.cycles))

/-- The entries of a cell FIFO that a start of cycle `j` finds: one delivered in the same cycle comes after it (R165). -/
def visible (j : Nat) (l : List QEntry) : List QEntry := l.filter (fun e => e.got != some j)

/-- Whether a row source reads a tile register transposed. -/
def readsTransposed : RowSrc → Bool
  | .tile _ _ _ tr => tr
  | _ => false

/-- Whether a pass may run (R82, Table 4.2). DESIGN CHOICE (log entry 22): MX rows from a transposed tile register, which R90
and R112 do not have, raise PASS_FORMAT as the other combinations outside Table 4.1 do. -/
def passOk (wide : Bool) (d : PassDesc) : Bool :=
  passRate d.xf d.wf d.acc != 0 && !(wide && (d.mask == 0 || decide (d.mask ≥ 16))) &&
  !(d.xf.mx && (readsTransposed d.src0 || (d.src1.map readsTransposed).getD false))

/-- A pass start (R83, R165, Table 8.1). `on` is false when its predicate is; DESIGN CHOICE (log entry 22): the checks of the
descriptor are made then too; and a pass that a fault refuses as a whole schedules no steps, so that no generator advances for it
(R107 names the unperformed steps of a pass that is scheduled). -/
def passStartOp (p j cell q seq : Nat) (on : Bool) (s : State) : State :=
  let c := getCell s cell
  match visible j c.arrayFifo with
  | [] => cellFault p j cell 0x0218 id s
  | e :: _ =>
    if e.seq ≠ seq then cellFault p j cell 0x0219 id s
    else
      let s := modCell cell (fun c => { c with arrayFifo := c.arrayFifo.drop 1 }) s
      match e.body with
      | .array d =>
        if !passOk c.wide d then cellFault p j cell 0x0210 id s
        else
          let e0 := (j + 3) % 2 ^ 48
          if passBusy c e0 then cellFault p j cell 0x020F id s
          else
            let lat := pipeLen c.wide (d.acc == .acc16) (arrA0 s (cell / 128))
            let ps : Pass := { d := d, e0 := e0, n := 0, wide := c.wide, lat := lat, performed := on, q := q, part := [] }
            modCell cell (fun c => { c with
              passes := c.passes.filter (fun x => !(decide (ageAt j x.e0 ≥ 0) && decide ((ageAt j x.e0).toNat ≥ x.cycles))) ++ [ps]
              rowsDone := if on then 0 else c.rowsDone
              rowsOf := if on then e0 else c.rowsOf
              acc16 := if on then d.acc == .acc16 else c.acc16 }) s
      | _ => s

/-- Fetch source access `k` of source `s_` for the entry cycle `j` (R85, Table 4.6): its bytes go to `rowData`. A ring source
takes the lane that a CAPTURE put into the row stream in the cycle before; with no such command the pass is itself the
capture (Table 4.2), under the conditions of R61. DESIGN CHOICE (log entry 22): a pass at 128 row bytes per cycle that names no
SRC1 has no bytes for the rows of the upper half, which do not enter, with no fault; and a row whose CAPTURE into the row stream is
predicated off does not enter either, with no fault, since that capture raises none (R163). A predicated-off pass asks for its ports
and takes no bytes; of a source whose port it has, it keeps an empty note. -/
def fetchAccess (p j cell : Nat) (ps : Pass) (s_ k : Nat) (s : State) : State :=
  let c := getCell s cell
  let keep := fun (d : List Byte) => keepRow ⟨ps.e0, s_, k, d⟩
  match ps.src s_ with
  | some (.sp r) =>
    let a := ps.srcAddr r k / 64 * 64
    let j2 := (j + 2 ^ 48 - 2) % 2 ^ 48
    match portLoser c j2 false (4 + s_) 0 [bankOf a] with
    | some w => bankFault p j2 cell false (4 + s_) w s
    | none =>
      if !ps.performed then modCell cell (keep []) s else let (d, s1) := spReadWord p j2 cell a s; modCell cell (keep d) s1
  | some (.tile reg block lane tr) =>
    let (r, b, l, es, t) := ps.tileAcc reg block lane tr k
    let j1 := (j + 2 ^ 48 - 1) % 2 ^ 48
    let other := match ps.src (1 - s_), ps.access (1 - s_) (ageAt j ps.e0).toNat with
      | some (.tile r0 _ _ _), some _ => r0 == r
      | _, _ => false
    if c.tileReads.any (fun x => x.1 = j1 ∧ x.2 = r) || other then cellFault p j1 cell 0x020A id s
    else modCell cell (keep (if ps.performed then tileLane c j1 r b l es t else [])) s
  | some (.ring d) =>
    let j1 := (j + 2 ^ 48 - 1) % 2 ^ 48
    let ccw := d == .ccw
    if !ps.performed then modCell cell (keep []) s
    else match c.rowData.find? (fun x => x.pass == j1 && x.src == (if ccw then 3 else 2)) with
      | some x => if x.data = [] then s else modCell cell (keep x.data) s
      | none =>
        match captureTake p j1 cell ps.q
            ((if ccw then c.laneCcw else c.laneCw).past j) ccw [] s with
        | (some x, s) => modCell cell (keep x) s
        | (none, s) => s
  | none => s

/-- Fetch the scale word of rows from 64 w on (R85). -/
def fetchScale (p j cell : Nat) (ps : Pass) (w : Nat) (s : State) : State :=
  let c := getCell s cell
  let a := (relVal 0x80000 ps.q ps.d.scale + 64 * w) % 0x80000 / 64 * 64
  let j2 := (j + 2 ^ 48 - 2) % 2 ^ 48
  match portLoser c j2 false 6 0 [bankOf a] with
  | some x => bankFault p j2 cell false 6 x s
  | none =>
    if !ps.performed then modCell cell (keepRow ⟨ps.e0, 4, w, []⟩) s
    else let (d, s1) := spReadWord p j2 cell a s
         modCell cell (keepRow ⟨ps.e0, 4, w, d⟩) s1

/-- Source, access and byte of byte `i` of row `row` (R85). -/
def Pass.locate (p : Pass) (row i : Nat) : Nat × Nat × Nat :=
  let rb := rowBytes p.d.xf
  if p.two then
    let rc := 128 / rb
    let w := row % rc
    let pos := row / rc * 64 + w % (rc / 2) * rb + i
    (w / (rc / 2), pos / 64, pos % 64)
  else ((0 : Nat), (row * rb + i) / 64, (row * rb + i) % 64)

/-- The bytes of a row, when every access it needs was taken. -/
def rowBytesOf (c : Cell) (p : Pass) (row : Nat) : Option (List Byte) :=
  (List.range (rowBytes p.d.xf)).foldr (fun i acc =>
    let (s, k, o) := p.locate row i
    match acc, c.rowData.find? (fun x => x.pass == p.e0 && x.src == s && x.k == k) with
    | some l, some x => some (x.data.getD o 0 :: l)
    | _, _ => none) (some [])

/-- The scale byte of a row, for MX formats. -/
def rowScale (c : Cell) (p : Pass) (row : Nat) : Option Nat :=
  if !p.d.xf.mx then some 127
  else (c.rowData.find? (fun x => x.pass == p.e0 && x.src == 4 && x.k == row / 64)).map
    (fun x => (x.data.getD (row % 64) 0).toNat)

/-- Arrays that a row enters (R84). -/
def Pass.rowArrays (p : Pass) (row : Nat) : List Nat :=
  if p.wide then (List.range 4).filter (fun a => bitOf p.d.mask a) else [row % 4]

/-- Rows whose first cycle is entry cycle `n`, and rows complete in it (R84). -/
def Pass.rowsIn (p : Pass) (n : Nat) : List Nat :=
  let rate := passRate p.d.xf p.d.wf p.d.acc
  let units := if rate = 4 then [2 * n, 2 * n + 1] else if rate = 1 then [n / 2] else [n]
  (units.flatMap (fun u => if p.wide then [u] else [4 * u, 4 * u + 1, 4 * u + 2, 4 * u + 3])).filter (· < p.d.rows)

/-- Step and half of a row in its array (R86). -/
def Pass.stepOf (p : Pass) (row : Nat) : Nat × Nat :=
  let a := if p.wide then row else row / 4
  if p.d.acc = .acc16 then (a / 2, a % 2) else (a, 0)

/-- Rows that a step of an array has. -/
def Pass.stepRows (p : Pass) (array step : Nat) : Nat :=
  let n := if p.wide then p.d.rows else (p.d.rows + 3 - array) / 4
  if p.d.acc = .acc16 then min 2 (n - 2 * step) else 1

/-- Advance an array's generator (R107). -/
def genOf (c : Cell) (a : Nat) : W64 := tget unseeded c.gens a
def advanceArray (a : Nat) (c : Cell) : Cell := { c with gens := tset unseeded c.gens a (advanceGen (genOf c a)) }

/-- A row begins to enter one array: the block it meets; at half rate the generator advances now. -/
def beginRow (j e0 : Nat) (row a : Nat) (c : Cell) : Cell :=
  match c.passes.find? (·.e0 == e0) with
  | none => c
  | some p =>
    let half := passRate p.d.xf p.d.wf p.d.acc = 1
    let c := if half then advanceArray a c else c
    let part : RowPart := { array := a, step := (p.stepOf row).1, half := (p.stepOf row).2, row := row, blk := tget none c.resident a, gen := (if half then some (genOf c a) else none), ok := false, xs := [], sx := 127, at_ := j }
    { c with passes := c.passes.map (fun x => if x.e0 == e0 then { x with part := x.part ++ [part] } else x) }

/-- Form the step whose rows are all taken (R86, R92, R107). DESIGN CHOICE (log entry 22): the two rows of a step at 16-bit accumulation
enter in two cycles, and the spec does not say which of them is the step's; the second row's cycle dates its read, its write and its
draws. A step with a row that does not enter asks for no port, whether its pass is performed or predicated off (R163). -/
def formStep (j : Nat) (ps : Pass) (a step : Nat) (s : State) (cell : Nat) : State :=
  let c := getCell s cell
  match c.passes.find? (·.e0 == ps.e0) with
  | none => s
  | some cur =>
    let mine := cur.part.filter (fun r => r.array == a && r.step == step)
    if mine.length < ps.stepRows a step || mine.any (fun r => !r.ended) then s
    else
      let c := match mine.head? with
        | some r => if r.gen.isSome then c else advanceArray a c
        | none => c
      let gen := match mine.head? with
        | some r => r.gen.getD (genOf c a)
        | none => genOf c a
      let c := { c with passes := c.passes.map (fun x => if x.e0 == ps.e0 then
        { x with part := x.part.filter (fun r => !(r.array == a && r.step == step)) } else x) }
      let off := 64 * ps.d.stride * step
      let addr := fun (r : Rel) => (relVal 0x80000 ps.q r + off) % 0x80000 / 64 * 64
      let st : Step := { array := a, readAt := (j + ps.lat - 3) % 2 ^ 48, writeAt := (j + ps.lat) % 2 ^ 48, inAddr := ((ps.d.ins.getD a none).map addr), outAddr := addr (ps.d.outs.getD a ⟨0, 0⟩), acc := ps.d.acc, xf := ps.d.xf, rows := mine, gen := gen, psum := none, ok := true, performed := ps.performed }
      if !mine.all (·.ok) then setCell cell c s
      else if !ps.performed then setCell cell { c with steps := c.steps ++ [st] } s
      else
        let same := fun (x : Step) => x.performed && x.writeAt == st.writeAt && x.acc == st.acc
        let fresh := if ps.wide && c.steps.any (fun x => same x && decide (x.array < a)) then 0 else mine.length
        let rate := passRate ps.d.xf ps.d.wf ps.d.acc
        let busy := if rate = 1 then 2 else if rate = 2 then mine.length
          else if c.steps.any (fun x => same x && x.array == a) then 0 else 1
        let s := { s with patina := { s.patina with live := { s.patina.live with
          band := tmod {} s.patina.live.band (cell / 128) (fun t => { t with array := cnt t.array busy }) } } }
        setCell cell { c with steps := c.steps ++ [st], rowsDone := if c.rowsOf = ps.e0 then (c.rowsDone + fresh) % 2 ^ 32 else c.rowsDone } s

/-- A row is complete in one array: its bytes and scale, and the faults of R92. DESIGN CHOICE (log entry 22): at half rate, where a row
enters in E and E + 1, the block is the one resident at E, and the fault is of E + 1. -/
def endRow (p j cell : Nat) (ps : Pass) (row a : Nat) (s : State) : State :=
  let c := getCell s cell
  match (c.passes.find? (·.e0 == ps.e0)).bind (fun x => x.part.find? (fun r => r.row == row && r.array == a)) with
  | none => s
  | some r =>
    let data := rowBytesOf c ps row
    let sc := rowScale c ps row
    let code := match r.blk with
      | none => some 0x020B
      | some b => if b.fmt = ps.d.wf then none else some 0x0210
    let s := match code with
      | some k => if ps.performed then cellFault p j cell k id s else s
      | none => s
    let ok := code.isNone && data.isSome && sc.isSome
    let r' := { r with ended := true, ok := ok, xs := unpackElems ps.d.xf.elem 16 (data.getD []), sx := sc.getD 127 }
    let s := modCell cell (fun c => { c with passes := c.passes.map (fun x => if x.e0 == ps.e0 then
      { x with part := x.part.map (fun y => if y.row == row && y.array == a then r' else y) } else x) }) s
    formStep j ps a (ps.stepOf row).1 s cell

/-- One entry cycle of a pass (R84, R92). -/
def entryCycle (p j cell : Nat) (ps : Pass) (n : Nat) (s : State) : State :=
  let s := [0, 1].foldl (fun s i => match ps.access i n with
    | some k => fetchAccess p j cell ps i k s
    | none => s) s
  let s := match ps.scaleWord n with
    | some w => fetchScale p j cell ps w s
    | none => s
  let half := passRate ps.d.xf ps.d.wf ps.d.acc = 1
  let rows := ps.rowsIn n
  let pairs := rows.flatMap (fun r => (ps.rowArrays r).map (fun a => (r, a)))
  let s := if half && n % 2 = 1 then s
    else modCell cell (fun c => pairs.foldl (fun c x => beginRow j ps.e0 x.1 x.2 c) c) s
  let s := if half && n % 2 = 0 then s else pairs.foldl (fun s x => endRow p j cell ps x.1 x.2 s) s
  modCell cell (fun c => { c with passes := c.passes.map (fun x =>
    if x.e0 == ps.e0 then { x with n := n + 1 } else x) }) s

/-- Whether rows of a pass are to enter in cycle `j` and have not yet. -/
def Pass.due (p : Pass) (j : Nat) : Bool :=
  decide (ageAt j p.e0 ≥ 0) && decide ((ageAt j p.e0).toNat < p.cycles) && decide (p.n ≤ (ageAt j p.e0).toNat)

/-- The rows of the present entry cycle enter (R92). -/
def rowEntryOp (p j cell : Nat) (s : State) : State :=
  match (getCell s cell).passes.find? (·.due j) with
  | some ps => entryCycle p j cell ps (ageAt j ps.e0).toNat s
  | none => s

/-- The partial-sum read of one step (R86, R94, R179). -/
def psumRead (p j cell : Nat) (st : Step) (s : State) : State :=
  let c := getCell s cell
  let upd := fun (f : Step → Step) (s : State) =>
    modCell cell (fun c => { c with steps := c.steps.map (fun x => if x == st then f x else x) }) s
  match st.inAddr with
  | none => s
  | some a =>
    match portLoser c j false st.array (stepOrder c false st) [bankOf a] with
    | some w => upd (fun x => { x with ok := false }) (bankFault p j cell false st.array w s)
    | none =>
      if !st.performed then s
      else let (d, s1) := spReadWord p j cell a s; upd (fun x => { x with psum := some d }) s1

/-- Flip stored symbols of a bank word. -/
def flipWord (a : Nat) (noise : Noise) (c : Cell) : Cell :=
  { c with spErr := noise.foldl (fun t e => tmod 0 t (a / 64 * 80 + e.1) (· ^^^ e.2)) c.spErr }

/-- The partial sums due in cycle `j` are read. `noise` flips symbols of the first word read. -/
def partialSumReadOp (p j cell : Nat) (noise : Noise) (s : State) : State :=
  let due := (getCell s cell).steps.filter (fun x => x.readAt = j)
  let s := match due.head?.bind (·.inAddr) with
    | some a => if noise = [] then s else modCell cell (flipWord a (noise.filter (·.1 < 72))) s
    | none => s
  due.foldl (fun s st => psumRead p j cell st s) s

/-- Products of one output (R99): none for zero times infinity. -/
def stepProducts (xf : OpFmt) (r : RowPart) (b : Block) (n : Nat) : List (Option Num) :=
  (List.range 16).map (fun k =>
    let x := decodeElem xf.elem (r.xs.getD k 0)
    let w := decodeElem b.fmt.elem (b.elems.getD (16 * k + n) 0)
    let sc := fun (v : Num) => if xf.mx then scaleNum (scaleNum v (some r.sx)) (some (b.scales.getD n 127)) else v
    if xf.mx && (r.sx == 255 || b.scales.getD n 127 == 255) then some .nan else (mulNum x w).map sc)

/-- Integer values of the patterns of a row or column. -/
def intsOf (ps : List Nat) : List Int := ps.map (signed 8)

/-- The output element n of half h of a step, with its flags (R99-R103, R107). -/
def stepElem (st : Step) (psum : List Byte) (r : RowPart) (n : Nat) : Nat × Nat :=
  match r.blk with
  | none => (0, 0)
  | some b =>
    match st.acc with
    | .fp32 => stepOutput .fp32 none (decodeElem .fp32 (field psum (4 * n) 4)) (stepProducts st.xf r b n)
    | .acc16 => stepOutput .bf16 (some (drawGen st.gen (16 * r.half + n)))
        (decodeElem .bf16 (field psum (32 * r.half + 2 * n) 2)) (stepProducts st.xf r b n)
    | .int32 => stepInt (signed 32 (field psum (4 * n) 4)) (intsOf r.xs)
        (intsOf ((List.range 16).map (fun k => b.elems.getD (16 * k + n) 0)))

/-- The output word of a step with its flags and the number of NaN elements (R86, R101). -/
def stepWord (st : Step) (psum : List Byte) : List Byte × Nat × Nat :=
  let size := if st.acc = .acc16 then 2 else 4
  let outs := st.rows.map (fun r => (r.half, (List.range 16).map (stepElem st psum r)))
  let all := outs.flatMap (·.2)
  let flags := all.foldl (fun a e => a ||| e.2) 0
  let nans := (all.filter (fun e => e.2 &&& (nNanIn ||| nInvalid) ≠ 0)).length
  let half := fun (h : Nat) => match outs.find? (·.1 == h) with
    | some o => o.2.flatMap (fun e => leBytes size e.1)
    | none => (psum.drop (32 * h)).take 32
  (if st.acc = .acc16 then half 0 ++ half 1 else half 0, flags, nans)

/-- ARR_NUM after an output write (R103, Table 5.7). -/
def arrNumAdd (v : W32) (flags nans array : Nat) : W32 :=
  let n := v.toNat
  let cntv := satAdd 0xFFFF (n / 65536) nans
  BitVec.ofNat 32 (((n % 65536) ||| flags ||| (if nans > 0 then 2 ^ (8 + array) else 0)) + cntv * 65536)

/-- The output write of one step (R86, R94, R179). -/
def outWrite (p j cell : Nat) (st : Step) (s : State) : State :=
  let c := getCell s cell
  if !st.ok then s
  else match portLoser c j true st.array (stepOrder c true st) [bankOf st.outAddr] with
    | some w => bankFault p j cell true st.array w s
    | none =>
      if !st.performed then s
      else
        let psum := match st.inAddr, st.psum with
          | none, _ => zeros 64
          | some _, some d => d
          | some a, none => c.sp.read st.readAt a 64
        let (d, flags, nans) := stepWord st psum
        modCell cell (fun c => { spWrite j (spread 0x80000 st.outAddr d) c with
          arrNum := arrNumAdd c.arrNum flags nans st.array }) s

/-- The outputs due in cycle `j` are written. -/
def outputWriteOp (p j cell : Nat) (s : State) : State :=
  let due := (getCell s cell).steps.filter (fun x => x.writeAt = j)
  let s := due.foldl (fun s st => outWrite p j cell st s) s
  modCell cell (fun c => (due.filter (·.ok)).foldl (fun c st => addReq j true st.array 0 (bankOf st.outAddr) c)
    { c with steps := c.steps.filter (fun x => decide (x.writeAt ≠ j)) }) s

/-- The seed operation (R107): the five generators of the cell, from a salt. -/
def seedCell (job : W64) (lcell : Nat) (salt : W32) (c : Cell) : Cell :=
  { c with gens := [0, 1, 2, 3, 4].foldl (fun t a => tset unseeded t a (seedGen job lcell a salt)) c.gens }

def seedOp (p cell q : Nat) (salt : W32) (s : State) : State :=
  modCell cell (seedCell (getPart s p).jobSeed ((getBand s (cell / 128)).lband * 128 + q) salt) s

/-- The cycle in which the cell at a logical position executes a bundle of a slot (R159). -/
def skewOf (q : Nat) : Skew → Nat
  | .none => 0
  | .cw => q
  | .ccw => 127 - q

/-- The place of an operation among those of its cycle: what others of the bundle depend on comes first (R58, R93, R107, R179). -/
def opRank : CellOp → Nat
  | .seed _ => 0
  | .swap _ => 1
  | .modeSet _ => 2
  | .counter _ _ | .comparator _ _ | .laneReg _ _ => 3
  | .weightChunk _ _ _ _ _ => 4
  | .passStart _ | .vecStart _ => 5
  | .emission _ _ _ _ _ _ => 6
  | .capture _ _ _ => 7

/-- Kind of an operation, for the limits of R158; weight chunks have none of their own. -/
def opKind : CellOp → Option Nat
  | .capture .cw _ _ => some 0
  | .capture .ccw _ _ => some 1
  | .emission .cw _ _ _ _ _ => some 2
  | .emission .ccw _ _ _ _ _ => some 3
  | .laneReg .cw _ => some 4
  | .laneReg .ccw _ => some 5
  | .weightChunk _ _ _ _ _ => none
  | .swap _ => some 6
  | .passStart _ => some 7
  | .vecStart _ => some 8
  | .seed _ => some 9
  | .modeSet _ => some 10
  | .counter _ _ => some 11
  | .comparator _ _ => none

/-- Whether operations make a bundle (R158): at most one of each kind, one weight chunk, in wide-and-shallow mode four. -/
def bundleFits (wide : Bool) (ops : List BundleOp) : Bool :=
  (List.range 12).all (fun k => decide ((ops.filter (fun o => opKind o.op == some k)).length ≤ 1)) &&
  decide ((ops.filter (fun o => opRank o.op == 4)).length ≤ (if wide then 4 else 1))

/-- Whether a bundle that comes before (slot, order) in the order of R159 has issued in the cell in cycle `j`, or waits in the
queue to issue in it. -/
def rival (s : State) (b q j cell slot order : Nat) : Bool :=
  let before := fun (t o : Nat) => decide (t < slot) || (t == slot && decide (o < order))
  s.pending.any (fun c => match c with
    | .bundleIssue t' b' q' sl sk o _ =>
      b' == b && q' == q && decide (t' ≤ s.clk.mcc) && (sl + skewOf q sk) % 2 ^ 48 == j && before sl o
    | _ => false) || (match (getCell s cell).bundle with
    | some (jj, _, _) => jj == j
    | none => false)

/-- Whether the sequencer of a band issues bundles of a slot: it has not ended, or ended after it (R157, R159). -/
def issuedBefore (x : Band) (slot : Nat) : Bool :=
  x.seqState == 1 || (x.seqState == 2 && (x.seqEnd.map (fun e => decide (0 ≤ ageAt e slot))).getD false)

/-- Whether a band's cells take bundles of a slot with these operations (R158): in broadcast mode, issued before END, within the
limits. A bundle of a slot before END is executed at its skew even where that falls after END (R159). -/
def bundleTaken (s : State) (b cell slot : Nat) (ops : List BundleOp) : Bool :=
  !(getBand s b).perCell && issuedBefore (getBand s b) slot && bundleFits (getCell s cell).wide ops

/-- The operations of a cell that wait in the queue for the present cycle `j`: rows of their own, and those of a bundle that is
to be performed (R158, R159). -/
def waitingOps (s : State) (b q j cell : Nat) : List BundleOp :=
  s.pending.flatMap (fun c => match c with
    | .seedOperation t' b' q' salt pr => if b' = b ∧ q' = q ∧ t' ≤ s.clk.mcc then [⟨.seed salt, pr⟩] else []
    | .swap t' b' q' m pr => if b' = b ∧ q' = q ∧ t' ≤ s.clk.mcc then [⟨.swap m, pr⟩] else []
    | .bundleIssue t' b' q' slot sk order ops =>
      if b' = b ∧ q' = q ∧ t' ≤ s.clk.mcc ∧ (slot + skewOf q sk) % 2 ^ 48 = j ∧ bundleTaken s b cell slot ops = true ∧
        rival s b q j cell slot order = false then ops else []
    | _ => [])

/-- Bring forward the seed operation and the swap that wait for the present cycle: they come before the rows and the words of
that cycle (R93, R107, R121), wherever they stand in the queue. -/
def bringForward (p j cell b q : Nat) (s : State) : State :=
  (waitingOps s b q j cell).foldl (fun s o =>
    let c := getCell s cell
    let note := fun (x : Bool) (s : State) => modCell cell (fun c => { c with early := (j, x) :: c.early.filter (·.1 == j) }) s
    match o.op with
    | .seed salt => if c.early.contains (j, false) || !predOk c j o.pred then s else note false (seedOp p cell q salt s)
    | .swap m => if c.early.contains (j, true) || !predOk c j o.pred then s else note true (swapOp p j cell m s)
    | _ => s) s

/-- A swap or a seed operation in its own place: nothing more where it has been brought forward. -/
def swapOnce (p j cell mask : Nat) (s : State) : State :=
  if (getCell s cell).early.contains (j, true) then s else swapOp p j cell mask s
def seedOnce (p j cell q : Nat) (salt : W32) (s : State) : State :=
  if (getCell s cell).early.contains (j, false) then s else seedOp p cell q salt s

/-- ROW_PASS_START (R83). -/
def execRowPassStart (t : Nat) (b : Fin 32) (q : Fin 128) (seq : Nat) (pred : Option Pred) (s : State) :
    Host.Outcome State Fault Refusal :=
  .next (cellEvent t b q (fun p j cell s => passStartOp p j cell q seq (predOk (getCell s cell) j pred) s) s)

/-- ROW_ENTRY (R92). -/
def execRowEntry (t : Nat) (b : Fin 32) (q : Fin 128) (s : State) : Host.Outcome State Fault Refusal :=
  .next (cellEvent t b q (fun p j cell s => rowEntryOp p j cell (bringForward p j cell b q s)) s)

/-- PARTIAL_SUM_READ (R86). -/
def execPartialSumRead (t : Nat) (b : Fin 32) (q : Fin 128) (noise : Noise) (s : State) :
    Host.Outcome State Fault Refusal :=
  .next (cellEvent t b q (fun p j cell s => partialSumReadOp p j cell noise s) s)

/-- OUTPUT_WRITE (R94). -/
def execOutputWrite (t : Nat) (b : Fin 32) (q : Fin 128) (s : State) : Host.Outcome State Fault Refusal :=
  .next (cellEvent t b q (fun p j cell s => outputWriteOp p j cell s) s)

/-- SWAP (R88). -/
def execSwap (t : Nat) (b : Fin 32) (q : Fin 128) (mask : Nat) (pred : Option Pred) (s : State) :
    Host.Outcome State Fault Refusal :=
  .next (cellEvent t b q (fun p j cell s => if predOk (getCell s cell) j pred then swapOnce p j cell mask s else s) s)

/-- MODE_SET (R91). -/
def execModeSet (t : Nat) (b : Fin 32) (q : Fin 128) (wide : Bool) (pred : Option Pred) (s : State) :
    Host.Outcome State Fault Refusal :=
  .next (cellEvent t b q (fun p j cell s => if predOk (getCell s cell) j pred then modeSetOp p j cell wide s else s) s)

/-- SEED_OPERATION (R107). -/
def execSeedOperation (t : Nat) (b : Fin 32) (q : Fin 128) (salt : W32) (pred : Option Pred) (s : State) :
    Host.Outcome State Fault Refusal :=
  .next (cellEvent t b q (fun p j cell s => if predOk (getCell s cell) j pred then seedOnce p j cell q salt s else s) s)

end Sys2Proof.Machine
end

