-- ==== Sys2Proof/Machine/Cores.lean ====
section
/-! DEFINITION. The application cores (R293, R294, R297, R299, R323 of spec/): their registers, traps, interrupts and reservations.
PRESUMED (log entry 49): the numbers and fields of the CSRs, trap entry and the priority of interrupts are those of the RISC-V
Privileged Architecture, and the registers of the interrupt controller and of the timer stand as the RISC-V PLIC and ACLINT
specifications have them, to which R293 and R297 have the cores conform. -/

namespace Sys2Proof.Machine

/-- Application cores. -/
def getCore (s : State) (n : Nat) : AppCore := tget {} s.app.cores n
def modCore (n : Nat) (f : AppCore → AppCore) (s : State) : State :=
  { s with app := { s.app with cores := tmod {} s.app.cores n f } }

/-- An integer register of a core; x0 reads 0. -/
def coreX (c : AppCore) (r : Nat) : W64 := if r = 0 then 0 else tget 0 c.xs r

/-- A CSR of a core. -/
def coreCsr (c : AppCore) (k : Nat) : Nat := (tget 0 c.csrs k).toNat

/-- A value with some of its bits replaced. -/
def withBits (old mask v : Nat) : Nat := old - (old &&& mask) + v

/-- Write some CSRs. -/
def putCsrs (l : List (Nat × Nat)) (c : AppCore) : AppCore :=
  { c with csrs := l.foldl (fun t x => tset 0 t x.1 (BitVec.ofNat 64 x.2)) c.csrs }

/-- Where a trap goes: the base of a trap vector register, or an entry of it for an interrupt of a vectored one. -/
def trapPc (tvec : Nat) (irq : Bool) (cause : Nat) : W64 :=
  BitVec.ofNat 64 (tvec / 4 * 4 + (if irq && tvec % 4 == 1 then 4 * cause else 0))

/-- A core takes a trap: to supervisor mode where it is delegated and does not come from machine mode, else to machine mode. The
pc, the cause and the value are saved, and so are the mode and the interrupt enable. -/
def coreTrap (irq : Bool) (cause value : Nat) (c : AppCore) : AppCore :=
  let m := coreCsr c 0x300
  let code := cause + (if irq then 2 ^ 63 else 0)
  if bitOf (coreCsr c (if irq then 0x303 else 0x302)) cause && c.priv != .machine then
    { putCsrs [(0x142, code), (0x141, c.pc.toNat), (0x143, value),
        (0x300, withBits m 0x122 (2 ^ 5 * b2n (bitOf m 1) + 2 ^ 8 * b2n (c.priv == .supervisor)))] c with
      priv := .supervisor, pc := trapPc (coreCsr c 0x105) irq cause }
  else
    let old := match c.priv with
      | .user => 0
      | .supervisor => 1
      | .machine => 3
    { putCsrs [(0x342, code), (0x341, c.pc.toNat), (0x343, value),
        (0x300, withBits m 0x1888 (2 ^ 7 * b2n (bitOf m 3) + 2 ^ 11 * old))] c with
      priv := .machine, pc := trapPc (coreCsr c 0x305) irq cause }

/-- An access of a core meets a bus error (R294): an access fault, whose exception code tells a fetch (1), a load (5) and a store
or AMO (7) apart. -/
def coreFaults (n cause addr : Nat) (s : State) : State :=
  emit (.coreFault n (cause == 7)) (modCore n (coreTrap false cause addr) s)

/-- The interrupt controller (R297): a word of it, whether a context enables a source, whether a source is pending and not in
service, and the source that a claim takes: of the highest priority, the lowest number first. Contexts 2n and 2n + 1 are machine
and supervisor mode of core n. -/
def plicWord (s : State) (o : Nat) : Nat := (tget 0 s.app.plicMem (o / 4)).toNat
def plicEnabled (s : State) (ctx src : Nat) : Bool := bitOf (plicWord s (0x2000 + 0x80 * ctx + 4 * (src / 32))) (src % 32)
def plicPending (s : State) (src : Nat) : Bool := tget false s.msix.plic src && !tget false s.app.serving src
def plicBest (s : State) (ctx : Nat) : Nat :=
  (List.range 91).foldl (fun best i =>
    let src := i + 1
    if plicPending s src && plicEnabled s ctx src &&
      decide (plicWord s (4 * src) > (if best = 0 then 0 else plicWord s (4 * best))) then src else best) 0

/-- Whether a context is interrupted: some source's priority is above its threshold. -/
def plicRaised (s : State) (ctx : Nat) : Bool :=
  plicBest s ctx != 0 && decide (plicWord s (4 * plicBest s ctx) > plicWord s (0x200000 + 0x1000 * ctx))

/-- A source is claimed: it is in service until its completion, and no longer pending. -/
def plicClaim (ctx : Nat) (s : State) : Nat × State :=
  let src := plicBest s ctx
  if src = 0 then (0, s)
  else (src, { s with
    msix := { s.msix with plic := tset false s.msix.plic src false }
    app := { s.app with serving := tset false s.app.serving src true } })

/-- A completion is written: a source that the context enables is no longer in service. -/
def plicComplete (ctx src : Nat) (s : State) : State :=
  if plicEnabled s ctx src then { s with app := { s.app with serving := tset false s.app.serving src false } } else s

/-- A 64-bit word of the timer and software-interrupt range. -/
def timerWord (s : State) (o : Nat) : Nat := (tget 0 s.app.timerMem (o / 4)).toNat + 2 ^ 32 * (tget 0 s.app.timerMem (o / 4 + 1)).toNat

/-- Interrupts pending at a core: software and timer interrupts, the interrupt controller's two contexts, and what software has set
(R297). -/
def corePending (s : State) (n : Nat) : Nat :=
  (coreCsr (getCore s n) 0x344 &&& 0x22) ||| (2 ^ 3 * b2n (bitOf (timerWord s (4 * n)) 0) + 2 ^ 7 * b2n (decide (timerWord s (0x4000 + 8 * n) ≤ s.clk.gtc)) +
    2 ^ 9 * b2n (plicRaised s (2 * n + 1)) + 2 ^ 11 * b2n (plicRaised s (2 * n)))

/-- Whether an enabled interrupt is pending: what ends WFI. Outside ACTIVE it stays pending (R323). -/
def coreWoken (s : State) (n : Nat) : Bool := s.pwr.st == .active && (corePending s n &&& coreCsr (getCore s n) 0x304) != 0

/-- The state of a core as GLB_APP_STS shows it (Table 14.8). -/
def coreState (s : State) (n : Nat) : Nat :=
  if (getCore s n).st = 3 && coreWoken s n then 2 else (getCore s n).st

/-- Whether a core is out of RESET, and whether it executes: its clock runs in ACTIVE only (Table 16.1). -/
def coreUp (s : State) (n : Nat) : Bool := (getCore s n).st != 0
def coreRuns (s : State) (n : Nat) : Bool := s.pwr.st == .active && (coreState s n == 1 || coreState s n == 2)

/-- A core executes: its boot, or its wait, is over. -/
def wakeCore (n : Nat) (s : State) : State := modCore n (fun c => { c with st := 2 }) s

/-- An instruction that reaches no memory writes what it writes; x0 stays 0. -/
def coreRetire (w : CoreStep) (c : AppCore) : AppCore :=
  { c with
    pc := w.pc, priv := w.priv
    xs := w.xs.foldl (fun t x => if x.1 % 32 = 0 then t else tset 0 t (x.1 % 32) x.2) c.xs
    fs := w.fs.foldl (fun t x => tset 0 t (x.1 % 32) x.2) c.fs
    vs := w.vs.foldl (fun t x => tset 0 t (x.1 % 32) x.2) c.vs
    csrs := w.csrs.foldl (fun t x => tset 0 t (x.1 % 4096) x.2) c.csrs }

/-- WFI: the core waits, unless an enabled interrupt is pending. -/
def coreWfi (n : Nat) (s : State) : State := if coreWoken s n then s else modCore n (fun c => { c with st := 3 }) s

/-- Whether a core takes an interrupt that is pending and enabled, in its mode. -/
def takes (c : AppCore) (i : Nat) : Bool :=
  if bitOf (coreCsr c 0x303) i then c.priv == .user || (c.priv == .supervisor && bitOf (coreCsr c 0x300) 1)
  else c.priv != .machine || bitOf (coreCsr c 0x300) 3

/-- A core takes an interrupt: the first of machine external, software and timer, then of supervisor ones, that it may take. -/
def coreInterrupt (n : Nat) (s : State) : State :=
  let m := corePending s n &&& coreCsr (getCore s n) 0x304
  match [11, 3, 7, 9, 1, 5].find? (fun i => bitOf m i && takes (getCore s n) i) with
  | some i => modCore n (coreTrap true i 0) s
  | none => s

/-- What an AMO stores, of a value of 4 or 8 bytes and its operand (RV64A). -/
def amoValue (op : AmoOp) (size : Nat) (old v : W64) : W64 :=
  let w := 8 * size
  let a := old.toNat % 2 ^ w
  let b := v.toNat % 2 ^ w
  let less := decide (signed w a < signed w b)
  BitVec.ofNat 64 (match op with
    | .swap => b
    | .add => (a + b) % 2 ^ w
    | .and => a &&& b
    | .or => a ||| b
    | .xor => a ^^^ b
    | .min => if less then a else b
    | .max => if less then b else a
    | .minu => min a b
    | .maxu => max a b)

/-- A store of a core ends the reservations that other cores hold on the line, and so does its own SC. -/
def endReserve (line : Nat) (s : State) : State :=
  { s with app := { s.app with cores := tmap {} (fun _ c => if c.reserve = some line then { c with reserve := none } else c) s.app.cores } }

end Sys2Proof.Machine
end

