-- ==== Sys2Proof/Machine/Ring.lean ====
section
/-! DEFINITION. The ring, the band head and the seam column (chapter 03 and R183-R186, R199, R200 of spec/). -/

namespace Sys2Proof.Machine

/-- Write a captured lane to its destination (R57). A predicated-off capture, not `on`, only asks for its port; into a row stream
it leaves the note that its row has no data (R163). -/
def deliver (p j cell q : Nat) (ccw on : Bool) (dest : CapDest) (data : List Byte) (s : State) : State :=
  match dest with
  | .tile reg block lane es => tileLaneWrite p j cell reg block lane es on data s
  | .bank a =>
    let addr := spAddrOf (getCell s cell) j q a / 64 * 64
    let (ok, s1) := bankOp p j cell true (if ccw then 0xD else 0xC) 0 (bankOf addr) s
    if ok && on then modCell cell (spWrite j (spread 0x80000 addr data)) s1 else s1
  | .weight array chunk tr fmt =>
    if on then chunkOp cell { at_ := (j + 1) % 2 ^ 48, array := array, chunk := chunk, transposed := tr, fmt := fmt, data := data } s else s
  | .rowStream => modCell cell (keepRow ⟨j, if ccw then 3 else 2, 0, if on then data else []⟩) s

/-- A capture (R57, R61). One into a row stream that fails leaves a note, so that its row is missing with its fault raised. -/
def captureOp (p j cell q : Nat) (d : Dir) (dest : CapDest) (noise : Noise) (s : State) : State :=
  let ccw := d == .ccw
  match captureTake p j cell q ((if ccw then (getCell s cell).laneCcw else (getCell s cell).laneCw).get j) ccw noise s with
  | (some data, s) => deliver p j cell q ccw true dest data s
  | (none, s) => match dest with
    | .rowStream => modCell cell (keepRow ⟨j, if ccw then 3 else 2, 0, []⟩) s
    | _ => s

/-- The data of an emission (R57, R60): the 64 bytes, or the port fault of their source, with the tile register or the bank that
is read. An emission that is not `on` only asks for its port (R163). DESIGN CHOICE (log entry 25): Table 9.2 has no code for the
read of a scratchpad word by an emission; it asks after every other requester, as code 0xF. -/
def emissionData (p j cell q : Nat) (ccw on : Bool) (src : EmSrc) (s : State) :
    Option (List Byte) × Option Nat × Option Nat × State :=
  let c := getCell s cell
  match src with
  | .staged => match c.staged with
    | x :: r => (some x, none, none, if on then setCell cell { c with staged := r } s else s)
    | [] => (some ((List.range 64).map (Config.unstaged ((getBand s (cell / 128)).lband * 128 + q) j)), none, none, s)
  | .sp a =>
    let addr := spAddrOf c j q a / 64 * 64
    let (ok, s) := bankOp p j cell false 0xF (b2n ccw) (bankOf addr) s
    if ok && on then let (d, s) := spReadWord p j cell addr s; (some d, none, some (bankOf addr), s) else (none, none, none, s)
  | .tile reg block lane es =>
    let (ok, s) := tileReadOp p j cell reg s
    (if ok then some (tileLane c j reg block lane es false) else none, some reg, none, s)

/-- Emit a lane into its slot (R57, R60). -/
def emissionOp (p j cell q : Nat) (d : Dir) (lane dest laps : Nat) (tag : Rel) (src : EmSrc) (s : State) : State :=
  let ccw := d == .ccw
  let b := cell / 128
  let pos := cell % 128
  match laneAt (getBand s b) j ccw lane pos with
  | some _ => cellFault p j cell 0x0201 (fun f => { f with lane := lane, ccw := ccw }) s
  | none =>
    match emissionData p j cell q ccw true src s with
    | (none, _, _, s) => s
    | (some x, tile, bank, s) =>
      let life := if dest = 0 then 128 * laps - 1 else 127
      let tg := relVal 16 q tag
      let l : Lane := { ccw := ccw, idx := lane, origin := pos, birth := j, life := life, dest := dest, tag := tg, check := laneCheck x dest tg life, data := x, placed := true, emitted := true }
      let note : EmitNote := { cyc := j, ccw := ccw, idx := lane, tile := tile, bank := bank }
      modBand b (fun bd => { bd with lanes := bd.lanes ++ [l] })
        (modCell cell (fun c => { c with emits := note :: c.emits.filter (·.cyc == j) }) s)

/-- The ports that a predicated-off emission asks for (R163). -/
def emissionGhost (p j cell q : Nat) (d : Dir) (src : EmSrc) (s : State) : State :=
  match src with
  | .staged => s
  | _ => (emissionData p j cell q (d == .ccw) false src s).2.2.2

/-- A lane register write (R57, R416). -/
def laneRegOp (j cell q : Nat) (d : Dir) (v : Rel) (s : State) : State :=
  modCell cell (fun c => if d == .ccw then { c with laneCcw := c.laneCcw.put j (relVal 8 q v) }
    else { c with laneCw := c.laneCw.put j (relVal 8 q v) }) s

/-- Removal of lanes whose AGE has passed LIFE (R58). -/
def removeLanes (j : Nat) (bd : Band) : Band :=
  { bd with lanes := bd.lanes.filter (fun l =>
      if l.dest = 0 then decide (l.age j ≤ l.life) else decide (l.age j ≤ 128)) }

/-- A fault at the band head. -/
def headFault (p j b code : Nat) (f : SFault → SFault) (s : State) : State :=
  schedFault p (f { code := code, jcc := j, band := b, ppos := 0x80 }) s

/-- The pop of one port stream (R65, R186, R200). A hold keeps the count from a pop whose word is absent (R46); where one is
asked for all the same, nothing is popped (log entry 7). -/
def popOne (p j b x : Nat) (s : State) : State :=
  let bd := getBand s b
  match tget none bd.inRuns x with
  | none => headFault p j b 0x021C (fun f => { f with lane := x }) s
  | some r =>
    if ageAt j r.from_ < 0 then headFault p j b 0x021C (fun f => { f with lane := x }) s
    else match tget [] bd.inStreams x with
      | [] => s
      | w :: rest =>
        if w.tag ≠ j % 16 then headFault p j b 0x0205 (fun f => { f with lane := x, cmp := j % 16, tag := w.tag }) s
        else
          let run := if r.left ≤ 1 then none else some { r with left := r.left - 1 }
          let s := modBand b (fun bd => { bd with
            inStreams := tset [] bd.inStreams x rest, inRuns := tset none bd.inRuns x run, popped := some (j, w)
            used := bd.used.map (fun n => { n with run := some r }) }) s
          { s with patina := { s.patina with live := { s.patina.live with
            band := tmod {} s.patina.live.band b (fun t => { t with portIn := cnt t.portIn 1 }) } } }

/-- The smallest number of a list. -/
def minOf : List Nat → Option Nat
  | [] => none
  | x :: r => match minOf r with
    | none => some x
    | some y => some (min x y)

/-- Put a popped word back into its stream, with the run as it was. -/
def unpop (b : Nat) (n : PopNote) (s : State) : State :=
  let bd := getBand s b
  match bd.popped, n.run with
  | some (_, w), some r =>
    let s := setBand b { bd with
      popped := none, inStreams := tset [] bd.inStreams n.stream (w :: tget [] bd.inStreams n.stream)
      inRuns := tset none bd.inRuns n.stream (some r) } s
    { s with patina := { s.patina with live := { s.patina.live with
      band := tmod {} s.patina.live.band b (fun t => { t with portIn := cnt t.portIn (2 ^ 64 - 1) }) } } }
  | _, _ => s

/-- Pops of one cycle: that of the lowest-numbered stream is performed, and the rest overrun the head once (R65), whether one
operation asks for them or several. -/
def popOp (p j b : Nat) (streams : List Nat) (s : State) : State :=
  match minOf streams with
  | none => s
  | some x =>
    let overrun := fun (y : Nat) (s : State) => headFault p j b 0x0206 (fun f => { f with lane := y }) s
    let first := fun (ovf : Bool) (s : State) =>
      popOne p j b x (modBand b (fun bd => { bd with used := some { cyc := j, stream := x, run := none, ovf := ovf } }) s)
    let more := minOf (streams.erase x)
    match (getBand s b).used.filter (fun n => n.cyc == j) with
    | none =>
      let s := first more.isSome s
      match more with
      | none => s
      | some y => overrun y s
    | some n =>
      let s := if n.ovf then s else overrun (max x n.stream) s
      if x < n.stream then first true (unpop b n s)
      else modBand b (fun bd => { bd with used := some { n with ovf := true } }) s

/-- The lanes that an injection takes (R65): direction, lane index, lap count, DEST and data. A popped word or a seam word
goes where the operation names; a row engine result where its descriptor's OUT names. -/
def injectData (bd : Band) (j : Nat) (src : InjSrc) (cw ccw : Bool) (lanes : List Nat) (laps : Nat) :
    List (Bool × Nat × Nat × Nat × List Byte) :=
  let both := fun (xs : List (Nat × List Byte)) =>
    (if cw then xs.map (fun x => (false, x.1, laps, 0, x.2)) else []) ++
    (if ccw then xs.map (fun x => (true, x.1, laps, 0, x.2)) else [])
  match src with
  | .popped => match bd.popped with
    | some (jj, w) => if jj = j then both (lanes.map (fun i => (i, (w.data.drop (64 * i)).take 64))) else []
    | none => []
  | .rowEngine => (bd.rowOut.filter (fun o => o.at_ == j)).map (fun o => (o.ccw, o.idx, o.laps, o.dest, o.data))
  | .seam => match bd.seamGot with
    | some (jj, w) => if jj = j then both ((w.lanes.filter (fun x => lanes.contains x.1)).map (fun x => (x.1, x.2.1))) else []
    | none => []

/-- Head injection at AGE -129 (R59). DESIGN CHOICE (log entry 20): of two lanes that the injections of a cycle would put into one
slot the later is dropped, and one HEAD_OVERRUN is raised for the operation; R65 names no outcome. -/
def injectTake (p j b : Nat) (src : InjSrc) (cw ccw : Bool) (lanes : List Nat) (laps tagCw tagCcw : Nat) (s : State) :
    State :=
  let bd := getBand s b
  let birth := (j + 129) % 2 ^ 48
  let mkl := fun (x : Bool × Nat × Nat × Nat × List Byte) =>
    let life := 128 * x.2.2.1 - 1
    let tg := (if x.1 then tagCcw else tagCw) % 16
    let o := if x.1 then (127 + bd.rot) % 128 else bd.rot % 128
    ({ ccw := x.1, idx := x.2.1, origin := o, birth := birth, life := life, dest := x.2.2.2.1, tag := tg, check := laneCheck x.2.2.2.2 x.2.2.2.1 tg life, data := x.2.2.2.2, placed := false, emitted := false } : Lane)
  let want := (injectData bd j src cw ccw lanes laps).map mkl
  let clash := fun (l : Lane) => bd.lanes.any (fun m => !m.emitted && m.birth == birth && m.ccw == l.ccw && m.idx == l.idx)
  let s := modBand b (fun bd => { bd with lanes := bd.lanes ++ want.filter (fun l => !clash l) }) s
  match want.find? clash with
  | some l => headFault p j b 0x0206 (fun f => { f with lane := l.idx, ccw := l.ccw }) s
  | none => s

/-- Whether a lane leaves the alignment stage in cycle `j` (R59). -/
def Lane.places (l : Lane) (rot j : Nat) : Bool :=
  !l.placed && l.age j == placeAge l.ccw rot

/-- Placement of one lane on the ring (R59). -/
def placeOne (p j b : Nat) (l : Lane) (s : State) : State :=
  let bd := getBand s b
  let rest := bd.lanes.filter (fun m => m ≠ l)
  match laneAt bd j l.ccw l.idx (if l.ccw then 0 else 127) with
  | some _ =>
    headFault p j b 0x0201 (fun f => { f with lane := l.idx, ccw := l.ccw }) (setBand b { bd with lanes := rest } s)
  | none => setBand b { bd with lanes := rest ++ [{ l with placed := true }] } s

/-- Placement of every lane due in cycle `j`. -/
def injectPlace (p j b : Nat) (s : State) : State :=
  let bd := getBand s b
  (bd.lanes.filter (fun l => l.places bd.rot j)).foldl (fun s l => placeOne p j b l s) s

/-- An element's contribution to a digest tap (R371). -/
def tapElem (t : Tap) (pat : Nat) : Tap :=
  let t := { t with count := (t.count + 1) % 2 ^ 32 }
  let better := fun (lt : Bool) (o : Option W32) (v : W32) => match o with
    | none => some v
    | some w => some (if lt then v else w)
  if elemInt t.fmt then
    let v : W32 := widen t.fmt pat
    { t with
      finite := t.finite + 1
      minV := better (match t.minV with | some w => BitVec.slt v w | none => true) t.minV v
      maxV := better (match t.maxV with | some w => BitVec.slt w v | none => true) t.maxV v
      sumI := t.sumI + v.toInt }
  else
    let v := widen t.fmt pat
    match decodeElem t.fmt pat with
    | .nan => { t with nan := t.nan + 1 }
    | x =>
      let t := { t with
        minV := better (match t.minV with | some w => ltNum x (dec32 w) | none => true) t.minV v
        maxV := better (match t.maxV with | some w => ltNum (dec32 w) x | none => true) t.maxV v }
      match x with
      | .inf true => { t with negInf := t.negInf + 1 }
      | .inf false => { t with posInf := t.posInf + 1 }
      | .fin n m e => { t with finite := t.finite + 1, sumF := add64 t.sumF n m e }
      | .nan => t

/-- A lane covered by a tap (R369, R371): its elements, its CRC, and the release of the last covered lane. -/
def tapLane (j : Nat) (data : List Byte) (t : Tap) : Tap :=
  if t.left = 0 then t
  else
    let n := 512 / elemBits t.fmt
    let t := (unpackElems t.fmt n data).foldl tapElem t
    { t with left := t.left - 1, crc := crc32cStep t.crc data, doneAt := if t.left = 1 then some j else t.doneAt }

/-- An outbound word of a cycle goes to the stream of the current outbound run (R199, R200); with none, PORT_NORUN. -/
def outWord (p j b : Nat) (lanes : List (Nat × List Byte)) (s : State) : State :=
  let bd := getBand s b
  match bd.outRun with
  | none => headFault p j b 0x021C id s
  | some r =>
    if ageAt j r.from_ < 0 then headFault p j b 0x021C id s
    else
      let data := (List.range 8).flatMap (fun i => match lanes.find? (·.1 == i) with
        | some x => fit 64 x.2
        | none => zeros 64)
      let w : PortWord := { tag := j % 16, mask := lanes.foldl (fun m x => m ||| 2 ^ x.1) 0, data := data }
      let s := setBand b { bd with
        outStreams := tset [] bd.outStreams r.stream (tget [] bd.outStreams r.stream ++ [w])
        outRun := if r.left ≤ 1 then none else some { r with left := r.left - 1 } } s
      { s with patina := { s.patina with live := { s.patina.live with
        band := tmod {} s.patina.live.band b (fun t => { t with portOut := cnt t.portOut 1 }) } } }

/-- Split the lanes for one unit into those delivered and the first one not (R65): a free index each, or two lanes. -/
def fitUnit (row : Bool) : List (Nat × List Byte × BitVec 16 × Bool) → List Nat →
    List (Nat × List Byte × BitVec 16 × Bool) × Option (Nat × Bool)
  | [], _ => ([], none)
  | x :: r, taken =>
    let ok := if row then taken.length < 2 else !taken.contains x.1
    let (d, bad) := fitUnit row r (if ok then x.1 :: taken else taken)
    if ok then (x :: d, bad) else (d, some (x.1, x.2.2.2))

/-- The lanes released in cycle `j` are checked and delivered to their units (R62, R65, R68, R186). -/
def releaseOp (p j b : Nat) (noise : List (Dir × Nat × Noise)) (s : State) : State :=
  let bd := getBand s b
  let due := bd.lanes.filter (fun l => l.placed && l.dest != 0 && l.age j == 128)
  let sorted := (List.range 16).flatMap (fun k => due.filter (fun l => l.ccw == decide (k ≥ 8) && l.idx == k % 8))
  let s := setBand b { bd with lanes := bd.lanes.filter (fun l => !(due.contains l)) } s
  -- each lane: its unit and data, or its own error
  let (s, ok) := sorted.foldl (fun (a : State × List (Nat × Nat × List Byte × BitVec 16 × Bool)) l0 =>
    let n := match noise.find? (fun x => (x.1 == .ccw) == l0.ccw && x.2.1 == l0.idx) with
      | some x => x.2.2
      | none => []
    let (l, valid) := l0.flip j n
    if !valid || laneCheck l.data l.dest l.tag l.life ≠ l.check then (ringCheck p j b 0x80 0xFF l0.idx l0.ccw a.1, a.2)
    else if l.tag ≠ j % 16 then
      (headFault p j b 0x0205 (fun f => { f with lane := l0.idx, ccw := l0.ccw, cmp := j % 16, tag := l.tag }) a.1, a.2)
    else (a.1, a.2 ++ [(l.dest, l0.idx, l.data, l.check, l0.ccw)])) (s, [])
  let unit := fun (u : Nat) => fitUnit (u == 2) ((ok.filter (·.1 == u)).map (·.2)) []
  let ovf := fun (u : Nat) (s : State) => match (unit u).2 with
    | some (i, c) => headFault p j b 0x0206 (fun f => { f with lane := i, ccw := c }) s
    | none => s
  let port := (unit 1).1
  let s := ovf 1 s
  let s := if port = [] then s else
    let s := modBand b (fun bd => { bd with outAt := some j, tap := bd.tap.map (fun t => port.foldl (fun t x => tapLane j x.2.1 t) t) }) s
    outWord p j b (port.map (fun x => (x.1, x.2.1))) s
  let row := (unit 2).1
  let s := ovf 2 s
  let s := if row = [] then s else modBand b (fun bd => { bd with rowIn := [(j, row.map (fun x => (x.1, x.2.1)))] }) s
  let sm := (unit 3).1
  let s := ovf 3 s
  if sm = [] then s
  else modBand b (fun bd => { bd with seamOut := some (j, sm.map (fun x => (x.1, x.2.1, x.2.2.1))) }) s

/-- Latency of a seam route (Table 3.3). -/
def seamLatency (src dst : Nat) : Nat :=
  if src / 16 = dst / 16 then 4 + (max src dst - min src dst) else 36 - src % 16 - dst % 16

/-- Whether a track carries words from `src` towards `dst` (R66). DESIGN CHOICE (log entry 20): no track carries a word from a band
to itself. -/
def trackOk (src dst track : Nat) : Bool :=
  if src / 16 = dst / 16 then (if src < dst then track < 2 else dst < src && 2 ≤ track && track < 4) else track < 2

/-- The stage and track that a word stands on `e` cycles after its placement (R35, R66): two cycles into the column,
one stage a cycle, two over the bridge. -/
def seamAt (src dst track e : Nat) : Option (Nat × Nat) :=
  if e < 2 then none
  else
    let k := e - 2
    if src / 16 = dst / 16 then
      (if k ≤ max src dst - min src dst then some (if src < dst then src + k else src - k, track) else none)
    else
      let up := 15 - src % 16
      if k ≤ up then some (src + k, track)
      else if k < up + 2 then none
      else
        let d := k - up - 2
        if d ≤ 15 - dst % 16 then some (dst / 16 * 16 + 15 - d, track + 2) else none

/-- The bands whose stages a seam word passes, its ends among them (R66). -/
def seamRoute (src dst : Nat) : List Nat :=
  let line := fun (a b : Nat) => (List.range (max a b - min a b + 1)).map (fun i => min a b + i)
  if src / 16 = dst / 16 then line src dst else line src (src / 16 * 16 + 15) ++ line dst (dst / 16 * 16 + 15)

/-- Whether a route stays within the partition of the sending band (R66). -/
def routeOk (s : State) (p src dst : Nat) : Bool := (seamRoute src dst).all (fun b => partOf s b == p)

/-- Placement of a seam word (R66): the lanes with DEST = 3 that the head releases in this cycle. A route that leaves the
partition is not possible, and places nothing. DESIGN CHOICE (log entry 20): WHERE of a SEAM_OCCUPIED record holds the track in
its lane field. -/
def seamPlaceOp (p j b dst track tag : Nat) (s : State) : State :=
  match (getBand s b).seamOut with
  | none => s
  | some (jj, lanes) =>
    if jj ≠ j || !trackOk b dst track || !routeOk s p b dst then s
    else
      let s := modBand b (fun bd => { bd with seamOut := none }) s
      let busy := s.seam.any (fun w => ageAt j w.placedAt ≥ 0 && partOf s w.src == p &&
        seamAt w.src w.dst w.track ((ageAt j w.placedAt).toNat + 2) == some (b, track))
      if busy then schedFault p { code := 0x0207, jcc := j, band := b, ppos := 0x81, lane := track } s
      else
        let w : SeamWord := { src := b, dst := dst, track := track, placedAt := j, tag := tag % 16, lanes := lanes }
        { s with seam := s.seam ++ [w] }

/-- The track on which a word arrives. -/
def SeamWord.lastTrack (w : SeamWord) : Nat := if w.src / 16 = w.dst / 16 then w.track else w.track + 2

/-- Arrival of seam words at a head (R66): the lowest track is accepted, the others overrun the head. DESIGN CHOICE (log entry 20):
WHERE of that record holds the track of the first other word in the order of placement, and a word that is passed to the head's
queues stays in `seamQueue`: chapter 08 says nothing of what they do with it. -/
def seamArriveOp (p j b : Nat) (inject : Bool) (s : State) : State :=
  let here := s.seam.filter (fun w => w.dst == b && ageAt j w.placedAt == (seamLatency w.src b : Int))
  let s := { s with seam := s.seam.filter (fun w => !(here.contains w)) }
  match minOf (here.map SeamWord.lastTrack) with
  | none => s
  | some t =>
    match here.find? (fun w => w.lastTrack == t) with
    | none => s
    | some w =>
      let s := match here.find? (fun x => x ≠ w) with
        | some x => headFault p j b 0x0206 (fun f => { f with lane := x.lastTrack }) s
        | none => s
      if w.tag ≠ j % 16 then
        schedFault p { code := 0x0205, jcc := j, band := b, ppos := 0x81, cmp := j % 16, tag := w.tag } s
      else if inject then modBand b (fun bd => { bd with seamGot := some (j, w) }) s
      else modBand b (fun bd => { bd with seamQueue := bd.seamQueue ++ [w] }) s

/-- CAPTURE (R61). -/
def execCapture (t : Nat) (b : Fin 32) (q : Fin 128) (d : Dir) (dest : CapDest) (noise : Noise) (pred : Option Pred)
    (s : State) : Host.Outcome State Fault Refusal :=
  .next (cellEvent t b q (fun p j cell s =>
    if predOk (getCell s cell) j pred then captureOp p j cell q d dest noise s
    else deliver p j cell q (d == .ccw) false dest [] s) s)

/-- EMISSION (R57). -/
def execEmission (t : Nat) (b : Fin 32) (q : Fin 128) (d : Dir) (lane dest laps : Nat) (tag : Rel) (src : EmSrc)
    (pred : Option Pred) (s : State) : Host.Outcome State Fault Refusal :=
  .next (cellEvent t b q (fun p j cell s =>
    if predOk (getCell s cell) j pred then emissionOp p j cell q d lane dest laps tag src s
    else emissionGhost p j cell q d src s) s)

/-- LANE_REGISTER_WRITE (R416). -/
def execLaneRegisterWrite (t : Nat) (b : Fin 32) (q : Fin 128) (d : Dir) (v : Rel) (pred : Option Pred) (s : State) :
    Host.Outcome State Fault Refusal :=
  .next (cellEvent t b q (fun _ j cell s =>
    if predOk (getCell s cell) j pred then laneRegOp j cell q d v s else s) s)

/-- LANE_REMOVAL (R58). -/
def execLaneRemoval (t : Nat) (b : Fin 32) (s : State) : Host.Outcome State Fault Refusal :=
  .next (island t b (fun _ j s => modBand b (removeLanes j) s) s)

/-- BAND_PORT_POP (R65). -/
def execBandPortPop (t : Nat) (b : Fin 32) (streams : List Nat) (s : State) : Host.Outcome State Fault Refusal :=
  .next (sequencer t b (fun p j s => popOp p j b streams s) s)

/-- HEAD_INJECTION (R59). -/
def execHeadInjection (t : Nat) (b : Fin 32) (inj : Injection) (s : State) : Host.Outcome State Fault Refusal :=
  .next (match inj with
    | .take src cw ccw lanes laps tcw tccw => sequencer t b (fun p j s => injectTake p j b src cw ccw lanes laps tcw tccw s) s
    | .place => island t b (fun p j s => injectPlace p j b s) s)

/-- HEAD_RELEASE (R62). -/
def execHeadRelease (t : Nat) (b : Fin 32) (noise : List (Dir × Nat × Noise)) (s : State) :
    Host.Outcome State Fault Refusal :=
  .next (island t b (fun p j s => releaseOp p j b noise s) s)

/-- SEAM_PLACEMENT (R66). -/
def execSeamPlacement (t : Nat) (b dst : Fin 32) (track : Fin 4) (tag : Nat) (s : State) :
    Host.Outcome State Fault Refusal :=
  .next (sequencer t b (fun p j s => seamPlaceOp p j b dst track tag s) s)

/-- SEAM_ARRIVAL (R66). -/
def execSeamArrival (t : Nat) (b : Fin 32) (inject : Bool) (s : State) : Host.Outcome State Fault Refusal :=
  .next (island t b (fun p j s => seamArriveOp p j b inject s) s)

end Sys2Proof.Machine
end

