-- ==== Sys2Proof/Machine/Vector.lean ====
section
/-! DEFINITION. The vector engine (R114-R130, R415 of spec/). -/

namespace Sys2Proof.Machine

/-- Whether an ALU1 operation is a compare (Table 6.1). -/
def isCompare : Alu1 → Bool
  | .eq | .ne | .lt | .le | .gt | .ge => true
  | _ => false

/-- Whether a lane of an operand is INT32 (R415). -/
def opIsInt (o : VOperand) : Bool :=
  match o.src with
  | .laneIndex | .bernoulli => true
  | .none => false
  | _ => elemInt o.fmt

/-- Whether a value is non-zero in its type (R120, R415). -/
def nonZero (int : Bool) (v : W32) : Bool := if int then v ≠ 0 else v &&& 0x7FFFFFFF ≠ 0

/-- The operand of a name. -/
def abcOp (d : VecDesc) : Abc → VOperand
  | .a => d.opA
  | .b => d.opB
  | .c => d.opC

/-- Type of the ALU1 result, of the FUNC result, and of the value that leaves the chain, in a lane whose C has a pattern
(R415: SELECT gives the type of the operand it selects); true for INT32. -/
def alu1Int (d : VecDesc) (c : W32) : Bool :=
  match d.alu1 with
  | none | some .pass | some .and | some .or | some .xor | some .shl | some .shr => opIsInt d.opA
  | some .select => opIsInt (if nonZero (opIsInt d.opC) c then d.opA else d.opB)
  | some .iadd | some .isub | some .imul => true
  | some o => isCompare o
def funcInt (d : VecDesc) (c : W32) : Bool := if d.func.isSome then false else alu1Int d c
def chainInt (d : VecDesc) (c : W32) : Bool :=
  match d.alu2 with
  | none => funcInt d c
  | some (.select, x) => if nonZero (opIsInt d.opC) c then opIsInt (abcOp d x) else funcInt d c
  | some _ => false
def resultInt (d : VecDesc) : Bool :=
  match d.red with
  | some (.isum, _) | some (.count, _) | some (.argmax, _) | some (.argmin, _) => true
  | _ => false

/-- Operands that ALU1 needs besides A. -/
def alu1Needs : Alu1 → Bool × Bool
  | .abs | .neg | .pass => (false, false)
  | .fma | .select => (true, true)
  | _ => (true, false)

/-- W (R119). -/
def vecWords (d : VecDesc) : Nat := d.loops.foldl (· * ·) 1

/-- Whether an operand's source and format are in Table 6.1 (R114, R115, R122, R124). -/
def operandOk (k : Nat) (o : VOperand) : Bool :=
  let wide := o.fmt == .fp32 || o.fmt == .int32
  let any := wide || [Elem.bf16, .fp16, .e4m3, .e5m2, .int8, .uint8].contains o.fmt
  match o.src with
  | .none | .laneIndex | .bernoulli => true
  | .tile _ _ | .rowTile _ _ | .colTile _ _ | .colSp _ | .scalar _ => wide
  | .sp _ | .rowSp _ => any
  | .expand _ => any && k == 0 && o.strides.headD 0 % 16 == 0

/-- Output words of a descriptor: those of the input, or of its reduction (R119, R126). -/
def outWords (d : VecDesc) : Nat :=
  match d.red with
  | none => vecWords d
  | some (_, .words, g) => vecWords d / g
  | some (_, .lanes, g) => (vecWords d / g + 63) / 64

/-- Whether the sink is in Table 6.1 (R115, R118, R123). DESIGN CHOICE (log entry 21): a counter sink without a reduction, whose
value Table 6.1 does not name, raises VEC_FORMAT as the options outside the table do. -/
def sinkOk (d : VecDesc) : Bool :=
  if d.mxOut then
    (match d.sink with | .sp _ => true | _ => false) && weightFmt ⟨d.sinkFmt, true⟩ && (d.mxb == 16 || d.mxb == 32) &&
    (!d.mxWords || vecWords d % d.mxb == 0)
  else
    let plain := [Elem.fp32, .bf16, .fp16, .e5m2, .e4m3, .int8, .int32, .uint8].contains d.sinkFmt
    match d.sink with
    | .tile _ _ => d.sinkFmt == .fp32 || d.sinkFmt == .int32
    | .counter => d.red.isSome
    | .compress _ => plain && d.outStrides.headD 0 % 16 == 0 && 1 ≤ d.limit && d.limit ≤ 2 ^ 24
    | _ => plain

/-- Whether a descriptor passes the checks of R119, R122, R125 and Table 6.12. -/
def vecOk (d : VecDesc) : Bool :=
  d.loops.length == 4 && d.loops.all (fun n => 1 ≤ n && n ≤ 65535) &&
  decide (64 * ((vecWords d) - 1) < d.count) && decide (d.count ≤ 64 * (vecWords d)) &&
  operandOk 0 d.opA && operandOk 1 d.opB && operandOk 2 d.opC && d.opA.src != .none &&
  (match d.alu1 with
    | some o => (!(alu1Needs o).1 || d.opB.src != .none) && (!(alu1Needs o).2 || d.opC.src != .none)
    | none => true) &&
  (match d.alu2 with
    | some (o, x) => (abcOp d x).src != .none && ((o != .fma && o != .select) || d.opC.src != .none)
    | none => true) &&
  (match d.red with
    | some (_, _, g) => 1 ≤ g && g ≤ 2 ^ 24 && (vecWords d) % g == 0
    | none => true) &&
  (match d.mask with
    | .alu1 => (d.alu1.map isCompare).getD false
    | _ => true) && sinkOk d && d.keep ≤ 65536

/-- Latencies of Table 6.4. -/
def vecLat (d : VecDesc) (a0 : Bool) : Nat :=
  let far := fun (o : VOperand) => match o.src with
    | .sp _ | .expand _ => true
    | _ => false
  let src := if far d.opA || far d.opB || far d.opC || (match d.mask with | .plane _ => true | _ => false) then 2 else 1
  let on := fun (b : Bool) (x y : Nat) => if b then (if a0 then x else y) else 0
  src + on d.alu1.isSome 4 3 + on d.func.isSome 10 8 + on d.alu2.isSome 4 3 +
  (match d.red with
    | none => 0
    | some (_, .lanes, _) => if a0 then 7 else 5
    | some (_, .words, _) => 3) + 2

/-- Whether the sink rounds stochastically: a draw is taken only where Table 5.6 rounds to a floating format. DESIGN CHOICE (log entry
23): a mask plane or a counter rounds nothing, and the spec does not say whether a descriptor of it that is marked stochastic
advances the generator; it does, as with any sink of its format. -/
def vecDraws (d : VecDesc) : Bool :=
  d.stochastic && (d.mxOut || [Elem.bf16, .fp16, .e5m2, .e4m3].contains d.sinkFmt)

/-- Lanes of bytes in a format, widened (R114). -/
def lanesOf (f : Elem) (bs : List Byte) (n : Nat) : List W32 := (unpackElems f n bs).map (widen f)

/-- A row of a tile register as 64 lanes, in cycle `j` (R115). -/
def tileRowLanes (c : Cell) (j reg row : Nat) (f : Elem) (n : Nat) : List W32 :=
  lanesOf f (c.tiles.read j (reg * 4096 + row % 16 * 256) (4 * n)) n

/-- Tile registers that the operands of a word read, and those of the broadcasts at issue (R115, R122). -/
def tileRegsRead (d : VecDesc) : List Nat :=
  (vecOperands d).filterMap (fun o => match o.src with | .tile r _ => some r | _ => none)
def tileRegsCast (d : VecDesc) : List Nat :=
  (vecOperands d).filterMap (fun o => match o.src with | .rowTile r _ | .colTile r _ => some r | _ => none)

/-- Whether a register is read twice in a cycle: by the operands of a word, or by the broadcasts at issue, which the reads of word 0
follow (R122; DEDUCED, log entry 23). -/
def wordClash (d : VecDesc) (r : Nat) : Bool := decide (((tileRegsRead d).filter (· == r)).length > 1)
def castClash (d : VecDesc) (r : Nat) : Bool := decide (((tileRegsCast d).filter (· == r)).length > 1)

/-- Bank words of the scratchpad as a vector read of cycle `j` finds them; a predicated-off one only looks at them, which
tells what its operation would ask for (R163). -/
def vecWordsAt (p j cell a n : Nat) (on : Bool) (s : State) : List Byte × State :=
  if on then spReadWords p j cell a n s else ((getCell s cell).sp.read j a (64 * n), s)

/-- Read one scratchpad operand, unless it loses a port; what was granted one in the cycle and comes after it gives way (R54, R179). -/
def vecReadSp (p j cell a n code order : Nat) (on : Bool) (s : State) : Option (List Byte) × State :=
  match portLoser (getCell s cell) j false code order (banksFrom a n) with
  | some w => (none, bankFault p j cell false code w s)
  | none =>
    let (d, s) := vecWordsAt p j cell (a / 64 * 64) n on (takeBackReads p j cell code (banksFrom a n) s)
    (some d, s)

/-- The broadcast operands, read when the descriptor issues (R122). -/
def readBcast (p j cell q : Nat) (on : Bool) (clash : Nat → Bool) (k : Nat) (o : VOperand) (s : State) :
    Option (List W32) × State :=
  match o.src with
  | .rowSp base =>
    let (d, s) := vecReadSp p j cell (relVal 0x80000 q base) (elemBytes o.fmt) 0xB k on s
    (d.map (fun d => lanesOf o.fmt d 64), s)
  | .colSp base =>
    let (d, s) := vecReadSp p j cell (relVal 0x80000 q base) 1 0xB k on s
    (d.map (fun d => lanesOf o.fmt d 16), s)
  | .rowTile r row => (if clash r then none else some (tileRowLanes (getCell s cell) j r row o.fmt 64), s)
  | .colTile r row => (if clash r then none else some (tileRowLanes (getCell s cell) j r row o.fmt 16), s)
  | _ => (some [], s)

/-- Whether a list repeats an element. -/
def hasDup : List Nat → Bool
  | [] => false
  | x :: r => r.contains x || hasDup r

/-- Whether the descriptor before still issues words (R119). -/
def vecBusy (c : Cell) (j : Nat) : Bool :=
  match c.vec with
  | some v => decide (ageAt j v.start ≥ 0) && decide ((ageAt j v.start).toNat < v.words)
  | none => false

/-- A vector descriptor start (R118, R119, R165). -/
def vecStartOp (p j cell q seq : Nat) (on : Bool) (s : State) : State :=
  let c := getCell s cell
  match visible j c.vecFifo with
  | [] => cellFault p j cell 0x0218 id s
  | e :: _ =>
    if e.seq ≠ seq then cellFault p j cell 0x0219 id s
    else
      let s := modCell cell (fun c => { c with vecFifo := c.vecFifo.drop 1 }) s
      match e.body with
      | .vector d =>
        if !(vecOk d) then cellFault p j cell 0x0211 id s
        else if vecBusy c j then cellFault p j cell 0x0212 id s
        else
          let a0 := !s.ident.b0 || (getBand s (cell / 128)).vecCompat
          let v : VecRun := { d := d, start := j, issued := 0, words := (vecWords d), lat := vecLat d a0, performed := on, q := q, bcast := [], acc := [], active := [], run := [], accN := 0, lanesOut := [], results := 0, packed := [], packedN := 0, packedWords := 0, taken := 0, mxBuf := [], held := none, flags := 0 }
          let s := modCell cell (fun c => { c with vecOld := c.vec, vec := some v }) s
          let clash := castClash d
          let s := cellFaults p j cell 0x020A ((tileRegsCast d).filter clash).length s
          let (ra, s) := readBcast p j cell q on clash 0 d.opA s
          let (rb, s) := readBcast p j cell q on clash 1 d.opB s
          let (rc, s) := readBcast p j cell q on clash 2 d.opC s
          modCell cell (fun c => { c with vec := c.vec.map (fun v => { v with bcast := [ra, rb, rc] }) }) s
      | _ => s

/-- ALU1 on one lane, with its flags (Table 6.1, R117, R415). `ci` tells whether C is INT32. -/
def alu1Lane (o : Alu1) (a b c : W32) (ci : Bool) : W32 × Nat :=
  let flag := fun (x : Bool) => ((if x then 1 else 0 : W32), 0)
  let sh := bits b.toNat 0 5
  match o with
  | .add => add32 a b
  | .sub => sub32 a b
  | .mul => mul32 a b
  | .fma => fma32 a b c
  | .min => min32 a b
  | .max => max32 a b
  | .abs => if isNan32 a then (nan32, fNanIn) else (a &&& 0x7FFFFFFF, 0)
  | .neg => if isNan32 a then (nan32, fNanIn) else (neg32 a, 0)
  | .eq => flag (cmpEq a b)
  | .ne => flag (!cmpEq a b)
  | .lt => flag (cmpLt a b)
  | .le => flag (cmpLt a b || cmpEq a b)
  | .gt => flag (cmpLt b a)
  | .ge => flag (cmpLt b a || cmpEq a b)
  | .select => (if nonZero ci c then a else b, 0)
  | .and => (a &&& b, 0)
  | .or => (a ||| b, 0)
  | .xor => (a ^^^ b, 0)
  | .shl => (a <<< sh, 0)
  | .shr => (a >>> sh, 0)
  | .iadd => (a + b, 0)
  | .isub => (a - b, 0)
  | .imul => (a * b, 0)
  | .pass => (a, 0)

/-- ALU2 on one lane (R415). -/
def alu2Lane (o : Alu2) (f x c : W32) (ci : Bool) : W32 × Nat :=
  match o with
  | .add => add32 f x
  | .sub => sub32 f x
  | .mul => mul32 f x
  | .min => min32 f x
  | .max => max32 f x
  | .fma => fma32 f x c
  | .select => (if nonZero ci c then x else f, 0)

/-- The stage chain on one lane: the value that leaves ALU2, the ALU1 result, and the flags. -/
def chainLane (d : VecDesc) (a b c : W32) : W32 × W32 × Nat :=
  let (v1, f1) := match d.alu1 with
    | some o => alu1Lane o a b c (opIsInt d.opC)
    | none => (a, 0)
  let (v2, f2) := match d.func with
    | some o => funcOp o v1
    | none => (v1, 0)
  let (v3, f3) := match d.alu2 with
    | some (o, x) => alu2Lane o v2 (match x with | .a => a | .b => b | .c => c) c (opIsInt d.opC)
    | none => (v2, 0)
  (v3, v1, f1 ||| f2 ||| f3)

/-- A value at the sink: conversion from its type to the sink format (R415, Table 5.6). -/
def sinkConv (d : VecDesc) (int : Bool) (draw : Option Nat) (v : W32) : Nat × Nat :=
  if int then
    match d.sinkFmt with
    | .int32 => (v.toNat, 0)
    | .int8 => let c := clampInt .int8 v.toInt; (c.1 % 256, c.2)
    | .uint8 => let c := clampInt .uint8 v.toInt; (c.1 % 256, c.2)
    | f => narrow f draw d.sat (intToFp v)
  else narrow d.sinkFmt draw d.sat v

/-- Identity of a reduction (Table 6.3). -/
def redIdent : RedOp → W32
  | .max => 0xFF800000
  | .min => 0x7F800000
  | .prod => 0x3F800000
  | .argmax | .argmin => 0xFFFFFFFF
  | _ => 0

/-- What one active element brings to a reduction. -/
def redElem (o : RedOp) (int : Bool) (v : W32) : W32 × Nat :=
  match o with
  | .sumsq => mul32 v v
  | .count => (if nonZero int v then 1 else 0, 0)
  | _ => (v, 0)

/-- Combination of two partial results. -/
def redComb (o : RedOp) (a b : W32) : W32 × Nat :=
  match o with
  | .sum | .sumsq => add32 a b
  | .max => max32 a b
  | .min => min32 a b
  | .prod => mul32 a b
  | _ => (a + b, 0)

/-- Whether element (v, i) displaces the best so far of ARGMAX or ARGMIN (R126); ties take the lowest. -/
def argBetter (o : RedOp) (best v : W32) : Bool :=
  if isNan32 best then false
  else if isNan32 v then true
  else match o with
    | .argmax => ltNum (dec32 best) (dec32 v)
    | _ => ltNum (dec32 v) (dec32 best)

/-- One level of a pairwise tree (R125). -/
def treeLevel (o : RedOp) : List W32 → List W32 × Nat
  | a :: b :: r =>
    let (x, f) := redComb o a b
    let (xs, g) := treeLevel o r
    (x :: xs, f ||| g)
  | l => (l, 0)

/-- A pairwise tree over 2^n values. -/
def treeRed (o : RedOp) : Nat → List W32 → W32 × Nat
  | 0, l => (l.headD (redIdent o), 0)
  | n + 1, l =>
    let (x, f) := treeLevel o l
    let (y, g) := treeRed o n x
    (y, f ||| g)

/-- The best of a list of ARGMAX or ARGMIN, with its number. -/
def argFold (o : RedOp) (acc : Option (W32 × Nat)) (l : List (Option W32)) (base : Nat) : Option (W32 × Nat) :=
  ((List.range l.length).foldl (fun a i => match l.getD i none, a with
    | none, a => a
    | some v, none => some (v, base + i)
    | some v, some (b, k) => if argBetter o b v then some (v, base + i) else some (b, k)) acc)

/-- Whether a reduction is one of the two that give a position. -/
def isArg : RedOp → Bool
  | .argmax | .argmin => true
  | _ => false

/-- Whether lanes of element 64 w + l are tail lanes (R119). -/
def isTail (d : VecDesc) (w l : Nat) : Bool := decide (64 * w + l ≥ d.count)

/-- Bytes of a word that lanes write: some value for written lanes, none for those left alone. -/
def laneBytes (f : Elem) (a : Nat) (m : Nat) (vs : List (Option Nat)) : List (Nat × Byte) :=
  (List.range vs.length).flatMap (fun l => match vs.getD l none with
    | some v => spread m (a + l * elemBytes f) (leBytes (elemBytes f) v)
    | none => [])

/-- Where output word n of a sink goes: tile address or scratchpad address, and its banks; `red` for results (R126). -/
def sinkWord (v : VecRun) (red : Bool) (n : Nat) : Bool × Nat × List Nat :=
  let d := v.d
  let st := d.outStrides.headD 0
  match d.sink with
  | .tile reg row =>
    let r := if red then (((row : Int) + n * st).emod 16).toNat else tileRow d row d.outStrides n
    (true, reg * 4096 + r * 256, [])
  | .sp base =>
    let a := if red then packAddr v.q base d.outStrides n else spWordAddr d v.q base d.outStrides n
    (false, a, banksFrom a (elemBytes d.sinkFmt))
  | .maskPlane base => let a := planeAddr v.q base n; (false, a, [bankOf a])
  | _ => (false, 0, [])

/-- One output word towards its sink: values of the lanes that are written. DESIGN CHOICE (log entry 23): where MERGE or the tail leaves
a lane of a ring emission unwritten, the spec does not say what the ring carries; zero bytes stand there. -/
def outOf (v : VecRun) (at_ : Nat) (red : Bool) (n : Nat) (vs : List (Option Nat)) (ctr : Option (Nat × W32)) (flags : Nat)
    (last : Bool) : VecOut :=
  let (tile, a, banks) := sinkWord v red n
  let d := v.d
  match d.sink with
  | .ring =>
    let bytes := vs.flatMap (fun x => leBytes (elemBytes d.sinkFmt) (x.getD 0))
    { at_ := at_, tile := false, bytes := [], banks := [], ctr := ctr, ring := (List.range (elemBytes d.sinkFmt)).map (fun i => (bytes.drop (64 * i)).take 64), flags := flags, last := last, performed := true }
  | .counter => { at_ := at_, tile := false, bytes := [], banks := [], ctr := ctr, ring := [], flags := flags, last := last, performed := true }
  | .maskPlane _ =>
    -- one bit per lane, whole bytes that hold a lane which is no tail lane
    let bit := fun (l : Nat) => match vs.getD l none with
      | some x => if x ≠ 0 then 1 else 0
      | none => 0
    let has := fun (k : Nat) => if red then (List.range 8).any (fun i => (vs.getD (8 * k + i) none).isSome) else !isTail d n (8 * k)
    let bs := ((List.range 8).filter has).map (fun k =>
      ((a + k) % 0x80000, BitVec.ofNat 8 ((List.range 8).foldl (fun x i => x + bit (8 * k + i) * 2 ^ i) 0)))
    { at_ := at_, tile := false, bytes := bs, banks := banks, ctr := ctr, ring := [], flags := flags, last := last, performed := true }
  | _ =>
    { at_ := at_, tile := tile, bytes := laneBytes d.sinkFmt a (if tile then 32768 else 0x80000) vs, banks := banks, ctr := ctr, ring := [], flags := flags, last := last, performed := true }

/-- A word's lanes at the sink: value for lanes that have one, zero or nothing for the others (R120). Only active lanes, which
`vals` gives, set flags; `outs` holds also the values that an expand gives its inactive lanes (R124). -/
def sinkLanes (d : VecDesc) (w : Nat) (vals outs : List (Option W32)) (tys : List Bool) (gen : W64) : List (Option Nat) × Nat :=
  let draw := fun (l : Nat) => if (vecDraws d) then some (drawGen gen l) else none
  let os := (List.range 64).map (fun l => match outs.getD l none with
    | some v => let c := sinkConv d (tys.getD l false) (draw l) v; (some c.1, if (vals.getD l none).isSome then c.2 else 0)
    | none => (if d.zeroMode && !isTail d w l then some 0 else none, 0))
  (os.map (·.1), os.foldl (fun a x => a ||| x.2) 0)

/-- What a word that writes nothing brings to its cycle: its flags (R130). -/
def flagOut (at_ flags : Nat) (last : Bool) : VecOut :=
  { at_ := at_, tile := false, bytes := [], banks := [], ctr := none, ring := [], flags := flags, last := last, performed := true }

/-- A finished MX scale block or word at the sink (R111): elements packed at the word's address, scale bytes behind the
descriptor's words (log entry 21). The values are binary32; a word without values was lost and is not written. Lanes that R120
does not write are left alone, as far as the byte that holds their element holds no other that is written; `red` marks the words
of a reduction, and `act` the lanes whose flags count. Under WORDS a last block of a reduction that falls short of MXB words ends
with its words. DESIGN CHOICE (log entry 21): the words of a block under WORDS, whose scales only its last word gives, are written one
a cycle from the cycle that R128 gives that word; scale bytes are written in the cycle of the last word of their block, as a second
write. -/
def mxOuts (v : VecRun) (red : Bool) (w : Nat) (vals : List (Option W32)) (act : List Bool) (gen : W64) (at_ : Nat) (last : Bool)
    (flags : Nat) : VecRun × List VecOut :=
  let d := v.d
  let eb := elemBits d.sinkFmt
  let base := match d.sink with | .sp r => relVal 0x80000 v.q r / 64 * 64 | _ => 0
  let scaleBase := base + roundUp (outWords d * 8 * eb) 64
  let written := fun (n : Nat) (vs : List (Option W32)) (l : Nat) =>
    (vs.getD l none).isSome || (vs != [] && !red && d.zeroMode && !isTail d n l)
  let wordOut := fun (n : Nat) (vs : List (Option W32)) (es : List Nat) (scs : List (Nat × Nat)) (fl : Nat) (lst : Bool) (later : Nat) =>
    let at_ := (at_ + later) % 2 ^ 48
    let a := match d.sink with | .sp r => (if red then packAddr v.q r d.outStrides n else spWordAddr d v.q r d.outStrides n) | _ => 0
    let bytes := leBytes (8 * eb) ((List.range 64).foldl (fun x i => x + es.getD i 0 * 2 ^ (i * eb)) 0)
    let keep := fun (k : Nat) => (List.range 64).any (fun l => written n vs l && decide (l * eb < 8 * k + 8 ∧ 8 * k < l * eb + eb))
    let put := ((List.range bytes.length).filter keep).map (fun k => ((a + k) % 0x80000, bytes.getD k 0))
    let sc := scs.map (fun x => ((scaleBase + x.1) % 0x80000, BitVec.ofNat 8 x.2))
    [({ at_ := at_, tile := false, bytes := put, banks := if vs = [] then [] else [bankOf a], ctr := none, ring := [], flags := fl, last := lst, performed := true } : VecOut)] ++
    (if sc = [] then [] else
      [{ at_ := at_, tile := false, bytes := sc, banks := (sc.map (fun x => bankOf x.1)).eraseDups, ctr := none, ring := [], flags := 0, last := false, performed := true, sub := 1 }])
  let draw := fun (g : W64) (l : Nat) => if (vecDraws d) then some (drawGen g l) else none
  let flagsOf := fun (es : List (Nat × Nat)) (on : List Bool) =>
    (List.zipWith (fun e o => if o then e.2 else 0) es on).foldl (· ||| ·) 0
  if d.mxWords then
    let buf := v.mxBuf ++ [(vals, act, gen)]
    let n := buf.length
    if n < d.mxb && !last then ({ v with mxBuf := buf }, [flagOut at_ flags last])
    else
      let cols := (List.range 64).map (fun l =>
        mxQuant d.sinkFmt (buf.map (fun x => (x.1.getD l none).getD 0)) (buf.map (fun x => draw x.2.2 l)))
      let fl := (List.range 64).foldl (fun a l =>
        a ||| flagsOf (cols.getD l (0, [])).2 (buf.map (fun x => x.2.1.getD l false))) flags
      let first := w + 1 - n
      let any := fun (l : Nat) => (List.range n).any (fun i => written (first + i) (buf.getD i ([], [], 0)).1 l)
      let outs := (List.range n).flatMap (fun i =>
        let es := cols.map (fun c => (c.2.getD i (0, 0)).1)
        let lastw := i + 1 = n
        let scs := if lastw then ((List.range 64).filter any).map (fun l => (first / d.mxb * 64 + l, (cols.getD l (0, [])).1)) else []
        wordOut (first + i) (buf.getD i ([], [], 0)).1 es scs (if lastw then fl else 0) (last && lastw) i)
      ({ v with mxBuf := [] }, outs)
  else if vals = [] then (v, [flagOut at_ flags last])
  else
    let lanesOf := fun (i : Nat) => (List.range d.mxb).map (fun k => i * d.mxb + k)
    let blocks := (List.range (64 / d.mxb)).map (fun i =>
      mxQuant d.sinkFmt ((lanesOf i).map (fun l => (vals.getD l none).getD 0)) ((lanesOf i).map (fun l => draw gen l)))
    let es := blocks.flatMap (·.2)
    let used := (List.range blocks.length).filter (fun i => (lanesOf i).any (fun l => written w vals l))
    let scs := used.map (fun i => (w * (64 / d.mxb) + i, (blocks.getD i (0, [])).1))
    (v, wordOut w vals (es.map (·.1)) scs (flags ||| flagsOf es ((List.range 64).map (fun l => act.getD l false))) last 0)

/-- The words that a list of packed elements fills, 64 at a time, and the rest. -/
def takeWords (fuel : Nat) (l : List (List Byte)) : List (List (List Byte)) × List (List Byte) :=
  match fuel with
  | 0 => ([], l)
  | n + 1 => if l.length < 64 then ([], l) else
    let (ws, r) := takeWords n (l.drop 64)
    (l.take 64 :: ws, r)

/-- The compress sink for one word (R123). -/
def compressOuts (v : VecRun) (vals : List (Option W32)) (tys : List Bool) (gen : W64) (at_ : Nat) (last : Bool) (flags : Nat) :
    VecRun × List VecOut :=
  let d := v.d
  let base := match d.sink with | .compress r => r | _ => ⟨0, 0⟩
  let es := elemBytes d.sinkFmt
  let conv := (List.range 64).filterMap (fun l => (vals.getD l none).map (fun x =>
    sinkConv d (tys.getD l false) (if (vecDraws d) then some (drawGen gen l) else none) x))
  let fl := conv.foldl (fun a x => a ||| x.2) flags
  let n := v.packedN + conv.length
  let (ws, rest) := takeWords 2 (v.packed ++ conv.map (fun x => leBytes es x.1))
  let banks := banksFrom (relVal 0x80000 v.q base) es
  let word := fun (k : Nat) (x : List (List Byte)) =>
    if k < d.limit then spread 0x80000 (packAddr v.q base d.outStrides k) x.flatten else []
  let bytes := (List.range ws.length).flatMap (fun i => word (v.packedWords + i) (ws.getD i []))
  let kw := v.packedWords + ws.length
  let fl := if last then fl ||| (if n > d.limit * 64 then fCompressOvf else 0) ||| (if n = 0 then fEmpty else 0) else fl
  let o : VecOut := { at_ := at_, tile := false, bytes := bytes, banks := banks, ctr := none, ring := [], flags := fl, last := false, performed := true }
  let fin : VecOut := { at_ := (at_ + 1) % 2 ^ 48, tile := false, bytes := word kw rest, banks := (if rest = [] then [] else banks), ctr := d.ctr.map (fun i => (i, BitVec.ofNat 32 n)), ring := [], flags := 0, last := true, performed := true }
  ({ v with packed := rest, packedN := n, packedWords := kw, flags := v.flags ||| fl }, if last then [o, fin] else [o])

/-- One word of results towards its sink (R126): `vals` gives the results it has. -/
def resultWord (v : VecRun) (n : Nat) (vals : List (Option W32)) (gen : W64) (at_ : Nat) (ctr : Option (Nat × W32)) (last : Bool)
    (flags : Nat) : VecRun × List VecOut :=
  let d := v.d
  let int := resultInt d
  let tys := List.replicate 64 int
  if d.mxOut then
    let (v, os) := mxOuts v true n (vals.map (fun x => x.map (fun y => if int then intToFp y else y))) (vals.map (·.isSome)) gen at_
      last flags
    let os := match os with
      | o :: r => { o with ctr := ctr } :: r
      | [] => []
    ({ v with flags := os.foldl (fun a y => a ||| y.flags) (v.flags ||| flags) }, os)
  else match d.sink with
    | .compress _ => compressOuts v vals tys gen at_ last flags
    | .maskPlane _ =>
      let bit := vals.map (fun x => x.map (fun y => if nonZero int y then 1 else 0))
      ({ v with flags := v.flags ||| flags }, [outOf v at_ true n bit ctr flags last])
    | _ =>
      let cs := (List.range vals.length).map (fun l => (vals.getD l none).map (fun y =>
        sinkConv d int (if vecDraws d then some (drawGen gen l) else none) y))
      let fl := cs.foldl (fun a x => a ||| (x.map (·.2)).getD 0) flags
      ({ v with flags := v.flags ||| fl }, [outOf v at_ true n (cs.map (fun x => x.map (·.1))) ctr fl last])

/-- A word of a reduction that ends no result word: its flags, and the ports that a compress sink keeps (R123). -/
def noResult (v : VecRun) (gen : W64) (at_ : Nat) (ctr : Option (Nat × W32)) (last : Bool) (flags : Nat) : VecRun × List VecOut :=
  match v.d.sink with
  | .compress _ => compressOuts v [] [] gen at_ last flags
  | _ => ({ v with flags := v.flags ||| flags }, [{ flagOut at_ flags last with ctr := ctr }])

/-- Results that a reduction has produced, towards the sink (R126): LANES results fill words of 64. -/
def emitResults (v : VecRun) (axis : Axis) (rs : List W32) (gen : W64) (at_ : Nat) (last : Bool) (flags : Nat) :
    VecRun × List VecOut :=
  let ctr := v.d.ctr.map (fun i => (i, rs.headD 0))
  match axis with
  | .words =>
    resultWord { v with results := v.results + 1 } v.results ((List.range 64).map (fun l => some (rs.getD l 0))) gen at_ ctr last flags
  | .lanes =>
    let l := v.lanesOut ++ [(rs.headD 0, 0)]
    if l.length = 64 ∨ last then
      resultWord { v with results := v.results + 1, lanesOut := [] } (v.results / 64) (l.map (fun x => some x.1)) gen at_ ctr last flags
    else noResult { v with results := v.results + 1, lanesOut := l } gen at_ ctr last flags

/-- One word enters a reduction (R125, R126): the run, and what it writes when a group ends. -/
def reduceWord (v : VecRun) (o : RedOp) (axis : Axis) (g : Nat) (vals : List (Option W32)) (tys : List Bool) (gen : W64)
    (at_ : Nat) (last : Bool) (flags : Nat) : VecRun × List VecOut :=
  let elems := (List.range 64).map (fun l => (vals.getD l none).map (redElem o (tys.getD l false)))
  let f0 := elems.foldl (fun a x => a ||| (x.map (·.2)).getD 0) flags
  let ev : List (Option W32) := elems.map (fun x => x.map (·.1))
  let idv := fun (x : Option W32) => x.getD (redIdent o)
  let lanesN := if axis = .lanes then 1 else 64
  let acc := if v.acc = [] then List.replicate lanesN none else v.acc
  let act := if v.active = [] then List.replicate lanesN false else v.active
  let act := match axis with
    | .lanes => [act.headD false || ev.any (·.isSome)]
    | .words => (List.range 64).map (fun l => act.getD l false || (ev.getD l none).isSome)
  let endG := v.accN + 1 = g
  let (acc, run, f1) : List (Option (W32 × Nat)) × List (List (Option W32)) × Nat :=
    if isArg o then
      match axis with
      | .lanes => ([argFold o (acc.headD none) ev (64 * v.accN)], [], 0)
      | .words => ((List.range 64).map (fun l => argFold o (acc.getD l none) [ev.getD l none] v.accN), [], 0)
    else match axis with
      | .lanes =>
        let (x, f) := treeRed o 6 (ev.map idv)
        match acc.headD none with
        | none => ([some (x, 0)], [], f)
        | some (y, _) => let (z, f') := redComb o y x; ([some (z, 0)], [], f ||| f')
      | .words =>
        let run := v.run ++ [ev]
        if run.length = 16 || endG then
          let cols := (List.range 64).map (fun l =>
            let col := (List.range 16).map (fun i => idv ((run.getD i []).getD l none))
            let (x, f) := treeRed o 4 col
            match acc.getD l none with
            | none => (some (x, 0), f)
            | some (y, _) => let (z, f') := redComb o y x; (some (z, 0), f ||| f'))
          (cols.map (·.1), [], cols.foldl (fun a x => a ||| x.2) 0)
        else (acc, run, 0)
  let fl := f0 ||| f1
  if !endG then noResult { v with acc := acc, active := act, run := run, accN := v.accN + 1 } gen at_ none last fl
  else
    let fin := (List.range lanesN).map (fun l =>
      if act.getD l false then (match acc.getD l none with
        | some (x, k) => if isArg o then BitVec.ofNat 32 k else x
        | none => redIdent o)
      else redIdent o)
    let fl := if act.all id then fl else fl ||| fEmpty
    emitResults { v with acc := [], active := [], run := [], accN := 0 } axis fin gen at_ last fl

/-- The value of an operand for every lane of word w; none when its read was lost. -/
def operandLanes (p j cell : Nat) (v : VecRun) (w k : Nat) (o : VOperand) (clash : Nat → Bool) (g : W64) (s : State) :
    Option (List W32) × State :=
  let c := getCell s cell
  match o.src with
  | .none => (some (List.replicate 64 0), s)
  | .scalar x => (some (List.replicate 64 x), s)
  | .laneIndex => (some ((List.range 64).map (BitVec.ofNat 32)), s)
  | .bernoulli => (some ((List.range 64).map (fun l => if drawGen g l < v.d.keep then 1 else 0)), s)
  | .tile r row => (if clash r then none else some (tileRowLanes c j r (tileRow v.d row o.strides w) o.fmt 64), s)
  | .sp base =>
    let (d, s) := vecReadSp p j cell (spWordAddr v.d v.q base o.strides w) (elemBytes o.fmt) (8 + k) 1 v.performed s
    (d.map (fun d => lanesOf o.fmt d 64), s)
  | .rowSp _ | .rowTile _ _ => (v.bcast.getD k none, s)
  | .colSp _ | .colTile _ _ => ((v.bcast.getD k none).map (fun l => List.replicate 64 (l.getD (w % 16) 0)), s)
  | .expand _ => (some [], s)

/-- Packed elements n to n + count - 1 of an expand stream (R124), with the error records of the words first used now. -/
def expandElems (p j cell : Nat) (v : VecRun) (o : VOperand) (n count : Nat) (s : State) : List W32 × State :=
  match o.src with
  | .expand base =>
    if count = 0 then ([], s)
    else
      let ks := (List.range ((n + count - 1) / 64 - n / 64 + 1)).map (fun i => n / 64 + i)
      let (es, s) := ks.foldl (fun (x : List W32 × State) k =>
        let (d, s') := vecWordsAt p j cell (packAddr v.q base o.strides k) (elemBytes o.fmt) v.performed x.2
        (x.1 ++ lanesOf o.fmt d 64, if 64 * k ≥ n then s' else x.2)) ([], s)
      ((es.drop (n % 64)).take count, s)
  | _ => ([], s)

/-- Whether operand A is a packed stream. -/
def isExpand (d : VecDesc) : Bool := match d.opA.src with | .expand _ => true | _ => false

/-- Whether word w ends a result word that the sink rounds (R107): each word, or the words that end a reduction's result. -/
def endsResult (d : VecDesc) (words w : Nat) : Bool :=
  match d.red with
  | none => true
  | some (_, .words, g) => (w + 1) % g == 0
  | some (_, .lanes, g) => (w + 1) % g == 0 && ((w + 1) / g % 64 == 0 || w + 1 == words)

/-- A word whose operands are there goes through the chain (R119, R120, R129): the run, what it writes, and the status word, which
stands in the first bytes of its bank word (R178). -/
def chainOn (v : VecRun) (x : VecWord) : VecRun × List VecOut × List (Nat × Nat × Option W32) :=
  let d := v.d
  let w := x.w
  let last := w + 1 = v.words
  let at_ := (v.start + w + v.lat) % 2 ^ 48
  let status := fun (f : Option W32) => if last then (match d.status with
    | some r => [((at_ + 2) % 2 ^ 48, relVal 0x80000 v.q r / 64 * 64, f)]
    | none => []) else []
  let tys := (List.range 64).map (fun l => chainInt d (x.c.getD l 0))
  -- the value of an active lane, the value at the sink, the flags; an expand gives the lanes that its mask leaves out a value
  -- for the sink alone (R120, R124)
  let lanes : List (Option W32 × Option W32 × Nat) := (List.range 64).map (fun l =>
    let act := bitOf x.plane l
    if !x.lost && !isTail d w l && (isExpand d || act) then
      let (y, v1, f) := chainLane d (x.a.getD l 0) (x.b.getD l 0) (x.c.getD l 0)
      if d.mask = .alu1 ∧ v1 = 0 then (none, none, 0)
      else if act then (some y, some y, f) else (none, some y, 0)
    else (none, none, 0))
  let vals : List (Option W32) := lanes.map (·.1)
  let sinkVals : List (Option W32) := lanes.map (·.2.1)
  let fl := lanes.foldl (fun a y => a ||| y.2.2) 0
  let (v, outs) : VecRun × List VecOut := match d.red with
    | some (o, axis, g) => reduceWord v o axis g vals tys x.gen at_ last fl
    | none =>
      if d.mxOut then
        let fp := if x.lost then [] else (List.range 64).map (fun l => (sinkVals.getD l none).map (fun y =>
          if tys.getD l false then intToFp y else y))
        let (v, os) := mxOuts v false w fp (vals.map (·.isSome)) x.gen at_ last fl
        ({ v with flags := os.foldl (fun a y => a ||| y.flags) (v.flags ||| fl) }, os)
      else match d.sink with
        | .compress _ => compressOuts v vals tys x.gen at_ last fl
        | _ =>
          if x.lost then (v, [flagOut at_ 0 last])
          else match d.sink with
            | .maskPlane _ =>
              let bit := (List.range 64).map (fun l => (vals.getD l none).map (fun y =>
                if nonZero (tys.getD l false) y then 1 else 0))
              ({ v with flags := v.flags ||| fl }, [outOf v at_ false w bit none fl last])
            | _ =>
              let (vs, f2) := sinkLanes d w vals sinkVals tys x.gen
              ({ v with flags := v.flags ||| fl ||| f2 }, [outOf v at_ false w vs none (fl ||| f2) last])
  (v, outs, status (some (BitVec.ofNat 32 v.flags)))

/-- A word goes through the chain. One that is predicated off asks for the ports that it would ask for, and its results and
its flags go nowhere (R163). -/
def chainWord (v : VecRun) (x : VecWord) : VecRun × List VecOut × List (Nat × Nat × Option W32) :=
  let (v', outs, sts) := chainOn v x
  let outs := outs.map (fun o => { o with src := v.start })
  if v.performed then (v', outs, sts)
  else (v', outs.map (fun o => { o with ctr := none, ring := [], flags := 0, last := false, performed := false }),
    sts.map (fun y => (y.1, y.2.1, none)))

/-- Put a run back in its place, with what a word writes. -/
def putRun (old : Bool) (r : VecRun × List VecOut × List (Nat × Nat × Option W32)) (c : Cell) : Cell :=
  { c with
    vec := if old then c.vec else some r.1
    vecOld := if old then some r.1 else c.vecOld
    vecOuts := c.vecOuts ++ r.2.1
    vecStatus := c.vecStatus ++ r.2.2 }

/-- One word of the active descriptor issues (R119, R120, R121). DESIGN CHOICE (log entry 23): two Bernoulli operands of one descriptor
share one advance of the generator and its draws. -/
def issueWord (p j cell : Nat) (v : VecRun) (w : Nat) (s : State) : State :=
  let d := v.d
  let c := getCell s cell
  let g0 := tget unseeded c.gens 4
  let bern := (vecOperands d).any (fun o => o.src == .bernoulli)
  let g1 := if bern then advanceGen g0 else g0
  let g2 := if vecDraws d && endsResult d v.words w then advanceGen g1 else g1
  let s := modCell cell (fun c => { c with gens := tset unseeded c.gens 4 g2 }) s
  let s := { s with patina := { s.patina with live := { s.patina.live with
    band := tmod {} s.patina.live.band (cell / 128) (fun t => { t with vector := cnt t.vector 1 }) } } }
  let clash := wordClash d
  let s := cellFaults p j cell 0x020A ((tileRegsRead d).filter clash).length s
  let (oa, s) := operandLanes p j cell v w 0 d.opA clash g1 s
  let (ob, s) := operandLanes p j cell v w 1 d.opB clash g1 s
  let (oc, s) := operandLanes p j cell v w 2 d.opC clash g1 s
  let (pl, s) : Option Nat × State := match d.mask with
    | .plane base =>
      let a := planeAddr v.q base w
      let (x, s) := vecReadSp p j cell a 1 0xE 0 v.performed s
      (x.map (fun x => leNat ((x.drop (a % 64 / 8 * 8)).take 8)), s)
    | _ => (some (2 ^ 64 - 1), s)
  let x : VecWord := { w := w, lost := oa.isNone || ob.isNone || oc.isNone || pl.isNone, a := oa.getD [], b := ob.getD [], c := oc.getD [], plane := pl.getD 0, gen := g2 }
  let v := { v with issued := w + 1 }
  if isExpand d then modCell cell (fun c => { c with vec := some { v with held := some x } }) s
  else modCell cell (putRun false (chainWord v x)) s

/-- The word of an expand stream that waits takes its packed elements, in the cycle after its issue (R124). DESIGN CHOICE (log entry
23): with MASK set to the compare result of ALU1, which is not known before the operands are, every lane that is not a tail lane takes
an element; the spec does not say which lanes do. -/
def expandOne (p j cell : Nat) (old : Bool) (s : State) : State :=
  let c := getCell s cell
  match (if old then c.vecOld else c.vec) with
  | none => s
  | some v => match v.held with
    | none => s
    | some x =>
      let jw := (v.start + x.w + 1) % 2 ^ 48
      if ageAt j jw < 0 then s
      else
        let d := v.d
        let v := { v with held := none }
        let banks := match d.opA.src with
          | .expand base => banksFrom (relVal 0x80000 v.q base) (elemBytes d.opA.fmt)
          | _ => []
        match portLoser c jw false 8 (if old then 0 else 1) banks with
        | some y => modCell cell (putRun old (chainWord v { x with lost := true })) (bankFault p jw cell false 8 y s)
        | none =>
          if x.lost then modCell cell (putRun old (chainWord v x)) s
          else
            let on := (List.range 64).map (fun l => !isTail d x.w l && bitOf x.plane l)
            let need := (on.filter id).length
            let (es, s) := expandElems p jw cell v d.opA v.taken need s
            let la := (List.range 64).map (fun l => if on.getD l false then es.getD ((on.take l).filter id).length 0
              else if d.opB.src == .none then 0 else x.b.getD l 0)
            modCell cell (putRun old (chainWord { v with taken := v.taken + need } { x with a := la })) s

/-- The words of expand streams that wait. -/
def expandDue (p j cell : Nat) (s : State) : State := expandOne p j cell false (expandOne p j cell true s)

/-- The word of the active descriptor that is due in cycle `j`. -/
def vecIssueOp (p j cell : Nat) (s : State) : State :=
  let s := expandDue p j cell s
  match (getCell s cell).vec with
  | none => s
  | some v => let n := ageAt j v.start
    if n < 0 ∨ n.toNat ≥ v.words then s else issueWord p j cell v n.toNat s

/-- A vector write of a tile row (R115). -/
def tileRowWrite (p j cell : Nat) (on : Bool) (bytes : List (Nat × Byte)) (s : State) : State :=
  match bytes with
  | [] => s
  | (a, _) :: _ => tileWriteOp p j cell (a / 4096) (a % 4096 / 256 + 1) on bytes s

/-- A counter written by a sink (R162): it is used from the next cycle, and wins over an operation of this cycle. -/
def sinkCounter (j i : Nat) (v : W32) (c : Cell) : Cell :=
  let old := (tget ctDef c.ct i).get j
  { c with ct := tset ctDef c.ct i ⟨old, v, j⟩, ctrSink := (j, i) :: c.ctrSink.filter (·.1 == j) }

/-- One vector result is written (R128, R179). -/
def writeOut (p j cell order : Nat) (o : VecOut) (s : State) : State :=
  let c := getCell s cell
  let lostPort := portLoser c j true 8 order o.banks
  let s := match lostPort with
    | some w => bankFault p j cell true 8 w s
    | none => s
  let s := modCell cell (fun c => o.banks.foldl (fun c b => addReq j true 8 order b c) c) s
  if !o.performed then (if o.tile then tileRowWrite p j cell false o.bytes s else s)
  else
    let s := if lostPort.isSome then s
      else if o.tile then tileRowWrite p j cell true o.bytes s
      else modCell cell (spWrite j o.bytes) s
    modCell cell (fun c =>
      let c := match o.ctr with
        | some (i, v) => sinkCounter j i v c
        | none => c
      { c with staged := c.staged ++ o.ring, vecFlags := c.vecFlags ||| o.flags,
               descs := if o.last then satAdd 0xFFFF c.descs 1 else c.descs }) s

/-- The vector results due in cycle `j` are written. -/
def vecWriteOp (p j cell : Nat) (s : State) : State :=
  let s := expandDue p j cell s
  let due := (getCell s cell).vecOuts.filter (fun o => o.at_ = j)
  let s := due.foldl (fun s o => writeOut p j cell (outOrder due o) o s) s
  modCell cell (fun c => { c with vecOuts := c.vecOuts.filter (fun o => decide (o.at_ ≠ j)) }) s

/-- The operation status word due in cycle `j` is written (R129). -/
def statusWordOp (p j cell : Nat) (s : State) : State :=
  let due := (getCell s cell).vecStatus.filter (fun x => x.1 = j)
  let s := due.foldl (fun s x =>
    let order := due.findIdx (· == x)
    let s := modCell cell (addReq j true 0xE order (bankOf x.2.1)) s
    match portLoser (getCell s cell) j true 0xE order [bankOf x.2.1] with
    | some w => bankFault p j cell true 0xE w s
    | none => match x.2.2 with
      | some w => modCell cell (spWrite j (spread 0x80000 x.2.1 (leBytes 4 w.toNat))) s
      | none => s) s
  modCell cell (fun c => { c with vecStatus := c.vecStatus.filter (fun x => decide (x.1 ≠ j)) }) s

/-- VECTOR_DESCRIPTOR_START (R118). -/
def execVectorDescriptorStart (t : Nat) (b : Fin 32) (q : Fin 128) (seq : Nat) (pred : Option Pred) (s : State) :
    Host.Outcome State Fault Refusal :=
  .next (cellEvent t b q (fun p j cell s => vecStartOp p j cell q seq (predOk (getCell s cell) j pred) s) s)

/-- VECTOR_WORD_ISSUE (R119). -/
def execVectorWordIssue (t : Nat) (b : Fin 32) (q : Fin 128) (s : State) : Host.Outcome State Fault Refusal :=
  .next (cellEvent t b q (fun p j cell s => vecIssueOp p j cell (bringForward p j cell b q s)) s)

/-- VECTOR_RESULT_WRITE (R128). -/
def execVectorResultWrite (t : Nat) (b : Fin 32) (q : Fin 128) (s : State) : Host.Outcome State Fault Refusal :=
  .next (cellEvent t b q (fun p j cell s => vecWriteOp p j cell s) s)

/-- OPERATION_STATUS_WORD (R129). -/
def execOperationStatusWord (t : Nat) (b : Fin 32) (q : Fin 128) (s : State) : Host.Outcome State Fault Refusal :=
  .next (cellEvent t b q (fun p j cell s => statusWordOp p j cell s) s)

end Sys2Proof.Machine
end

