-- ==== Sys2Proof/Machine/Bundle.lean ====
section
/-! DEFINITION. Bundles of the cells, with counters and comparators (R158-R163, R416 of spec/). -/

namespace Sys2Proof.Machine

/-- A counter operation (R162): a sink that writes the counter in this cycle wins. -/
def counterOp (j cell q i : Nat) (o : CtrOp) (s : State) : State :=
  modCell cell (fun c =>
    if c.ctrSink.contains (j, i) then c
    else
      let v : W32 := match o with
        | .set r => BitVec.ofNat 32 (relVal (2 ^ 32) q r)
        | .add r => ctAt c j i + BitVec.ofNat 32 (relVal (2 ^ 32) q r)
        | .copy k => ctAt c j k
      { c with ct := tset ctDef c.ct i ((tget ctDef c.ct i).put j v) }) s

/-- A comparator configuration (R163, R416). -/
def comparatorOp (j cell i : Nat) (g : CmpCfg) (s : State) : State :=
  modCell cell (fun c => { c with cmp := tset cmpDef c.cmp i ((tget cmpDef c.cmp i).put j g) }) s

/-- One operation of a bundle; `on` is false when its predicate is (R163). -/
def cellOp (p j cell q : Nat) (o : CellOp) (on : Bool) (s : State) : State :=
  match o with
  | .capture d dest noise => if on then captureOp p j cell q d dest noise s else deliver p j cell q (d == .ccw) false dest [] s
  | .emission d lane dest laps tag src => if on then emissionOp p j cell q d lane dest laps tag src s else emissionGhost p j cell q d src s
  | .laneReg d v => if on then laneRegOp j cell q d v s else s
  | .weightChunk a k tr f src => weightChunkOp p j cell q a k tr f src on s
  | .swap m => if on then swapOnce p j cell m s else s
  | .passStart seq => passStartOp p j cell q seq on s
  | .vecStart seq => vecStartOp p j cell q seq on s
  | .seed salt => if on then seedOnce p j cell q salt s else s
  | .modeSet w => if on then modeSetOp p j cell w s else s
  | .counter i o => if on then counterOp j cell q i o s else s
  | .comparator i g => if on then comparatorOp j cell i g s else s

/-- Every operation of a bundle, each under its predicate of this cycle. -/
def bundleOps (p j cell q : Nat) (ops : List BundleOp) (s : State) : State :=
  ((List.range 8).flatMap (fun k => ops.filter (fun o => opRank o.op == k))).foldl
    (fun s o => cellOp p j cell q o.op (predOk (getCell s cell) j o.pred) s) s

/-- A broadcast bundle issues in a cell (R158, R159): of two that fall on one cycle, the one with the later slot, or with one slot
the later in the program, is not performed. -/
def bundleOp (p j b cell q slot order : Nat) (ops : List BundleOp) (s : State) : State :=
  if !bundleTaken s b cell slot ops then s
  else if rival s b q j cell slot order then cellFault p j cell 0x021B id s
  else bundleOps p j cell q ops (modCell cell (fun c => { c with bundle := some (j, slot, order) }) s)

/-- BUNDLE_ISSUE (R159). -/
def execBundleIssue (t : Nat) (b : Fin 32) (q : Fin 128) (slot : Nat) (skew : Skew) (order : Nat) (ops : List BundleOp)
    (s : State) : Host.Outcome State Fault Refusal :=
  .next (cellEvent t b q (fun p j cell s =>
    if (slot + skewOf q skew) % 2 ^ 48 = j then bundleOp p j b cell q slot order ops s else s) s)

/-- WEIGHT_CHUNK_WRITE (R87). -/
def execWeightChunkWrite (t : Nat) (b : Fin 32) (q : Fin 128) (chunks : List CellOp) (pred : Option Pred) (s : State) :
    Host.Outcome State Fault Refusal :=
  .next (cellEvent t b q (fun p j cell s => chunks.foldl (fun s o => match o with
    | .weightChunk a k tr f src => weightChunkOp p j cell q a k tr f src (predOk (getCell s cell) j pred) s
    | _ => s) s) s)

/-- COUNTER_OPERATION (R162). -/
def execCounterOperation (t : Nat) (b : Fin 32) (q : Fin 128) (i : Fin 8) (op : CtrOp) (pred : Option Pred) (s : State) :
    Host.Outcome State Fault Refusal :=
  .next (cellEvent t b q (fun _ j cell s =>
    if predOk (getCell s cell) j pred then counterOp j cell q i op s else s) s)

/-- COMPARATOR_CONFIGURATION (R163). -/
def execComparatorConfiguration (t : Nat) (b : Fin 32) (q : Fin 128) (i : Fin 4) (cfg : CmpCfg) (pred : Option Pred)
    (s : State) : Host.Outcome State Fault Refusal :=
  .next (cellEvent t b q (fun _ j cell s =>
    if predOk (getCell s cell) j pred then comparatorOp j cell i cfg s else s) s)

end Sys2Proof.Machine
end

