-- ==== Sys2Proof/Machine/Memory.lean ====
section
/-! DEFINITION. The memory tiers: addresses, codewords, error records, regions and placement (chapter 11 and R9 of
spec/). -/

namespace Sys2Proof.Machine

/-- Tables of the rim. -/
def getDev (s : State) (u : Nat) : MemDev := tget {} s.devs u
def modDev (u : Nat) (f : MemDev → MemDev) (s : State) : State := { s with devs := tmod {} s.devs u f }
def getPl (s : State) (k : Nat) : Plinth := tget {} s.plinths k
def modPl (k : Nat) (f : Plinth → Plinth) (s : State) : State := { s with plinths := tmod {} s.plinths k f }
def regKey (p h : Nat) : Nat := p * 65536 + h
def getReg (s : State) (key : Nat) : Region := tget {} s.regions key
def modReg (key : Nat) (f : Region → Region) (s : State) : State := { s with regions := tmod {} s.regions key f }

/-- Base address of a memory unit (R216, R217), and the unit and offset of a device physical address (Table 0.5). -/
def unitBase (u : Nat) : Nat := if u < 16 then u * 0x900000000 else 0x100000000000 + (u - 16) * 0x4000000000
def unitOf (a : Nat) : Option (Nat × Nat) :=
  if a < 16 * 0x900000000 then some (a / 0x900000000, a % 0x900000000)
  else if 0x100000000000 ≤ a ∧ a < 0x100000000000 + 12 * 0x4000000000 then
    some (16 + (a - 0x100000000000) / 0x4000000000, (a - 0x100000000000) % 0x4000000000)
  else none

/-- Bytes in a GiB. -/
def gib : Nat := 0x40000000

/-- Whether a tier address is populated (R9, R217). DEDUCED (log entry 46): in STANDBY, with the plinth dies unpowered and the DIMMs in
self-refresh (Table 16.1), none can be reached. -/
def populated (s : State) (a : Nat) : Bool :=
  match unitOf a with
  | some (u, o) => decide (o < (getDev s u).cap * gib) && s.pwr.st != .standby
  | none => false

/-- Plinth die of a memory unit (Table 0.4). -/
def plinthOfUnit (u : Nat) : Nat := if u < 16 then u / 4 else (u - 16) / 3

/-- Bytes that a region takes on each of its members (R225). -/
def memberBytes (size n : Nat) : Nat := (size + n - 1) / n * 65536

/-- Ranges in use on a unit: regions, targets of copies, capture areas (R224, R228, R376). -/
def usedOn (s : State) (u : Nat) : List (Nat × Nat) :=
  s.regions.flatMap (fun x =>
    let r := x.2
    (if r.bound && !r.imported && r.members.contains u then [(r.start, memberBytes r.size r.members.length)] else []) ++
    (match r.target with
      | some (ms, st) => if ms.contains u then [(st, memberBytes r.size ms.length)] else []
      | none => [])) ++
  s.parts.flatMap (fun x => match x.2.captureAt with
    | some (v, st) => if v = u then [(st, 0x4000000)] else []
    | none => [])

/-- Free bytes of a unit: none on one that is not ONLINE, where nothing can be placed (Table 11.9). -/
def freeOn (s : State) (u : Nat) : Nat :=
  if (getDev s u).st ≠ 1 then 0 else (getDev s u).cap * gib - (usedOn s u).foldl (fun a x => a + x.2) 0

/-- The lowest range of `len` bytes that is free on every one of some units (R224). -/
def lowestFree (s : State) (us : List Nat) (len : Nat) : Option Nat :=
  let used := us.flatMap (usedOn s)
  let fits := fun (st : Nat) => us.all (fun u => decide (st + len ≤ (getDev s u).cap * gib)) &&
    used.all (fun x => decide (st + len ≤ x.1 ∨ x.1 + x.2 ≤ st))
  ((0 :: used.map (fun x => x.1 + x.2)).filter fits).foldl (fun a x => match a with
    | none => some x
    | some y => some (min x y)) none

/-- Units of a tier on a plinth die that placement may use: those ONLINE. -/
def tierUnits (s : State) (tier k : Nat) : List Nat :=
  (if tier = 0 then [4 * k, 4 * k + 1, 4 * k + 2, 4 * k + 3] else [16 + 3 * k, 17 + 3 * k, 18 + 3 * k]).filter
    (fun u => decide ((getDev s u).st = 1))

/-- Units in descending order of free capacity, the lowest index first on a tie. -/
def insertFree (s : State) (u : Nat) : List Nat → List Nat
  | [] => [u]
  | v :: r => if freeOn s u > freeOn s v then u :: v :: r else v :: insertFree s u r
def byFree (s : State) (us : List Nat) : List Nat := us.foldl (fun l u => insertFree s u l) []

/-- The first answer of a list of attempts. -/
def firstSome {α β : Type} (f : α → Option β) : List α → Option β
  | [] => none
  | x :: r => match f x with
    | some y => some y
    | none => firstSome f r

/-- Placement on one plinth die and tier (R224), without the units excluded. -/
def placeOn (s : State) (size : Nat) (spread : Bool) (excl : List Nat) (tier k : Nat) : Option (List Nat × Nat) :=
  let us := (tierUnits s tier k).filter (fun u => !excl.contains u)
  if spread then
    if us = [] ∨ (tier = 0 ∧ us.length < 4) then none
    else (lowestFree s us (memberBytes size us.length)).map (fun st => (us, st))
  else firstSome (fun u => (lowestFree s [u] (size * 65536)).map (fun st => ([u], st))) (byFree s us)

/-- Tiers in the order in which a preference tries them (R224): 0 is HBM, 1 is DDR5. -/
def tierOrder : Nat → List Nat
  | 2 => [1, 0]
  | 3 => [0]
  | _ => [0, 1]

/-- Placement of a region (R224): members and start. -/
def place (s : State) (size : Nat) (spread : Bool) (pref k : Nat) (excl : List Nat) : Option (List Nat × Nat) :=
  firstSome (fun (x : Nat × Nat) => placeOn s size spread excl x.1 ((k + x.2) % 4))
    ((tierOrder pref).flatMap (fun t => [0, 1, 2, 3].map (fun d => (t, d))))

/-- The region that a handle of a partition stands for, following imports (R223). -/
def resolveAux (s : State) : Nat → Nat → Option (Nat × Region)
  | 0, _ => none
  | n + 1, key =>
    let r := getReg s key
    if r.imported then match r.attached with
      | some (p, h) => resolveAux s n (regKey p h)
      | none => none
    else if r.bound then some (key, r) else none
def resolve (s : State) (p h : Nat) : Option (Nat × Region) := resolveAux s 5 (regKey p h)

/-- Whether a partition is in use, and whether it has a region on a device of a plinth die. -/
def livePart (s : State) (p : Nat) : Bool := (getPart s p).st != .empty
def regionOnDie (s : State) (p k : Nat) : Bool :=
  s.regions.any (fun x => x.1 / 65536 == p && x.2.bound &&
    (resolve s p (x.1 % 65536)).any (fun y => y.2.members.any (fun u => plinthOfUnit u == k)))

/-- Device physical address of a region offset (R225). -/
def regionAddr (r : Region) (o : Nat) : Nat :=
  let n := r.members.length
  let u := r.members.getD (o / 65536 % n) 0
  unitBase u + r.start + 65536 * (o / (65536 * n)) + o % 65536

/-- The partition and handle whose region holds a line, for records (Table 11.6). -/
def regionOfAddr (s : State) (a : Nat) : Option Nat :=
  match unitOf a with
  | none => none
  | some (u, o) => (s.regions.find? (fun x =>
      x.2.bound && !x.2.imported && x.2.members.contains u &&
      decide (x.2.start ≤ o ∧ o < x.2.start + memberBytes x.2.size x.2.members.length))).map (·.1)

/-- Who reads or writes a line: SOURCE of Table 11.6, the partition and context concerned, and what an uncorrectable
codeword brings: 0 nothing here, 1 a deferred record, 2 a job-fatal error (Table 11.3). -/
structure MemWho where
  src : Nat
  part : Option Nat
  ctx : Option Nat
  pol : Nat
  deriving DecidableEq, Repr

/-- What a codeword turned out to be (R220), with SYMBOL of Table 11.6. -/
inductive CwOut where
  | clean
  | corrected (sym : Nat)
  | bad (sym : Nat)
  deriving DecidableEq, Repr

/-- Context of a memory record (Table 11.6). -/
def memCtx (s : State) (w : MemWho) (a sym : Nat) : List (Nat × Nat) :=
  let r := regionOfAddr s a
  [(0, a), (6, sym), (7, w.src), (8, (r.map (· % 65536)).getD 0xFFFF), (10, (r.map (· / 65536)).getD 0xFF),
   (12, w.ctx.getD 0xFFFFFFFF)]

/-- A corrected codeword (R230): counts, the record of the second, and MEM_CE_STORM. DESIGN CHOICE (log entry 42): an error whose
record R387 suppresses leaves the record of its second to the next one. -/
def noteCe (w : MemWho) (a sym : Nat) (s : State) : State :=
  match unitOf a with
  | none => s
  | some (u, _) =>
    let s := { s with patina := { s.patina with live := { s.patina.live with
      mem := tmod {} s.patina.live.mem u (fun x => { x with ce := cnt x.ce 1 }) } } }
    let d := getDev s u
    let hour := s.clk.gtc :: d.hour.filter (fun g => decide (s.clk.gtc < g + 3600000000000))
    let sec := s.clk.gtc / 1000000000
    let ctx := memCtx s w a sym
    let (s1, i) := if d.lastCe = some sec then (s, none) else logRec (mkRec s .corrected 0x0501 (some u) w.part ctx) s
    let storm := !d.ceWarn && decide (hour.length ≥ ((getPl s (plinthOfUnit u)).ceLimit).toNat)
    let s2 := if storm then logDeferred 0x0503 (some u) w.part ctx s1 else s1
    modDev u (fun x => { x with lastCe := if i.isSome then some sec else d.lastCe, hour := hour, ceWarn := d.ceWarn || storm }) s2

/-- An uncorrectable or bad codeword (Table 11.3): the count, and the record of the reader. -/
def noteUe (w : MemWho) (a sym : Nat) (s : State) : State :=
  match unitOf a with
  | none => s
  | some (u, _) =>
    let s := { s with patina := { s.patina with live := { s.patina.live with
      mem := tmod {} s.patina.live.mem u (fun x => { x with ue := cnt x.ue 1 }) } } }
    let ctx := memCtx s w a sym
    match w.pol, w.part with
    | 2, some p => jobFatal p 0x0502 (some u) ctx .otherFatal none s
    | 0, _ => s
    | _, p => logDeferred 0x0502 (some u) p ctx s

/-- Symbols of a codeword in error: those stored, and those that this read returns wrong. Codeword c is bytes 32 c on. -/
def cwErrors (s : State) (flips : Noise) (c : Nat) : List (Nat × Byte) :=
  (List.range 36).filterMap (fun i =>
    let k := c % 2 * 36 + i
    let e := flips.foldl (fun e x => if x.1 = k then e ^^^ x.2 else e) (tget 0 s.memErr (c / 2 * 80 + k))
    if e = 0 then none else some (i, e))

/-- Whether ADDR_CHK of a line does not match. -/
def addrChkBad (s : State) (flips : Noise) (line : Nat) : Bool :=
  [72, 73, 74, 75].any (fun k =>
    flips.foldl (fun e x => if x.1 = k then e ^^^ x.2 else e) (tget 0 s.memErr (line * 80 + k)) ≠ 0)

/-- Decode a codeword: its bytes as the reader has them, and the outcome (R220). -/
def cwDecode (s : State) (flips : Noise) (c : Nat) : List Byte × CwOut :=
  let e := cwErrors s flips c
  let seen := e.foldl (fun bs x => if x.1 < 32 then bs.set x.1 (bs.getD x.1 0 ^^^ x.2) else bs) (readBytes s.mem (c * 32) 32)
  if addrChkBad s flips (c / 2) then (seen, .bad 0xFE)
  else if tget false s.poison c then (seen, .bad 0xFD)
  else match rsDecode e with
    | .clean => (seen, .clean)
    | .corrected i v => (if i < 32 then seen.set i (seen.getD i 0 ^^^ v) else seen, .corrected i)
    | .uncorrectable => (seen, .bad 0xFF)

/-- Write a whole codeword: its data, check symbols and POISON bit (R219). -/
def cwWrite (c : Nat) (bs : List Byte) (s : State) : State :=
  { s with
    mem := writeBytes s.mem (c * 32) bs
    memErr := s.memErr.filter (fun x => !(x.1 / 80 == c / 2 && decide (c % 2 * 36 ≤ x.1 % 80 ∧ x.1 % 80 < c % 2 * 36 + 36)))
    poison := tset false s.poison c false }

/-- Read a codeword (Table 11.3): bytes, whether they may be delivered, and the records; a corrected one is written
back. -/
def cwRead (w : MemWho) (flips : Noise) (c : Nat) (s : State) : List Byte × Bool × State :=
  match cwDecode s flips c with
  | (bs, .clean) => (bs, true, s)
  | (bs, .corrected i) => (bs, true, cwWrite c bs (noteCe w (c * 32) i s))
  | (bs, .bad i) => (bs, false, noteUe w (c * 32) i s)

/-- The read of a codeword by a copy: corrected data is copied, and nothing is written back (Table 11.3). -/
def cwCopy (w : MemWho) (flips : Noise) (c : Nat) (s : State) : List Byte × Bool × State :=
  match cwDecode s flips c with
  | (bs, .clean) => (bs, true, s)
  | (bs, .corrected i) => (bs, true, noteCe w (c * 32) i s)
  | (bs, .bad i) => (bs, false, noteUe w (c * 32) i s)

/-- Read whole codewords from number `c` on. A line has one record: when the codeword before, of the same line, was bad
(`seen`), a bad one is only counted (the example of R385). -/
def cwReadsFrom (w : MemWho) (flips : Noise) (c : Nat) (seen : Bool) : Nat → State → List Byte × Bool × State
  | 0, s => ([], true, s)
  | n + 1, s =>
    let (x, ok, s) := cwRead (if seen && c % 2 == 1 then { w with pol := 0 } else w) flips c s
    let (y, ok', s) := cwReadsFrom w flips (c + 1) (!ok) n s
    (x ++ y, ok && ok', s)

/-- Read whole codewords from number `c` on. -/
def cwReads (w : MemWho) (flips : Noise) (c n : Nat) (s : State) : List Byte × Bool × State := cwReadsFrom w flips c false n s

/-- A record of an access to an unpopulated address (R9). -/
def unpopulated (w : MemWho) (a : Nat) (s : State) : State :=
  logDeferred 0x0507 (unitOf a |>.map (·.1)) w.part
    [(0, a), (6, 0xFF), (7, w.src), (8, 0xFFFF), (10, 0xFF), (12, w.ctx.getD 0xFFFFFFFF)] s

/-- Read a line (R9, R220): both its codewords are decoded; a line that is not populated is a bus error. -/
def lineRead (w : MemWho) (flips : Noise) (line : Nat) (s : State) : List Byte × Bool × State :=
  if populated s (line * 64) then cwReads w flips (line * 2) 2 s else (zeros 64, false, s)

/-- Read whole lines from number `line` on. -/
def linesRead (w : MemWho) (line : Nat) : Nat → State → List Byte × Bool × State
  | 0, s => ([], true, s)
  | n + 1, s =>
    let (x, ok, s) := lineRead w [] line s
    let (y, ok', s) := linesRead w (line + 1) n s
    (x ++ y, ok && ok', s)

/-- Read `n` bytes of a tier from an address. -/
def memRead (w : MemWho) (a n : Nat) (s : State) : List Byte × Bool × State :=
  let (bs, ok, s) := linesRead w (a / 64) ((a + n + 63) / 64 - a / 64) s
  ((bs.drop (a % 64)).take n, ok, s)

/-- A codeword read, or written, only where that is called for. -/
def getIf (c : Bool) (get : Nat → State → List Byte × Bool × State) (h : Nat) (s : State) : List Byte × Bool × State :=
  if c then get h s else (zeros 32, true, s)
def putIf (c : Bool) (put : Nat → List Byte → State → State) (h : Nat) (bs : List Byte) (s : State) : State :=
  if c then put h bs s else s

/-- A write within two codewords of 32 bytes, from byte `lo` of them on (R219, R197): those written in part are read by `get`
and merged, and the whole write is discarded when one of them cannot be; `put` writes a whole codeword. -/
def mergeWrite (get : Nat → State → List Byte × Bool × State) (put : Nat → List Byte → State → State) (lo : Nat)
    (bs : List Byte) (s : State) : Bool × State :=
  let hi := lo + bs.length
  let hit := fun (h : Nat) => decide (lo < 32 * h + 32 ∧ 32 * h < hi)
  let part := fun (h : Nat) => hit h && !decide (lo ≤ 32 * h ∧ 32 * h + 32 ≤ hi)
  let (b0, ok0, s) := getIf (part 0) get 0 s
  let (b1, ok1, s) := getIf (ok0 && part 1) get 1 s
  if ok0 && ok1 then
    let full := (b0 ++ b1).take lo ++ bs ++ (b0 ++ b1).drop hi
    (true, putIf (hit 1) put 1 (full.drop 32) (putIf (hit 0) put 0 (full.take 32) s))
  else (false, s)

/-- The read of a codeword for a merge (R219, Table 11.3). -/
def mergeRead (w : MemWho) (c : Nat) (s : State) : List Byte × Bool × State :=
  match cwDecode s [] c with
  | (_, .bad i) => (zeros 32, false, noteUe { w with src := 5, pol := 1 } (c * 32) i s)
  | (old, .corrected i) => (old, true, noteCe { w with src := 5 } (c * 32) i s)
  | (old, .clean) => (old, true, s)

/-- A write within one line (R9, R219). -/
def lineWrite (w : MemWho) (a : Nat) (bs : List Byte) (s : State) : Bool × State :=
  if populated s a then
    mergeWrite (fun h => mergeRead w (a / 64 * 2 + h)) (fun h => cwWrite (a / 64 * 2 + h)) (a % 64) bs s
  else (false, unpopulated w a s)

/-- Write bytes line by line. DESIGN CHOICE (log entry 46): a write of more than one line is one write for each line. -/
def memWriteAux (w : MemWho) (a : Nat) : Nat → List Byte → State → Bool × State
  | 0, _, s => (true, s)
  | n + 1, bs, s =>
    if bs = [] then (true, s)
    else
      let k := 64 - a % 64
      let (ok, s) := lineWrite w a (bs.take k) s
      let (ok', s) := memWriteAux w (a + k) n (bs.drop k) s
      (ok && ok', s)

/-- Correct ADDR_CHK of the lines that a write covers whole (R219). -/
def fixChk (a n : Nat) (s : State) : State :=
  { s with memErr := s.memErr.filter (fun x =>
      !(decide (72 ≤ x.1 % 80 ∧ a ≤ x.1 / 80 * 64 ∧ x.1 / 80 * 64 + 64 ≤ a + n))) }

/-- Write bytes to a tier; false when a part was discarded. -/
def memWrite (w : MemWho) (a : Nat) (bs : List Byte) (s : State) : Bool × State :=
  memWriteAux w a (bs.length / 64 + 2) bs (fixChk a bs.length s)

/-- Read bytes of a region from an offset, piece by piece of 64 bytes (R225). -/
def regionRead (w : MemWho) (r : Region) (off : Nat) : Nat → State → List Byte × Bool × State
  | 0, s => ([], true, s)
  | n + 1, s =>
    let (x, ok, s) := memRead w (regionAddr r off) 64 s
    let (y, ok', s) := regionRead w r (off + 64) n s
    (x ++ y, ok && ok', s)

/-- Read `n` bytes of a region at any byte offset, byte by byte within lines. -/
def regionBytes (w : MemWho) (r : Region) (off n : Nat) (s : State) : List Byte × Bool × State :=
  let o := off / 64 * 64
  let (bs, ok, s) := regionRead w r o ((off + n + 63) / 64 - off / 64) s
  ((bs.drop (off - o)).take n, ok, s)

/-- Write bytes to a region from an offset, split at 64-byte lines. -/
def regionWrite (w : MemWho) (r : Region) (off : Nat) : Nat → List Byte → State → Bool × State
  | 0, _, s => (true, s)
  | n + 1, bs, s =>
    if bs = [] then (true, s)
    else
      let k := 64 - off % 64
      let (ok, s) := memWrite w (regionAddr r off) (bs.take k) s
      let (ok', s) := regionWrite w r (off + k) n (bs.drop k) s
      (ok && ok', s)

/-- Bytes charged for a transfer (R210). -/
def charged (m g b : Nat) : Nat := roundUp (max b m) g

/-- Count a memory transfer of a stream (R210, Table 18.2). -/
def chargeMem (u moved : Nat) (s : State) : State :=
  let c := charged (if u < 16 then 2048 else 8192) 64 moved
  { s with patina := { s.patina with live := { s.patina.live with
    mem := tmod {} s.patina.live.mem u (fun x => { x with charged := cnt x.charged c, moved := cnt x.moved moved }) } } }

/-- A transfer of bytes of a region from an offset on, which lie on one device, is counted and charged. -/
def chargeRegion (r : Region) (off n : Nat) (s : State) : State :=
  match unitOf (regionAddr r off) with
  | some (u, _) => if n = 0 then s else chargeMem u n s
  | none => s

/-- Count bytes read or written that are no stream transfer. -/
def moveMem (a moved : Nat) (s : State) : State :=
  match unitOf a with
  | none => s
  | some (u, _) => { s with patina := { s.patina with live := { s.patina.live with
      mem := tmod {} s.patina.live.mem u (fun x => { x with moved := cnt x.moved moved }) } } }

/-- Whether any partition that imports a region is RUNNING, PAUSED or CAST (R226). -/
def importerBusy (s : State) (key : Nat) : Bool :=
  s.regions.any (fun x => x.2.imported && (resolve s (x.1 / 65536) (x.1 % 65536)).map (·.1) == some key &&
    [PState.running, .paused, .cast].contains (getPart s (x.1 / 65536)).st)

/-- Movable by the partition and import conditions of R226. -/
def movableState (s : State) (key : Nat) : Bool :=
  let st := (getPart s (key / 65536)).st
  (st == .bound || st == .done) && !importerBusy s key

/-- Whether anything of a line is not as a whole write of zeros leaves it: its bytes, an error, or POISON. -/
def lineHeld (s : State) (line : Nat) : Bool :=
  tget false s.poison (line * 2) || tget false s.poison (line * 2 + 1) || s.memErr.any (fun x => x.1 / 80 == line) ||
    decide (readBytes s.mem (line * 64) 64 ≠ zeros 64)

/-- Copy one line (R228, Table 11.3): the target line is written whole, and only when both codewords could be read. -/
def copyLine (w : MemWho) (src dst : Nat) (s : State) : Bool × State :=
  if !populated s (src * 64) then (false, s)
  else if !lineHeld s src && !lineHeld s dst then (true, s)
  else
    let (b0, ok0, s) := cwCopy w [] (src * 2) s
    let (b1, ok1, s) := cwCopy (if ok0 then w else { w with pol := 0 }) [] (src * 2 + 1) s
    if ok0 && ok1 then (true, fixChk (dst * 64) 64 (cwWrite (dst * 2 + 1) b1 (cwWrite (dst * 2) b0 s))) else (false, s)

/-- Copy one 64 KiB unit of a region to its target (R228): the units before `n` are copied. A source that is not populated is a bus
error (R9). -/
def copyUnit (r : Region) (ms : List Nat) (st : Nat) (n : Nat) (s : State) : Bool × State :=
  let w : MemWho := { src := 4, part := none, ctx := none, pol := 1 }
  let src := regionAddr r (n * 65536) / 64
  let dst := regionAddr { r with members := ms, start := st } (n * 65536) / 64
  (List.range 1024).foldl (fun (a : Bool × State) i => if a.1 then copyLine w (src + i) (dst + i) a.2 else a) (true, s)

end Sys2Proof.Machine
end

