-- ==== Sys2Proof/Machine/Streams.lean ====
section
/-! DEFINITION. Stream contexts and their engines (R201-R215 of spec/). -/

namespace Sys2Proof.Machine

/-- Fields of a context image (Table 10.2). -/
def ctxKind (i : List Byte) : Nat := field i 2 1 % 8
def ctxHint (i : List Byte) : Nat := field i 2 1 / 8 % 4
def ctxNlev (i : List Byte) : Nat := field i 3 1 % 8
def ctxUclev (i : List Byte) : Nat := field i 3 1 / 8 % 8
def ctxUcwait (i : List Byte) : Bool := bitOf (field i 3 1) 6
def ctxRegion (i : List Byte) : Nat := field i 4 2
def ctxTarget (i : List Byte) : Nat := field i 6 2
def ctxMerge (i : List Byte) : Nat := field i 12 2 % 4096
def ctxShard (i : List Byte) : Nat := field i 14 2
def ctxCount (i : List Byte) (l : Nat) : Nat := if field i (24 + 2 * l) 2 = 0 then 65536 else field i (24 + 2 * l) 2
def ctxStride (i : List Byte) (l : Nat) : Int := signed 24 (field i (40 + 3 * l) 3)

/-- Port stream of a context (Table 10.2). -/
def ctxStream (i : List Byte) : Nat := if ctxKind i = 2 then bits (ctxTarget i) 8 3 else bits (ctxTarget i) 3 3

/-- Words below a level, and of the whole program (R202). -/
def ctxBelow (i : List Byte) (l : Nat) : Nat := (List.range l).foldl (fun a k => a * ctxCount i k) 1
def ctxTotal (i : List Byte) : Nat := ctxBelow i (ctxNlev i + 1)

/-- Index of level `l` at word `n`. -/
def ctxIdx (i : List Byte) (n l : Nat) : Nat := n / ctxBelow i l % ctxCount i l

/-- Region offset of word `n` in 64-byte units, and its TAG (R202). -/
def ctxOffset (i : List Byte) (n : Nat) : Nat :=
  (((field i 8 4 : Nat) : Int) + (List.range (ctxNlev i + 1)).foldl (fun a l => a + (ctxIdx i n l : Int) * ctxStride i l) 0
    |>.emod (2 ^ 32)).toNat
def ctxTag (i : List Byte) (n : Nat) : Nat :=
  (field i 12 2 / 4096 + (List.range (ctxNlev i + 1)).foldl (fun a l => a + ctxIdx i n l * bits (field i 20 4) (4 * l) 4) 0)
    % 16

/-- Whether word `n` is a wait point, and the count it expects (R202, R204); after the last word there is none. -/
def ctxWaits (i : List Byte) (n : Nat) : Bool := ctxUcwait i && decide (n < ctxTotal i ∧ n % ctxBelow i (ctxUclev i) = 0)
def ctxExpect (i : List Byte) (n : Nat) : Nat := (field i 16 4 + n / ctxBelow i (ctxUclev i)) % 2 ^ 32

/-- Words of the merged transfer that begins with word `n`, at most `m` (R202). -/
def mergeLen (i : List Byte) (n : Nat) : Nat → Nat
  | 0 => 0
  | m + 1 =>
    if n + 1 ≥ ctxTotal i ∨ (n + 1) % ctxCount i 0 = 0 ∨ ctxWaits i (n + 1) ∨ ctxOffset i (n + 1) ≠ ctxOffset i n + 8 ∨
      ctxOffset i (n + 1) / 1024 ≠ ctxOffset i n / 1024 then 1
    else if m = 0 then 1
    else 1 + mergeLen i (n + 1) m

/-- Contexts of a plinth die. -/
def getCtx (s : State) (k n : Nat) : Ctx := tget {} (getPl s k).ctxs n
def modCtx (k n : Nat) (f : Ctx → Ctx) (s : State) : State := modPl k (fun p => { p with ctxs := tmod {} p.ctxs n f }) s

/-- Whether two contexts feed, or drain, one port stream of one band (R205). -/
def sameStream (x y : Ctx) : Bool :=
  (ctxKind x.img == 1) == (ctxKind y.img == 1) && ctxKind x.img != 3 && ctxKind y.img != 3 &&
  ctxStream x.img == ctxStream y.img && x.bands.any (fun b => y.bands.contains b)

/-- Whether an earlier context of the same stream has still to deliver (R205). -/
def waitsPred (s : State) (k n : Nat) : Bool :=
  let c := getCtx s k n
  if ctxKind c.img = 3 then
    decide (ctxShard c.img > (tget {} s.chans (bits (ctxTarget c.img) 0 10)).nextShard)
  else (getPl s k).ctxs.any (fun x => decide (x.1 < n) &&
    [CtxSt.allocated, .running, .fault].contains x.2.st && sameStream x.2 c)

/-- Free places of an inbound stream: its allocation less words present, requested, parked and granted (R208, R211). -/
def inSpace (s : State) (b x : Nat) : Nat :=
  let bd := getBand s b
  let used := s.plinths.foldl (fun a pl => pl.2.ctxs.foldl (fun a e =>
    let c := e.2
    if c.bands.contains b && ctxStream c.img == x then
      a + (if ctxKind c.img = 0 then c.flight.length + c.parked.length else 0) +
      (if ctxKind c.img = 2 ∧ c.grants.contains b then (match c.held with | some h => h.2.1.length | none => 0) else 0)
    else a) a) 0
  tget 0 bd.allocIn x - (tget [] bd.inStreams x).length - used

/-- Whether the update count that a context waits for has been reached (R204). -/
def ucReached (s : State) (c : Ctx) : Bool :=
  match resolve s c.part (ctxRegion c.img) with
  | some (_, r) => decide ((r.count + 2 ^ 32 - ctxExpect c.img c.next) % 2 ^ 32 < 2 ^ 31)
  | none => false

/-- Whether a dump of a partition copies a region (R368), whatever handle names it. -/
def dumpOf (s : State) (p key : Nat) : Bool :=
  (getPart s p).dump.any (fun d => d.copying && (resolve s p d.handle).map (·.1) == some key)

/-- Whether a copy of a dump holds the STORE contexts of the partition that name a region, and whether one reads it (R368). -/
def dumpHolds (s : State) (p h : Nat) : Bool := (resolve s p h).any (fun y => dumpOf s p y.1)
def dumpReads (s : State) (key : Nat) : Bool := [0, 1, 2, 3].any (fun p => dumpOf s p key)

/-- STATE of PL_CTX_STATE (Table 10.8). A context that names a detached import waits for no count: it raises REGION_BOUND
(R223). -/
def ctxState (s : State) (k n : Nat) : Nat :=
  let c := getCtx s k n
  match c.st with
  | .free => 0
  | .allocated => 1
  | .done => 6
  | .fault => 7
  | .draining => 8
  | .running =>
    let kind := ctxKind c.img
    if waitsPred s k n then 5
    else if ctxWaits c.img c.next && decide (c.passed ≤ c.next) && !ucReached s c && (resolve s c.part (ctxRegion c.img)).isSome then 4
    else if kind = 0 then (if c.bands.any (fun b => inSpace s b (ctxStream c.img) = 0) then 3 else 2)
    else if kind = 2 then (if c.held.isSome then 3 else 2)
    else if kind = 3 then
      (let ch := (tget {} s.chans (bits (ctxTarget c.img) 0 10)).st
       if ch = .open_ ∨ ch = .active then 2 else 3)
    else if dumpHolds s c.part (ctxRegion c.img) then 3 else 2

/-- Context bytes of a STREAM record (Table 19.3). -/
def streamCtx (c : Ctx) (low mask n exp : Nat) : List (Nat × Nat) :=
  [(0, low), (1, mask), (2, ctxRegion c.img), (4, n % 2 ^ 32), (8, exp)]

/-- A context enters FAULT, and its partition is cast (R24, R205, R211). -/
def ctxFault (k n code low mask word exp : Nat) (s : State) : State :=
  let c := getCtx s k n
  let s := modCtx k n (fun c => { c with st := .fault, held := none, grants := [] }) s
  jobFatal c.part code (some (k * 65536 + n)) (streamCtx c low mask word exp) .otherFatal none s

/-- Whether a context is in WAIT_UC on a region that is marked failed (R24, R204). -/
def waitsFailed (s : State) (k n : Nat) : Bool :=
  let c := getCtx s k n
  ctxState s k n == 4 && (match resolve s c.part (ctxRegion c.img) with
    | some (_, r) => r.failed
    | none => false)

/-- Every context that waits on a failed region enters FAULT (R24). -/
def failWaiters (s : State) : State :=
  s.plinths.foldl (fun s x => x.2.ctxs.foldl (fun s e =>
    if waitsFailed s x.1 e.1 then ctxFault x.1 e.1 0x0403 0xFF 0 e.2.next (ctxExpect e.2.img e.2.next) s else s) s) s

/-- The bound size of the region that a context names, in 64 KiB units: that of the partition's own entry (R205, Table 11.5). -/
def boundSize (s : State) (c : Ctx) : Nat := (getReg s (regKey c.part (ctxRegion c.img))).size

/-- Whether word `n` lies within a bound size (R205). -/
def wordInside (size : Nat) (i : List Byte) (n : Nat) : Bool := decide (64 * ctxOffset i n + 512 ≤ size * 65536)

/-- Whether the endpoints of a partition neither deliver nor drain: from its cast until RESUME (R375). -/
def endpointStops (s : State) (p : Nat) : Bool := (getPart s p).st == .cast && (getPart s p).resumeAt.isNone

/-- Whether a context is ready for its engine to issue a transfer (R206): in no WAIT state, and with something to move. -/
def ctxReady (s : State) (k n : Nat) : Bool :=
  let c := getCtx s k n
  ctxState s k n == 2 && decide (c.next < ctxTotal c.img) && (match ctxKind c.img with
    | 1 => tget [] (getBand s (c.bands.headD 0)).outStreams (ctxStream c.img) != [] && !endpointStops s c.part
    | 2 => c.flight == [] && c.held.isNone
    | _ => true)

/-- The next context of an engine in ascending index after the last, wrapping round, that is ready (R206). -/
def nextReady (s : State) (k engine : Nat) : Option Nat :=
  let pl := getPl s k
  let l := tget 0 pl.last engine
  let idx := (pl.ctxs.map (·.1)).filter (fun n => n % 64 = engine)
  match (idx.filter (fun n => decide (n > l))).find? (ctxReady s k) with
  | some n => some n
  | none => (idx.filter (fun n => decide (n ≤ l))).find? (ctxReady s k)

/-- An engine has served a context (R206). -/
def serve (k n : Nat) (s : State) : State := modPl k (fun p => { p with last := tset 0 p.last (n % 64) n }) s

/-- Whether the engine of a STORE context is at it: amid a merged transfer, or when its turn has come (R202, R206). -/
def storeTurn (s : State) (k n : Nat) : Bool :=
  let c := getCtx s k n
  c.words != c.runAt || nextReady s k (n % 64) == some n

/-- The memory units of some words are addressed by a context (R206). -/
def addressWords (k n : Nat) (r : Region) (ws : List Nat) (s : State) : State :=
  let i := (getCtx s k n).img
  let us := ws.flatMap (fun w => [64 * ctxOffset i w, 64 * ctxOffset i w + 511].filterMap (fun o => (unitOf (regionAddr r o)).map (·.1)))
  modCtx k n (fun c => { c with addressed := us.foldl (fun l u => if l.contains u then l else l ++ [u]) c.addressed }) s

/-- Whether the rim runs: through a frequency pause it does (R45), outside ACTIVE nothing is transferred. -/
def rimRuns (s : State) : Bool := s.clk.run != .stopped

/-- One merged transfer of a FETCH, MCAST or SEND context is issued (R206, R208). The turn of a STORE context is taken by its own
words. -/
def issueTransfer (k engine : Nat) (s : State) : State :=
  match nextReady s k engine with
  | none => s
  | some n =>
    let c := getCtx s k n
    if ctxKind c.img = 1 then s
    else
    let s := serve k n s
    match resolve s c.part (ctxRegion c.img) with
    | none => ctxFault k n 0x0401 0xFF 0 c.next 0 s
    | some (key, r) =>
      if !wordInside (boundSize s c) c.img c.next then ctxFault k n 0x0401 0xFF 0 c.next 0 s
      else
        let m0 := mergeLen c.img c.next (ctxMerge c.img)
        let m1 := if ctxKind c.img = 0 then min m0 (inSpace s (c.bands.headD 0) (ctxStream c.img)) else m0
        let ws := ((List.range m1).map (fun i => c.next + i)).filter (wordInside (boundSize s c) c.img)
        let u := (unitOf (regionAddr r (64 * ctxOffset c.img c.next))).map (·.1)
        let s := modCtx k n (fun c => { c with next := c.next + ws.length, flight := c.flight ++ ws }) s
        let s := addressWords k n r ws s
        let s := modReg key (fun r => { r with lastRead := (getPart s (key / 65536)).runs, readGtc := s.clk.gtc }) s
        match u with
        | some u => chargeMem u (512 * ws.length) s
        | none => s

/-- Put a word into an inbound stream. -/
def putInbound (b x : Nat) (w : PortWord) (s : State) : State :=
  modBand b (fun bd => { bd with inStreams := tset [] bd.inStreams x (tget [] bd.inStreams x ++ [w]) }) s

/-- The 512 bytes of a word, line by line; `flips` are keyed by 80 times the line of the word plus the symbol. -/
def readWord (w : MemWho) (r : Region) (off : Nat) (flips : Noise) : Nat → State → List Byte × Bool × State
  | 0, s => ([], true, s)
  | n + 1, s =>
    let i := 7 - n
    let fl := (flips.filter (fun x => x.1 / 80 == i)).map (fun x => (x.1 % 80, x.2))
    let (x, ok, s) := lineRead w fl (regionAddr r (off + 64 * i) / 64) s
    let (y, ok', s) := readWord w r off flips n s
    (x ++ y, ok && ok', s)

/-- The word number of a context moves on by `m`, of which `done` words were delivered or stored; with its last one it is
DONE. -/
def ctxAdvance (k n m done : Nat) (s : State) : State :=
  modCtx k n (fun c =>
    let w := c.words + m
    { c with words := w, moved := c.moved + done, st := if c.st = .running ∧ w ≥ ctxTotal c.img then .done else c.st }) s

/-- A message of an old generation is dropped and counted (R206). -/
def staleMsg (k : Nat) (s : State) : State := modPl k (fun p => { p with stale := satAdd 0xFFFFFFFF p.stale 1 }) s

/-- A requested word arrives at the band port, or at the engine of a multicast or a shard (R208, R211, R220, R375). Words requested
before a context entered FAULT still arrive, but none behind an uncorrectable one. -/
def wordArrives (k n gen : Nat) (flips : Noise) (s : State) : State :=
  let c := getCtx s k n
  if gen ≠ c.gen then staleMsg k s
  else match c.flight with
    | [] => s
    | w :: rest =>
      if c.st ≠ .running ∧ c.st ≠ .fault then s
      else match resolve s c.part (ctxRegion c.img) with
        | none => ctxFault k n 0x0401 0xFF 0 w 0 s
        | some (_, r) =>
          let who : MemWho := { src := 0, part := some c.part, ctx := some (k * 65536 + n), pol := 2 }
          let (bs, ok, s) := readWord who r (64 * ctxOffset c.img w) flips 8 s
          let s := modCtx k n (fun c => { c with flight := rest }) s
          if !ok then modCtx k n (fun c => { c with st := .fault, flight := [], held := none, grants := [] }) s
          else
            let pw : PortWord := { tag := ctxTag c.img w, mask := 0xFF, data := bs }
            if ctxKind c.img = 0 then
              if endpointStops s c.part then modCtx k n (fun c => { c with parked := c.parked ++ [pw] }) s
              else ctxAdvance k n 1 1 (putInbound (c.bands.headD 0) (ctxStream c.img) pw s)
            else
              let ws := (match c.held with | some h => h.2.1 | none => []) ++ [pw]
              let first := match c.held with | some h => h.1 | none => w
              modCtx k n (fun c => { c with held := some (first, ws, s.clk.gtc) }) s

/-- The band of an endpoint of a plinth die (R201). -/
def endpointBand (k e : Nat) : Nat := e / 4 * 16 + 4 * k + e % 4

/-- The endpoint of a band on its plinth die. -/
def bandEndpoint (b : Nat) : Nat := b / 16 * 4 + b % 4

/-- A held multicast that every target has granted is delivered (R211), unless the endpoints have stopped. -/
def deliverMcast (k n : Nat) (s : State) : State :=
  let c := getCtx s k n
  match c.held with
  | none => s
  | some (_, ws, _) =>
    if ctxKind c.img = 2 ∧ c.flight = [] ∧ c.st = .running ∧ c.bands.all (fun x => c.grants.contains x) = true ∧ endpointStops s c.part = false then
      let s := modCtx k n (fun c => { c with held := none, grants := [] }) s
      let s := c.bands.foldl (fun s b => ws.foldl (fun s w => putInbound b (ctxStream c.img) w s) s) s
      ctxAdvance k n ws.length ws.length s
    else s

/-- A target grants space for every word of a held multicast; with the last grant it is delivered (R211). -/
def grantMcast (k n gen e : Nat) (s : State) : State :=
  let c := getCtx s k n
  let b := endpointBand k e
  if gen ≠ c.gen then staleMsg k s
  else match c.held with
  | none => s
  | some (_, ws, _) =>
    if ctxKind c.img ≠ 2 ∨ c.flight ≠ [] ∨ c.st ≠ .running ∨ !c.bands.contains b ∨ c.grants.contains b ∨
      inSpace s b (ctxStream c.img) < ws.length then s
    else
      deliverMcast k n (modCtx k n (fun c => { c with grants := b :: c.grants }) s)

/-- A multicast that some target has not granted in time is abandoned (R211). -/
def timeoutMcast (k n : Nat) (s : State) : State :=
  let c := getCtx s k n
  match c.held with
  | none => s
  | some (first, _, g) =>
    let lag := (c.bands.filter (fun b => !c.grants.contains b)).map bandEndpoint
    let limit := max 1 (getPl s k).mcastTo * 1000
    if ctxKind c.img ≠ 2 ∨ c.flight ≠ [] ∨ lag = [] ∨ s.clk.gtc < g + limit then s
    else ctxFault k n 0x0402 (lag.foldl min 8) (lag.foldl (fun a e => a ||| 2 ^ e) 0) first 0 s

/-- Word `n` of a STORE context has been taken: with the last word of its merged transfer the transfer is charged (R202,
R210). -/
def storeMerged (k n : Nat) (r : Region) (word : Nat) (stored : Bool) (s : State) : State :=
  let c := getCtx s k n
  let len := c.runLen + b2n stored
  if word + 1 < c.runAt + mergeLen c.img c.runAt (ctxMerge c.img) then modCtx k n (fun c => { c with runLen := len }) s
  else
    let s := serve k n (modCtx k n (fun c => { c with runAt := word + 1, runLen := 0 }) s)
    match len, unitOf (regionAddr r (64 * ctxOffset c.img c.runAt)) with
    | 0, _ => s
    | m + 1, some (u, _) => chargeMem u (512 * (m + 1)) s
    | _, none => s

/-- A STORE context takes the oldest word of its outbound stream (R202, R203). A write request of an old generation is dropped
(R206). -/
def storeOne (k n gen : Nat) (s : State) : State :=
  let c := getCtx s k n
  if gen ≠ c.gen then staleMsg k s
  else if c.st ≠ .running ∨ ctxKind c.img ≠ 1 ∨ ctxState s k n ≠ 2 ∨ endpointStops s c.part ∨ !storeTurn s k n then s
  else
    let b := c.bands.headD 0
    let x := ctxStream c.img
    let bd := getBand s b
    match tget [] bd.outStreams x with
    | [] => s
    | w :: rest =>
      match resolve s c.part (ctxRegion c.img) with
      | none => ctxFault k n 0x0401 0xFF 0 c.words 0 s
      | some (_, r) =>
        if !wordInside (boundSize s c) c.img c.words then ctxFault k n 0x0401 0xFF 0 c.words 0 s
        else
          let s := setBand b { bd with outStreams := tset [] bd.outStreams x rest } s
          let s := modCtx k n (fun c => { c with next := c.words + 1 }) s
          let tag := ctxTag c.img c.words
          if tag ≠ w.tag then
            ctxAdvance k n 1 0 (storeMerged k n r c.words false <| schedFault c.part { code := 0x0205, jcc := (getPart s c.part).jcc, band := b, ppos := 0x80, cmp := w.tag, tag := tag } s)
          else
            let off := 64 * ctxOffset c.img c.words
            let who : MemWho := { src := 0, part := some c.part, ctx := some (k * 65536 + n), pol := 1 }
            let s := addressWords k n r [c.words] s
            let s := (List.range 8).foldl (fun s i => if bitOf w.mask i then
              (memWrite who (regionAddr r (off + 64 * i)) ((w.data.drop (64 * i)).take 64) s).2 else s) s
            ctxAdvance k n 1 1 (storeMerged k n r c.words true s)

/-- Cut bytes into units of a channel: 64 elements each. -/
def cutUnits (sz off gtc : Nat) : Nat → List Byte → List RxBody
  | 0, _ => []
  | n + 1, bs => if bs.length < sz then [] else
    { offset := off, body := bs.take sz, gtc := gtc } :: cutUnits sz (off + 1) gtc n (bs.drop sz)

/-- Bytes of an element of the local contribution (CFMT, Table 13.7). -/
def cfmtBytes (cfg : W32) : Nat := if bits cfg.toNat 4 2 = 0 then 4 else 2

/-- A shard is handed to the link port once every word of it is in the engine (R22, R205, R256). One of an old generation is
dropped (R206). -/
def handShard (k n gen : Nat) (s : State) : State :=
  let c := getCtx s k n
  let chn := bits (ctxTarget c.img) 0 10
  let ch := tget {} s.chans chn
  if gen ≠ c.gen then staleMsg k s
  else match c.held with
    | none => s
    | some (_, ws, _) =>
      let total := ctxTotal c.img
      if c.st ≠ .running ∨ ctxKind c.img ≠ 3 ∨ ctxState s k n ≠ 2 ∨ ctxShard c.img ≠ ch.nextShard ∨ c.flight ≠ [] ∨ ws.length < total then s
      else
        let bs := ws.flatMap (·.data)
        let sz := 64 * cfmtBytes ch.cfg
        let first := ch.nextShard * ch.shard
        let cap := min ch.shard (ch.units - first)
        let us := (cutUnits sz ch.localNext s.clk.gtc (bs.length / sz + 1) bs).take cap
        let last := (ch.nextShard + 1) * ch.shard ≥ ch.units
        let s := { s with chans := tmod {} s.chans chn (fun ch => { ch with
          localQ := ch.localQ ++ us
          localNext := ch.localNext + us.length
          nextShard := if last then 0 else ch.nextShard + 1
          waitFrom := if ch.waitFrom.isNone && ch.localNext / ch.units == ch.fold / ch.units then some s.clk.gtc else ch.waitFrom
          st := if ch.st = .open_ then .active else ch.st }) }
        ctxAdvance k n total total (modCtx k n (fun c => { c with held := none }) s)

/-- The wait of a context for its update count ends, or fails (R24, R204). -/
def ucArrive (k n : Nat) (s : State) : State :=
  let c := getCtx s k n
  if c.st ≠ .running ∨ !ctxWaits c.img c.next then s
  else match resolve s c.part (ctxRegion c.img) with
    | none => ctxFault k n 0x0401 0xFF 0 c.next 0 s
    | some (_, r) =>
      if ucReached s c then modCtx k n (fun c => { c with passed := c.next + 1 }) s
      else if r.failed then ctxFault k n 0x0403 0xFF 0 c.next (ctxExpect c.img c.next) s
      else s

/-- Release one context (R206): its generation moves on, and drain tokens go along the paths it has used: every memory
controller it has addressed, and its endpoints or the link port. -/
def releaseCtx (c : Ctx) : Ctx :=
  let paths := c.addressed.length + (if c.next = 0 then 0 else if ctxKind c.img = 3 then 1 else c.bands.length)
  { gen := (c.gen + 1) % 65536, st := if paths = 0 then .free else .draining, part := c.part, tokens := paths, img := c.img, moved := c.moved }

/-- Release every context of a partition that is allocated (R207). -/
def releaseContexts (p : Nat) (s : State) : State :=
  { s with plinths := s.plinths.map (fun x => (x.1, { x.2 with ctxs := x.2.ctxs.map (fun e =>
      if e.2.part = p ∧ e.2.st ≠ .free ∧ e.2.st ≠ .draining then (e.1, releaseCtx e.2) else e) })) }

/-- Whether contexts of a partition are still DRAINING. -/
def anyDraining (s : State) (p : Nat) : Bool :=
  s.plinths.any (fun x => x.2.ctxs.any (fun e => e.2.st == .draining && e.2.part == p))

/-- A drain token comes back (R206). -/
def tokenBack (k n : Nat) (s : State) : State :=
  modCtx k n (fun c => if c.st ≠ .draining then c
    else if c.tokens ≤ 1 then { c with st := .free, tokens := 0 } else { c with tokens := c.tokens - 1 }) s

/-- The lowest free context index from `n` on. -/
def freeIdx (pl : Plinth) (n : Nat) : Nat → Option Nat
  | 0 => none
  | f + 1 => if (tget ({} : Ctx) pl.ctxs n).st = .free then some n else freeIdx pl (n + 1) f

/-- Whether an index of a plinth die could be free once the drains are over. -/
def mightDrain (pl : Plinth) : Bool := pl.ctxs.any (fun e => e.2.st == .draining)

/-- The physical band of a logical one. -/
def physBand (q : Part) (lb : Nat) : Option Nat := (q.binding[lb]?).map (·.1)

/-- Allocate one context of a maquette (R213, R214): at a wanted index when it is free, or else at the lowest. -/
def allocOne (p : Nat) (e : List Byte) (want : Option Nat) (s : State) : Option ((Nat × Nat) × State) :=
  let q := getPart s p
  match physBand q (field e 0 1) with
  | none => none
  | some b =>
    let k := plinthOf b
    let pl := getPl s k
    let idx := match want with
      | some n => if (tget ({} : Ctx) pl.ctxs n).st = .free then some n else freeIdx pl 0 65536
      | none => freeIdx pl 0 65536
    match idx with
    | none => none
    | some n =>
      let gen := (tget ({} : Ctx) pl.ctxs n).gen
      let img := e.drop 16
      let bands := (List.range (field e 1 1)).filterMap (fun i => physBand q (field e (4 + i) 1))
      let tgt := field img 6 2
      let tgt' := if ctxKind img = 3 then tgt
        else if ctxKind img = 2 then tgt / 256 * 256 + bands.foldl (fun a b => a ||| 2 ^ bandEndpoint b) 0
        else tgt / 8 * 8 + bandEndpoint (bands.headD 0)
      let img' := leBytes 2 gen ++ (img.drop 2).take 4 ++ leBytes 2 tgt' ++ img.drop 8
      let c : Ctx := { st := .allocated, part := p, gen := gen, img := img', lband := field e 0 1, bands := bands }
      some ((k, n), modPl k (fun pl => { pl with ctxs := tset {} pl.ctxs n c }) s)

/-- Allocate the contexts of a partition, in table order. -/
def allocContexts (p : Nat) : List (List Byte) → List (Nat × Nat) → State → Option (List (Nat × Nat) × State)
  | [], _, s => some ([], s)
  | e :: r, want, s =>
    match allocOne p e (want.head?.map (·.2)) s with
    | none => none
    | some (x, s) => match allocContexts p r want.tail s with
      | none => none
      | some (xs, s) => some (x :: xs, s)

/-- Allocations of the port streams of a logical band: the largest SLOTS of its contexts (R213). -/
def slotsOf (ctxs : List (List Byte)) (lb x : Nat) (outbound : Bool) : Nat :=
  ctxs.foldl (fun a e =>
    let img := e.drop 16
    if ctxKind img ≠ 3 ∧ (ctxKind img = 1) = (outbound = true) ∧ ctxStream img = x ∧
      (List.range (field e 1 1)).any (fun i => field e (4 + i) 1 = lb) then max a (field e 2 2) else a) 0

/-- Deliver the words parked for a partition, and the multicasts granted meanwhile (R375, R211). -/
def deliverParked (p : Nat) (s : State) : State :=
  let s := s.plinths.foldl (fun s x => x.2.ctxs.foldl (fun s e =>
    let c := e.2
    if c.part = p ∧ c.parked ≠ [] then
      let s := c.parked.foldl (fun s w => putInbound (c.bands.headD 0) (ctxStream c.img) w s) s
      ctxAdvance x.1 e.1 c.parked.length c.parked.length (modCtx x.1 e.1 (fun c => { c with parked := [] }) s)
    else s) s) s
  s.plinths.foldl (fun s x => x.2.ctxs.foldl (fun s e => if e.2.part = p then deliverMcast x.1 e.1 s else s) s) s

/-- STREAM_TRANSFER_ISSUE (R206). -/
def execStreamTransferIssue (k : Fin 4) (engine : Fin 64) (s : State) : Host.Outcome State Fault Refusal :=
  .next (if rimRuns s then issueTransfer k engine s else s)

/-- FETCH_WORD_ARRIVAL (R208). -/
def execFetchWordArrival (k : Fin 4) (ctx gen : Nat) (noise : Noise) (s : State) : Host.Outcome State Fault Refusal :=
  .next (if rimRuns s then wordArrives k ctx gen noise s else s)

/-- UPDATE_COUNT_REACHED (R204). -/
def execUpdateCountReached (k : Fin 4) (ctx : Nat) (s : State) : Host.Outcome State Fault Refusal :=
  .next (if rimRuns s then ucArrive k ctx s else s)

/-- STORE_WORD (R203). -/
def execStoreWord (k : Fin 4) (ctx : CtxMsg) (s : State) : Host.Outcome State Fault Refusal :=
  .next (if rimRuns s then storeOne k ctx.index ctx.gen s else s)

/-- MCAST_GRANT (R211). -/
def execMcastGrant (k : Fin 4) (ctx : Nat) (grant : Grant) (s : State) : Host.Outcome State Fault Refusal :=
  .next (if rimRuns s then grantMcast k ctx grant.gen grant.endpoint s else s)

/-- MCAST_TIMEOUT (R211). -/
def execMcastTimeout (k : Fin 4) (ctx : Nat) (s : State) : Host.Outcome State Fault Refusal :=
  .next (timeoutMcast k ctx s)

/-- DRAIN_TOKEN_RETURN (R206). -/
def execDrainTokenReturn (k : Fin 4) (ctx : Nat) (s : State) : Host.Outcome State Fault Refusal :=
  .next (tokenBack k ctx s)

/-- SHARD_HANDOFF (R22). -/
def execShardHandoff (k : Fin 4) (ctx : CtxMsg) (s : State) : Host.Outcome State Fault Refusal :=
  .next (if rimRuns s then handShard k ctx.index ctx.gen s else s)

end Sys2Proof.Machine
end

