-- ==== Sys2Proof/Machine/Windows.lean ====
section
/-! DEFINITION. The scratchpad windows, and accesses of device memory by address: the tiers and the windows (R9, R73, R196 to
R198, R219, R220 of spec/). -/

namespace Sys2Proof.Machine

/-- Whether a cell is non-idle (R196). -/
def nonIdle (s : State) (cell : Nat) : Bool :=
  let x := getBand s (cell / 128)
  decide (partOf s (cell / 128) < 4) && x.bound && !x.idle.contains (cell % 128)

/-- What Table 10.1 says of a window access: 0 performed, 1 closed, 2 fenced; 3 in STANDBY, where the compute dies have no power
(DEDUCED, log entry 46). -/
def windowRule (s : State) (cell : Nat) (write : Bool) : Nat :=
  let st := (getPart s (partOf s (cell / 128))).st
  if s.pwr.st = .standby then 3
  else if s.fence.contains cell then 2
  else if !nonIdle s cell then 0
  else if st = .running then 1
  else if (st = .paused ∨ st = .cast) ∧ write = true then 1
  else 0

/-- A record of a window access that is refused (R73, R196). -/
def windowRecord (cell a code : Nat) (s : State) : State :=
  let p := partOf s (cell / 128)
  logDeferred code (some (cell / 128)) (ownerOf s (cell / 128))
    (bandCtx s (jccOf s p) cell (bankOf a) (a % 0x80000 / 1024) 0) s

/-- A scratchpad as an access between cycles finds it: the newest bytes, whatever cycle wrote them. -/
def spNow (c : Cell) : Cell := { c with sp := { c.sp with old := [] } }

/-- Write one codeword of a scratchpad whole through its window. -/
def putHalf (cell word half : Nat) (bs : List Byte) (s : State) : State :=
  modCell cell (fun c => { c with
    sp := { mem := writeBytes c.sp.mem (word * 64 + half * 32) bs, old := [] }
    spErr := c.spErr.filter (fun e => !(e.1 / 80 == word && e.1 % 80 / 36 == half)) }) s

/-- One half of a bank word decoded for a window access (R197, R198): bytes, whether they are good, and the records; a
corrected codeword is written back when `fix`. -/
def windowHalf (cell word half : Nat) (fix : Bool) (s : State) : List Byte × Bool × State :=
  let p := partOf s (cell / 128)
  let j := jccOf s p
  match spDecode (spNow (getCell s cell)) j word half with
  | (bs, .clean) => (bs, true, s)
  | (bs, .corrected _ _) =>
    let s := spCorrected j cell (word * 64) s
    (bs, true, if fix then putHalf cell word half bs s else s)
  | (bs, .uncorrectable) => (bs, false, spUncorrectable p j cell (word * 64) false s)

/-- A window read within one bank word (R196, R198). DEDUCED (log entry 46): it reads the whole bank word, both codewords. -/
def windowRead (a n : Nat) (s : State) : Option (List Byte) × State :=
  let o := a - 0x200000000000
  let cell := o / 0x80000
  match windowRule s cell false with
  | 0 =>
    let word := o % 0x80000 / 64
    let (b0, ok0, s) := windowHalf cell word 0 true s
    let (b1, ok1, s) := windowHalf cell word 1 true s
    (if ok0 && ok1 then some (((b0 ++ b1).drop (o % 64)).take n) else none, s)
  | 1 => (none, windowRecord cell o 0x030A s)
  | _ => (none, s)

/-- A window write within one bank word (R196, R197): false for a bus error. Codewords written in part are merged. -/
def windowWrite (a : Nat) (bs : List Byte) (s : State) : Bool × State :=
  let o := a - 0x200000000000
  let cell := o / 0x80000
  match windowRule s cell true with
  | 0 =>
    let word := o % 0x80000 / 64
    mergeWrite (fun h => windowHalf cell word h false) (putHalf cell word) (o % 64) bs s
  | 1 => (false, windowRecord cell o 0x030A s)
  | 2 => (false, windowRecord cell o 0x030B s)
  | _ => (false, s)

/-- Whether an address lies in the scratchpad windows (Table 0.5). -/
def inWindow (a : Nat) : Bool := decide (0x200000000000 ≤ a ∧ a < 0x200080000000)

/-- The reader that an access through BAR2 or by a core is (Table 11.3). -/
def windowWho : MemWho := { src := 3, part := none, ctx := none, pol := 1 }

/-- A read piece by piece, no piece crossing 64 bytes (R196, R282). -/
def spaceRead (a : Nat) : Nat → Nat → State → Option (List Byte) × State
  | 0, _, s => (some [], s)
  | f + 1, n, s =>
    if n = 0 then (some [], s)
    else
      let k := min n (64 - a % 64)
      let (x, s) :=
        if inWindow a then windowRead a k s
        else if populated s a && populated s (a + k - 1) then
          let (bs, ok, s) := memRead windowWho a k (moveMem a k s)
          (if ok then some bs else none, s)
        else (none, s)
      match x with
      | none => (none, s)
      | some bs =>
        let (y, s) := spaceRead (a + k) f (n - k) s
        (y.map (fun r => bs ++ r), s)

/-- A write piece by piece: false when some piece was refused. -/
def spaceWrite (a : Nat) : Nat → List Byte → State → Bool × State
  | 0, _, s => (true, s)
  | f + 1, bs, s =>
    if bs = [] then (true, s)
    else
      let k := min bs.length (64 - a % 64)
      let (ok, s) :=
        if inWindow a then windowWrite a (bs.take k) s
        else if populated s a && populated s (a + k - 1) then memWrite windowWho a (bs.take k) (moveMem a k s)
        else (false, s)
      let (ok', s) := spaceWrite (a + k) f (bs.drop k) s
      (ok && ok', s)

end Sys2Proof.Machine
end

