-- ==== Sys2Proof/Machine/Command.lean ====
section
/-! DEFINITION. Command rings, status packets and claims (R301-R315 of spec/), module-fatal errors (R382) and the flash
commit rule (R336). -/

namespace Sys2Proof.Machine

/-- A command as its ring slot gives it: ring (16 is the management ring), slot, opcode, TAG and the IRQ flag. -/
structure CmdRef where
  ring : Nat
  slot : Nat
  opcode : Nat
  tag : Nat
  irq : Bool
  deriving DecidableEq, Repr

/-- What R310 tests before the statuses of an opcode: whether the command needs ACTIVE, whether its parameters are in
range, what it claims and what it names beside that (R308), and whether MOD_FATAL refuses it (R382). `loc` is LOC of its bulk
address, where its opcode has one; `fields` are its parameters as its packet holds them: first byte, width in bytes, value. -/
structure CmdSpec where
  op : Nat
  fields : List (Nat × Nat × Nat) := []
  active : Bool := true
  params : Bool := true
  claims : List Claim := []
  names : List Claim := []
  loc : Option Nat := none
  modFatal : Bool := false
  fabric : Bool := false
  deriving DecidableEq, Repr

/-- Command rings. -/
def getRing (s : State) (n : Nat) : CmdRing := tget {} s.rings n
def modRing (n : Nat) (f : CmdRing → CmdRing) (s : State) : State := { s with rings := tmod {} s.rings n f }

/-- Entries of a ring: four on the management ring (R320). -/
def ringEntries (n : Nat) (g : CmdRing) : Nat := if n = 16 then 4 else 2 ^ g.log2

/-- The place of a status code among the shared codes that chapter 15 names. -/
def statusNo : Status → Nat
  | .ok => 0 | .badOpcode => 1 | .badParam => 2 | .noResource => 3 | .busy => 4 | .partitionState => 5
  | .notDrained => 6 | .fenceConflict => 7 | .fault => 8 | .timeout => 9 | .signatureRejected => 10
  | .holdupLow => 11 | .steppingMismatch => 12

/-- The 32 bytes of a status packet (Table 15.6). -/
def statusBytes (p : StatusPkt) : List Byte :=
  leBytes 1 p.opcode ++ [Config.statusCode (statusNo p.status)] ++ leBytes 2 p.tag ++ leBytes 1 (b2n p.phase) ++
  leBytes 1 p.ring ++ leBytes 2 p.slot ++ leBytes 8 p.gtc ++ leBytes 12 p.result ++ leBytes 4 p.record

/-- A record CMD_FETCH of a failed transfer of a ring, and FETCH_ERR (R309); answers its index when it is written. -/
def fetchError (ring addr : Nat) (write : Bool) (s : State) : State × Option Nat :=
  logRec (mkRec s .deferred 0x0806 (some ring) none [(0, addr), (10, b2n write)])
    (modRing ring (fun g => { g with fetchErr := true }) s)

/-- Put a status packet into a status ring in device memory (R309). -/
def storeStatus (g : CmdRing) (p : StatusPkt) (s : State) : State :=
  let a := g.sbase.toNat + 32 * p.slot
  if populated s a && populated s (a + 31) then
    (memWrite windowWho a (statusBytes p) (moveMem a 32 s)).2
  else (fetchError p.ring a true s).1

/-- A command completes (R309): its status packet, DONE, the phase, and the interrupt of its ring. -/
def finish (r : CmdRef) (st : Status) (result record : Nat) (s : State) : State :=
  let g := getRing s r.ring
  let p : StatusPkt := {
    opcode := r.opcode, status := st, tag := r.tag, phase := g.phase, ring := r.ring, slot := r.slot
    gtc := s.clk.gtc, result := result, record := record }
  let wraps := decide ((r.slot + 1) % ringEntries r.ring g = 0)
  let s := modRing r.ring (fun g => { g with
    done := (g.done + 1) % 65536, phase := if wraps then !g.phase else g.phase, busy := false }) s
  let s := { s with
    flights := s.flights.filter (fun f => f.ring != r.ring)
    mgmt := if r.ring = 16 then s.mgmt.tail else s.mgmt }
  let s := if r.ring < 16 ∧ g.loc = false then emitHost (.status p) s else emit (.status p) s
  let s := if r.ring < 16 && g.loc then storeStatus g p s else s
  if r.irq && decide (r.ring < 16) then signal r.ring s else s

/-- No record (R309). -/
def noRec : Nat := 0xFFFFFFFF

/-- A command in progress that MOD_FATAL overtakes completes with FAULT, and RECORD names the module-fatal record (R382). -/
def finishFatal (r : CmdRef) (s : State) : State := finish r .fault 0 s.log.modRec s

/-- A command completes with OK. -/
def finishOk (r : CmdRef) (result : Nat) (s : State) : State := finish r .ok result noRec s

/-- A command completes with a status that writes a CMD_STATUS record (R385); `result` is the state that Table 15.7 lists for
the opcode, or 0. -/
def finishErrR (r : CmdRef) (st : Status) (kind obj detail result : Nat) (s : State) : State :=
  let i := s.log.head
  let s := writeRec (mkRec s .deferred 0x0B01 (some r.ring) none
    [(0, r.opcode), (1, (Config.statusCode (statusNo st)).toNat), (2, r.slot), (4, kind), (8, obj), (12, detail)]) s
  finish r st result i s
def finishErr (r : CmdRef) (st : Status) (kind obj detail : Nat) (s : State) : State := finishErrR r st kind obj detail 0 s

/-- A command completes with the record of a unit's fault; where there is none, or it was not written (R387), with one of its own
(R385). -/
def finishRecR (r : CmdRef) (st : Status) (i : Option Nat) (kind obj detail result : Nat) (s : State) : State :=
  match i with
  | some n => finish r st result n s
  | none => finishErrR r st kind obj detail result s
def finishRec (r : CmdRef) (st : Status) (i : Option Nat) (s : State) : State := finishRecR r st i 0 0 0 0 s

/-- Interrupts of a change (Table 14.5): partition, link, fabric time, memory device or laser module state, and the end of
a frequency change. -/
def announce (s s' : State) : State :=
  let r := [0, 1, 2, 3].foldl (fun r p => if (getPart s p).st = (getPart s' p).st then r else signal (80 + p) r) s'
  let links := fun (u : State) => (List.range 32).map (fun l => (tget {} u.links l).st)
  let mems := fun (u : State) => (List.range 28).map (fun k => (tget {} u.devs k).st)
  let lights := fun (u : State) => (List.range 4).map (fun n => (tget {} u.lasers n).st)
  let r := if links s = links s' then r else signal 86 r
  let r := if s.clk.timeState = s'.clk.timeState then r else signal 87 r
  let r := if mems s = mems s' ∧ lights s = lights s' then r else signal 88 r
  if s.clk.curLevel = s'.clk.curLevel then r else signal 89 r

/-- Whether a command needs a read of host memory, which waits while the function sends nothing (R292): that of its packet, or that
of its bulk input. -/
def waitsD0 (h : CmdHdr) (c : CmdSpec) (s : State) : Bool :=
  quiet s && ((decide (h.ring < 16) && !(getRing s h.ring).loc) || c.loc == some 0)

/-- Address of the command slot at HEAD of a ring (R301, R305). -/
def slotAddr (ring : Nat) (s : State) : Nat :=
  let g := getRing s ring
  g.base.toNat + 64 * (g.head % ringEntries ring g)

/-- Whether the command slot at HEAD of a ring in device memory cannot be read (R309): it is unpopulated, or a codeword of
it is uncorrectable or poisoned. -/
def slotBad (ring : Nat) (s : State) : Bool :=
  let a := slotAddr ring s
  decide (ring < 16) && (getRing s ring).loc && (!populated s a || !populated s (a + 63) ||
    [a / 32, a / 32 + 1].any (fun c => match (cwDecode s [] c).2 with
      | .bad _ => true
      | _ => false))

/-- The bytes of PARAMS that an opcode uses, as first byte and width (Table 15.7). -/
def paramBytes : Nat → List (Nat × Nat)
  | 0x01 | 0x02 | 0x03 | 0x13 | 0x14 | 0x16 | 0x30 | 0x31 | 0x32 | 0x51 | 0x90 | 0x91 | 0x92 | 0x93 | 0x94 => [(8, 1)]
  | 0x10 => [(8, 2), (16, 16)]
  | 0x11 => [(8, 3), (16, 16)]
  | 0x12 => [(8, 1), (16, 14)]
  | 0x15 => [(8, 1), (16, 8)]
  | 0x20 => [(8, 5), (14, 2)]
  | 0x21 => [(8, 1), (10, 4)]
  | 0x40 | 0x41 | 0x70 | 0x71 => [(8, 2)]
  | 0x50 => [(9, 1), (16, 16)]
  | 0x60 => [(8, 24)]
  | 0x61 => [(8, 5), (16, 12)]
  | 0x80 => [(16, 20)]
  | _ => []

/-- Whether a packet must be refused whatever its other parameters are (R309, R310): a byte that its opcode does not use is not 0, or
a byte holds a code that Table 15.7 does not give it: OP of REGION_MAP, EXPLICIT, MODE, arm of DIGEST_TAP. -/
def packetReserved (bs : List Byte) : Bool :=
  let op := field bs 0 1
  (List.range 60).any (fun i => !(paramBytes op).any (fun x => decide (x.1 ≤ i + 4 ∧ i + 4 < x.1 + x.2)) && field bs (i + 4) 1 != 0) ||
  [(0x20, 9, 3), (0x11, 10, 1), (0x51, 8, 1), (0x61, 12, 1)].any (fun x => x.1 == op && decide (field bs x.2.1 1 > x.2.2))

/-- Whether the 64 bytes of a packet spell the command of a row: OPCODE, FLAGS, TAG and PARAMS (Tables 15.5 and 15.7). -/
def spells (h : CmdHdr) (c : CmdSpec) (bs : List Byte) : Bool :=
  field bs 0 1 == h.badOp.getD c.op && field bs 1 1 == h.flags && field bs 2 2 == h.tag &&
  (h.badOp.isSome || (h.reserved == packetReserved bs && (h.reserved || c.fields.all (fun x => field bs x.1 x.2.1 == x.2.2))))

/-- Whether the slot at HEAD holds the command of a row. The packets of a ring in device memory stand in the memory of this model; of
a ring in host memory the row alone says what the packet is (log entry 8). -/
def slotSpells (h : CmdHdr) (c : CmdSpec) (s : State) : Bool :=
  !(getRing s h.ring).loc || slotBad h.ring s ||
  spells h c ((cwDecode s [] (slotAddr h.ring s / 32)).1 ++ (cwDecode s [] (slotAddr h.ring s / 32 + 1)).1)

/-- Whether the command of a row is the next one of its ring and may start (R292, R305, R306, R309, R319, R320, R332). -/
def cmdDue (h : CmdHdr) (c : CmdSpec) (s : State) : Bool :=
  let g := getRing s h.ring
  if h.ring < 16 then s.pwr.ready && g.enable && !g.busy && g.head != g.tail && !waitsD0 h c s && slotSpells h c s
  else h.ring == 16 && !g.busy && (s.pwr.ready || s.pwr.st == .aux) &&
    (match s.mgmt with
      | m :: _ => m.opcode == h.badOp.getD c.op && m.tag == h.tag && (h.badOp.isSome || c.loc.all (fun l => l == m.loc))
      | [] => false)

/-- Max Payload Size and Max Read Request Size as programmed, within the limits of Table 14.1, and whether Relaxed Ordering is
enabled (R287, R289). -/
def maxPayload (s : State) : Nat := min 512 (128 * 2 ^ bits s.pcie.devCtl 5 3)
def maxRead (s : State) : Nat := min 4096 (128 * 2 ^ bits s.pcie.devCtl 12 3)
def relaxed (s : State) : Bool := bitOf s.pcie.devCtl 4

/-- The requests of a host transfer, as address and length: none longer than a limit, and none across a 4 KiB boundary
(R287). -/
def hostSplit (limit : Nat) : Nat → Nat → Nat → List (Nat × Nat)
  | 0, _, _ => []
  | f + 1, addr, n =>
    let k := min n (min limit (4096 - addr % 4096))
    if k = 0 then [] else (addr, k) :: hostSplit limit f (addr + k) (n - k)

/-- The engine of a request: the engines take turns by pages of 4 KiB (R287). -/
def engineOf (s : State) (base addr : Nat) : Nat := (s.pcie.engine + (addr / 4096 - base / 4096)) % 8
def nextEngine (addr n : Nat) (s : State) : State :=
  { s with pcie := { s.pcie with engine := (engineOf s addr (addr + n - 1) + 1) % 8 } }

/-- A bulk input is read from host memory, and bulk output is written to it (R287, R289). -/
def hostIn (addr n : Nat) (s : State) : State :=
  nextEngine addr n ((hostSplit (maxRead s) n addr n).foldl (fun t x => emitHost (.read (engineOf s addr x.1) x.1 x.2) t) s)
def hostOut (addr : Nat) (bs : List Byte) (s : State) : State :=
  nextEngine addr bs.length ((hostSplit (maxPayload s) bs.length addr bs.length).foldl (fun t x =>
    emitHost (.write (engineOf s addr x.1) x.1 (relaxed s) ((bs.drop (x.1 - addr)).take x.2)) t) s)

/-- The first record that is not of severity corrected among those written between two states. -/
def firstBad (s t : State) : Option Nat :=
  ((List.range ((t.log.head + 2 ^ 32 - s.log.head) % 2 ^ 32)).map (fun i => (s.log.head + i) % 2 ^ 32)).find?
    (fun i => (tget {} t.log.slots (i % 4096)).sev != .corrected)

/-- The bulk input of a command is read before `f` gives the command's effect (R311, R287): host memory, a tier, or a scratchpad
through its window, under the rules of Table 10.1 (R181). `f` takes the bytes that device memory gives; those of host memory are an
operand of the command. DESIGN CHOICE (log entry 8): a bus error of the read ends the command with FAULT. -/
def bulkIn (r : CmdRef) (loc addr n : Nat) (f : Option (List Byte) → State → State) (s : State) : State :=
  if loc = 0 then f none (hostIn addr n s)
  else match spaceRead addr (n / 64 + 2) n s with
    | (some bs, t) => f (some bs) t
    | (none, t) => finishRec r .fault (firstBad s t) t

/-- A ring takes the command at HEAD, which could not be read: its opcode, TAG and FLAGS are not known, and its status is
FAULT, with the record of the failed read (R309). -/
def unread (ring addr : Nat) (s : State) : State :=
  let (s, i) := fetchError ring addr false s
  let g := getRing s ring
  let (v, s) := takeFree s
  let r : CmdRef := {
    ring := ring, slot := g.head % ringEntries ring g, opcode := v.toNat % 256, tag := v.toNat / 256 % 65536, irq := bitOf v.toNat 24 }
  finishRec r .fault i (modRing ring (fun g => { g with head := (g.head + 1) % 65536, busy := true }) s)

/-- The read of a command fails (R309): the records, and status FAULT. -/
def slotFails (ring : Nat) (s : State) : State :=
  let a := slotAddr ring s
  let s := if populated s a && populated s (a + 63) then (memRead windowWho a 64 (moveMem a 64 s)).2.2 else s
  unread ring a s

/-- The packet of a ring is read: in host memory by the endpoint's engines (R287), in device memory with the responses of Table 11.3. -/
def packetRead (ring : Nat) (s : State) : State :=
  if ring ≥ 16 then s
  else if (getRing s ring).loc then (memRead windowWho (slotAddr ring s) 64 (moveMem (slotAddr ring s) 64 s)).2.2
  else hostIn (slotAddr ring s) 64 s

/-- A command starts (R306): its slot is read, and the tests of R310 come before `f`, which gives the opcode's effect. -/
def command (h : CmdHdr) (c : CmdSpec) (f : CmdRef → State → State) (s : State) : State :=
  announce s (if cmdDue h c s then
    if slotBad h.ring s then slotFails h.ring s else
    let g := getRing s h.ring
    let r : CmdRef := {
      ring := h.ring, slot := g.head % ringEntries h.ring g, opcode := c.op, tag := h.tag, irq := bitOf h.flags 0 }
    let s := modRing h.ring (fun g => { g with head := (g.head + 1) % 65536, busy := true }) (packetRead h.ring s)
    if h.badOp.isSome then finish { r with opcode := h.badOp.getD 0 } .badOpcode 0 noRec s
    else if h.reserved || decide (h.flags ≥ (if c.fabric then 4 else 2)) || !c.params then finish r .badParam 0 noRec s
    else if c.active && s.pwr.st != .active then finishErr r .noResource 0 0 0 s
    else if s.flights.any (fun x => x.claims.any (fun k => (c.claims ++ c.names).contains k)) then finish r .busy 0 noRec s
    else if c.modFatal && s.log.modFatal then finishFatal r s
    else f r s
  else s)

/-- A command goes on after its start: it stays in progress until what it waits for (R306, R308). -/
def launch (r : CmdRef) (claims : List Claim) (k : FlightKind) (s : State) : State :=
  { s with flights := s.flights ++ [{
      ring := r.ring, slot := r.slot, opcode := r.opcode, tag := r.tag, irq := r.irq, claims := claims, kind := k }] }

/-- The command in progress of a flight. -/
def refOf (x : Flight) : CmdRef := { ring := x.ring, slot := x.slot, opcode := x.opcode, tag := x.tag, irq := x.irq }

/-- Complete the commands in progress that wait for something. -/
def land (p : FlightKind → Bool) (f : CmdRef → State → State) (s : State) : State :=
  (s.flights.filter (fun x => p x.kind)).foldl (fun s x => f (refOf x) s) s

/-- Whether every address of a range is populated (R9), taken piece by piece: what a memory unit has of it, or the windows. -/
def covered (s : State) : Nat → Nat → Nat → Bool
  | 0, _, _ => false
  | f + 1, a, e =>
    if a ≥ e then true
    else if inWindow a then covered s f 0x200080000000 e
    else populated s a && (match unitOf a with
      | some (u, _) => covered s f (unitBase u + (getDev s u).cap * gib) e
      | none => false)

/-- Whether the bulk range of a command lies in populated memory (R310): host memory, the tiers or the scratchpads. -/
def bulkOk (s : State) (loc addr size : Nat) : Bool :=
  if loc = 0 then true else loc == 1 && covered s 32 addr (addr + max 1 size)

/-- LOC as a command may give it: the management ring takes device memory only (R320). -/
def locOk (h : CmdHdr) (loc : Nat) : Bool := decide (loc ≤ 1) && (decide (h.ring < 16) || loc == 1)

/-- A module-fatal error (R382): its record, with the partition it is written for where there is one, MOD_FATAL, and the casts where
the arithmetic clocks run, of a PAUSED partition too. It is no job-fatal error of a partition (R381). -/
def moduleFatalOf (part : Option Nat) (code : Nat) (unit : Option Nat) (ctx : List (Nat × Nat)) (s : State) : State :=
  let c : PendCast := { at_ := some (faultBoundary s), cause := .otherFatal, fault := true, record := some s.log.head }
  let s := writeRec (mkRec s .moduleFatal code unit part ctx) s
  if s.clk.run = .stopped then s
  else [0, 1, 2, 3].foldl (fun s p => modPart p (fun q => match q.st with
    | .running | .paused => askCast c q
    | _ => q) s) s
def moduleFatal (code : Nat) (unit : Option Nat) (ctx : List (Nat × Nat)) (s : State) : State := moduleFatalOf none code unit ctx s

/-- The first record of a code among those that were written between two states, where there is one. -/
def firstRec (code : Nat) (s t : State) : Option Nat :=
  ((List.range ((t.log.head + 2 ^ 32 - s.log.head) % 2 ^ 32)).map (fun i => (s.log.head + i) % 2 ^ 32)).find?
    (fun i => (tget {} t.log.slots (i % 4096)).code == code)

/-- Energy that a commit needs, in 0.1 J, and its kind (Table 16.5). -/
def commitNeed : Commit → Nat
  | .image _ _ => 800
  | .fenceMap _ _ | .lostBand _ _ | .stackFailed _ _ => 20
  | .linkCal _ => 16
  | .counters _ => 60
  | .journal => 10
  | .keys _ _ _ => 40
def commitKind : Commit → Nat
  | .image _ _ => 0
  | .fenceMap _ _ | .lostBand _ _ => 1
  | .linkCal _ => 2
  | .stackFailed _ _ => 3
  | .counters _ => 5
  | .journal => 6
  | .keys _ _ _ => 4

/-- Whether the bank lets a commit start (R336, R337). -/
def mayCommit (s : State) (need : Nat) : Bool :=
  s.pwr.valid && !s.pwr.testing && !s.pwr.onBank && decide (s.pwr.energy > need)

/-- Put an element into a list of numbers, or take it out. -/
def setIn (x : Nat) (on : Bool) (l : List Nat) : List Nat :=
  if on then (if l.contains x then l else l ++ [x]) else l.filter (· != x)

/-- The band whose fence map a commit writes. -/
def commitBand : Commit → Option Nat
  | .fenceMap c _ => some (c / 128)
  | .lostBand b _ => some b
  | _ => none

/-- PERSIST_PENDING of a band (R76): a change of its fence map waits. -/
def settlePersist (b : Nat) (s : State) : State :=
  modBand b (fun x => { x with
    persistPending := (s.pwr.deferred ++ s.pwr.waiting).any (fun c => commitBand c == some b) }) s

/-- The journal of an image written to the slot (R352): BEGIN, an entry after each sector, and COMPLETE when the slot reads back as
BEGIN has it. -/
def journalOf (i : FlomorImage) (ok : Bool) : List JournalEntry :=
  [.begin_ (field i.hdr 4 4) (Config.sha384 (i.hdr ++ i.cipher))] ++
  (List.range ((i.hdr.length + i.cipher.length + 65535) / 65536)).map .sector ++ (if ok then [.complete] else [])

/-- Whether a commit ends as it should: the flash reads back what was written (R352). -/
def commitOk : Commit → Bool
  | .image _ ok => ok
  | _ => true

/-- What a commit writes to flash (R76, R243, R339, R364). -/
def applyCommit (c : Commit) (s : State) : State :=
  match c with
  | .image i ok => { s with
      flash := { s.flash with image := some i, journal := journalOf i ok }
      pwr := { s.pwr with armed := s.pwr.armed && !ok } }
  | .fenceMap x on => settlePersist (x / 128) { s with flash := { s.flash with fenceMap := setIn x on s.flash.fenceMap } }
  | .lostBand b on => settlePersist b { s with flash := { s.flash with lost := setIn b on s.flash.lost } }
  | .linkCal l => { s with flash := { s.flash with linkCal := setIn l true s.flash.linkCal } }
  | .stackFailed n on => { s with flash := { s.flash with failedStacks := setIn n on s.flash.failedStacks } }
  | .counters values => { s with flash := { s.flash with counters := values } }
  | .journal => s
  | .keys _ slot chain => { s with flash := { s.flash with certs := tset [] s.flash.certs slot chain } }

/-- Whether two commits write the same object. -/
def sameObject : Commit → Commit → Bool
  | .fenceMap x _, .fenceMap y _ => x == y
  | .lostBand x _, .lostBand y _ => x == y
  | .stackFailed x _, .stackFailed y _ => x == y
  | .counters _, .counters _ => true
  | _, _ => false

/-- Whether a commit waits before the bank is asked: while a test runs (R336), and until the first one after POR has measured the bank
(R410). -/
def bankUnknown (s : State) : Bool := s.pwr.testing || !s.pwr.valid

/-- A commit is asked for (R336): done, in place of an older one of its object that is deferred (R76), or deferred with its
record. -/
def flashCommit (c : Commit) (s : State) : Option Nat × State :=
  if mayCommit s (commitNeed c) then
    (none, applyCommit c { s with pwr := { s.pwr with deferred := s.pwr.deferred.filter (fun d => !sameObject c d) } })
  else
    let i := s.log.head
    let s := { s with pwr := { s.pwr with
      deferred := s.pwr.deferred ++ [c], deferredCount := satAdd 0xFFFF s.pwr.deferredCount 1 } }
    let s := writeRec (mkRec s .deferred 0x0903 none none [(2, commitKind c), (3, s.pwr.energy)]) s
    (some i, match commitBand c with
      | some b => settlePersist b s
      | none => s)

/-- A commit that waits for a hold-up test to end (R336, R410); a change of a fence map is pending meanwhile (R76). -/
def commitWaits (c : Commit) (s : State) : State :=
  let s := { s with pwr := { s.pwr with waiting := s.pwr.waiting ++ [c] } }
  match commitBand c with
  | some b => settlePersist b s
  | none => s

/-- A commit that no command waits for (R336). -/
def asyncCommit (c : Commit) (s : State) : State :=
  if bankUnknown s then commitWaits c s else (flashCommit c s).2

/-- A command ends with its commit (R76, R336). -/
def commitThen (r : CmdRef) (claims : List Claim) (c : Commit) (result : Nat) (s : State) : State :=
  if bankUnknown s then
    launch r claims (.flash c result) (commitWaits c s)
  else match flashCommit c s with
    | (none, s) => if commitOk c then finishOk r result s else finishErr r .fault 0 0 0 s
    | (some i, s) => finish r .holdupLow result i s

/-- An SPDM ERROR, counted in SPDM of SEC_REJECTS. -/
def spdmError (tr : Transport) (a : SpdmAns) (s : State) : State :=
  emit (.spdm tr a) { s with sec := { s.sec with rejSpdm := satAdd 0xFFFF s.sec.rejSpdm 1 } }

/-- SET_CERTIFICATE's commit of kind 4 (R346, R359): done at once or refused, never deferred. -/
def keyCommit (tr : Transport) (c : Commit) (s : State) : State :=
  if mayCommit s (commitNeed c) then emit (.spdm tr .setCertificateRsp) (applyCommit c s)
  else spdmError tr .errBusy { s with pwr := { s.pwr with deferredCount := satAdd 0xFFFF s.pwr.deferredCount 1 } }

/-- The commits that waited for a test to end (R336). -/
def settleWaiting (s : State) : State :=
  let l := s.pwr.waiting
  let s := { s with pwr := { s.pwr with waiting := [] } }
  l.foldl (fun s c => match c with
  | .keys tr _ _ => keyCommit tr c s
  | c =>
    let (i, s) := flashCommit c s
    let s := match commitBand c with
      | some b => settlePersist b s
      | none => s
    (s.flights.filter (fun x => match x.kind with
        | .flash d _ | .pldm d => d == c
        | _ => false)).foldl (fun s x => match x.kind, i with
      | .flash _ v, none => if commitOk c then finishOk (refOf x) v s else finishErr (refOf x) .fault 0 0 0 s
      | .flash _ v, some i => finish (refOf x) .holdupLow v i s
      | .pldm _, i => emit (.pldmStatus (i.isNone && commitOk c) false) { s with flights := s.flights.filter (fun y => y != x) }
      | _, _ => s) s) s

end Sys2Proof.Machine
end

