-- ==== Sys2Proof/Machine/Drain.lean ====
section
/-! DEFINITION. Copies of regions and the drains of memory devices that wait for them (R224, R226, R228, R231 of spec/), with the
fields of a channel that they look at. -/

namespace Sys2Proof.Machine

/-- The partition of a channel, its edges and its output (Tables 13.7, 13.8); the owner has none. -/
def chPart (ch : Chan) : Nat := bits ch.cfg.toNat 12 2
def edgeRole (ch : Chan) (l : Nat) : Nat := tget 0 ch.edges l % 4
def edgesOf (ch : Chan) (role : Nat) : List Nat := (List.range 32).filter (fun l => edgeRole ch l = role)
def chOutput (ch : Chan) : Option Nat := (edgesOf ch 3).head?
def chOwner (ch : Chan) : Bool := (chOutput ch).isNone

/-- The preferred plinth die of a region (R224). -/
def prefPlinth (m : Maquette) (pl : List (Nat × Nat)) (h : Nat) (r : Region) : Nat :=
  let die := fun lb => ((pl[lb]?).map (fun x => plinthOf x.1)).getD 0
  if r.affinity ≠ 0xFF then die r.affinity
  else match m.contexts.find? (fun c => ctxRegion (c.drop 16) == h) with
    | some e => die (field e 0 1)
    | none => 0

/-- Clear the lines of a range of units: zero data, valid check symbols (R219, R223). -/
def clearRange (us : List Nat) (start len : Nat) (s : State) : State :=
  let inside := fun (a : Nat) => match unitOf a with
    | some (u, o) => us.contains u && decide (start ≤ o ∧ o < start + len)
    | none => false
  { s with
    mem := s.mem.filter (fun x => !inside x.1)
    memErr := s.memErr.filter (fun x => !inside (x.1 / 80 * 64))
    poison := s.poison.filter (fun x => !inside (x.1 * 32)) }

/-- A region without a unit on a device, or with one. -/
def onUnit (r : Region) (u : Nat) : Bool := r.bound && !r.imported && r.members.contains u

/-- Units that a drain empties: a DIMM's own, or every stack of the plinth die (Table 11.7); and whether a region is one
that it moves. -/
def drainUnits (u : Nat) : List Nat := if u < 16 then [u / 4 * 4, u / 4 * 4 + 1, u / 4 * 4 + 2, u / 4 * 4 + 3] else [u]
def drainsRegion (u : Nat) (r : Region) : Bool := onUnit r u

/-- Whether an open channel writes a region of a partition (R226): the parameters, and in the owner the master and state regions (Table 13.8). -/
def chanWrites (s : State) (key : Nat) : Bool :=
  s.chans.any (fun x =>
    let c := x.2
    let p := bits c.cfg.toNat 12 2
    decide (c.st ≠ .free ∧ c.st ≠ .draining) && ((c.preg :: if chOwner c then [c.mreg, c.sreg] else [])).any (fun h => (resolve s p h).map (·.1) == some key))

/-- Whether automatic and service migrations may move a region (R226): movable, written by no open channel, not pinned. -/
def mayMove (s : State) (key : Nat) (r : Region) : Bool := movableState s key && !chanWrites s key && !r.pinned

/-- Home of a region for a drain of a device (Table 11.7): R224 placement that excludes it. A stack's drain takes regions
off all stacks of its plinth die. -/
def drainHome (s : State) (u : Nat) (key : Nat) (r : Region) : Option (List Nat × Nat) :=
  match (getPart s (key / 65536)).maq with
  | some m => place s r.size r.spread r.pref (prefPlinth m (getPart s (key / 65536)).binding (key % 65536) r) (drainUnits u)
  | none => none

/-- The write of every line of a device with zero data (R219). -/
def zeroDevice (u : Nat) (s : State) : State := clearRange [u] 0 (0x4000000000) s

/-- A copy of a region in progress ends, and the region stays at its old home; a REGION_MIGRATE ends with it (R228), with the
record `i` of what stopped it where there is one (R385). -/
def endCopy (key : Nat) (st : Status) (i : Option Nat) (s : State) : State :=
  if (getReg s key).target.isNone then s
  else
    let s := modReg key (fun r => { r with target := none, copied := 0 }) s
    land (fun k => k == .migrate (key / 65536) (key % 65536)) (fun r s =>
      match i with
      | some i => finish r st 0 i s
      | none => if st = .busy then finish r st 0 noRec s else finishErr r st 4 (key % 65536) 0 s) s

/-- A drain that waits has ended when no region of the device is being copied (R231): OK once none is left on it. Only a device that
is DRAINING ends so. -/
def drainCheckUnit (u : Nat) (s : State) : State :=
  let left := s.regions.filter (fun x => drainsRegion u x.2)
  if left.any (fun x => x.2.target.isSome) then s
  else
    let mine := fun (k : FlightKind) => match k with
      | .dimmOff c => u == 16 + c
      | .stack n _ => u == n
      | _ => false
    match left with
    | [] => if (getDev s u).st ≠ 2 then s else (s.flights.filter (fun x => mine x.kind)).foldl (fun s x => match x.kind with
        | .dimmOff _ => finishOk (refOf x) 3 (modDev u (fun d => { d with st := 3, cap := 0, rate := 0 }) s)
        | .stack n true =>
          let s := zeroDevice u (modDev u (fun d => { d with st := 1, cap := 36, rated := 36 }) s)
          let marked := s.flash.failedStacks.contains n || (s.pwr.deferred ++ s.pwr.waiting).contains (.stackFailed n true)
          finishOk (refOf x) 1 (if marked then asyncCommit (.stackFailed n false) s else s)
        | .stack n false =>
          finishErrR (refOf x) .fault 6 u 0 5 (asyncCommit (.stackFailed n true) (modDev u (fun d => { d with st := 5, cap := 0 }) s))
        | _ => s) s
    | (k, r) :: _ => land mine (fun ref s =>
        if mayMove s k r && (drainHome s u k r).isNone then finishErrR ref .noResource 4 (k % 65536) 0 (getDev s u).st s
        else finishErrR ref .notDrained 4 (k % 65536) 0 (getDev s u).st s) s

/-- The drains that some devices wait for are looked at (R231). -/
def drainChecks (us : List Nat) (s : State) : State := us.foldl (fun s u => drainCheckUnit u s) s

/-- A copy ends, and with it the drain of a device that it stood for (R228, R231). -/
def stopCopy (key : Nat) (st : Status) (i : Option Nat) (s : State) : State :=
  drainChecks (getReg s key).members (endCopy key st i s)

/-- Copies of regions end (R228): a START, a BIND, a CHANNEL_OPEN or a PIN concerns them. -/
def endCopies (keys : List Nat) (s : State) : State := keys.foldl (fun s k => stopCopy k .busy none s) s

end Sys2Proof.Machine
end

