-- ==== Sys2Proof/Machine/Channels.lean ====
section
/-! DEFINITION. Reduction channels and parameter return (chapter 13 of spec/), with the transmit queue, the credits and
the violations of a link port that they use (R237, R251). -/

namespace Sys2Proof.Machine

/-- Links and channels. -/
def getLink (s : State) (l : Nat) : Link := tget {} s.links l
def modLink (l : Nat) (f : Link → Link) (s : State) : State := { s with links := tmod {} s.links l f }
def getChan (s : State) (c : Nat) : Chan := tget {} s.chans c
def modChan (c : Nat) (f : Chan → Chan) (s : State) : State := { s with chans := tmod {} s.chans c f }

/-- Credit class of a frame, and the bodies of a class (R237). -/
def clsOf : Frame → Nat
  | .red _ _ _ _ => 0
  | .param _ _ _ _ => 1
  | .msg _ | .error _ _ _ _ _ => 2
def clsBodies : Nat → Nat
  | 0 | 1 => 1920
  | _ => 256

/-- Put a frame into the transmit queue of a port whose framing is up (R238, R242). -/
def queueFrame (l : Nat) (f : Frame) (s : State) : State :=
  let st := (getLink s l).st
  if st = .active ∨ st = .retrain ∨ (st = .drained ∧ clsOf f = 2) then modLink l (fun x => { x with queue := x.queue ++ [f] }) s
  else s

/-- A CTRL message waits for its frame (R236, R238). Its counts are cumulative, so one that waits already serves. -/
def queueCtrl (l : Nat) (m : Ctrl) (s : State) : State :=
  modLink l (fun x => if x.ctrl.contains m then x else { x with ctrl := x.ctrl ++ [m] }) s

/-- Freed bodies of a class whose credit no CREDIT has carried yet. -/
def uncredited (x : Link) (cls : Nat) : Nat := tget 0 x.given cls - tget 0 x.credited cls

/-- A receive buffer body of a class is freed, and its credit granted (R237). -/
def freeBody (l cls : Nat) (s : State) : State :=
  queueCtrl l (.credit cls) (modLink l (fun x => { x with
    creditFrom := if [0, 1, 2].all (fun c => uncredited x c == 0) then s.clk.gtc else x.creditFrom
    given := tset 0 x.given cls (tget 0 x.given cls + 1) }) s)
def freeBodies (l cls : Nat) : Nat → State → State
  | 0, s => s
  | n + 1, s => freeBodies l cls n (freeBody l cls s)

/-- The 8 bytes of an ERROR entry (R251). -/
def errorEntry (code typ seq chan gen : Nat) : Nat :=
  code % 256 + typ % 16 * 2 ^ 8 + seq % 4096 * 2 ^ 12 + chan % 1024 * 2 ^ 24 + gen % 65536 * 2 ^ 34

/-- A record LINK_VIOLATION of an entry sent (Table 19.3). -/
def violRecord (l entry : Nat) (s : State) : State := logDeferred 0x0603 (some l) none [(0, entry), (8, 0)] s

/-- A violation by the partner (R251, Table 12.7a): with a code, an ERROR frame at most once per microsecond. -/
def violation (l code typ seq chan gen : Nat) (s : State) : State :=
  let x := getLink s l
  let s := modLink l (fun x => { x with
    viol := satAdd 0xFFFF x.viol 1, violLast := if code = 0 then x.violLast else code }) s
  if code = 0 then violRecord l (errorEntry 0 typ seq chan gen) s
  else
    let free := match x.errorGtc with
      | some g => decide (s.clk.gtc ≥ g + 1000)
      | none => true
    if free then
      violRecord l (errorEntry code typ seq chan gen)
        (queueFrame l (.error code typ seq chan gen) (modLink l (fun x => { x with errorGtc := some s.clk.gtc }) s))
    else s

/-- Fields of CH_CFG and CH_EDGEn (Tables 13.7, 13.8). -/
def chTopo (ch : Chan) : Nat := bits ch.cfg.toNat 0 2
def chSubst (ch : Chan) : Bool := bitOf ch.cfg.toNat 2
def chLocal (ch : Chan) : Bool := bitOf ch.cfg.toNat 3
def chCfmt (ch : Chan) : Nat := bits ch.cfg.toNat 4 2
def chOpt (ch : Chan) : Nat := bits ch.cfg.toNat 6 2
def chOfmt (ch : Chan) : Nat := bits ch.cfg.toNat 8 2
def chSat (ch : Chan) : Bool := bitOf ch.cfg.toNat 10
def chRank (ch : Chan) : Nat := bits ch.cfg.toNat 16 12
def edgeRank (ch : Chan) (l : Nat) : Nat := tget 0 ch.edges l / 16 % 4096
def chInputs (ch : Chan) : List Nat := edgesOf ch 1
def chBackups (ch : Chan) : List Nat := edgesOf ch 2
def chChildren (ch : Chan) : List Nat := (List.range 32).filter (fun l => edgeRole ch l = 1 || edgeRole ch l = 2)

/-- Whether a channel is open (R269: FAULT counts as not open for R205, as open for routing). -/
def chRoutes (ch : Chan) : Bool := ch.st == .open_ || ch.st == .active || ch.st == .fault

/-- Bytes per parameter element, and PARAM units of a step (R266). -/
def chBpe (ch : Chan) : Nat := if chOfmt ch = 0 then 2 else 1
def chParams (ch : Chan) : Nat := (ch.units * chBpe ch + 3) / 4

/-- Whether an open channel of the module routes over a link (R244). -/
def routesOver (s : State) (l : Nat) : Bool := s.chans.any (fun x => chRoutes x.2 && edgeRole x.2 l != 0)

/-- Context of a channel record (Table 13.9). -/
def chanCtx (ch : Chan) (cause link rank unit late : Nat) : List (Nat × Nat) :=
  [(0, ch.gen), (2, cause), (3, link), (4, rank), (6, unit), (10, if ch.shard = 0 then 0 else unit / ch.shard), (12, late)]

/-- The unit of the step that the fold stands at. -/
def foldUnit (ch : Chan) : Nat := if ch.units = 0 then 0 else ch.fold % ch.units

/-- Free the receive buffers that hold bodies of a channel (R237). -/
def freeHeld (ch : Chan) (s : State) : State :=
  let s := (chChildren ch).foldl (fun s l => freeBodies l 0 (tget {} ch.edgeQ l).red.length s) s
  match chOutput ch with
  | some l => freeBodies l 1 ch.outQ.length s
  | none => s

/-- A channel without its work in progress: its frames, sums and waits. The counts of the edges stay. -/
def dropWork (ch : Chan) : Chan :=
  { ch with
    edgeQ := ch.edgeQ.map (fun x => (x.1, { x.2 with red := [], reports := [], skip := 0 }))
    localQ := [], reduced := [], outQ := [], outPart := [], outFrom := none, waitFrom := none, repDue := [], nanLow := none }

/-- Rank of the term that an edge brings: the node's own for the output edge. -/
def termRank (ch : Chan) (l : Nat) : Nat := if edgeRole ch l = 1 ∨ edgeRole ch l = 2 then edgeRank ch l else chRank ch

/-- A step joins those that no update count shows. -/
def noteStep (k : Nat) (l : List Nat) : List Nat := if l.contains k then l else l ++ [k]

/-- A channel enters FAULT (R269, R276). Its P_REGION is marked failed for the step that the channel stood in. `rank` and `unit` are those of the term concerned, `det` the rank of the node that
detected the fault (Table 13.4); `step`: a step is in progress. -/
def chanFault (c cause link rank det unit : Nat) (step : Bool) (s : State) : State :=
  let ch := getChan s c
  let s := logDeferred 0x0701 (some c) none (chanCtx ch cause link rank unit 0) s
  let s := if step then
      let s := match resolve s (chPart ch) ch.preg with
        | some (key, _) => failWaiters (modReg key (fun r => { r with
            failed := true, deadSteps := noteStep (tget 0 r.chansDone c + 1) r.deadSteps }) s)
        | none => s
      let s := match chOutput ch with
        | some l => queueFrame l (.msg (.fail c ch.gen cause det)) s
        | none => s
      (chChildren ch).foldl (fun s l => queueFrame l (.msg (.stepFail c ch.gen cause det)) s) s
    else s
  modChan c (fun ch => { dropWork ch with st := .fault, cause := cause }) (freeHeld ch s)

/-- A frame or message of a channel is dropped and counted (R270, R273). -/
def chanStale (c : Nat) (s : State) : State := modChan c (fun ch => { ch with stale := satAdd 0xFFFFFFFF ch.stale 1 }) s

/-- The work of a channel that has become FREE (R272): registers and counters stay. -/
def chanFree (ch : Chan) : Chan :=
  { dropWork ch with
    st := .free, edgeQ := [], localNext := 0, nextShard := 0, fold := 0, switched := [], updated := 0
    paramNext := 0, returned := 0, drainSent := false }

/-- The drain token moves on (R272). -/
def drainCheck (c : Nat) (s : State) : State :=
  let ch := getChan s c
  if ch.st = .draining ∧ (chChildren ch).all (fun l => (tget {} ch.edgeQ l).drained) = true then
    match chOutput ch with
    | none =>
      modChan c chanFree ((chChildren ch).foldl (fun s l => queueFrame l (.msg (.drainDone c ch.gen)) s) s)
    | some o =>
      if (tget {} ch.edgeQ o).drained then
        modChan c chanFree ((chChildren ch).foldl (fun s l => queueFrame l (.msg (.drainDone c ch.gen)) s) s)
      else if ch.drainSent then s
      else modChan c (fun ch => { ch with drainSent := true }) (queueFrame o (.msg (.drain c ch.gen)) s)
  else s

/-- The token expected on an edge has come (R272). -/
def edgeDrained (c l : Nat) (s : State) : State :=
  drainCheck c (modChan c (fun ch => { ch with edgeQ := tmod {} ch.edgeQ l (fun e => { e with drained := true }) }) s)

/-- The open channels that name a region as P_REGION. -/
def regionUsers (key : Nat) (s : State) : List Nat :=
  (s.chans.filter (fun (x : Nat × Chan) => chRoutes x.2 &&
    decide ((resolve s (chPart x.2) x.2.preg).map (fun (y : Nat × Region) => y.1) = some key))).map (fun (x : Nat × Chan) => x.1)

/-- Every channel of a region has written its oldest step that the count does not show: the count moves on, but not for a step
in which a channel has failed (R268, R269). -/
def countOne (users : List Nat) (r : Region) : Region :=
  { r with
    count := if r.deadSteps.contains 1 then r.count else (r.count + 1) % 2 ^ 32
    chansDone := users.foldl (fun t k => tmod 0 t k (fun n => n - 1)) r.chansDone
    deadSteps := (r.deadSteps.filter (fun k => decide (k ≠ 1))).map (fun k => k - 1) }
def countTimes (users : List Nat) : Nat → Region → Region
  | 0, r => r
  | n + 1, r => countTimes users n (countOne users r)

/-- Steps that every channel of a list has written. -/
def commonSteps (users : List Nat) (done : Tbl Nat) : Nat :=
  match users with
  | [] => 0
  | k :: ks => ks.foldl (fun n j => min n (tget 0 done j)) (tget 0 done k)

/-- The update count of a region moves on by the steps that every channel that names it as P_REGION has written and the count
does not show yet (R23, R268). -/
def countSteps (key : Nat) (s : State) : State :=
  let users := regionUsers key s
  modReg key (fun r => if users = [] then { r with chansDone := [], deadSteps := [] }
    else countTimes users (commonSteps users r.chansDone) r) s

/-- A channel has written a step of its P_REGION. -/
def noteDone (c : Nat) (s : State) : State :=
  let ch := getChan s c
  match resolve s (chPart ch) ch.preg with
  | some (key, _) => countSteps key (modReg key (fun r => { r with chansDone := tmod 0 r.chansDone c (· + 1) }) s)
  | none => s

/-- A channel that is no longer open leaves its P_REGION: no step that the others have written and it has not was written whole,
and the count never shows one (R268). -/
def leaveRegion (c : Nat) (s : State) : State :=
  let ch := getChan s c
  match resolve s (chPart ch) ch.preg with
  | some (key, _) =>
    countSteps key (modReg key (fun r =>
      let x := tget 0 r.chansDone c
      let top := r.chansDone.foldl (fun n (y : Nat × Nat) => max n y.2) 0
      { r with
        deadSteps := (List.range (top - x)).foldl (fun l i => noteStep (x + 1 + i) l) r.deadSteps
        chansDone := tset 0 r.chansDone c 0 }) s)
  | none => s

/-- A channel is closed (R272). Frames that it has queued go before its drain token, in order. -/
def closeChan (c : Nat) (s : State) : State :=
  let ch := getChan s c
  if ch.st = .free ∨ ch.st = .draining then s
  else
    let s := if ch.st = .active then chanFault c 5 0xFF (chRank ch) (chRank ch) (foldUnit ch) true s else s
    let s := modChan c (fun ch => { dropWork ch with st := .draining }) (freeHeld (getChan s c) s)
    drainCheck c (leaveRegion c s)

/-- A link that carries open channels leaves ACTIVE other than into RETRAIN (Table 13.3). -/
def chansLost (l : Nat) (s : State) : State :=
  s.chans.foldl (fun s x =>
    let ch := getChan s x.1
    if edgeRole ch l = 0 then s
    else match ch.st with
      | .open_ => chanFault x.1 2 l (termRank ch l) (chRank ch) (foldUnit ch) false s
      | .active => chanFault x.1 2 l (termRank ch l) (chRank ch) (foldUnit ch) true s
      | _ => s) s

/-- It does so by a reset or a failure, which empties its buffers: a token that a channel awaits over it counts as come
(R272). -/
def chansLinkLost (l : Nat) (s : State) : State :=
  (s.chans.filter (fun (x : Nat × Chan) => x.2.st == .draining && edgeRole x.2 l != 0)).foldl
    (fun s (x : Nat × Chan) => edgeDrained x.1 l s) (chansLost l s)

/-- Terms of a node in ascending rank (R257). -/
def insertTerm (x : Nat × Term) : List (Nat × Term) → List (Nat × Term)
  | [] => [x]
  | y :: r => if x.1 < y.1 then x :: y :: r else y :: insertTerm x r
def chTerms (ch : Chan) : List (Nat × Term) :=
  (chInputs ch).foldl (fun a l => insertTerm (edgeRank ch l, .edge l) a)
    (if chLocal ch then [(chRank ch, .localTerm)] else [])

/-- FP32 elements of a RED body, and of a local unit (R256). -/
def words32 : Nat → List Byte → List W32
  | 0, _ => []
  | n + 1, bs => BitVec.ofNat 32 (field bs 0 4) :: words32 n (bs.drop 4)
def words16 (f : Elem) : Nat → List Byte → List W32
  | 0, _ => []
  | n + 1, bs => widen f (field bs 0 2) :: words16 f n (bs.drop 2)
def localWords (ch : Chan) (bs : List Byte) : List W32 :=
  match chCfmt ch with
  | 0 => words32 64 bs
  | 1 => words16 .bf16 64 bs
  | _ => words16 .fp16 64 bs

/-- The unit of a queue with a number. -/
def unitIn (l : List RxBody) (u : Nat) : Option RxBody := l.find? (fun x => x.offset = u)

/-- The backup of a rank that has presented a unit: the earliest, and among equals the lowest link (R259). -/
def backupUnit (ch : Chan) (rank u : Nat) : Option (Nat × RxBody) :=
  ((chBackups ch).filter (fun l => edgeRank ch l = rank)).foldl (fun a l =>
    match unitIn (tget {} ch.edgeQ l).red u, a with
    | some x, none => some (l, x)
    | some x, some (l0, y) => if x.gtc < y.gtc then some (l, x) else some (l0, y)
    | none, a => a) none

/-- What a term gives to a fold: the edge it comes from, its elements, whether the rank switches, elements substituted. -/
structure Picked where
  edge : Option Nat
  vals : List W32
  switch : Bool
  subst : Nat
  deriving DecidableEq, Repr

/-- SUBSTITUTE mode (R263): the primary's value, or a finite backup value where that is NaN. -/
def substWords : List W32 → List W32 → List W32 × Nat
  | [], _ => ([], 0)
  | p :: ps, bs =>
    let b := bs.headD nan32
    let r := substWords ps bs.tail
    let fin : Bool := match dec32 b with
      | .fin _ _ _ => true
      | _ => false
    if isNan32 p && fin then (b :: r.1, r.2 + 1) else (p :: r.1, r.2)

/-- The choice for one term at a GTC (R259, R263): none while the fold has to wait. -/
def pickTerm (ch : Chan) (now : Nat) (x : Nat × Term) : Option Picked :=
  let u := ch.fold
  match x.2 with
  | .localTerm => (unitIn ch.localQ u).map (fun b => ⟨none, localWords ch b.body, false, 0⟩)
  | .edge l =>
    let prim := unitIn (tget {} ch.edgeQ l).red u
    let fromPrim := fun (b : RxBody) => (⟨some l, words32 64 b.body, false, 0⟩ : Picked)
    let hasBackup := (chBackups ch).any (fun k => edgeRank ch k = x.1)
    let back := backupUnit ch x.1 u
    let w := ch.waitFrom.getD now
    let d := w + ch.deadline * 1000
    let timely := fun (b : RxBody) => decide (b.gtc ≤ d) || ch.deadline == 0
    if ch.switched.contains x.1 then back.map (fun b => ⟨some b.1, words32 64 b.2.body, false, 0⟩)
    else if !hasBackup then prim.map fromPrim
    else
      let late : Option Picked := match prim, back with
        | some p, some b => if p.gtc ≤ b.2.gtc then some (fromPrim p) else some ⟨some b.1, words32 64 b.2.body, true, 0⟩
        | some p, none => some (fromPrim p)
        | none, some b => some ⟨some b.1, words32 64 b.2.body, true, 0⟩
        | none, none => none
      let rule : Option Picked := match prim, back with
        | some p, _ => if timely p then some (fromPrim p)
          else (match back with
            | some b => if timely b.2 then some ⟨some b.1, words32 64 b.2.body, true, 0⟩ else late
            | none => some (fromPrim p))
        | none, _ => if ch.deadline == 0 || decide (now < d) then none else late
      if chSubst ch then
        match prim, back with
        | some p, some b =>
          if timely p && timely b.2 then
            let r := substWords (words32 64 p.body) (words32 64 b.2.body)
            some ⟨some l, r.1, false, r.2⟩
          else rule
        | _, _ => if ch.deadline == 0 || decide (now < d) then none else rule
      else rule

/-- The picks of every term, when all have one. -/
def pickAll (ch : Chan) (now : Nat) : List (Nat × Term) → Option (List (Nat × Picked))
  | [] => some []
  | x :: r => match pickTerm ch now x, pickAll ch now r with
    | some p, some ps => some ((x.1, p) :: ps)
    | _, _ => none

/-- Left fold of the terms, element by element (R257, R258). -/
def foldWords : List (List W32) → List W32
  | [] => []
  | x :: r => r.foldl (fun a y => List.zipWith (fun p q => (add32 p q).1) a y) x

/-- The lower of two NaN sources (R262). -/
def lowSrc : Option (Nat × Nat) → Option (Nat × Nat) → Option (Nat × Nat)
  | none, b => b
  | a, none => a
  | some a, some b => if a.1 < b.1 ∨ (a.1 = b.1 ∧ a.2 ≤ b.2) then some a else some b

/-- The lowest NaN of the elements of a unit. -/
def nanIn (rank base : Nat) : Nat → List W32 → Option (Nat × Nat)
  | _, [] => none
  | i, v :: r => if isNan32 v then some (rank, base + i) else nanIn rank base (i + 1) r

/-- Remove from the queues of a channel the units that a fold has used or passed, and free their bodies. -/
def consumeUnits (c u : Nat) (s : State) : State :=
  let ch := getChan s c
  let s := (chChildren ch).foldl (fun s l =>
    freeBodies l 0 ((tget {} ch.edgeQ l).red.filter (fun x => decide (x.offset ≤ u))).length s) s
  modChan c (fun ch => { ch with
    localQ := ch.localQ.filter (fun x => decide (x.offset > u))
    edgeQ := ch.edgeQ.map (fun e => (e.1, { e.2 with red := e.2.red.filter (fun x => decide (x.offset > u)) })) }) s

/-- Unit number of the first unit that waits, and its GTC: the wait of the next step starts from it (R259). -/
def earliest (ch : Chan) : Option Nat :=
  (ch.localQ ++ ch.edgeQ.flatMap (fun e => e.2.red)).foldl (fun a x => match a with
    | none => some x.gtc
    | some g => some (min g x.gtc)) none

/-- The edges whose NAN_REPORT counts in a step (R262). -/
def chosenEdges (ch : Chan) : List Nat :=
  (chInputs ch).filterMap (fun l =>
    if ch.switched.contains (edgeRank ch l) then (chBackups ch).find? (fun k => edgeRank ch k = edgeRank ch l) else some l)

/-- The report of a finished step is made (R262): from the reports at the head of its chosen edges, which are taken; the report of an
edge that was not chosen is dropped, now or when it comes. -/
def reportStep (c : Nat) (low : Option (Nat × Nat)) (es : List Nat) (rest : List (Option (Nat × Nat) × List Nat)) (s : State) : State :=
  let ch := getChan s c
  let src := es.foldl (fun a l => match (tget {} ch.edgeQ l).reports with
    | (true, r, e) :: _ => lowSrc a (some (r, e))
    | _ => a) low
  let s := modChan c (fun ch => { ch with
    repDue := rest
    edgeQ := (chChildren ch).foldl (fun t l => tmod {} t l (fun e =>
      if e.reports = [] then { e with skip := e.skip + 1 } else { e with reports := e.reports.tail })) ch.edgeQ
    src := if chOwner ch && ch.src.isNone then src else ch.src }) s
  match chOutput ch with
  | some o => queueFrame o (.msg (.nanReport c src.isSome (src.getD (0, 0)).1 (src.getD (0, 0)).2)) s
  | none => s

/-- The reports of finished steps, the oldest first, as far as those of their chosen edges are all in (R262). -/
def reportsDue (c : Nat) : Nat → State → State
  | 0, s => s
  | n + 1, s => match (getChan s c).repDue with
    | [] => s
    | (low, es) :: rest =>
      if es.all (fun l => (tget {} (getChan s c).edgeQ l).reports ≠ []) then reportsDue c n (reportStep c low es rest s) else s
def reportCheck (c : Nat) (s : State) : State := reportsDue c (getChan s c).repDue.length s

/-- A step's last unit has been folded (R259, R262). -/
def stepFolded (c : Nat) (s : State) : State :=
  reportCheck c (modChan c (fun ch => { ch with
    repDue := ch.repDue ++ [(ch.nanLow, chosenEdges ch)], nanLow := none, switched := [] }) s)

/-- CHAN_SUBST: a rank switches to its backup (R259, R276). -/
def noteSwitch (c rank : Nat) (s : State) : State :=
  let ch := getChan s c
  let edge := ((chInputs ch).find? (fun l => edgeRank ch l = rank)).getD 0xFF
  let s := logDeferred 0x0702 (some c) none (chanCtx ch 0 edge rank (foldUnit ch) 0) s
  modChan c (fun ch => { ch with switched := ch.switched ++ [rank], switches := satAdd 0xFFFF ch.switches 1 }) s

/-- Fold the next unit of a channel, when every term has its choice (R257-R263). -/
def foldOne (c : Nat) (s : State) : State :=
  let ch := getChan s c
  let ts := chTerms ch
  if ch.st ≠ .active ∨ ts = [] ∨ ch.units = 0 then s
  else match pickAll ch s.clk.gtc ts with
    | none => s
    | some ps =>
      let u := ch.fold
      let uo := u % ch.units
      let s := ps.foldl (fun s p => if p.2.switch then noteSwitch c p.1 s else s) s
      let sum := foldWords (ps.map (fun p => p.2.vals))
      let loc := ps.foldl (fun a p => if p.2.edge.isNone then lowSrc a (nanIn p.1 (uo * 64) 0 p.2.vals) else a) none
      let nans := (sum.filter isNan32).length
      let s := consumeUnits c u s
      let s := modChan c (fun ch => { ch with
        fold := u + 1
        nanLow := lowSrc ch.nanLow loc
        elems := satAdd 0xFFFF ch.elems (ps.foldl (fun a p => a + p.2.subst) 0) }) s
      let s := match chOutput ch with
        | some o => queueFrame o (.red c ch.gen uo (sum.flatMap (fun w => leBytes 4 w.toNat))) s
        | none =>
          modChan c (fun ch => { ch with reduced := ch.reduced ++ [(u, sum)], nan := satAdd 0xFFFFFFFF ch.nan nans })
            { s with patina := { s.patina with live := { s.patina.live with
                ch := tmod {} s.patina.live.ch c (fun x => { x with nan := cnt x.nan nans }) } } }
      if uo + 1 = ch.units then stepFolded c (modChan c (fun ch => { ch with waitFrom := earliest ch }) s)
      else modChan c (fun ch => { ch with waitFrom := some s.clk.gtc }) s

/-- The deadline of a fold (R259, R260): a rank switches, or the channel enters FAULT. -/
def deadlineOp (c : Nat) (s : State) : State :=
  let ch := getChan s c
  match ch.waitFrom with
  | none => s
  | some w =>
    let now := s.clk.gtc
    let d := ch.deadline * 1000
    if ch.st ≠ .active ∨ ch.deadline = 0 ∨ now < w + d then s
    else
      let missing := (chTerms ch).filter (fun x => (pickTerm ch now x).isNone)
      let hard := missing.find? (fun x => match x.2 with
        | .localTerm => true
        | .edge _ => ch.switched.contains x.1 || !(chBackups ch).any (fun k => edgeRank ch k = x.1) || decide (now ≥ w + 2 * d))
      match hard with
      | some (r, t) => chanFault c 1 (match t with
          | .edge l => l
          | .localTerm => 0xFF) r (chRank ch) (foldUnit ch) true s
      | none => (chTerms ch).foldl (fun s x => match pickTerm ch now x with
          | some p => if p.switch then noteSwitch c x.1 s else s
          | none => s) s

/-- A step's first frame has come (R271), and the wait for its unit 0 begins (R259). -/
def stepStarts (c : Nat) (u : Nat) (s : State) : State :=
  modChan c (fun ch => { ch with
    st := .active
    waitFrom := if ch.waitFrom.isNone && u / ch.units == ch.fold / ch.units then some s.clk.gtc else ch.waitFrom }) s

/-- One capture entry of 272 bytes (R376). -/
def captureEntry (l typ c gen off gtc : Nat) (body : List Byte) : List Byte :=
  leBytes 1 l ++ leBytes 1 typ ++ leBytes 2 c ++ leBytes 2 gen ++ leBytes 4 off ++ leBytes 6 gtc ++ fit 256 body

/-- An entry among those of the capture: ascending link, and by acceptance within a link. -/
def captureInsert (e : List Byte) : List (List Byte) → List (List Byte)
  | [] => [e]
  | x :: r => if field e 0 1 < field x 0 1 then e :: x :: r else x :: captureInsert e r

/-- Write the capture into its area (R376). -/
def storeCapture (p : Nat) (s : State) : State :=
  let q := getPart s p
  match q.captureAt, q.captured with
  | some (u, st), some c =>
    (memWrite { src := 0, part := some p, ctx := none, pol := 1 } (unitBase u + st) c.2.flatten s).2
  | _, _ => s

/-- A frame accepted up to 2,000 ns after a cut of the channel's partition is captured too, whether the partition is still CAST or
not (R376). -/
def captureFrame (l typ c off : Nat) (body : List Byte) (s : State) : State :=
  let ch := getChan s c
  let p := chPart ch
  match (getPart s p).captured with
  | some (g, es) =>
    if s.clk.gtc ≤ g + 2000 then
      let es := captureInsert (captureEntry l typ c ch.gen off s.clk.gtc body) es
      let s := match (getPart s p).captureAt with
        | some (u, _) => chargeMem u 272 s
        | none => s
      storeCapture p (modPart p (fun q => { q with captured := some (g, es), cut := q.cut.map (fun k => { k with capture := es }) }) s)
    else s
  | none => s

/-- A RED body that the port has accepted into sequence (R256, R259, R273). -/
def redBody (l seq c gen off : Nat) (body : List Byte) (s : State) : State :=
  let ch := getChan s c
  let drop := freeBody l 0
  match ch.st with
  | .free => violation l 1 3 seq c gen (drop s)
  | .fault | .draining => chanStale c (drop s)
  | _ =>
    if gen ≠ ch.gen then violRecord l (errorEntry 0 3 seq c gen) (chanStale c (drop s))
    else if edgeRole ch l ≠ 1 ∧ edgeRole ch l ≠ 2 then violation l 1 3 seq c gen (drop s)
    else
      let e := tget {} ch.edgeQ l
      if off ≥ ch.units ∨ off ≠ e.next % ch.units then violation l 4 3 seq c gen (drop s)
      else
        let u := e.next
        let gone := decide (u < ch.fold) || (edgeRole ch l == 1 && ch.switched.contains (edgeRank ch l) &&
          u / ch.units == ch.fold / ch.units)
        let s := if gone then s else stepStarts c u s
        let s := modChan c (fun ch => { ch with edgeQ := tmod {} ch.edgeQ l (fun e => { e with
          next := u + 1
          red := if gone then e.red else e.red ++ [{ offset := u, body := body, gtc := s.clk.gtc }] }) }) s
        captureFrame l 3 c off body (if gone then drop s else s)

/-- Units of the transfer that is complete at a node: 16, or those up to the end of the step (R267). -/
def transferLen (ch : Chan) : Nat :=
  match ch.outQ with
  | [] => 0
  | x :: _ =>
    let left := chParams ch - x.offset % chParams ch
    let n := min 16 left
    if ch.outQ.length ≥ n then n else 0

/-- The GTC at which that transfer was complete at the node: that of its last unit (R267). -/
def transferFrom (ch : Chan) : Option Nat := ((ch.outQ.take (transferLen ch)).getLast?).map (·.gtc)

/-- A channel with other PARAM units to forward. -/
def withOut (q : List RxBody) (ch : Chan) : Chan :=
  { ch with outQ := q, outFrom := transferFrom { ch with outQ := q } }

/-- A PARAM body that the port has accepted into sequence (R266, R273). -/
def paramBody (l seq c gen off : Nat) (body : List Byte) (s : State) : State :=
  let ch := getChan s c
  let drop := freeBody l 1
  match ch.st with
  | .free => violation l 1 4 seq c gen (drop s)
  | .fault | .draining => chanStale c (drop s)
  | _ =>
    if gen ≠ ch.gen then violRecord l (errorEntry 0 4 seq c gen) (chanStale c (drop s))
    else if chOutput ch ≠ some l then violation l 1 4 seq c gen (drop s)
    else if off ≥ chParams ch ∨ off ≠ ch.paramNext % chParams ch then violation l 4 4 seq c gen (drop s)
    else captureFrame l 4 c off body <| modChan c (fun ch =>
      withOut (ch.outQ ++ [{ offset := ch.paramNext, body := body, gtc := s.clk.gtc }])
        { ch with st := .active, paramNext := ch.paramNext + 1 }) s

/-- One element of the optimiser step (R265): w, s1, s2 after it. -/
def optElem (opt : Nat) (o : Nat → W32) (c1 c2 : W32) (g w s1 s2 : W32) : W32 × W32 × W32 :=
  let m := fun a b => (mul32 a b).1
  let a := fun a b => (add32 a b).1
  let lr := o 0
  let b1 := o 1
  let b2 := o 2
  let wd := o 4
  let g := m g (o 5)
  let one : W32 := 0x3F800000
  if opt = 0 then
    let g := a g (m wd w)
    let s1 := a (m b1 s1) g
    ((sub32 w (m lr s1)).1, s1, s2)
  else
    let g := if opt = 1 then a g (m wd w) else g
    let s1 := a (m b1 s1) (m (sub32 one b1).1 g)
    let s2 := a (m b2 s2) (m (sub32 one b2).1 (m g g))
    let u := (div32 (div32 s1 c1).1 (a (sqrt32 (div32 s2 c2).1).1 (o 3))).1
    let u := if opt = 2 then a u (m wd w) else u
    ((sub32 w (m lr u)).1, s1, s2)

/-- The parameter formats (Table 13.7). -/
def chElem (ch : Chan) : Elem :=
  match chOfmt ch with
  | 0 => .bf16
  | 1 => .e4m3
  | _ => .e5m2

/-- State words of one element: none, one or two. -/
def optElems (opt : Nat) (o : Nat → W32) (c1 c2 : W32) : List W32 → List W32 → List W32 → List (W32 × W32 × W32)
  | g :: gs, w :: ws, ss =>
    if opt = 0 then optElem opt o c1 c2 g w (ss.headD 0) 0 :: optElems opt o c1 c2 gs ws (ss.drop 1)
    else optElem opt o c1 c2 g w (ss.headD 0) ((ss.drop 1).headD 0) :: optElems opt o c1 c2 gs ws (ss.drop 2)
  | _, _, _ => []

/-- Cut PARAM units of 256 bytes off the bytes made; the last of a step is padded with zeros (R266). -/
def cutParams (first gtc : Nat) : Nat → List Byte → List RxBody × List Byte
  | 0, bs => ([], bs)
  | n + 1, bs =>
    if bs.length < 256 then ([], bs)
    else
      let r := cutParams (first + 1) gtc n (bs.drop 256)
      ({ offset := first, body := bs.take 256, gtc := gtc } :: r.1, r.2)

/-- The optimiser takes the next reduced unit of the owner (R264-R266). The reads and writes of its 4 KiB of reduced data are counted
as one transfer each, with the first unit of them (R210, R361; DESIGN CHOICE, log entry 34). -/
def updateOne (c : Nat) (s : State) : State :=
  let ch := getChan s c
  match ch.reduced with
  | [] => s
  | (u, sum) :: rest =>
    let o := fun n => tget 0 ch.opts n
    let first := decide (u % ch.units = 0)
    let pw1 := if first then (mul32 ch.pw1 (o 1)).1 else ch.pw1
    let pw2 := if first then (mul32 ch.pw2 (o 2)).1 else ch.pw2
    let c1 := (sub32 0x3F800000 pw1).1
    let c2 := (sub32 0x3F800000 pw2).1
    let opt := chOpt ch
    let n := if opt = 0 then 256 else 512
    let uo := u % ch.units
    match resolve s (chPart ch) ch.mreg, resolve s (chPart ch) ch.sreg with
    | some (_, mr), some (_, sr) =>
      let who : MemWho := { src := 1, part := some (chPart ch), ctx := none, pol := 1 }
      let (wb, ok1, s) := regionBytes who mr (ch.mbase * 64 + uo * 256) 256 s
      let (sb, ok2, s) := regionBytes who sr (ch.sbase * 64 + uo * n) n s
      if !(ok1 && ok2) then chanFault c 4 0xFF (chRank ch) (chRank ch) uo true s
      else
        let r := optElems opt o c1 c2 sum (words32 64 wb) (words32 (n / 4) sb)
        let s := (regionWrite who mr (ch.mbase * 64 + uo * 256) 8 (r.flatMap (fun x => leBytes 4 x.1.toNat)) s).2
        let s := (regionWrite who sr (ch.sbase * 64 + uo * n) 12 (r.flatMap (fun x =>
          leBytes 4 x.2.1.toNat ++ (if opt = 0 then [] else leBytes 4 x.2.2.toNat))) s).2
        let s := if uo % 16 = 0 then
            let k := min 16 (ch.units - uo)
            (fun t => chargeRegion mr (ch.mbase * 64 + uo * 256) (256 * k) (chargeRegion mr (ch.mbase * 64 + uo * 256) (256 * k)
              (chargeRegion sr (ch.sbase * 64 + uo * n) (n * k) (chargeRegion sr (ch.sbase * 64 + uo * n) (n * k) t)))) s
          else s
        let ps := ch.outPart ++ r.flatMap (fun x => leBytes (chBpe ch) (narrow (chElem ch) none (chSat ch) x.1).1)
        let ps := if uo + 1 = ch.units then fit ((ps.length + 255) / 256 * 256) ps else ps
        let (us, part) := cutParams ch.paramNext s.clk.gtc 3 ps
        modChan c (fun ch => withOut (ch.outQ ++ us) { ch with
          reduced := rest, updated := u + 1, pw1 := pw1, pw2 := pw2, outPart := part, paramNext := ch.paramNext + us.length }) s
    | _, _ => chanFault c 4 0xFF (chRank ch) (chRank ch) uo true s

/-- Up to 4 KiB of reduced data (R264). -/
def updateMany (c : Nat) : Nat → State → State
  | 0, s => s
  | n + 1, s => if (getChan s c).st = .active then updateMany c n (updateOne c s) else s

/-- PARAM credit of a port for new frames, less those already queued (R237). -/
def paramCredit (x : Link) : Nat :=
  tget 0 x.granted 1 - tget 0 x.sent 1 - (x.queue.filter (fun f => clsOf f = 1)).length

/-- Child edges that have no credit for a transfer. -/
def lagging (s : State) (ch : Chan) (n : Nat) : List Nat :=
  (chChildren ch).filter (fun l => decide (paramCredit (getLink s l) < n))

/-- A channel has written its last PARAM unit of a step: the region's update count (R268), CH_STEPS (R271). It is OPEN again
unless a later step has begun: a frame or a sum of it waits, or its sum is already formed and its parameters are not back. -/
def stepDone (c : Nat) (s : State) : State :=
  let s := noteDone c s
  let s := { s with patina := { s.patina with live := { s.patina.live with
    ch := tmod {} s.patina.live.ch c (fun x => { x with steps := cnt x.steps 1 }) } } }
  modChan c (fun ch => { ch with
    steps := (ch.steps + 1) % 2 ^ 32, returned := 0
    st := if ch.localQ = [] ∧ ch.edgeQ.all (fun e => e.2.red = []) ∧ ch.reduced = [] ∧ ch.outQ = [] ∧
        (chTerms ch = [] ∨ (ch.fold % ch.units = 0 ∧ ch.fold / ch.units % 2 ^ 32 = (ch.steps + 1) % 2 ^ 32))
      then .open_ else .active }) s

/-- A PARAM transfer goes out: to every child edge and the node's own region, or to none (R266, R267). -/
def transferOne (c : Nat) (s : State) : State :=
  let ch := getChan s c
  let n := transferLen ch
  if ch.st ≠ .active ∨ n = 0 ∨ lagging s ch n ≠ [] then s
  else
    let us := ch.outQ.take n
    let who : MemWho := { src := 1, part := some (chPart ch), ctx := none, pol := 1 }
    let s := us.foldl (fun s x =>
      let o := x.offset % chParams ch
      let s := (chChildren ch).foldl (fun s l => queueFrame l (.param c ch.gen o x.body) s) s
      let s := match chOutput ch with
        | some l => freeBody l 1 s
        | none => s
      match resolve s (chPart ch) ch.preg with
      | some (_, r) => (regionWrite who r (ch.pbase * 64 + o * 256) 8
          (x.body.take (ch.units * 64 * chBpe ch - o * 256)) s).2
      | none => s) s
    let s := match us.head?, resolve s (chPart ch) ch.preg with
      | some x, some (_, r) =>
        let o := x.offset % chParams ch * 256
        chargeRegion r (ch.pbase * 64 + o) (min (256 * n) (ch.units * 64 * chBpe ch - o)) s
      | _, _ => s
    let s := modChan c (fun ch => withOut (ch.outQ.drop n) { ch with returned := ch.returned + n }) s
    if ch.returned + n = chParams ch then stepDone c s else s

/-- The unit of the step whose parameters a PARAM unit begins with (Table 13.9). -/
def paramUnit (ch : Chan) (o : Nat) : Nat := o % chParams ch * 4 / chBpe ch

/-- A PARAM transfer that some target has not granted in time (R267). -/
def transferTimeout (c : Nat) (s : State) : State :=
  let ch := getChan s c
  let n := transferLen ch
  match ch.outFrom, (lagging s ch n).head? with
  | some g, some l =>
    if ch.st = .active ∧ n ≠ 0 ∧ s.clk.gtc ≥ g + max 1 s.redMcastTo * 1000 then
      chanFault c 3 l (termRank ch l) (chRank ch) (paramUnit ch ((ch.outQ.map (·.offset)).headD 0)) true s
    else s
  | _, _ => s

/-- FAIL or STEP_FAIL received (R269, R270, R273). -/
def failMsg (l seq c gen rank : Nat) (s : State) : State :=
  let ch := getChan s c
  match ch.st with
  | .free => violation l 1 5 seq c gen s
  | .fault | .draining => chanStale c s
  | _ => if gen ≠ ch.gen then chanStale c s else chanFault c 6 l rank rank (foldUnit ch) true s

/-- NAN_REPORT received (R262, R273). -/
def nanMsg (l seq c : Nat) (rep : Bool × Nat × Nat) (s : State) : State :=
  let ch := getChan s c
  match ch.st with
  | .free => violation l 1 5 seq c 0 s
  | .fault | .draining => chanStale c s
  | _ => reportCheck c (modChan c (fun ch => { ch with edgeQ := tmod {} ch.edgeQ l (fun e =>
      if e.skip > 0 then { e with skip := e.skip - 1 } else { e with reports := e.reports ++ [rep] }) }) s)

/-- DRAIN received (R272). -/
def drainMsg (l seq c gen : Nat) (s : State) : State :=
  let ch := getChan s c
  if ch.st = .free then violation l 1 5 seq c gen s
  else if gen ≠ ch.gen then chanStale c s
  else
    let s := match ch.st with
      | .open_ => chanFault c 5 l (termRank ch l) (chRank ch) (foldUnit ch) false s
      | .active => chanFault c 5 l (termRank ch l) (chRank ch) (foldUnit ch) true s
      | _ => s
    edgeDrained c l s

/-- DRAIN_DONE received (R272). -/
def drainDoneMsg (l seq c gen : Nat) (s : State) : State :=
  let ch := getChan s c
  if ch.st = .free then violation l 1 5 seq c gen s
  else if ch.st ≠ .draining ∨ gen ≠ ch.gen then chanStale c s
  else edgeDrained c l s

/-- Whether the module's time is aligned to the fabric: ALIGNED, HOLDOVER or ROOT (R274). -/
def aligned (s : State) : Bool := [2, 3, 4].contains s.clk.timeState

/-- Whether a START of a partition is in progress. -/
def starting (s : State) (p : Nat) : Bool := s.flights.any (fun x => x.kind == .start p)

/-- A cast at a GTC is asked for; one that waits with an earlier GTC stays. -/
def askGtc (g : Nat) (c : CastCause) (q : Part) : Part :=
  { q with castGtc := match q.castGtc with
    | some (h, d) => if h ≤ g then some (h, d) else some (g, c)
    | none => some (g, c) }

/-- CAST_AT received (R274). AT_GTC is 46 bits; a value in the past half of that range has been missed. -/
def castAtMsg (l seq c at_ : Nat) (s : State) : State :=
  let ch := getChan s c
  match ch.st with
  | .free => violation l 1 5 seq c 0 s
  | .fault | .draining => chanStale c s
  | _ =>
    let ahead := (at_ + 2 ^ 46 - s.clk.gtc % 2 ^ 46) % 2 ^ 46
    let late := decide (ahead ≥ 2 ^ 45)
    let full := if late then s.clk.gtc - (2 ^ 46 - ahead) else s.clk.gtc + ahead
    if s.castSeen.contains full then s
    else
      let s := { s with castSeen := full :: s.castSeen }
      let s := (((List.range 32).filter (fun k => edgeRole ch k != 0 && k != l)).foldl
        (fun s k => queueFrame k (.msg (.castAt c (full % 2 ^ 46))) s)) s
      let p := chPart ch
      let st := (getPart s p).st
      let miss := late || !aligned s
      let s := if miss then logDeferred 0x0703 (some c) none
        (chanCtx ch 0 l (termRank ch l) (foldUnit ch) (if late then 2 ^ 46 - ahead else 0)) s else s
      if st ≠ .running ∧ st ≠ .paused ∧ starting s p = false then s
      else if miss then
        modPart p (askCast { at_ := some (roundUp (s.clk.mcc + 1) 64), cause := .castAt, fault := false, atGtc := full }) s
      else modPart p (askGtc full .castAt) s

/-- Whether a region holds a range. -/
def regionHolds (r : Region) (off n : Nat) : Bool := decide (off + n ≤ r.size * 65536)

/-- No number twice. -/
def noDup : List Nat → Bool
  | [] => true
  | x :: r => !r.contains x && noDup r

/-- Check 3 of Table 13.5. -/
def chanFields (s : State) (ch : Chan) : Bool :=
  let p := chPart ch
  let ins := chInputs ch
  let fits := fun (h off n : Nat) => match resolve s p h with
    | some (_, r) => regionHolds r off n
    | none => true
  let inRanks := ins.map (edgeRank ch)
  decide (1 ≤ ch.units ∧ ch.units ≤ 4194304 ∧ 1 ≤ ch.shard ∧ (ch.units + ch.shard - 1) / ch.shard ≤ 65536) &&
  decide (chTopo ch ≠ 3 ∧ chCfmt ch ≠ 3 ∧ chOfmt ch ≠ 3 ∧ (chOwner ch = false ∨ chOpt ch ≠ 3)) &&
  decide (ch.nextGen ≠ ch.gen) &&
  decide (1 ≤ ((List.range 32).filter (fun l => edgeRole ch l != 0)).length) && decide ((edgesOf ch 3).length ≤ 1) &&
  noDup (chRank ch :: inRanks) && (chBackups ch).all (fun l => inRanks.contains (edgeRank ch l)) &&
  (match chTopo ch with
    | 0 => chOwner ch || ins.isEmpty
    | 1 => decide (ins.length ≤ 1) && inRanks.all (fun r => decide (r < chRank ch))
    | _ => true) &&
  !(chSubst ch && chOwner ch && (chBackups ch).isEmpty) &&
  (match resolve s p ch.preg with
    | some (_, r) => r.param
    | none => true) &&
  fits ch.preg (ch.pbase * 64) (ch.units * 64 * chBpe ch) &&
  (!chOwner ch || (fits ch.mreg (ch.mbase * 64) (ch.units * 256) &&
    fits ch.sreg (ch.sbase * 64) (ch.units * (if chOpt ch = 0 then 256 else 512))))

/-- Check 4 of Table 13.5. -/
def chanBound (s : State) (ch : Chan) : Bool :=
  let p := chPart ch
  let home := fun h => (resolve s p h).map (fun x => plinthOfUnit (x.2.members.headD 0))
  (resolve s p ch.preg).isSome &&
  (!chOwner ch || (match home ch.mreg, home ch.sreg with
    | some a, some b => a == b
    | _, _ => false))

/-- A power repeated (R265). -/
def powTimes (b : W32) : Nat → W32 → W32
  | 0, a => a
  | n + 1, a => powTimes b n (mul32 a b).1

/-- CHANNEL_OPEN takes effect (R271). M_REGION and S_REGION concern the channel at its owner only (Table 13.8). -/
def openChan (c : Nat) (s : State) : State :=
  let ch := getChan s c
  let keys := (if chOwner ch then [ch.preg, ch.mreg, ch.sreg] else [ch.preg]).filterMap (fun h => (resolve s (chPart ch) h).map (·.1))
  let s := endCopies keys s
  let s := match resolve s (chPart ch) ch.preg with
    | some (key, _) => modReg key (fun r => { r with failed := false, chansDone := tset 0 r.chansDone c 0 }) s
    | none => s
  let n := (tget 0 ch.opts 6).toNat
  modChan c (fun ch => { chanFree ch with
    st := .open_, gen := ch.nextGen, owner := chOwner ch, cause := 0, steps := 0, nan := 0, src := none, switches := 0, elems := 0, stale := 0
    pw1 := powTimes (tget 0 ch.opts 1) n 0x3F800000, pw2 := powTimes (tget 0 ch.opts 2) n 0x3F800000 }) s

/-- CHANNEL_OPEN (R271, Table 13.5). -/
def execChannelOpen (h : CmdHdr) (chan : Nat) (s : State) : Host.Outcome State Fault Refusal :=
  .next (command h { op := 0x40, fields := [(8, 2, chan)], params := decide (chan < 1024), claims := [.channel chan], modFatal := true } (fun r s =>
    let ch := getChan s chan
    let pst := (getPart s (chPart ch)).st
    if ch.st = .draining then finishErr r .notDrained 9 chan 1 s
    else if ch.st ≠ .free then finish r .busy 0 noRec s
    else if pst ≠ .bound ∧ pst ≠ .done then finishErr r .partitionState 9 chan 2 s
    else if !chanFields s ch then finish r .badParam 0 noRec s
    else if !chanBound s ch then finishErr r .noResource 9 chan 4 s
    else if !((List.range 32).filter (fun l => edgeRole ch l != 0)).all (fun l => (getLink s l).st == .active) then
      finishErr r .noResource 9 chan 5 s
    else finishOk r ch.nextGen (openChan chan s)) s)

/-- CHANNEL_CLOSE (R272). -/
def execChannelClose (h : CmdHdr) (chan : Nat) (s : State) : Host.Outcome State Fault Refusal :=
  .next (command h { op := 0x41, fields := [(8, 2, chan)], params := decide (chan < 1024 ∧ (getChan s chan).st ≠ .free), claims := [.channel chan] } (fun r s =>
    finishOk r (getChan s chan).gen (closeChan chan s)) s)

/-- UNIT_FOLD (R257). -/
def execUnitFold (c : Fin 1024) (s : State) : Host.Outcome State Fault Refusal := .next (foldOne c s)

/-- DEADLINE (R259, R260). -/
def execDeadline (c : Fin 1024) (s : State) : Host.Outcome State Fault Refusal := .next (deadlineOp c s)

/-- OPTIMISER_STEP (R264, R265). -/
def execOptimiserStep (c : Fin 1024) (s : State) : Host.Outcome State Fault Refusal := .next (updateMany c 16 s)

/-- PARAM_TRANSFER (R267). -/
def execParamTransfer (c : Fin 1024) (s : State) : Host.Outcome State Fault Refusal := .next (transferOne c s)

/-- PARAM_MULTICAST_TIMEOUT (R267). -/
def execParamMulticastTimeout (c : Fin 1024) (s : State) : Host.Outcome State Fault Refusal := .next (transferTimeout c s)

end Sys2Proof.Machine
end

