-- ==== Sys2Proof/Machine/Links.lean ====
section
/-! DEFINITION. Optical links: frames, retry, training and service, laser modules, and the fabric count (chapter 12 and
R408 of spec/). -/

namespace Sys2Proof.Machine

/-- A laser module; `litLaser`: its links have light (R245: DEGRADED counts as ONLINE). -/
def getLaser (s : State) (n : Nat) : Laser := tget {} s.lasers n
def modLaser (n : Nat) (f : Laser → Laser) (s : State) : State := { s with lasers := tmod {} s.lasers n f }
def litLaser (s : State) (n : Nat) : Bool := (getLaser s n).st == 1 || (getLaser s n).st == 2

/-- The links that a laser module feeds (R233). -/
def laserLinks (n : Nat) : List Nat := (List.range 8).map (fun i => 8 * n + i)

/-- Codes of Table 12.4. -/
def linkCode : LinkSt → Nat
  | .down => 0 | .optical => 1 | .equalise => 2 | .fecLock => 3 | .param => 4 | .active => 5 | .retrain => 6
  | .drained => 7 | .recal => 8 | .failed => 9 | .noLight => 10

/-- Note a reset in PWR_RST_CAUSE (Table 16.7). -/
def noteCause (bit : Nat) (s : State) : State :=
  { s with pwr := { s.pwr with cause := s.pwr.cause ||| BitVec.ofNat 9 (2 ^ bit) } }

/-- The 8 bytes of a MSG entry (Table 13.4, R244). -/
def msgEntry : Msg → Nat
  | .quiesce => 0xF0
  | .quiesceOk => 0xF1
  | .quiesceRefuse => 0xF2
  | .fail c g cause rank => 0x10 + c % 1024 * 2 ^ 8 + g % 65536 * 2 ^ 18 + cause % 16 * 2 ^ 34 + rank % 4096 * 2 ^ 38
  | .stepFail c g cause rank => 0x11 + c % 1024 * 2 ^ 8 + g % 65536 * 2 ^ 18 + cause % 16 * 2 ^ 34 + rank % 4096 * 2 ^ 38
  | .nanReport c v rank e => 0x20 + c % 1024 * 2 ^ 8 + b2n v * 2 ^ 18 + rank % 4096 * 2 ^ 19 + e % 2 ^ 28 * 2 ^ 31
  | .drain c g => 0x30 + c % 1024 * 2 ^ 8 + g % 65536 * 2 ^ 18
  | .drainDone c g => 0x31 + c % 1024 * 2 ^ 8 + g % 65536 * 2 ^ 18
  | .castAt c g => 0x40 + c % 1024 * 2 ^ 8 + g % 2 ^ 46 * 2 ^ 18

/-- A frame on the wire (R235): the header, 256 bytes of body, and the CRC-32C of both. -/
def frameBytes (header : Nat) (body : List Byte) : List Byte :=
  let bs := leBytes 8 header ++ fit 256 body
  bs ++ leBytes 4 (crc32c bs).toNat

/-- A sequenced frame on the wire (Table 12.1). This transmitter puts one entry into a MSG or ERROR frame. -/
def seqFrame (seq : Nat) : Frame → List Byte
  | .red c g o b => frameBytes (3 + seq % 4096 * 2 ^ 4 + c % 1024 * 2 ^ 16 + g % 65536 * 2 ^ 26 + o % 2 ^ 22 * 2 ^ 42) b
  | .param c g o b => frameBytes (4 + seq % 4096 * 2 ^ 4 + c % 1024 * 2 ^ 16 + g % 65536 * 2 ^ 26 + o % 2 ^ 22 * 2 ^ 42) b
  | .msg m => frameBytes (5 + seq % 4096 * 2 ^ 4 + 2 ^ 16) (leBytes 8 (msgEntry m))
  | .error code typ n c g => frameBytes (6 + seq % 4096 * 2 ^ 4 + 2 ^ 16) (leBytes 8 (errorEntry code typ n c g))

/-- A CTRL frame of messages, and an IDLE frame (Table 12.1). -/
def ctrlFrame (ms : List Nat) : List Byte := frameBytes (1 + ms.length * 2 ^ 16) (ms.flatMap (leBytes 8))
def idleFrame : List Byte := frameBytes 0 []

/-- A stamp in 1/16 ns (R249); `frac` is the part of the nanosecond that the GTC does not hold. -/
def stamp (s : State) (frac : Nat) : Nat := (16 * s.clk.gtc + frac % 16) % 2 ^ 48

/-- The messages of Table 12.2 with the counts and stamps of the present moment; a response is two. -/
def ctrlWords (s : State) (l : Nat) : Ctrl → List Nat
  | .ack => [1 + ((getLink s l).rxSeq + 4095) % 4096 * 2 ^ 8]
  | .credit cls => [3 + cls % 4 * 2 ^ 8 + tget 0 (getLink s l).given cls % 65536 * 2 ^ 16]
  | .timeReq frac => [4 + stamp s frac * 2 ^ 16]
  | .timeResp t2 frac => [5 + t2 % 2 ^ 48 * 2 ^ 16, 5 + 2 ^ 8 + stamp s frac * 2 ^ 16]
  | .root => [6 + min 15 s.fab.hops * 2 ^ 8 + s.fab.rootPrioOf % 16 * 2 ^ 12 + s.fab.rootId % 2 ^ 48 * 2 ^ 16]

/-- The waiting CTRL messages go out in one frame, at most 32 of them (R238 item 5). -/
def sendCtrl (l : Nat) (s : State) : State :=
  let ms := (getLink s l).ctrl.take 16
  let s := emit (.frame l (ctrlFrame (ms.flatMap (ctrlWords s l)))) s
  modLink l (fun x => ms.foldl (fun x m => match m with
    | .timeReq frac => { x with t1 := stamp s frac }
    | .ack => { x with accepted := 0 }
    | .credit cls => { x with credited := tset 0 x.credited cls (tget 0 x.given cls) }
    | _ => x) { x with ctrl := x.ctrl.drop 16, sinceCtrl := 0 }) s

/-- A port without the contents of its retry and receive buffers, its SEQ and credits (R242). -/
def portCleared (x : Link) : Link :=
  { x with
    txSeq := 0, rxSeq := 0, queue := [], unacked := [], replay := [], stuck := 0, nakSent := false, nakDue := false
    granted := [], sent := [], given := [], received := [], drain := false, drainOk := false, slotLeft := 0, phase := 0, row := 0
    ctrl := [], sinceCtrl := 0, accepted := 0, credited := [], peerCredits := [], peerSeq := 0, msgSeq := none }

/-- A link reset (R242, Table 16.4 note 10): the fields that it restores, and the channels that lose the link. -/
def linkReset (l : Nat) (s : State) : State :=
  let s := chansLinkLost l s
  modLink l (fun x => { portCleared x with
    st := .down, recalAdvise := false, parent := false, peerId := 0, peerLink := 0, root := none }) s

/-- The best training mode available (R242, R243): 0 live, 1 seeded, 2 cold. -/
def bestMode (s : State) (l : Nat) : Nat :=
  if (getLink s l).calLive then 0 else if s.flash.linkCal.contains l then 1 else 2

/-- Training begins, when the module has light (R242, Table 12.4). -/
def startTraining (l mode : Nat) (s : State) : State :=
  if litLaser s (l / 8) then modLink l (fun x => { x with st := .optical, mode := mode, phase := 1 }) s
  else modLink l (fun x => { x with st := .noLight }) s

/-- Add a signed number of nanoseconds to the GTC. -/
def gtcAdd (d : Int) (s : State) : State :=
  { s with clk := { s.clk with gtc := (((s.clk.gtc : Int) + d).emod (2 ^ 64)).toNat } }

/-- What a link hears, when it carries ROOT messages: prio, id, hops (R246, R247). -/
def heard (s : State) (l : Nat) : Option (Nat × Nat × Nat) :=
  let x := getLink s l
  if x.st = .active ∨ x.st = .drained then
    match x.root with
    | some (hops, prio, id) => if hops < 15 ∧ prio ≠ 0 then some (prio, id, hops) else none
    | none => none
  else none

/-- What a link advertises of a root that is too far to be used (R247). -/
def heardFar (s : State) (l : Nat) : Option (Nat × Nat) :=
  let x := getLink s l
  if x.st = .active ∨ x.st = .drained then
    match x.root with
    | some (hops, prio, id) => if hops ≥ 15 ∧ prio ≠ 0 then some (prio, id) else none
    | none => none
  else none

/-- Whether a root candidate is better: higher priority, then lower FAB_ID (R246). -/
def betterRoot (a b : Nat × Nat) : Bool := decide (a.1 > b.1) || (a.1 == b.1 && decide (a.2 < b.2))

/-- The best root of links, with the link that has the fewest hops to it, the lowest on a tie (R247). -/
def bestHeard (s : State) : Option (Nat × Nat × Nat × Nat) :=
  (List.range 32).foldl (fun (a : Option (Nat × Nat × Nat × Nat)) l => match heard s l, a with
    | some (p, i, h), none => some (p, i, h, l)
    | some (p, i, h), some (p0, i0, h0, l0) =>
      if betterRoot (p, i) (p0, i0) then some (p, i, h, l)
      else if p = p0 ∧ i = i0 ∧ h < h0 then some (p, i, h, l) else some (p0, i0, h0, l0)
    | none, a => a) none

/-- The module takes a parent link, or none (R247, LINK_STS PARENT). -/
def setParent (v : Option Nat) (s : State) : State :=
  let s := (List.range 32).foldl (fun s l => modLink l (fun x => { x with parent := v == some l }) s) s
  { s with fab := { s.fab with parent := v, offsets := if s.fab.parent = v then s.fab.offsets else [] } }

/-- A time state begins; a slew in progress ends (R250). -/
def setTime (st : Nat) (s : State) : State :=
  { s with clk := { s.clk with timeState := st }, fab := { s.fab with slew := 0, slewAge := 0 } }

/-- Choice of the root and the parent, and the time state that follows (R246-R248, Table 12.7). The module's own candidate
stands against what it hears, its own identity heard back included; one that hears a better root from too far stays FREE (R247). -/
def chooseRoot (s : State) : State :=
  let own : Option (Nat × Nat) := if s.fab.rootPrio = 0 then none else some (s.fab.rootPrio, s.ident.fabId)
  let best := bestHeard s
  let parent := match best, own with
    | some (p, i, h, l), some o => if betterRoot o (p, i) || o == (p, i) then none else some (p, i, h, l)
    | x, _ => x
  let st := s.clk.timeState
  match parent with
  | some (p, i, h, l) =>
    let s := setParent (some l) { s with fab := { s.fab with hops := h + 1, rootId := i, rootPrioOf := p } }
    if st = 0 then setTime 1 s else if st = 3 ∨ st = 4 then setTime 2 s else s
  | none =>
    let far := (List.range 32).any (fun l => match heardFar s l, own with
      | some a, some o => betterRoot a o
      | _, _ => false)
    let lone := fun (s : State) => match (if far then none else own) with
      | some (p, i) => setTime 4 { s with fab := { s.fab with hops := 0, rootId := i, rootPrioOf := p } }
      | none => setTime 0 { s with fab := { s.fab with hops := 0, rootId := 0, rootPrioOf := 0 } }
    let s := setParent none s
    if st = 1 ∨ st = 2 then
      if s.fab.holdoverMs = 0 then lone s else setTime 3 { s with fab := { s.fab with lostGtc := s.clk.gtc } }
    else if st = 3 then s
    else lone s

/-- Complete LASER_ONLINE once every link is ACTIVE or FAILED (Table 12.6). -/
def laserOnCheck (n : Nat) (s : State) : State :=
  if (laserLinks n).all (fun l => (getLink s l).st == .active || (getLink s l).st == .failed) then
    land (fun k => k == .laserOn n) (fun r s => finishOk r (getLaser s n).st s) s
  else s

/-- The commands at work on a link end when it leaves what they need (Tables 12.5, 12.6): training and recalibration with
FAULT, a drain with TIMEOUT. `record` is the record of the unit that explains it, where there is one (R385). -/
def endLinkCmds (l state : Nat) (record : Option Nat) (s : State) : State :=
  let f := fun (st : Status) (r : CmdRef) (s : State) => finishRecR r st record 7 l state state s
  land (fun k => k == .link l true) (f .timeout) (land (fun k => k == .link l false) (f .fault) s)

/-- A link enters FAILED (R242): its record, its buffers, and what waited for it. -/
def linkFailed (l timedOut : Nat) (s : State) : State :=
  let x := getLink s l
  let (s, i) := logRec (mkRec s .deferred 0x0601 (some l) none [(0, timedOut), (1, x.mode)]) s
  let s := chansLinkLost l s
  let s := modLink l (fun x => { portCleared x with
    st := .failed, recalAdvise := false, parent := false, peerId := 0, peerLink := 0, root := none }) s
  let s := noteCause 6 (if x.parent then chooseRoot s else s)
  laserOnCheck (l / 8) (endLinkCmds l 9 i s)

/-- A link enters RETRAIN; the fourth entry in a row leads to FAILED (R242). -/
def enterRetrain (l : Nat) (s : State) : State :=
  let x := getLink s l
  if x.row ≥ 3 then linkFailed l 6 s
  else modLink l (fun x => { x with
    st := .retrain, phase := 1, mode := 0, row := x.row + 1, retrains := satAdd 0xFFFF x.retrains 1, slotLeft := 0 }) s

/-- Every replay counts (R241). -/
def countReplay (l : Nat) (s : State) : State :=
  let s := modLink l (fun x => { x with replays := satAdd 0xFFFFFFFF x.replays 1 }) s
  { s with patina := { s.patina with live := { s.patina.live with
    link := tmod {} s.patina.live.link l (fun y => { y with replays := cnt y.replays 1 }) } } }

/-- A replay from a list of unacknowledged frames, or RETRAIN after RETRY_MAX replays without progress (R241). -/
def replayFrom (l : Nat) (fs : List (Nat × Frame)) (s : State) : State :=
  let x := getLink s l
  if x.stuck ≥ max 1 x.retryMax then enterRetrain l (modLink l (fun x => { x with stuck := 0 }) s)
  else
    countReplay l (modLink l (fun x => { x with replay := fs, stuck := x.stuck + 1, progressGtc := s.clk.gtc }) s)

/-- Whether a port's framing is up. -/
def framing (x : Link) : Bool := x.st == .active || x.st == .drained

/-- Whether a frame is an ERROR frame, and whether a port may send one at a GTC: at most one per microsecond (R251). -/
def isError : Frame → Bool
  | .error _ _ _ _ _ => true
  | .red _ _ _ _ | .param _ _ _ _ | .msg _ => false
def errorMay (now : Nat) (x : Link) : Bool := match x.errorSent with
  | some g => decide (g + 1000 ≤ now)
  | none => true

/-- Send the frame with the next SEQ (R237, R240). -/
def sendFrame (l : Nat) (f : Frame) (rest : List Frame) (s : State) : State :=
  let x := getLink s l
  let s := modLink l (fun x => { x with
    queue := rest, txSeq := (x.txSeq + 1) % 4096, unacked := x.unacked ++ [(x.txSeq, f)]
    sent := tset 0 x.sent (clsOf f) (tget 0 x.sent (clsOf f) + 1)
    progressGtc := if x.unacked = [] then s.clk.gtc else x.progressGtc, sinceCtrl := x.sinceCtrl + 1
    errorSent := if isError f then some s.clk.gtc else x.errorSent }) s
  emit (.frame l (seqFrame x.txSeq f)) { s with patina := { s.patina with live := { s.patina.live with
    link := tmod {} s.patina.live.link l (fun y => { y with tx := cnt y.tx 256 }) } } }

/-- Channel and offset of a RED or PARAM frame. -/
def frameChan : Frame → Nat
  | .red c _ _ _ | .param c _ _ _ => c
  | .msg _ | .error _ _ _ _ _ => 0
def frameOff : Frame → Nat
  | .red _ _ o _ | .param _ _ o _ => o
  | .msg _ | .error _ _ _ _ _ => 0

/-- The first queued frame of a kind, with the queue without it. -/
def takeFrame (p : Frame → Bool) : List Frame → Option (Frame × List Frame)
  | [] => none
  | f :: r => if p f then some (f, r) else match takeFrame p r with
    | some (g, q) => some (g, f :: q)
    | none => none

/-- Whether a message follows the data frames of its channel: the report of a step (R262) and the drain tokens (R272) do. -/
def followsData (c : Nat) : Frame → Bool
  | .msg (.nanReport k _ _ _) | .msg (.drain k _) | .msg (.drainDone k _) => k == c
  | _ => false

/-- The first queued MSG or ERROR frame that may go: one that follows the data of its channel waits for what stands before
it in the queue. -/
def takeMsg (p : Frame → Bool) : List Frame → Option (Frame × List Frame)
  | [] => none
  | f :: r => if clsOf f = 2 ∧ p f = true then some (f, r) else
    match takeMsg (fun g => p g && !(clsOf f != 2 && followsData (frameChan f) g)) r with
    | some (g, q) => some (g, f :: q)
    | none => none

/-- Whether a class has credit for a new frame (R237). -/
def hasCredit (x : Link) (cls : Nat) : Bool := decide (tget 0 x.sent cls < tget 0 x.granted cls)

/-- The frame that a slot sends next: the next offset of its transfer, which ends with its 4 KiB (R238). -/
def inSlot (x : Link) : Option (Frame × List Frame) :=
  if hasCredit x x.slotCls && decide (x.slotOff % 16 ≠ 0) then
    takeFrame (fun f => clsOf f == x.slotCls && frameChan f == x.slotChan && frameOff f == x.slotOff) x.queue
  else none

/-- The first frame of a new slot: of the other class where one is ready (R238). -/
def newSlot (x : Link) : Option (Frame × List Frame) :=
  let of_ := fun (cls : Nat) => if hasCredit x cls then takeFrame (fun f => clsOf f == cls) x.queue else none
  match of_ (1 - x.slotCls) with
  | some y => some y
  | none => of_ x.slotCls

/-- The next data frame of a port: within its slot, or in a new one (R238). -/
def nextData (x : Link) : Option (Frame × List Frame) := if x.slotLeft > 0 then inSlot x else newSlot x

/-- Whether a frame may go while the port drains or is DRAINED: link management and ERROR only (R244). -/
def admitted (x : Link) (f : Frame) : Bool :=
  if x.st = .active ∧ x.drain = false then true
  else match f with
    | .msg .quiesce | .msg .quiesceOk | .msg .quiesceRefuse | .error _ _ _ _ _ => true
    | _ => false

/-- The MSG or ERROR frame, and the data frame, that a port could send. -/
def readyMsg (now : Nat) (x : Link) : Option (Frame × List Frame) :=
  if x.unacked.length < 2048 ∧ hasCredit x 2 = true then takeMsg (fun f => admitted x f && (!isError f || errorMay now x)) x.queue else none
def readyData (x : Link) : Option (Frame × List Frame) :=
  if x.unacked.length < 2048 ∧ x.st = .active ∧ x.drain = false then nextData x else none

/-- A place of the present slot is used up by a frame that is none of its transfer's (R238). -/
def fillSlot (x : Link) : Link := if (inSlot x).isNone then { x with slotLeft := x.slotLeft - 1 } else x

/-- Whether the waiting CTRL messages go in the place of a data frame at a GTC: 255 frames have gone since the last CTRL frame
(R238 item 5), or one of them is due: an ACK of 64 accepted frames or after 200 ns (R240), a CREDIT of 32 freed bodies or after
500 ns (R237). DEDUCED (log entry 27): the deadlines of R237 and R240 stand above the batching of R238. -/
def ctrlDue (now : Nat) (x : Link) : Bool :=
  x.ctrl != [] && (decide (x.sinceCtrl ≥ 255) || decide (x.accepted ≥ 64) ||
    decide (0 < x.accepted ∧ now ≥ x.acceptedFrom + 200) || [0, 1, 2].any (fun c => decide (uncredited x c ≥ 32)) ||
    ([0, 1, 2].any (fun c => decide (0 < uncredited x c)) && decide (now ≥ x.creditFrom + 500)))

/-- One frame boundary of a transmitter (R238): a NAK, a replay, MSG and ERROR frames, data in slots, CTRL messages (in the
place of a data frame only when `ctrlDue` says so), else IDLE. DESIGN CHOICE (log entry 27): a MSG
frame that goes while the slot's transfer has frames left takes none of the slot's places. -/
def transmit (l : Nat) (s : State) : State :=
  let x := getLink s l
  if !framing x then s
  else if x.nakDue then
    emit (.frame l (ctrlFrame [2 + x.rxSeq * 2 ^ 8])) (modLink l (fun x => { x with nakDue := false, sinceCtrl := x.sinceCtrl + 1 }) s)
  else match x.replay with
    | (n, f) :: r =>
      emit (.frame l (seqFrame n f)) (modLink l (fun x => { x with replay := r, sinceCtrl := x.sinceCtrl + 1 }) s)
    | [] => match readyMsg s.clk.gtc x with
      | some (f, q) => sendFrame l f q (modLink l fillSlot s)
      | none => match readyData x with
        | some (f, q) =>
          if ctrlDue s.clk.gtc x then sendCtrl l s
          else sendFrame l f q (modLink l (fun x => { x with
            slotCls := clsOf f, slotLeft := if x.slotLeft > 0 then x.slotLeft - 1 else 15, slotChan := frameChan f
            slotOff := frameOff f + 1 }) s)
        | none =>
          let s := modLink l fillSlot s
          if x.ctrl ≠ [] then sendCtrl l s
          else emit (.frame l idleFrame) (modLink l (fun x => { x with sinceCtrl := x.sinceCtrl + 1 }) s)

/-- A drained port becomes DRAINED once both ends agree and the retry buffer is empty (R244, Table 12.5). -/
def drainDoneCheck (l : Nat) (s : State) : State :=
  let x := getLink s l
  if x.st = .active ∧ x.drain = true ∧ x.drainOk = true ∧ x.unacked = [] then
    land (fun k => k == .link l true) (fun r s => finishOk r 7 s)
      (modLink l (fun x => { x with st := .drained, drain := false, drainOk := false }) (chansLost l s))
  else s

/-- Frames from a SEQ on. -/
def fromSeq (n : Nat) : List (Nat × Frame) → List (Nat × Frame)
  | [] => []
  | (k, f) :: r => if k = n then (k, f) :: r else fromSeq n r

/-- An ACK (R240, R241). -/
def ackOp (l seq : Nat) (s : State) : State :=
  let x := getLink s l
  if !framing x then s
  else match fromSeq seq x.unacked with
    | [] => violation l 0 1 seq 0 0 s
    | _ :: rest =>
      drainDoneCheck l (modLink l (fun x => { x with
        unacked := rest, stuck := 0, row := 0, progressGtc := s.clk.gtc
        replay := x.replay.filter (fun y => rest.any (fun z => z.1 == y.1)) }) s)

/-- A NAK (R241). -/
def nakOp (l seq : Nat) (s : State) : State :=
  let x := getLink s l
  if !framing x then s
  else match fromSeq seq x.unacked with
    | [] => violation l 0 1 seq 0 0 s
    | fs => replayFrom l fs s

/-- The replay timeout (R241). -/
def retryOp (l : Nat) (s : State) : State :=
  let x := getLink s l
  if framing x ∧ x.unacked ≠ [] ∧ s.clk.gtc ≥ x.progressGtc + max 1 x.retryTo * 100 then replayFrom l x.unacked s else s

/-- Uncorrectable frames of a port count in LINK_FEC_UE and in its copy in the performance block. -/
def countFecUe (l n : Nat) (s : State) : State :=
  let s := modLink l (fun x => { x with fecUe := satAdd 0xFFFFFFFF x.fecUe n }) s
  { s with patina := { s.patina with live := { s.patina.live with
    link := tmod {} s.patina.live.link l (fun y => { y with fecUe := cnt y.fecUe n }) } } }

/-- A received frame fails, or comes ahead of the expected SEQ (R241): one NAK per gap, which LINK_RETRIES counts (Table
12.7a). A failed CRC and a reserved TYPE count in LINK_FEC_UE; an uncorrectable codeword is counted there by the decoder's
window (R234). -/
def badFrame (l : Nat) (k : FrameFail) (s : State) : State :=
  let x := getLink s l
  if !framing x then s
  else
    let s := if k = .crc ∨ k = .reservedType then countFecUe l 1 s else s
    let s := violRecord l (errorEntry 0 0 x.rxSeq 0 0) s
    if x.nakSent then s else modLink l (fun x => { x with
      nakSent := true, nakDue := true, replays := satAdd 0xFFFFFFFF x.replays 1 }) s

/-- A sequenced frame arrives intact (R237, R240, R251): accepted, and its body handed on, or answered. -/
def acceptFrame (l seq cls typ chan gen : Nat) (f : State → State) (s : State) : State :=
  let x := getLink s l
  if !framing x then s
  else if seq = x.rxSeq then
    let ovf := decide (tget 0 x.received cls ≥ (if tget 0 x.given cls = 0 then clsBodies cls else tget 0 x.given cls))
    let s := modLink l (fun x => { x with
      rxSeq := (x.rxSeq + 1) % 4096, nakSent := false
      accepted := x.accepted + 1, acceptedFrom := if x.accepted = 0 then s.clk.gtc else x.acceptedFrom
      received := tset 0 x.received cls (tget 0 x.received cls + 1) }) s
    let s := queueCtrl l .ack { s with patina := { s.patina with live := { s.patina.live with
      link := tmod {} s.patina.live.link l (fun y => { y with rx := cnt y.rx 256 }) } } }
    if ovf then violation l 2 typ seq chan gen s else f s
  else if (x.rxSeq + 4096 - seq) % 4096 ≤ 2048 then
    violation l 0 typ seq chan gen (queueCtrl l .ack s)
  else badFrame l .ahead s

/-- A MSG or ERROR frame: its body is freed once it has been read. An entry after the first of its body is read without another
SEQ or credit (R235); its number stands above the 12 bits of `seq`. -/
def acceptMsg (l seq typ chan gen : Nat) (f : State → State) (s : State) : State :=
  if seq / 4096 = 0 then
    acceptFrame l seq 2 typ chan gen (fun s => freeBody l 2 (f (modLink l (fun x => { x with msgSeq := some seq }) s)))
      (modLink l (fun x => { x with msgSeq := none }) s)
  else if framing (getLink s l) && (getLink s l).msgSeq == some (seq % 4096) then f s else s

/-- The credits of a full buffer (R237), and those that a TRAIN frame gives. -/
def fullCredits : List Nat := [1920, 1920, 256]
def creditTable (cs : List Nat) : Tbl Nat := (List.range 3).foldl (fun t i => tset 0 t i (cs.getD i 0)) []

/-- The TRAIN frame of PARAM (Table 12.4): FAB_ID, link number, protocol version, credits and next SEQ, in a body whose layout is not
given. -/
def sendTrain (l : Nat) (s : State) : State :=
  let x := getLink s l
  let cs := if x.st = .param then fullCredits else (List.range 3).map (fun i => tget 0 x.given i % 65536)
  emit (.frame l (frameBytes (2 + linkCode x.st * 2 ^ 8) (Config.trainBody ([s.ident.fabId, l, 1] ++ cs ++ [x.txSeq])))) s

/-- Credits, SEQ and peer of a port whose training ends (R237, R242): at first training those of the partner's TRAIN frame. -/
def toActive (l peerId peerLink : Nat) (fresh : Bool) (s : State) : State :=
  let x := getLink s l
  let s := if x.unacked = [] then s else countReplay l s
  modLink l (fun x => { x with
    st := .active, phase := 0, calLive := true, peerId := peerId % 2 ^ 48, peerLink := peerLink % 32
    granted := if fresh then creditTable (if x.peerCredits = [] then fullCredits else x.peerCredits) else x.granted
    given := if fresh then creditTable fullCredits else x.given
    credited := if fresh then creditTable fullCredits else x.credited
    sent := if fresh then [] else x.sent, received := if fresh then [] else x.received
    rxSeq := if fresh then x.peerSeq % 4096 else x.rxSeq
    replay := x.unacked, progressGtc := s.clk.gtc, nakSent := false, nakDue := false }) s

/-- Training is over: ACTIVE, the calibration (R243), and what waited. -/
def trained (l peerId peerLink : Nat) (s : State) : State :=
  let x := getLink s l
  let fresh := decide (x.st = .param)
  let s := toActive l peerId peerLink fresh s
  let s := if x.mode = 0 then s else asyncCommit (.linkCal l) s
  let s := land (fun k => k == .link l false) (fun r s => if s.log.modFatal then finishFatal r s else finishOk r 5 s) s
  laserOnCheck (l / 8) s

/-- A training state has done its work (R242, Table 12.4). -/
def trainNext (l peerId peerLink version : Nat) (s : State) : State :=
  let x := getLink s l
  let last := fun (s : State) => if version = 1 then trained l peerId peerLink s else linkFailed l 4 s
  match x.st with
  | .optical => modLink l (fun x => { x with st := .equalise, phase := 2 }) s
  | .equalise => modLink l (fun x => { x with st := .fecLock, phase := 3 }) s
  | .fecLock => sendTrain l (modLink l (fun x => { x with st := .param, phase := 4 }) s)
  | .param => last s
  | .retrain | .recal =>
    if x.phase < 4 then
      let s := modLink l (fun x => { x with phase := x.phase + 1 }) s
      if x.phase = 3 then sendTrain l s else s
    else last s
  | _ => s

/-- A training state exceeds its limit (R242). -/
def trainTimeout (l : Nat) (s : State) : State :=
  match (getLink s l).st with
  | .retrain => enterRetrain l s
  | .optical => linkFailed l 1 s
  | .equalise => linkFailed l 2 s
  | .fecLock => linkFailed l 3 s
  | .param => linkFailed l 4 s
  | .recal => linkFailed l 8 s
  | _ => s

/-- A TRAIN frame (R242, Table 12.7a). -/
def trainFrame (l peerId peerLink version : Nat) (credits : List Nat) (seq : Nat) (s : State) : State :=
  let x := getLink s l
  match x.st with
  | .active => enterRetrain l (violRecord l (errorEntry 0 2 seq 0 0) s)
  | .drained => modLink l (fun x => { x with st := .recal, phase := 1, mode := 2 }) s
  | .param | .retrain | .recal =>
    if x.phase < 4 then s
    else if version ≠ 1 then linkFailed l 4 s
    else modLink l (fun x => { x with
      peerId := peerId % 2 ^ 48, peerLink := peerLink % 32, peerCredits := credits, peerSeq := seq % 4096 }) s
  | _ => s

/-- QUIESCE (R244). -/
def quiesceOp (l : Nat) (s : State) : State :=
  if routesOver s l then queueFrame l (.msg .quiesceRefuse) s
  else modLink l (fun x => { x with drain := true, drainOk := true, drainGtc := s.clk.gtc })
    (queueFrame l (.msg .quiesceOk) s)

/-- A drain ends without DRAINED: the link stays ACTIVE (Table 12.5). -/
def drainEnds (l : Nat) (st : Status) (s : State) : State :=
  let s := modLink l (fun x => { x with drain := false, drainOk := false }) s
  land (fun k => k == .link l true) (fun r s =>
    if st = .busy then finish r st (linkCode (getLink s l).st) noRec s else finishErrR r st 7 l 5 (linkCode (getLink s l).st) s) s

/-- Difference of two stamps modulo 2^48, signed (R249). -/
def stampDiff (a b : Nat) : Int := signed 48 ((a + 2 ^ 48 - b % 2 ^ 48) % 2 ^ 48)

/-- Mean of a list of offsets, rounded toward minus infinity. -/
def meanOf (l : List Int) : Int := (l.foldl (· + ·) 0).fdiv (max 1 l.length)

/-- Largest minus smallest. -/
def spreadOf : List Int → Int
  | [] => 0
  | x :: r => r.foldl max x - r.foldl min x

/-- A time exchange with the parent is complete (R249, R250). While ALIGNED the GTC is slewed as time passes, by at most the
3 ns that 200 ppm allow in 16 µs. -/
def timeOp (l t2 t3 frac : Nat) (s : State) : State :=
  let t4 := stamp s frac
  if s.fab.parent ≠ some l then s
  else
    let ofs := (stampDiff t2 (getLink s l).t1 - stampDiff t4 t3).fdiv 2
    let os := (ofs :: s.fab.offsets).take 16
    let mean := meanOf os
    let s := { s with fab := { s.fab with offsets := os, offset := mean } }
    match s.clk.timeState with
    | 1 =>
      if os.length = 16 ∧ spreadOf os ≤ 32 then
        let step := mean.fdiv 16
        let s := gtcAdd step s
        let s := logDeferred 0x0607 (some l) none [(0, unsigned 64 step)] s
        setTime 2 { s with fab := { s.fab with steps := satAdd 0xFFF s.fab.steps 1, offsets := [] } }
      else s
    | 2 =>
      if mean > 800 ∨ mean < -800 then setTime 1 { s with fab := { s.fab with offsets := [] } }
      else { s with fab := { s.fab with slew := max (-3) (min 3 (mean.fdiv 16)) } }
    | _ => s

/-- A LASER_ONLINE in progress ends with FAULT: its module is gone or has failed (Table 12.6); `record` is the module's, where one was
written (R385). -/
def noLaserOn (n : Nat) (record : Option Nat) (s : State) : State :=
  land (fun k => k == .laserOn n) (fun r s => finishRecR r .fault record 8 n 0 (getLaser s n).st s) s

/-- A record of a laser module: the output of a wavelength (Table 19.3). -/
def laserRec (code n : Nat) (outPwr : BitVec 8) (wavelength : Nat) (s : State) : State × Option Nat :=
  logRec (mkRec s .deferred code (some n) none [(0, unsigned 16 outPwr.toInt), (2, wavelength)]) s

/-- A laser module is removed; where links of it run, they go through RETRAIN to FAILED (R245). -/
def laserGone (n : Nat) (s : State) : State :=
  if (getLaser s n).st = 0 then s else
  let ls := (laserLinks n).filter (fun l => (getLink s l).st != .noLight && (getLink s l).st != .down)
  let (s, i) := if ls = [] then (s, none) else laserRec 0x0606 n (getLaser s n).outPwr 0 s
  let s := noLaserOn n i (modLaser n (fun x => { x with st := 0 }) s)
  ls.foldl (fun s l => if (getLink s l).st = .failed then s
    else linkFailed l 6 (modLink l (fun x => { x with
      st := .retrain, mode := 0, retrains := satAdd 0xFFFF x.retrains 1 }) s)) s

/-- The links of a module go to NO_LIGHT (R245). -/
def noLight (n : Nat) (record : Option Nat) (s : State) : State :=
  (laserLinks n).foldl (fun s l =>
    let wasParent := (getLink s l).parent
    let s := endLinkCmds l 10 record (modLink l (fun x => { x with st := .noLight }) (linkReset l s))
    if wasParent then chooseRoot s else s) s

/-- A laser module has lost output, or more than 6 dB of a wavelength (R245): its record, FAILED, and its links lose light. -/
def laserFails (n wavelength : Nat) (outPwr : BitVec 8) (s : State) : State :=
  let (s, i) := laserRec 0x0605 n outPwr wavelength s
  noLaserOn n i (noLight n i (modLaser n (fun x => { x with st := 5, outPwr := outPwr }) s))

/-- The latch of a bay opens (R408). With the indicator not lit (Table 21.6) this is a removal. With it lit the output goes off all the
same: a DEGRADED module loses its output, and one that is LOCKING cannot lock (DEDUCED, log entry 29). -/
def latchOpens (n : Nat) (s : State) : State :=
  match (getLaser s n).st with
  | 1 => laserGone n s
  | 2 => laserFails n 0 (getLaser s n).outPwr s
  | 3 => noLaserOn n none (modLaser n (fun x => { x with st := 5 }) s)
  | _ => s

/-- A module's wavelengths lock (R245): ONLINE, and its links without light train, in seeded mode where they can. -/
def laserLocked (n : Nat) (s : State) : State :=
  if (getLaser s n).st ≠ 3 then s
  else
    let s := modLaser n (fun x => { x with st := 1, outPwr := 0 }) s
    (laserLinks n).foldl (fun s l => if [.noLight, .down, .failed].contains (getLink s l).st then
      startTraining l (if s.flash.linkCal.contains l then 1 else 2) s else s) s

/-- LINK_TRAIN (R244). -/
def execLinkTrain (h : CmdHdr) (link : Nat) (s : State) : Host.Outcome State Fault Refusal :=
  .next (command h { op := 0x30, fields := [(8, 1, link)], params := decide (link < 32), claims := [.link link], modFatal := true } (fun r s =>
    if !litLaser s (link / 8) then finishErrR r .noResource 7 link 0 (linkCode (getLink s link).st) s
    else if routesOver s link then finish r .busy 0 noRec s
    else
      let wasParent := (getLink s link).parent
      let s := noteCause 6 (linkReset link s)
      let s := if wasParent then chooseRoot s else s
      launch r [.link link] (.link link false) (startTraining link (bestMode s link) s)) s)

/-- LINK_RECAL (R244). -/
def execLinkRecal (h : CmdHdr) (link : Nat) (s : State) : Host.Outcome State Fault Refusal :=
  .next (command h { op := 0x31, fields := [(8, 1, link)], params := decide (link < 32), claims := [.link link] } (fun r s =>
    if (getLink s link).st ≠ .drained then finishErrR r .notDrained 7 link 0 (linkCode (getLink s link).st) s
    else launch r [.link link] (.link link false)
      (sendTrain link (modLink link (fun x => { x with st := .recal, phase := 1, mode := 2 }) s))) s)

/-- LINK_DRAIN (R244). -/
def execLinkDrain (h : CmdHdr) (link : Nat) (s : State) : Host.Outcome State Fault Refusal :=
  .next (command h { op := 0x32, fields := [(8, 1, link)], params := decide (link < 32) && (getLink s link).st == .active, claims := [.link link] } (fun r s =>
    if routesOver s link then finish r .busy 0 noRec s
    else launch r [.link link] (.link link true) (modLink link (fun x => { x with drain := true, drainGtc := s.clk.gtc })
      (queueFrame link (.msg .quiesce) s))) s)

/-- LASER_OFFLINE (R245). -/
def execLaserOffline (h : CmdHdr) (n : Nat) (s : State) : Host.Outcome State Fault Refusal :=
  .next (command h { op := 0x92, fields := [(8, 1, n)], params := decide (n < 4), claims := .laser n :: (laserLinks n).map .link } (fun r s =>
    match (laserLinks n).find? (fun l => !([LinkSt.down, .drained, .failed, .noLight].contains (getLink s l).st)) with
    | some l => finishErrR r .notDrained 7 l 0 (getLaser s n).st s
    | none => finishOk r 4 (modLaser n (fun x => { x with st := 4 }) (noLight n none s))) s)

/-- LASER_ONLINE (R245). -/
def execLaserOnline (h : CmdHdr) (n : Nat) (recognised : Bool) (s : State) : Host.Outcome State Fault Refusal :=
  .next (command h {
    op := 0x93, fields := [(8, 1, n)], params := decide (n < 4 ∧ ((getLaser s n).st = 4 ∨ (getLaser s n).st = 0))
    claims := .laser n :: (laserLinks n).map .link } (fun r s =>
    let st := (getLaser s n).st
    if recognised then launch r (.laser n :: (laserLinks n).map .link) (.laserOn n) (modLaser n (fun x => { x with st := 3 }) s)
    else
      let st' := if st = 0 then 0 else 5
      finishErrR r .fault 8 n 0 st' (modLaser n (fun x => { x with st := st' }) s)) s)

/-- FRAME_TRANSMIT (R238). -/
def execFrameTransmit (l : Fin 32) (s : State) : Host.Outcome State Fault Refusal := .next (transmit l s)

/-- ACK (R240). -/
def execAck (l : Fin 32) (seq : Nat) (s : State) : Host.Outcome State Fault Refusal := .next (announce s (ackOp l (seq % 4096) s))

/-- NAK (R241). -/
def execNak (l : Fin 32) (seq : Nat) (s : State) : Host.Outcome State Fault Refusal := .next (announce s (nakOp l (seq % 4096) s))

/-- CREDIT (R237): credits granted since training, modulo 2^16. -/
def execCredit (l : Fin 32) (cls granted : Nat) (s : State) : Host.Outcome State Fault Refusal :=
  .next (if framing (getLink s l) && decide (cls < 3) then modLink l (fun x =>
    let old := tget 0 x.granted cls
    let d := (granted + 65536 - old % 65536) % 65536
    { x with granted := tset 0 x.granted cls (if d < 32768 then old + d else old) }) s else s)

/-- TIME_REQ (R249): the parent answers with the stamps of the arrival and of its reply's departure. -/
def execTimeReq (l : Fin 32) (t1 t2 t3 : Nat) (s : State) : Host.Outcome State Fault Refusal :=
  .next (if framing (getLink s l) then queueCtrl l (.timeResp (stamp s t2) (t3 % 16)) s else s)

/-- TIME_RESP (R249): both messages of a response have come. -/
def execTimeResp (l : Fin 32) (t2 t3 t4 : Nat) (s : State) : Host.Outcome State Fault Refusal :=
  .next (announce s (if framing (getLink s l) then timeOp l t2 t3 t4 s else s))

/-- ROOT (R246). -/
def execRoot (l : Fin 32) (hops prio id : Nat) (s : State) : Host.Outcome State Fault Refusal :=
  .next (announce s (if framing (getLink s l) then
    chooseRoot (modLink l (fun x => { x with root := some (hops % 16, prio % 16, id % 2 ^ 48) }) s) else s))

/-- TRAIN (R242). -/
def execTrain (l : Fin 32) (peerId peerLink version : Nat) (start : TrainStart) (s : State) :
    Host.Outcome State Fault Refusal := .next (announce s (trainFrame l peerId peerLink version start.credits start.seq s))

/-- RED (R256). -/
def execRed (l : Fin 32) (seq chan gen offset : Nat) (body : List Byte) (s : State) : Host.Outcome State Fault Refusal :=
  .next (announce s (acceptFrame l (seq % 4096) 0 3 chan gen (redBody l seq (chan % 1024) (gen % 65536) offset (fit 256 body)) s))

/-- PARAM (R266). -/
def execParam (l : Fin 32) (seq chan gen offset : Nat) (body : List Byte) (s : State) : Host.Outcome State Fault Refusal :=
  .next (announce s (acceptFrame l (seq % 4096) 1 4 chan gen (paramBody l seq (chan % 1024) (gen % 65536) offset (fit 256 body)) s))

/-- QUIESCE (R244). -/
def execQuiesce (l : Fin 32) (seq : Nat) (s : State) : Host.Outcome State Fault Refusal :=
  .next (announce s (acceptMsg l seq 5 0 0 (quiesceOp l) s))

/-- QUIESCE_OK (R244). -/
def execQuiesceOk (l : Fin 32) (seq : Nat) (s : State) : Host.Outcome State Fault Refusal :=
  .next (announce s (acceptMsg l seq 5 0 0 (fun s =>
    if (getLink s l).drain then drainDoneCheck l (modLink l (fun x => { x with drainOk := true }) s) else s) s))

/-- QUIESCE_REFUSE (R244). -/
def execQuiesceRefuse (l : Fin 32) (seq : Nat) (s : State) : Host.Outcome State Fault Refusal :=
  .next (announce s (acceptMsg l seq 5 0 0 (fun s => if (getLink s l).drain then drainEnds l .busy s else s) s))

/-- FAIL (R269). -/
def execFail (l : Fin 32) (seq chan gen cause rank : Nat) (s : State) : Host.Outcome State Fault Refusal :=
  .next (announce s (acceptMsg l seq 5 chan gen (failMsg l seq (chan % 1024) (gen % 65536) (rank % 4096)) s))

/-- STEP_FAIL (R269). -/
def execStepFail (l : Fin 32) (seq chan gen cause rank : Nat) (s : State) : Host.Outcome State Fault Refusal :=
  .next (announce s (acceptMsg l seq 5 chan gen (failMsg l seq (chan % 1024) (gen % 65536) (rank % 4096)) s))

/-- NAN_REPORT (R262). -/
def execNanReport (l : Fin 32) (seq chan : Nat) (valid : Bool) (rank element : Nat) (s : State) :
    Host.Outcome State Fault Refusal :=
  .next (acceptMsg l seq 5 chan 0 (nanMsg l seq (chan % 1024) (valid, rank % 4096, element % 2 ^ 28)) s)

/-- DRAIN (R272). -/
def execDrain (l : Fin 32) (seq chan gen : Nat) (s : State) : Host.Outcome State Fault Refusal :=
  .next (announce s (acceptMsg l seq 5 chan gen (drainMsg l seq (chan % 1024) (gen % 65536)) s))

/-- DRAIN_DONE (R272). -/
def execDrainDone (l : Fin 32) (seq chan gen : Nat) (s : State) : Host.Outcome State Fault Refusal :=
  .next (announce s (acceptMsg l seq 5 chan gen (drainDoneMsg l seq (chan % 1024) (gen % 65536)) s))

/-- CAST_AT (R274). -/
def execCastAt (l : Fin 32) (seq chan atGtc : Nat) (s : State) : Host.Outcome State Fault Refusal :=
  .next (acceptMsg l seq 5 chan 0 (castAtMsg l seq (chan % 1024) (atGtc % 2 ^ 46)) s)

/-- ERROR (R251): a frame gives one record LINK_PEER_ERROR, with its first entry, and nothing else. -/
def execError (l : Fin 32) (seq : Nat) (entry : W64) (s : State) : Host.Outcome State Fault Refusal :=
  .next (if seq / 4096 ≠ 0 then s else acceptMsg l seq 6 0 0 (logDeferred 0x0602 (some l) none [(0, entry.toNat), (8, 1)]) s)

/-- RETRY_TIMEOUT (R241). -/
def execRetryTimeout (l : Fin 32) (s : State) : Host.Outcome State Fault Refusal := .next (announce s (retryOp l s))

/-- TRAINING_STATE_COMPLETE (R242). -/
def execTrainingStateComplete (l : Fin 32) (peerId peerLink version : Nat) (s : State) : Host.Outcome State Fault Refusal :=
  .next (announce s (trainNext l peerId peerLink version s))

/-- TRAINING_STATE_TIMEOUT (R242). -/
def execTrainingStateTimeout (l : Fin 32) (s : State) : Host.Outcome State Fault Refusal := .next (announce s (trainTimeout l s))

/-- LOSS_OF_LOCK (R242). -/
def execLossOfLock (l : Fin 32) (s : State) : Host.Outcome State Fault Refusal :=
  .next (announce s (if (getLink s l).st = .active then enterRetrain l s else s))

/-- FEC_WINDOW (R234). The ports have no power in STANDBY and AUX (R360). -/
def execFecWindow (l : Fin 32) (uncorrectable corrected rateExp : Nat) (s : State) : Host.Outcome State Fault Refusal :=
  .next (let s0 := s
    let s := modLink l (fun x => { x with
      fecCe := cnt x.fecCe corrected, recalAdvise := x.recalAdvise || decide (x.recalSer > rateExp) }) s
    if s.pwr.st = .standby ∨ s.pwr.st = .aux then s0 else countFecUe l uncorrectable s)

/-- ROOT_ADVERTISEMENT (R246, R247): every ACTIVE link carries the best root known. DESIGN CHOICE (log entry 28): one that knows
none advertises ROOT_PRIO 0. -/
def execRootAdvertisement (s : State) : Host.Outcome State Fault Refusal :=
  .next (announce s (let s := chooseRoot s
    (List.range 32).foldl (fun s l => if (getLink s l).st = .active then queueCtrl l .root s else s) s))

/-- TIME_EXCHANGE (R249): the child sends TIME_REQ on its parent link, stamped as it goes. -/
def execTimeExchange (t1 : Nat) (s : State) : Host.Outcome State Fault Refusal :=
  .next (match s.fab.parent with
    | some l => if framing (getLink s l) then queueCtrl l (.timeReq (t1 % 16)) s else s
    | none => s)

/-- PARENT_RESELECTION (R248). -/
def execParentReselection (s : State) : Host.Outcome State Fault Refusal := .next (announce s (chooseRoot s))

/-- HOLDOVER_EXPIRY (R250). -/
def execHoldoverExpiry (s : State) : Host.Outcome State Fault Refusal :=
  .next (announce s (if s.clk.timeState = 3 ∧ s.clk.gtc ≥ s.fab.lostGtc + s.fab.holdoverMs * 1000000 then chooseRoot (setTime 0 s) else s))

/-- LASER_DEGRADED (R245). -/
def execLaserDegraded (n : Fin 4) (wavelength : Fin 8) (outPwr : BitVec 8) (s : State) : Host.Outcome State Fault Refusal :=
  .next (announce s (if litLaser s n then
    logDeferred 0x0604 (some n) none [(0, unsigned 16 outPwr.toInt), (2, wavelength)]
      (modLaser n (fun x => { x with st := 2, outPwr := outPwr }) s) else s))

/-- LASER_FAILED (R245). -/
def execLaserFailed (n : Fin 4) (wavelength : Fin 8) (outPwr : BitVec 8) (s : State) : Host.Outcome State Fault Refusal :=
  .next (announce s (if litLaser s n then laserFails n wavelength outPwr s else s))

/-- LASER_REMOVED (R245). -/
def execLaserRemoved (n : Fin 4) (s : State) : Host.Outcome State Fault Refusal := .next (announce s (laserGone n s))

/-- LATCH_OPENED (R408): the output goes off; with the bay indicator not lit (Table 21.6) this is a removal. -/
def execLatchOpened (n : Fin 4) (s : State) : Host.Outcome State Fault Refusal :=
  .next (announce s (latchOpens n s))

/-- WAVELENGTH_LOCK (R245). -/
def execWavelengthLock (n : Fin 4) (s : State) : Host.Outcome State Fault Refusal := .next (announce s (laserLocked n s))

/-- WAVELENGTH_LOCK_TIMEOUT (R245). -/
def execWavelengthLockTimeout (n : Fin 4) (absent : Bool) (s : State) : Host.Outcome State Fault Refusal :=
  .next (announce s (if (getLaser s n).st ≠ 3 then s
    else noLaserOn n none (modLaser n (fun x => { x with st := if absent then 0 else 5 }) s)))

/-- LINK_DRAIN_TIMEOUT (R244). -/
def execLinkDrainTimeout (l : Fin 32) (s : State) : Host.Outcome State Fault Refusal :=
  .next (announce s (let x := getLink s l
    if x.drain = true ∧ s.clk.gtc ≥ x.drainGtc + 1000000 then drainEnds l .timeout s else s))

/-- CTRL_UNKNOWN_KIND (R236, R251). -/
def execCtrlUnknownKind (l : Fin 32) (s : State) : Host.Outcome State Fault Refusal :=
  .next (if framing (getLink s l) then violation l 0 1 0 0 0 s else s)

/-- MSG_UNKNOWN (R251, R270): an unknown kind, or a COUNT of 0 or above 32 of a MSG or an ERROR frame. Reserved bits that are not 0
are ignored, and only recorded (Tables 12.7a and 19.7). -/
def execMsgUnknown (l : Fin 32) (seq chan : Nat) (fault : MsgFault) (s : State) : Host.Outcome State Fault Refusal :=
  .next (match fault with
    | .reserved typ => if framing (getLink s l) then violRecord l (errorEntry 0 typ seq chan 0) s else s
    | .kind => acceptMsg l seq 5 chan 0 (violation l 3 5 seq chan 0) s
    | .count => acceptMsg l seq 5 chan 0 (violation l 3 5 seq 0 0) s
    | .errorCount => acceptMsg l seq 6 chan 0 (violation l 3 6 seq 0 0) s)

end Sys2Proof.Machine
end

