-- ==== Sys2Proof/Machine/Clock.lean ====
section
/-! DEFINITION. Clock regions, the sync pulse, frequency changes and holds (chapter 02 of spec/). -/

namespace Sys2Proof.Machine

/-- Whether a region belongs to the arithmetic clock domain, and whether it is a port region (Table 2.1). -/
def arithRegion (r : Nat) : Bool := decide (r < 38)
def portRegion (r : Nat) : Bool := decide (34 ≤ r ∧ r < 38)

/-- Partitions that use a region (Table 2.2): the owner of a band, those with bands on a compute die, those with bands served by a
plinth die and, for its core region, with a region of memory on its devices, and all for the regions of the I/O die. DEDUCED (log entry 33): a partition uses the application cores, the control
cores and the endpoint as soon as it has bands. -/
def regionParts (s : State) (r : Nat) : List Nat :=
  let has := fun (f : Nat → Bool) => [0, 1, 2, 3].filter (fun p => (List.range 32).any (fun b => f b && partOf s b == p))
  if r < 32 then has (fun b => b == r)
  else if r < 34 then has (fun b => b / 16 == r - 32)
  else if r < 38 then has (fun b => plinthOf b == r - 34)
  else if r < 42 then [0, 1, 2, 3].filter (fun p => (bandsOf s p).any (fun b => plinthOf b == r - 38) || regionOnDie s p (r - 38))
  else if r = 42 then [0, 1, 2, 3]
  else has (fun _ => true)

/-- Note the region of a breach, and change the sticky bits (CLK_MON_STS). -/
def stickyClk (r : Nat) (f : Clock → Clock) (s : State) : State := { s with clk := { f s.clk with stsRegion := r } }

/-- Context of a CLOCK record (Table 19.3). -/
def clkCtx (s : State) (n v : Nat) : List (Nat × Nat) := [(0, min n 255), (2, v % 65536), (8, s.clk.mcc)]

/-- A job-fatal clock error against the partitions that use its regions; with none of them it is deferred. -/
def clockFatal (code r : Nat) (ps : List Nat) (ctx : List (Nat × Nat)) (s : State) : State :=
  if ps = [] then logDeferred code (some r) none ctx s
  else ps.foldl (fun s p => jobFatal p code (some r) ctx .otherFatal none s) s

/-- The breaches among the deviations found of one kind (R37). -/
def breachesIn (limit : Nat) (found : List (Nat × Nat)) : List (Nat × Nat) :=
  found.filter (fun x => decide (x.1 < 46 ∧ x.2 > limit))

/-- The responses to the breaches of one kind (R37, Table 2.2); `runs` counts the consecutive intervals of each region with a
breach of either kind, this one included. -/
def breaches (code : Nat) (found : List (Nat × Nat)) (runs : Tbl Nat) (s : State) : State :=
  found.foldl (fun s x =>
    let n := tget 0 runs x.1
    let ctx := clkCtx s n x.2
    if n ≥ 3 && arithRegion x.1 then clockFatal code x.1 (regionParts s x.1) ctx s
    else logDeferred code (some x.1) none ctx s) s

/-- Skew at one crossing (Table 2.2), in 1/64 cycle. DESIGN CHOICE (log entry 33): the spec does not say which of the two
regions UNIT of the record and REGION of CLK_MON_STS name; the model takes the first of the finding. -/
def skewFound (s : State) (x : Nat × Nat × Nat) : State :=
  let (a, b, v) := x
  if v ≥ 24 then
    let ps := regionParts s a
    clockFatal 0x0104 a (ps ++ (regionParts s b).filter (fun p => !ps.contains p)) (clkCtx s 0 v)
      (stickyClk a (fun c => { c with stsSkewFail := true }) s)
  else if v ≥ 16 then
    logCorrected 0x0103 (some a) none (clkCtx s 0 v)
      (stickyClk a (fun c => { c with stsSkewCorr := true, realign := c.realign ++ [(a, b)] }) s)
  else s

/-- A count slip (R41). -/
def slipFound (s : State) (r : Nat) : State :=
  let s := stickyClk r (fun c => { c with stsSlip := true }) s
  if portRegion r then logDeferred 0x0106 (some r) none (clkCtx s 0 0) s
  else clockFatal 0x0106 r (regionParts s r) (clkCtx s 0 0) s

/-- MCC of the next sync pulse (R41). -/
def nextPulse (s : State) : Nat :=
  let t := roundUp s.clk.mcc 4096
  if s.clk.pulse = some t then t + 4096 else t

/-- Key of a region's copy of MCC, or of the JCC of a partition, in Clock.copies. -/
def copyKey (r : Nat) : Option (Fin 4) → Nat
  | none => 5 * r
  | some p => 5 * r + 1 + p

/-- A region's local copy of MCC, and of the JCC of a partition (R39, R41). -/
def localMcc (s : State) (r : Nat) : Nat := (s.clk.mcc + tget 0 s.clk.copies (copyKey r none)) % 2 ^ 64
def localJcc (s : State) (r : Nat) (p : Fin 4) : Nat := (jccOf s p + tget 0 s.clk.copies (copyKey r (some p))) % 2 ^ 48

/-- The copies of the arithmetic regions that have moved off. -/
def moveCopies (moved : List (Nat × Option (Fin 4) × Nat)) (t : Tbl Nat) : Tbl Nat :=
  (moved.filter (fun x => arithRegion x.1)).foldl (fun t x =>
    tmod 0 t (copyKey x.1 x.2.1) (fun v => (v + x.2.2) % (if x.2.1.isNone then 2 ^ 64 else 2 ^ 48))) t

/-- The pulse's values against every region's copies (R41): a region with a copy that differs has slipped, and its copies are
overwritten. -/
def compareCopies (s : State) : State :=
  let slipped := (List.range 38).filter (fun r => (List.range 5).any (fun i => tget 0 s.clk.copies (5 * r + i) != 0))
  slipped.foldl slipFound { s with clk := { s.clk with copies := [] } }

/-- What the monitors found in a sync interval (R37). -/
def monitored (found : MonFind) (s : State) : State :=
  let j := breachesIn (max 1 s.clk.jitterLimit.toNat) found.jitter
  let d := breachesIn (min 0x64 s.clk.dutyLimit.toNat) found.duty
  let runs := (j ++ d).foldl (fun t x => tset 0 t x.1 (tget 0 s.clk.breach x.1 + 1)) []
  let s := breaches 0x0102 d runs (breaches 0x0101 j runs s)
  let s := match j.getLast? with
    | some (r, _) => stickyClk r (fun c => { c with stsJitter := true }) s
    | none => s
  let s := match d.getLast? with
    | some (r, _) => stickyClk r (fun c => { c with stsDuty := true }) s
    | none => s
  found.skew.foldl skewFound { s with clk := { s.clk with breach := runs } }

/-- A sync pulse (R41, R42): the captures, the end of realignments, what the monitors found, and the comparison of copies. The
breaches of the interval before stand only where that interval's own pulse was taken (R37). -/
def syncOp (found : MonFind) (s : State) : State :=
  if s.clk.run ≠ .running then s
  else
    let s := advanceTo (nextPulse s) s
    if s.clk.run ≠ .running then s else
    let next := s.clk.pulse.map (· + 4096) == some s.clk.mcc
    let s := { s with clk := { s.clk with
      breach := if next then s.clk.breach else []
      pulse := some s.clk.mcc, syncMcc := s.clk.mcc, syncGtc := s.clk.gtc, realign := []
      copies := moveCopies found.slips s.clk.copies } }
    compareCopies (monitored found s)

/-- Whether a region's clock runs (R34, R39, Table 16.1): once its PLL reports lock, in IDLE those of the I/O die fabric, the control
cores and the endpoint, in STANDBY the last two, and during a PERST reset the control cores'. -/
def regionRuns (s : State) (r : Nat) : Bool :=
  if r = 44 then s.pwr.st != .aux && s.clk.coreLock
  else if r = 45 then s.pwr.st != .aux && s.clk.coreLock && !(s.pcie.perst || s.pcie.down)
  else if r = 42 then (s.pwr.st == .active || s.pwr.st == .idle) && s.clk.fastLock && !(s.pcie.perst || s.pcie.down)
  else s.pwr.st == .active && s.clk.fastLock && s.clk.run != .stopped

/-- A PLL loses lock (Table 2.2). -/
def unlockOp (r : Nat) (s : State) : State :=
  if !regionRuns s r then s
  else
    let s := stickyClk r (fun c => { c with stsUnlock := true }) s
    let i := s.log.head
    if r = 42 then
      (List.range 32).foldl (fun s l => if (getLink s l).st = .down then s else
          endLinkCmds l 0 (some i) (linkReset l s))
        (moduleFatal 0x0105 (some r) (clkCtx s 0 0) s)
    else clockFatal 0x0105 r (regionParts s r) (clkCtx s 0 0) s

/-- The SET_FREQ_LEVEL that waits for its change completes, once no level faster than its cap runs (R328). -/
def freqDone (s : State) : State :=
  if s.clk.curLevel < s.pwr.cap then s
  else land (fun k => k == .setFreq) (fun r s => finishOk r s.clk.curLevel s) s

/-- A new target level (R44 steps 1 to 3 and 7). -/
def setTarget (l : Nat) (s : State) : State :=
  if s.clk.run = .pause then { s with clk := { s.clk with queuedTgt := some l } }
  else if s.clk.pendingChange then
    if l = s.clk.curLevel then freqDone { s with clk := { s.clk with pendingChange := false, tgtLevel := l } }
    else { s with clk := { s.clk with tgtLevel := l } }
  else if l = s.clk.curLevel ∨ s.clk.run = .stopped then s
  else { s with clk := { s.clk with tgtLevel := l, pendingChange := true, freqAt := roundUp (s.clk.mcc + 8192) 4096 } }

/-- The arithmetic clocks stop at N (R44 step 4). -/
def freqPauseOp (s : State) : State :=
  if s.clk.run == .running then (if pauseWithin (s.clk.freqAt - s.clk.mcc) s.clk then runToPause s else s)
  else s

/-- JCC of a partition wraps (R40): time moves on to the cycle of the wrap. -/
def jccWrapOp (p : Nat) (s : State) : State :=
  let q := getPart s p
  if q.islandRuns && s.clk.run == .running then advanceTo (s.clk.mcc + (2 ^ 48 - q.jcc)) s else s

/-- What one band port asks for (R46): inbound when a word of its schedule is not yet in the buffer, outbound when the words
of the window have no space. -/
def portAsks (s : State) (w : PortWindow) : Nat × Bool × Bool :=
  let x := getBand s w.band
  (w.band, w.pops.any (fun k => decide ((tget [] x.inStreams k.1).length < k.2)),
    w.sends.any (fun k => decide ((tget [] x.outStreams k.1).length + k.2 > tget 0 x.allocOut k.1)))

/-- The band ports' test for the boundary 40 cycles on (R46, R48, R50); one for a boundary that a START still waits for is kept too. -/
def holdRequestOp (t p : Nat) (ws : List PortWindow) (s : State) : State :=
  let rs := ws.map (portAsks (advanceTo t s))
  let s := advanceTo t s
  let q := getPart s p
  let next := t + 40
  if s.clk.mcc ≠ t ∨ next % 64 ≠ 0 ∨ s.clk.run ≠ .running then s
  else if q.st = .running ∨ q.st = .paused ∨ q.st = .cast ∨ q.startAt.any (· ≤ next) then
    modPart p (fun q => { q with
      reqFor := some next, reqs := rs.filter (fun x => partOf s x.1 = p && (getBand s x.1).bound && (x.2.1 || x.2.2)) }) s
  else s

/-- HOLD_DECISION: time moves on to the boundary of the next cycle, where the decision takes effect; one for the count N of a frequency pause takes effect when the clocks
restart (R45). -/
def holdDecisionOp (t p : Nat) (s : State) : State :=
  let s := advanceTo t s
  if (s.clk.mcc ≠ t ∧ s.clk.mcc ≠ t + 1) ∨ (t + 1) % 64 ≠ 0 ∨ (getPart s p).st ≠ .running then s
  else holdDecide p (advanceTo (t + 1) s)

/-- The PLLs report lock and every crossing is aligned (R34). -/
def relock (s : State) : State := { s with clk := { s.clk with locked := true, aligned := true, fastLock := true } }

/-- The arithmetic clocks start, once their PLLs report lock and the crossings are aligned (R34). -/
def startArith (f : Clock → Clock) (s : State) : State :=
  if s.clk.locked && s.clk.aligned then { s with clk := { f s.clk with run := .running } } else s

/-- They start again at the new level (R44 steps 5 to 7), and the decisions for N take effect (R45). The length of the pause is
open up to 40 µs. -/
def freqRestartOp (s : State) : State :=
  if s.clk.run ≠ .pause then s
  else
    let (v, s) := takeFree s
    let q := s.clk.queuedTgt
    let g := s.clk.gtc
    let s := startArith (fun c => { c with
      gtc := max c.gtc (c.pauseGtc + v.toNat % 40001) % 2 ^ 64, curLevel := c.tgtLevel, pendingChange := false
      queuedTgt := none, pauses := satAdd 0xFFFF c.pauses 1 }) (relock s)
    let s := passSamples g (fun _ => s.patina.live) { s with clk := { s.clk with syncMcc := s.clk.mcc, syncGtc := s.clk.gtc } }
    let s := [0, 1, 2, 3].foldl (fun s p => holdDecide p s) (freqDone s)
    match q with
    | some l => setTarget l s
    | none => s

/-- The arithmetic clocks start with MCC 0 at F5 (R39, R43); the pulse of MCC 0 is captured (R41). DESIGN CHOICE (log entry
16): the spec allows 40 µs from the end of the reset, or from the start of the PLLs, to MCC 0; the model takes no time. -/
def startClocks (s : State) : State :=
  startArith (fun c => { c with
    mcc := 0, syncMcc := 0, syncGtc := c.gtc, curLevel := 5, tgtLevel := 5, pendingChange := false, queuedTgt := none
    freqAt := 0, pauses := 0, pulse := none, copies := [] }) (relock s)

/-- SYNC_PULSE (R41). -/
def execSyncPulse (found : MonFind) (s : State) : Host.Outcome State Fault Refusal := .next (syncOp found s)

/-- PLL_UNLOCK (R37). -/
def execPllUnlock (region : Fin 46) (s : State) : Host.Outcome State Fault Refusal := .next (announce s (unlockOp region s))

/-- JCC_WRAP (R40). -/
def execJccWrap (p : Fin 4) (s : State) : Host.Outcome State Fault Refusal := .next (jccWrapOp p s)

/-- FREQUENCY_PAUSE (R44). -/
def execFrequencyPause (s : State) : Host.Outcome State Fault Refusal := .next (freqPauseOp s)

/-- FREQUENCY_RESTART (R44). -/
def execFrequencyRestart (s : State) : Host.Outcome State Fault Refusal := .next (announce s (freqRestartOp s))

/-- HOLD_REQUEST (R46). -/
def execHoldRequest (t : Nat) (p : Fin 4) (windows : List PortWindow) (s : State) :
    Host.Outcome State Fault Refusal := .next (holdRequestOp t p windows s)

/-- HOLD_DECISION (R47). -/
def execHoldDecision (t : Nat) (p : Fin 4) (s : State) : Host.Outcome State Fault Refusal := .next (holdDecisionOp t p s)

end Sys2Proof.Machine
end

