-- ==== Sys2Proof/Machine/Receive.lean ====
section
/-! DEFINITION. What a received frame of 268 bytes carries: the rows of the command table that its header, CRC, COUNT and
entries spell (R235, R236, Tables 12.1, 12.2 and 13.4), and what they do. -/

namespace Sys2Proof.Machine

/-- The 8-byte entries of a body, COUNT of them. -/
def bodyEntries : Nat → List Byte → List Nat
  | 0, _ => []
  | n + 1, bs => leNat (bs.take 8) :: bodyEntries n (bs.drop 8)

/-- Whether a bit outside the fields of a word, given as low bit and width, is not 0. -/
def strayBits (v : Nat) (fields : List (Nat × Nat)) : Bool :=
  (List.range 64).any (fun i => bitOf v i && !fields.any (fun x => decide (x.1 ≤ i ∧ i < x.1 + x.2)))

/-- Non-zero reserved bits: a row that is recorded and otherwise ignored (Table 12.7a). -/
def strayRow (l : Fin 32) (typ seq v : Nat) (fields : List (Nat × Nat)) : List Instr :=
  if strayBits v fields then [.msgUnknown l seq 0 (.reserved typ)] else []

/-- The fields of a CTRL message beside its KIND (Table 12.2), and of a MSG entry (Table 13.4, R244). -/
def ctrlFields (kind : Nat) : List (Nat × Nat) := (0, 8) :: (match kind with
  | 1 | 2 => [(8, 12)]
  | 3 => [(8, 2), (16, 16)]
  | 4 => [(16, 48)]
  | 5 => [(8, 1), (16, 48)]
  | 6 => [(8, 56)]
  | _ => [(8, 56)])
def msgFields (kind : Nat) : List (Nat × Nat) := (0, 8) :: (match kind with
  | 0x10 | 0x11 => [(8, 42)]
  | 0x20 => [(8, 51)]
  | 0x30 | 0x31 => [(8, 26)]
  | 0x40 => [(8, 56)]
  | 0xF0 | 0xF1 | 0xF2 => []
  | _ => [(8, 56)])

/-- The rows that CTRL messages spell, in body order (Table 12.2). A response is two messages: the stamp t2 waits in `t2` for t3 (log
entry 27). `frac` holds the sixteenths of a nanosecond of the stamps taken here: arrival, reply. -/
def ctrlCommands (l : Fin 32) (frac : Nat × Nat) (t2 : Option Nat) : List Nat → List Instr
  | [] => []
  | e :: r =>
    let stray := strayRow l 1 0 e (ctrlFields (e % 256))
    if e % 256 = 5 then
      if bits e 8 1 = 0 then stray ++ ctrlCommands l frac (some (bits e 16 48)) r
      else match t2 with
        | some t => stray ++ .timeResp l t (bits e 16 48) frac.1 :: ctrlCommands l frac none r
        | none => stray ++ ctrlCommands l frac none r
    else stray ++ ctrlOne e :: ctrlCommands l frac t2 r
where
  ctrlOne (e : Nat) : Instr :=
    if e % 256 = 1 then .ack l (bits e 8 12)
    else if e % 256 = 2 then .nak l (bits e 8 12)
    else if e % 256 = 3 then .credit l (bits e 8 2) (bits e 16 16)
    else if e % 256 = 4 then .timeReq l (bits e 16 48) frac.1 frac.2
    else if e % 256 = 6 then .root l (bits e 8 4) (bits e 12 4) (bits e 16 48)
    else .ctrlUnknownKind l

/-- The row that a MSG entry spells (Table 13.4, R244); `seq` carries the number of the entry above its 12 bits. -/
def msgCommand (l : Fin 32) (seq e : Nat) : Instr :=
  let c := bits e 8 10
  let k := e % 256
  if k = 0x10 then .fail l seq c (bits e 18 16) (bits e 34 4) (bits e 38 12)
  else if k = 0x11 then .stepFail l seq c (bits e 18 16) (bits e 34 4) (bits e 38 12)
  else if k = 0x20 then .nanReport l seq c (bits e 18 1 == 1) (bits e 19 12) (bits e 31 28)
  else if k = 0x30 then .drain l seq c (bits e 18 16)
  else if k = 0x31 then .drainDone l seq c (bits e 18 16)
  else if k = 0x40 then .castAt l seq c (bits e 18 46)
  else if k = 0xF0 then .quiesce l seq
  else if k = 0xF1 then .quiesceOk l seq
  else if k = 0xF2 then .quiesceRefuse l seq
  else .msgUnknown l seq c .kind

/-- Entries numbered from `i` on, each as a row. -/
def numbered (seq : Nat) (f : Nat → Nat → Instr) : Nat → List Nat → List Instr
  | _, [] => []
  | i, e :: r => f (seq + 4096 * i) e :: numbered seq f (i + 1) r

/-- A TRAIN frame's row. -/
def trainRow (l : Fin 32) (body : List Byte) : Instr :=
  let v := Config.trainData body
  .train l (v 0) (v 1) (v 2) { credits := [v 3, v 4, v 5], seq := v 6 }

/-- The rows that the header and the body of an intact frame spell (Table 12.1). -/
def bodyCommands (l : Fin 32) (frac : Nat × Nat) (header : Nat) (body : List Byte) : List Instr :=
  let count := bits header 16 8
  let seq := bits header 4 12
  let entries := bodyEntries count body
  match header % 16 with
  | 0 => strayRow l 0 0 header [(0, 4)]
  | 1 => strayRow l 1 0 header [(0, 4), (16, 8)] ++ ctrlCommands l frac none (bodyEntries (min 32 count) body)
  | 2 => strayRow l 2 0 header [(0, 4), (8, 8)] ++ [trainRow l body]
  | 3 => [.red l seq (bits header 16 10) (bits header 26 16) (bits header 42 22) body]
  | 4 => [.param l seq (bits header 16 10) (bits header 26 16) (bits header 42 22) body]
  | 5 => strayRow l 5 seq header [(0, 4), (4, 12), (16, 8)] ++ (if count = 0 ∨ count > 32 then [.msgUnknown l seq 0 .count]
    else entries.flatMap (fun e => strayRow l 5 seq e (msgFields (e % 256))) ++ numbered seq (msgCommand l) 0 entries)
  | 6 => strayRow l 6 seq header [(0, 4), (4, 12), (16, 8)] ++ (if count = 0 ∨ count > 32 then [.msgUnknown l seq 0 .errorCount]
    else entries.flatMap (fun e => strayRow l 6 seq e [(0, 50)]) ++ numbered seq (fun n e => .error l n (BitVec.ofNat 64 e)) 0 entries)
  | _ => [.crcFailure l .reservedType]

/-- The rows that 268 bytes on the wire spell (R235): a frame whose CRC does not match is a failed one. -/
def frameCommands (l : Fin 32) (frac : Nat × Nat) (bs : List Byte) : List Instr :=
  if bs.length = 268 ∧ leNat (bs.drop 264) = (crc32c (bs.take 264)).toNat then
    bodyCommands l frac (leNat (bs.take 8)) ((bs.drop 8).take 256)
  else [.crcFailure l .crc]

/-- The state that an outcome gives, where it is a next state. -/
def stateOf (s : State) : Host.Outcome State Fault Refusal → State
  | .next t => t
  | .fault _ => s
  | .refused _ => s

/-- What a row that a frame spells does. -/
def frameRow (i : Instr) (s : State) : State :=
  match i with
  | .ack l n => stateOf s (execAck l n s)
  | .nak l n => stateOf s (execNak l n s)
  | .credit l c n => stateOf s (execCredit l c n s)
  | .timeReq l a b c => stateOf s (execTimeReq l a b c s)
  | .timeResp l a b c => stateOf s (execTimeResp l a b c s)
  | .root l h p n => stateOf s (execRoot l h p n s)
  | .ctrlUnknownKind l => stateOf s (execCtrlUnknownKind l s)
  | .train l p k v t => stateOf s (execTrain l p k v t s)
  | .red l n c g o b => stateOf s (execRed l n c g o b s)
  | .param l n c g o b => stateOf s (execParam l n c g o b s)
  | .fail l n c g k r => stateOf s (execFail l n c g k r s)
  | .stepFail l n c g k r => stateOf s (execStepFail l n c g k r s)
  | .nanReport l n c v r e => stateOf s (execNanReport l n c v r e s)
  | .drain l n c g => stateOf s (execDrain l n c g s)
  | .drainDone l n c g => stateOf s (execDrainDone l n c g s)
  | .castAt l n c g => stateOf s (execCastAt l n c g s)
  | .quiesce l n => stateOf s (execQuiesce l n s)
  | .quiesceOk l n => stateOf s (execQuiesceOk l n s)
  | .quiesceRefuse l n => stateOf s (execQuiesceRefuse l n s)
  | .error l n e => stateOf s (execError l n e s)
  | .msgUnknown l n c k => stateOf s (execMsgUnknown l n c k s)
  | .crcFailure l k => badFrame l k s
  | _ => s

/-- A frame comes in on a link (R235): its CRC is tested, and what it spells takes effect in its order (R236). -/
def receiveFrame (l : Fin 32) (frac : Nat × Nat) (bs : List Byte) (s : State) : State :=
  (frameCommands l frac bs).foldl (fun s i => frameRow i s) s

/-- CRC_FAILURE (R241), and the frame whose CRC is tested (R235). -/
def execCrcFailure (l : Fin 32) (kind : FrameFail) (s : State) : Host.Outcome State Fault Refusal :=
  .next (match kind with
    | .bytes arrival reply bs => if framing (getLink s l) || decide ((getLink s l).phase = 4) then receiveFrame l (arrival, reply) bs s else s
    | k => badFrame l k s)

end Sys2Proof.Machine
end

