-- ==== Sys2Proof/Machine/Images.lean ====
section
/-! DEFINITION. Checks of signed images: Flomor images and customer signature blocks (R349-R355 of spec/), and the checks
of a maquette that its bytes alone decide (R193, R194, R213, R214, R222). -/

namespace Sys2Proof.Machine

/-- Whether a range of bytes is zero. -/
def zeroBytes (bs : List Byte) (off n : Nat) : Bool := ((bs.drop off).take n).all (fun b => b == 0)

/-- Fields of a Flomor header (Table 17.4). -/
def fwVersion (i : FlomorImage) : Nat := field i.hdr 4 4
def fwSvn (i : FlomorImage) : Nat := field i.hdr 8 1
def fwSlot (i : FlomorImage) : Nat := field i.hdr 9 1
def fwSuite (i : FlomorImage) : Nat := field i.hdr 10 1
def fwFlags (i : FlomorImage) : Nat := field i.hdr 11 1

/-- The point and the signature as a suite gives them (Table 17.4): P-256 uses the first 65 and 64 bytes. -/
def suitePoint (suite : Nat) (bs : List Byte) : List Byte := if suite = 1 then bs.take 65 else bs.take 97
def suiteSig (suite : Nat) (bs : List Byte) : List Byte := if suite = 1 then bs.take 64 else bs.take 96

/-- The identity that stays of interest of an image, decrypted under IMG_KEY. -/
def fwIdOf (key : List Byte) (i : FlomorImage) : FwId :=
  { version := fwVersion i, svn := fwSvn i, keySlot := fwSlot i, pinSvn := bitOf (fwFlags i) 0,
    revoke := fwFlags i / 2 % 16, digest := Config.sha384 (Config.gcmPlain key i.hdr i.cipher) }

/-- The failing check of Table 17.5, 0 when every check passes. `slot`: the image stands in the flash slot. -/
def fwCheck (s : State) (slot : Bool) (i : FlomorImage) : Nat :=
  let len := field i.hdr 0x10 8
  let suite := fwSuite i
  let key := tget ([], false) s.sec.fwKeyHash (fwSlot i)
  let point := suitePoint suite (i.hdr.drop 0x40)
  if i.hdr.length ≠ 512 ∨ field i.hdr 0 4 ≠ 0x4F4D4C46 ∨ len ≠ i.cipher.length ∨ len > 0x2000000 - 512 ∨ len % 16 ≠ 0 ∨
      fwFlags i ≥ 32 ∨ !zeroBytes i.hdr 0x0C 4 ∨ !zeroBytes i.hdr 0x34 12 ∨ !zeroBytes i.hdr 0xA1 0x5F ∨
      !zeroBytes i.hdr 0x160 0xA0 ∨ (slot && !s.flash.journal.contains .complete) then 1
  else if fwSlot i ≥ 4 ∨ s.sec.fwRevoke.getLsbD (fwSlot i) ∨ (suite ≠ 1 ∧ suite ≠ 2) ∨ key.2 ≠ decide (suite = 2) ∨
      Config.sha384 point ≠ key.1 then 2
  else if !Config.ecdsaVerify (decide (suite = 2)) point (i.hdr.take 0x100 ++ i.cipher) (suiteSig suite (i.hdr.drop 0x100)) then 3
  else if fwSvn i < s.sec.minSvn then 4
  else if s.sec.decommissioned ∨
      !Config.gcmTagOk s.sec.imgKey (i.hdr.take 0x24 ++ zeros 16 ++ (i.hdr.take 0x100).drop 0x34) i.cipher ((i.hdr.drop 0x24).take 16) then 5
  else 0

/-- A rejected image: SEC_IMAGE_REJECTED and SEC_REJECTS (R350, R355, Table 19.3). Answers the record's index. -/
def rejectImage (check image opcode ring : Nat) (s : State) : Nat × State :=
  (s.log.head, writeRec (mkRec s .deferred 0x0A04 none none [(0, check), (1, image), (2, opcode), (3, ring)])
    { s with sec := { s.sec with rejImages := satAdd 0xFFFF s.sec.rejImages 1 } })

/-- The condition of R355 that a customer signature block fails, 0x11 to 0x14; 0 when it is valid. -/
def custCheck (s : State) (blk signedBytes : List Byte) : Nat :=
  let suite := field blk 4 1
  let point := suitePoint suite (blk.drop 8)
  if !s.sec.provisioned then 0x11
  else if blk.length ≠ 208 ∨ field blk 0 4 ≠ 0x4749535A ∨ (suite ≠ 1 ∧ suite ≠ 2) ∨ s.sec.custSuite ≠ decide (suite = 2) then 0x12
  else if Config.sha384 point ≠ s.sec.custHash then 0x13
  else if !Config.ecdsaVerify (decide (suite = 2)) point signedBytes (suiteSig suite (blk.drop 112)) then 0x14
  else 0

/-- Outcome of Table 17.6: 0 accepted, or the failing condition. -/
def custOutcome (s : State) (req : Bool) (blk : Option (List Byte)) (signedBytes : List Byte) : Nat :=
  match blk with
  | none => if req then 0x11 else 0
  | some b => custCheck s b signedBytes

/-- Fields of the maquette header (Table 9.9). -/
def maqFlags (m : Maquette) : Nat := field m.hdr 6 2
def maqSize (m : Maquette) : Nat := field m.hdr 8 8
def maqLat (m : Maquette) (i : Nat) : Nat := field m.hdr (0x11 + i) 1
def maqWdog (m : Maquette) : Nat := field m.hdr 0x18 4
def maqBands (m : Maquette) : Nat := field m.hdr 0x15 1

/-- Whether a table lies inside the image. -/
def tableInside (m : Maquette) (off n sz : Nat) : Bool := decide (n = 0) || decide (256 ≤ off ∧ off + n * sz ≤ maqSize m)

/-- A region declaration (R222). -/
def regionEntryOk (e : List Byte) : Bool :=
  decide (e.length = 32 ∧ 1 ≤ field e 0 4 ∧ field e 0 4 ≤ 12582912 ∧ field e 4 1 ≤ 3 ∧ field e 5 1 ≤ 1 ∧ field e 7 1 < 16) &&
    zeroBytes e 12 20

/-- Logical bands that a context entry targets. -/
def entryTargets (e : List Byte) : List Nat := (List.range (min 8 (field e 1 1))).map (fun i => field e (4 + i) 1)

/-- A context entry (R213, R214, R222). -/
def contextEntryOk (m : Maquette) (e : List Byte) : Bool :=
  let img := e.drop 16
  let kind := field img 2 1 % 8
  let n := field e 1 1
  let tgt := field img 6 2
  decide (e.length = 80 ∧ kind ≤ 3 ∧ field img 2 1 < 32 ∧ field img 2 1 / 8 ≠ 3 ∧ field img 3 1 < 128 ∧ field img 12 2 % 4096 ≠ 0) &&
  decide (field img 4 2 < m.regions.length ∧ field e 0 1 < maqBands m) &&
  (match kind with
    | 3 => decide (n = 0 ∧ tgt < 1024)
    | 2 => decide (1 ≤ n ∧ n ≤ 8 ∧ tgt < 2048)
    | _ => decide (n = 1 ∧ tgt < 64)) &&
  (entryTargets e).all (fun l => decide (l < maqBands m)) && noDup (entryTargets e) &&
  ((List.range 8).drop n).all (fun i => field e (4 + i) 1 == 0xFF) && zeroBytes e 12 4

/-- Whether the bytes that are signed are those that are loaded: the header stands at their start, and the region and the context table at
their offsets (Table 9.9). The layout of the other tables is not given. -/
def maqBytesOk (m : Maquette) : Bool :=
  let stands := fun (off : Nat) (rows : List (List Byte)) => (m.signedBytes.drop off).take rows.flatten.length == rows.flatten
  decide (m.signedBytes.length + (m.sigBlock.getD []).length = maqSize m) && m.signedBytes.take 256 == m.hdr &&
    stands (field m.hdr 0x38 8) m.regions && stands (field m.hdr 0x40 8) m.contexts

/-- Check 2 of Table 9.10. -/
def maqFormOk (m : Maquette) : Bool :=
  let h := m.hdr
  let f := maqFlags m
  decide (h.length = 256 ∧ field h 0 4 = 0x514D585A ∧ field h 4 2 = 1 ∧ f < 4 ∧ field h 0xFC 4 = (crc32c (h.take 0xFC)).toNat) &&
  decide (256 ≤ maqSize m ∧ maqSize m ≤ 0x80000000 ∧ 1 ≤ maqBands m ∧ maqBands m ≤ 32 ∧ maqBands m = m.bands.length) &&
  decide (field h 0x1C 4 = m.regions.length ∧ field h 0x20 4 = m.contexts.length ∧ field h 0x24 2 = m.seams.length) &&
  zeroBytes h 0x16 2 && zeroBytes h 0x26 2 && zeroBytes h 0x50 0xAC &&
  (!bitOf f 1 || decide (maqWdog m ≥ 0x1000)) &&
  tableInside m (field h 0x28 8) m.bands.length 64 && tableInside m (field h 0x30 8) m.seams.length 8 &&
  tableInside m (field h 0x38 8) m.regions.length 32 && tableInside m (field h 0x40 8) m.contexts.length 80 &&
  (bitOf f 0 == m.sigBlock.isSome) && (if bitOf f 0 then decide (field h 0x48 8 + 208 = maqSize m) else decide (field h 0x48 8 = 0)) &&
  m.seams.all (fun r => decide (r.src < maqBands m ∧ r.dst < maqBands m ∧ r.track < 4)) &&
  m.regions.all regionEntryOk && m.contexts.all (contextEntryOk m) && maqBytesOk m

/-- Check 4 of Table 9.10 (R190). -/
def maqLatOk (s : State) (m : Maquette) : Bool :=
  [0, 1, 2, 3].all (fun i => decide (maqLat m i = 0) || (s.ident.b0 && decide (maqLat m i = 1)))

/-- Check 5 of Table 9.10 (R157, R158, R168, R193). -/
def bandProgsOk (e : BandEntry) : Bool :=
  decide (e.seqImg.length ≤ 65536 ∧ e.armImg.length ≤ 32768 + 65536 ∧ e.seqCrc = (crc32c e.seqImg).toNat ∧ e.armCrc = (crc32c e.armImg).toNat) &&
  e.cellImgs.all (fun x => decide (x.1 < 128 ∧ x.2.length ≤ 16384)) &&
  e.cellCrcs == e.cellImgs.map (fun x => (x.1, (crc32c x.2).toNat)) && e.idle.all (fun q => decide (q < 128))

/-- Allocations of check 6 (R214): 2,048 inbound and 512 outbound words. -/
def maqAllocOk (m : Maquette) : Bool :=
  (List.range (maqBands m)).all (fun lb =>
    decide (((List.range 8).map (fun x => slotsOf m.contexts lb x false)).foldl (· + ·) 0 ≤ 2048 ∧
      ((List.range 8).map (fun x => slotsOf m.contexts lb x true)).foldl (· + ·) 0 ≤ 512))

end Sys2Proof.Machine
end

