-- ==== Sys2Proof/Machine/Queue.lean ====
section
/-! DEFINITION. The band queues, the cell FIFOs, the Armature cores and the flags (R164-R175, R200 of spec/). -/

namespace Sys2Proof.Machine

/-- A queue of a band, and its depth (Table 8.1). -/
def getQ (bd : Band) : QName → List QEntry
  | .array => bd.qArray
  | .vector => bd.qVector
  | .row => bd.qRow
  | .port => bd.qPort
def setQ (bd : Band) (n : QName) (l : List QEntry) : Band :=
  match n with
  | .array => { bd with qArray := l }
  | .vector => { bd with qVector := l }
  | .row => { bd with qRow := l }
  | .port => { bd with qPort := l }
def qDepth : QName → Nat
  | .array | .vector => 64
  | .row => 32
  | .port => 128
def qCode : QName → Nat
  | .array => 0
  | .vector => 1
  | .row => 2
  | .port => 3

/-- Place an entry in a queue with its sequence number (R164). -/
def enqueue (mcc : Nat) (n : QName) (tag : Nat) (body : QBody) (bd : Band) : Band :=
  let k := tget 0 bd.pushes (qCode n)
  let bd := setQ bd n (getQ bd n ++ [{ tag := tag % 16, seq := k % 256, at_ := mcc, body := body }])
  { bd with pushes := tset 0 bd.pushes (qCode n) (k + 1) }

/-- A push (R166): the core stalls on a full queue. -/
def pushOp (mcc : Nat) (n : QName) (tag : Nat) (body : QBody) (bd : Band) : Band :=
  if (getQ bd n).length ≥ qDepth n then
    { bd with arm := { bd.arm with st := .stallQueue, queue := n, push := some (tag, body) }, armPc := mcc + 1 }
  else enqueue mcc n tag body bd

/-- A place has become free: a push that stalls on the queue is completed (R166). -/
def unstall (mcc : Nat) (n : QName) (bd : Band) : Band :=
  if bd.arm.st = .stallQueue ∧ bd.arm.queue = n then
    match bd.arm.push with
    | some (tag, body) => enqueue mcc n tag body { bd with arm := { bd.arm with st := .running, push := none } }
    | none => bd
  else bd

/-- Take the head of a queue (R166, R183, R186): an entry is usable from the third cycle after its push. -/
def takeEntry (p j b : Nat) (n : QName) (s : State) : Option QEntry × State :=
  let bd := getBand s b
  match getQ bd n with
  | [] => (none, headFault p j b 0x0217 id s)
  | e :: rest =>
    if s.clk.mcc < e.at_ + 3 then (none, headFault p j b 0x0217 id s)
    else if e.tag ≠ j % 16 then
      (none, headFault p j b 0x0205 (fun f => { f with cmp := j % 16, tag := e.tag }) s)
    else (some e, setBand b (unstall s.clk.mcc n (setQ bd n rest)) s)

/-- A release of the ARRAY or VECTOR queue (R164). -/
def releaseQueueOp (p j b : Nat) (vector : Bool) (s : State) : State :=
  match takeEntry p j b (if vector then .vector else .array) s with
  | (none, s) => s
  | (some e, s) =>
    modBand b (fun bd => { bd with deliveries := bd.deliveries ++ [{ at_ := (j + 6) % 2 ^ 48, vector := vector, entry := e }] }) s

/-- Delivery of one entry to one cell (R165). A fifth entry stands until the end of the cycle, since a start of the same cycle
pops first. -/
def deliverTo (p j b : Nat) (d : Delivery) (s : State) (pos : Nat) : State :=
  let cell := cellOf b pos
  let c := getCell s cell
  let l := if d.vector then c.vecFifo else c.arrayFifo
  if s.fence.contains cell || (getBand s b).idle.contains pos then s
  else if l.length ≥ 5 then cellFault p j cell 0x021A id s
  else
    let e := { d.entry with got := some j }
    setCell cell (if d.vector then { c with vecFifo := l ++ [e] } else { c with arrayFifo := l ++ [e] }) s

/-- Deliveries of a kind due in cycle `j`, to every non-idle cell (R164, R165). -/
def fifoDeliveryOp (p j b : Nat) (vector : Bool) (s : State) : State :=
  let due := (getBand s b).deliveries.filter (fun d => d.at_ == j && d.vector == vector)
  let s := modBand b (fun bd => { bd with deliveries := bd.deliveries.filter (fun d => !(d.at_ == j && d.vector == vector)) }) s
  due.foldl (fun s d => (List.range 128).foldl (deliverTo p j b d) s) s

/-- A run entry becomes current (R200). -/
def portRunOp (p j b : Nat) (s : State) : State :=
  match takeEntry p j b .port s with
  | (none, s) => s
  | (some e, s) => match e.body with
    | .port r =>
      let bd := getBand s b
      let run : CurRun := { stream := r.stream % 8, left := r.words, from_ := (j + 2) % 2 ^ 48 }
      if r.outbound then
        if bd.outRun.isSome then headFault p j b 0x021C (fun f => { f with lane := r.stream % 8 }) s
        else setBand b { bd with outRun := some run } s
      else if (tget none bd.inRuns (r.stream % 8)).isSome then
        headFault p j b 0x021C (fun f => { f with lane := r.stream % 8 }) s
      else setBand b { bd with inRuns := tset none bd.inRuns (r.stream % 8) (some run) } s
    | _ => s

/-- An operation of a running Armature core at MCC `t` (R168): its partition, its band, and the state. -/
def armature (t b : Nat) (f : Nat → Band → State → State) (s : State) : State :=
  let s := advanceTo t s
  let bd := getBand s b
  let p := partOf s b
  if bd.bound && decide (p < 4) && bd.arm.st == .running && s.clk.run == .running then f p bd s else s

/-- Whether a wait's condition holds (R171). -/
def waitHolds (eq : Bool) (flag v : W32) : Bool :=
  if eq then flag == v else (flag - v).toNat < 2 ^ 31

/-- Issue an update of a flag (R172): updates stand in the order of their issue, and by band within a cycle. -/
def insertUpd (u : FlagUpd) : List FlagUpd → List FlagUpd
  | [] => [u]
  | v :: r => if u.at_ = v.at_ ∧ u.band < v.band then u :: v :: r else v :: insertUpd u r

/-- A SET or ADD by a core (R171, R172). -/
def flagOp (t b f : Nat) (add : Bool) (v : W32) (s : State) : State :=
  armature t b (fun p _ s => modPart p (fun q => { q with
    updates := insertUpd { band := b, at_ := s.clk.mcc, flag := f, add := add, v := v } q.updates }) s) s

/-- A flag of a partition. -/
def getFlag (q : Part) (f : Nat) : Flag := tget {} q.flags f

/-- Whether a core waits on a flag: in WAIT_FLAG, or halted there by a cast, to wait on at RESUME (R170). -/
def Arm.waits (a : Arm) : Bool := a.st == .waitFlag || (a.st == .halted && a.haltedFrom == .waitFlag)

/-- Mark the waits that a flag's value satisfies (R172). -/
def satisfyOne (f : Nat) (v : W32) (s : State) (b : Nat) : State :=
  let a := (getBand s b).arm
  if a.waits = true ∧ a.flag = f ∧ a.satisfied = false ∧ waitHolds a.eq v a.want = true then
    modBand b (fun bd => { bd with arm := { bd.arm with satisfied := true, satisfiedAt := s.clk.mcc } }) s
  else s

/-- The test of a wait that stands, against the flag's present value (R171). -/
def retest (p : Nat) (s : State) (b : Nat) : State :=
  let f := (getBand s b).arm.flag
  satisfyOne f (getFlag (getPart s p) f).value s b

/-- Apply the oldest update (R172), in a cycle after that of its issue, so that the updates of one cycle stand in the order of
their bands, and while the clocks run (R168). -/
def applyUpd (p : Nat) (s : State) : State :=
  match (getPart s p).updates with
  | [] => s
  | u :: rest =>
    if s.clk.mcc ≤ u.at_ ∨ s.clk.run ≠ .running then s
    else
    let old := (getFlag (getPart s p) u.flag).value
    let v := if u.add then old + u.v else u.v
    let s := modPart p (fun q => { q with
      updates := rest, flags := tset {} q.flags u.flag { value := v, setter := some u.band, setGtc := s.clk.gtc } }) s
    (bandsOf s p).foldl (satisfyOne u.flag v) s

/-- The watchdog of a wait expires in the cycle since + LIMIT (R174). -/
def watchdogDue (s : State) (p b : Nat) : Bool :=
  let a := (getBand s b).arm
  a.st == .waitFlag && (getPart s p).st == .running &&
    decide (ageAt (getPart s p).jcc a.since ≥ ((tget 0x01000000 s.wdog p : Nat) : Int))

/-- A watchdog expires (R174, R175, R380): the cast is asked for, and the cast writes the record. -/
def watchdogOp (p b : Nat) (s : State) : State :=
  modPart p (fun q =>
    let c : PendCast := {
      at_ := some (faultBoundary s), cause := if q.sfaults = [] then .watchdog else .schedFault, fault := true, wd := [b] }
    if (q.pendCast.map (fun d => d.wd.contains b)) = some true then q
    else { askCast c q with faulted := true }) s

/-- QUEUE_PUSH (R166). -/
def execQueuePush (t : Nat) (b : Fin 32) (queue : QName) (tag : Nat) (body : QBody) (s : State) :
    Host.Outcome State Fault Refusal :=
  .next (armature t b (fun _ bd s => setBand b (pushOp s.clk.mcc queue tag body bd) s) s)

/-- QUEUE_RELEASE (R164). -/
def execQueueRelease (t : Nat) (b : Fin 32) (vector : Bool) (s : State) : Host.Outcome State Fault Refusal :=
  .next (sequencer t b (fun p j s => releaseQueueOp p j b vector s) s)

/-- CELL_FIFO_DELIVERY (R165). -/
def execCellFifoDelivery (t : Nat) (b : Fin 32) (vector : Bool) (s : State) : Host.Outcome State Fault Refusal :=
  .next (island t b (fun p j s => fifoDeliveryOp p j b vector s) s)

/-- PORT_RUN_ENTRY (R200). -/
def execPortRunEntry (t : Nat) (b : Fin 32) (s : State) : Host.Outcome State Fault Refusal :=
  .next (sequencer t b (fun p j s => portRunOp p j b s) s)

/-- A sequencer executes END; with the last of its partition, the maquette ends at the first hold boundary after (R170). -/
def endSequencer (p j b : Nat) (s : State) : State :=
  let s := modBand b (fun bd => { bd with seqState := 2, seqEnd := some j }) s
  if (boundBands s p).all (fun b => (getBand s b).seqState == 2) then
    modPart p (fun q => { q with endJcc := some ((j + (64 - s.clk.mcc % 64)) % 2 ^ 48) }) s
  else s

/-- SEQUENCER_END (R157, R170). -/
def execSequencerEnd (t : Nat) (b : Fin 32) (s : State) : Host.Outcome State Fault Refusal :=
  .next (sequencer t b (fun p j s => endSequencer p j b s) s)

/-- FLAG_SET (R171). -/
def execFlagSet (t : Nat) (b : Fin 32) (f : Fin 64) (v : W32) (s : State) : Host.Outcome State Fault Refusal :=
  .next (flagOp t b f false v s)

/-- FLAG_ADD (R171). -/
def execFlagAdd (t : Nat) (b : Fin 32) (f : Fin 64) (v : W32) (s : State) : Host.Outcome State Fault Refusal :=
  .next (flagOp t b f true v s)

/-- FLAG_WAIT (R171, R174). -/
def execFlagWait (t : Nat) (b : Fin 32) (f : Fin 64) (eq : Bool) (v : W32) (s : State) :
    Host.Outcome State Fault Refusal :=
  .next (armature t b (fun p bd s =>
    let now := waitHolds eq (getFlag (getPart s p) f).value v
    setBand b { bd with armPc := s.clk.mcc + 1, arm := { bd.arm with
      st := .waitFlag, flag := f, eq := eq, want := v, since := (getPart s p).jcc,
      satisfied := now, satisfiedAt := s.clk.mcc } } s) s)

/-- FLAG_UPDATE_APPLIED (R172). -/
def execFlagUpdateApplied (t : Nat) (p : Fin 4) (s : State) : Host.Outcome State Fault Refusal :=
  .next (applyUpd p (advanceTo t s))

/-- WAIT_END (R168, R172): a satisfied wait ends, while the clocks run. -/
def execWaitEnd (t : Nat) (b : Fin 32) (s : State) : Host.Outcome State Fault Refusal :=
  .next (let s := advanceTo t s
    let bd := getBand s b
    if bd.arm.st = .waitFlag ∧ bd.arm.satisfied = true ∧ s.clk.run = .running then
      setBand b { bd with arm := { bd.arm with st := .running, satisfied := false } } s
    else s)

/-- MCC_READ (R168). -/
def execMccRead (t : Nat) (b : Fin 32) (s : State) : Host.Outcome State Fault Refusal :=
  .next (armature t b (fun _ _ s => emit (.mcc b s.clk.mcc) s) s)

/-- ARMATURE_END (R170). -/
def execArmatureEnd (t : Nat) (b : Fin 32) (s : State) : Host.Outcome State Fault Refusal :=
  .next (armature t b (fun _ bd s => setBand b { bd with armPc := s.clk.mcc + 1, arm := { bd.arm with st := .done } } s) s)

/-- ARMATURE_FAULT (Table 8.3, R380). -/
def execArmatureFault (t : Nat) (b : Fin 32) (s : State) : Host.Outcome State Fault Refusal :=
  .next (armature t b (fun p bd s =>
    jobFatal p 0x0303 (some b) [(0, (getPart s p).jcc), (6, 0x80), (7, 0xFF), (8, 0xFF)] .otherFatal none
      (setBand b { bd with armPc := s.clk.mcc + 1, arm := { bd.arm with st := .fault } } s)) s)

/-- WAIT_WATCHDOG (R174). -/
def execWaitWatchdog (t : Nat) (b : Fin 32) (s : State) : Host.Outcome State Fault Refusal :=
  .next (let s := advanceTo t s
    let p := partOf s b
    if p < 4 ∧ watchdogDue s p b = true then watchdogOp p b s else s)

end Sys2Proof.Machine
end

