-- ==== Sys2Proof/Machine/RowEngine.lean ====
section
/-! DEFINITION. The row engine of a band head (R131-R142, R156 of spec/). Operations that take no lanes
work on the records as Machine/RowRecords.lean says. -/

namespace Sys2Proof.Machine

/-- Whether an operation is one of normalisation (R132). -/
def rowNorm : RowForm → Bool
  | .stat .lnorm | .stat .rms | .final .lnorm | .final .rms | .apply true | .bdot .lnorm | .bdot .rms
  | .bemit .lnorm | .bemit .rms | .merge (some .lnorm) | .merge (some .rms) => true
  | _ => false

/-- Entries of a full group. -/
def rowPer : RowForm → Nat
  | .bdot _ | .bemit _ => 16
  | _ => 32

/-- Whether an operation takes groups of entries from the ring. -/
def rowEntries : RowForm → Bool
  | .stat _ | .apply _ | .bdot _ | .bemit _ => true
  | _ => false

/-- Groups that the descriptor expects from released lanes: none for an operation on the side memory (R132, R138, R139). -/
def rowGroups (d : RowDesc) : Nat :=
  let f := rowForm d.op
  if rowEntries f then d.rows * ((d.n + rowPer f - 1) / rowPer f)
  else match f with
    | .fill => (d.rows + 15) / 16
    | .merge _ => if d.recB.isNone then (d.rows + 7) / 8 else 0
    | _ => 0

/-- Result lanes of a full cycle of an operation. -/
def rowLanes (d : RowDesc) : Nat :=
  match rowForm d.op with
  | .apply _ => if d.fmtOut = .fp32 then 2 else 1
  | .bemit _ => 1
  | .lse => if d.rows ≤ 16 then 1 else 2
  | .spill => if d.rows ≤ 8 then 1 else 2
  | _ => 0

/-- Whether a descriptor is within R132. DESIGN CHOICE (log entry 24): OUT must name as many lane indices as a full cycle of results
has lanes, also where N leaves a cycle fewer; the spec does not say how many it must name. -/
def rowOk (d : RowDesc) : Bool :=
  let flt := fun (e : Elem) => e == .fp32 || e == .bf16 || e == .fp16
  let norm := rowNorm (rowForm d.op)
  decide (1 ≤ d.rows ∧ d.rows ≤ 131072 ∧ 1 ≤ d.n ∧ d.n ≤ 4194304 ∧ d.off + d.n ≤ 4194304) &&
  flt d.fmtIn && flt d.fmtOut && (!norm || (d.mask == .none && d.scale == 0x3F800000)) &&
  (d.mask != .window || decide (1 ≤ d.width ∧ d.width ≤ 4194304)) &&
  decide (d.recIdx < 131072 ∧ d.brecIdx < 131072 ∧ d.recB.getD 0 < 131072) &&
  (rowLanes d == 0 || (decide (rowLanes d ≤ d.outLanes.length) && d.outLanes.all (· < 8) && !hasDup d.outLanes &&
    decide (1 ≤ d.outLaps ∧ d.outLaps ≤ 255 ∧ d.outDest < 4)))

/-- A pairwise sum over 2^n slots, and its flags. -/
def treeSum (n : Nat) (l : List W32) : W32 × Nat := treeRed .sum n l

/-- A value of a soft-maximum group times SCALE (R132, R134), with its flags. −infinity counts as absent. -/
def smValue (scale : W32) (x : W32) : W32 × Nat := if scale = one32 then nf x else mul32 x scale

/-- STAT_SOFTMAX on one group (R134). -/
def statSoftmax (r : W32 × W32) (vs : List (W32 × Nat)) : (W32 × W32) × Nat :=
  let v := vs.map (·.1)
  let fv := flagsOf vs
  if isNan32 r.1 then (r, 0)
  else if v.any isNan32 then ((nan32, nan32), fv)
  else if v.any (· == pInf) then
    let k := natFp (v.filter (· == pInf)).length
    if r.1 = pInf then let s := add32 r.2 k; ((pInf, s.1), fv ||| s.2) else ((pInf, k), fv)
  else if r.1 = pInf then (r, fv)
  else
    let mn := (max32 r.1 (v.foldl (fun a x => (max32 a x).1) nInf)).1
    if mn = nInf then (r, fv)
    else
      let ex := fun (x : W32) => let d := sub32 x mn; let y := expf false d.1; (y.1, d.2 ||| y.2)
      let e := v.map ex
      let s := fl2 add32 (fl2 mul32 (nf r.2) (ex r.1)) (treeSum 5 (e.map (·.1)))
      ((mn, s.1), s.2 ||| fv ||| flagsOf e)

/-- Whether a value is infinite. -/
def isInf32 (x : W32) : Bool := x == pInf || x == nInf

/-- A list of present entries over `n` slots, the absent ones +0. -/
def slots (n : Nat) (xs : List (Option W32)) (f : W32 → W32 × Nat) : List W32 × Nat :=
  let l := (List.range n).map (fun i => match xs.getD i none with | some x => f x | none => (0, 0))
  (l.map (·.1), flagsOf l)

/-- STAT_LNORM and STAT_RMS on one group (R135); `n` entries of the row are merged already. -/
def statNorm (k : RowKind) (r : W32 × W32) (xs : List (Option W32)) (n : Nat) : (W32 × W32) × Nat :=
  let ps := xs.filterMap id
  if isNan32 r.1 then (r, 0)
  else if ps.any isNan32 then ((nan32, nan32), 0)
  else if ps.any isInf32 then ((nan32, pInf), 0)
  else
    let sumSq := fun (c : W32) =>
      let l := slots 32 xs (fun x => fl2 mul32 (sub32 x c) (sub32 x c))
      let t := treeSum 5 l.1
      (t.1, t.2 ||| l.2)
    match k with
    | .rms =>
      let l := slots 32 xs (fun x => mul32 x x)
      let s := fl2 add32 (nf r.2) (treeSum 5 l.1)
      ((r.1, s.1), s.2 ||| l.2)
    | _ =>
      let t := treeSum 5 (slots 32 xs nf).1
      let mg := fl2 div32 t (nf (natFp ps.length))
      lnormMerge r n ps.length mg (sumSq mg.1)

/-- The recomputed y or x̂ of one entry (R136): `present` is false for masked and tail entries, `tail` for the latter. -/
def rowY (norm : Bool) (r : W32 × W32) (scale : W32) (x : W32) (present tail : Bool) : W32 × Nat :=
  if tail then (0, 0)
  else if norm then
    if isNan32 r.1 then (nan32, 0) else fl2 mul32 (sub32 x r.1) (nf r.2)
  else if isNan32 r.1 then (nan32, 0)
  else if !present then (0, 0)
  else
    let v := smValue scale x
    if r.1 = pInf then (if v.1 = pInf then recip32 r.2 else (0, v.2))
    else if r.1 = nInf then (0, v.2)
    else if v.1 = nInf then (0, v.2)
    else
      let d := sub32 v.1 r.1
      let e := expf false d.1
      fl2 div32 (e.1, e.2 ||| d.2 ||| v.2) (nf r.2)

/-- Whether entry `pos` of the full row is masked for row `i` (R132). -/
def rowMasked (d : RowDesc) (i pos : Nat) : Bool :=
  let c : Int := d.row0 + i + d.diag
  match d.mask with
  | .none => false
  | .causal => decide ((pos : Int) > c)
  | .window => decide ((pos : Int) > c) || decide ((pos : Int) < c - d.width + 1)

/-- Output entries packed into lanes of OUT (R131, R132). -/
def outLanesOf (d : RowDesc) (at_ : Nat) (es : Nat) (vals : List Nat) : List RowLane :=
  let bytes := vals.flatMap (leBytes es)
  (List.range ((bytes.length + 63) / 64)).map (fun i =>
    { at_ := at_, idx := d.outLanes.getD i 0, ccw := d.outDir == .ccw, laps := d.outLaps, dest := d.outDest, data := fit 64 ((bytes.drop (64 * i)).take 64) })

/-- Narrow results to the output format with the flags of R131. -/
def narrowRow (f : Elem) (x : W32 × Nat) : Nat × Nat :=
  if f = .fp32 then (x.1.toNat, x.2)
  else let r := narrow f none false x.1; (r.1, x.2 ||| (if r.2 &&& fOverflow ≠ 0 then fOverflow ||| fNarrow else 0))

/-- Latencies of Table 6.11: native B0, or A0 on A0 and in compatibility latency. -/
def rowA0 (s : State) (b : Nat) : Bool := !s.ident.b0 || (getBand s b).rowCompat
def rowLat (a0 : Bool) : Nat := if a0 then 20 else 16
def rowDrain (a0 : Bool) : Nat := if a0 then 24 else 19

/-- The lanes of LSE or SPILL: cycle c reads records from `per * c` on, and its lanes are ready four cycles later. -/
def recordLanes (d : RowDesc) (j per es : Nat) (val : Nat → Nat) : List RowLane :=
  (List.range (rowCycles d)).flatMap (fun c =>
    outLanesOf d ((j + 1 + c + 4) % 2 ^ 48) es
      (((List.range per).filter (fun k => decide (per * c + k < d.rows))).map (fun k => val (per * c + k))))

/-- The result lanes of an operation on the side memory (R136, R139). -/
def rowSide (d : RowDesc) (j : Nat) (bd : Band) : Band :=
  match rowForm d.op with
  | .lse => { bd with rowOut := bd.rowOut ++ recordLanes d j 32 4 (fun i => (lseOf (recOf bd (d.recIdx + i))).1.toNat) }
  | .spill =>
    { bd with rowOut := bd.rowOut ++ recordLanes d j 16 8 (fun i => (recBits (recOf bd (d.recIdx + i))).toNat) }
  | _ => bd

/-- The drain point of the active descriptor (R140, R129): the status word, DESCS, and the engine is free. -/
def rowDrainOp (j b : Nat) (s : State) : State :=
  let bd := getBand s b
  match bd.row with
  | none => s
  | some r => match r.drainAt with
    | none => s
    | some d =>
      if ageAt j d < 0 then s
      else
        let s := setBand b { bd with row := none, rowDescs := satAdd 0xFFFF bd.rowDescs 1 } s
        match r.d.status with
        | none => s
        | some (q, a) =>
          let cell := cellOf b (physOf s b q)
          modCell cell (spWrite j (spread 0x80000 (a % 0x80000 / 64 * 64) (leBytes 4 r.flags))) s

/-- The row engine consumes a descriptor from the ROW queue (R132, R141, R164, R166, R186). -/
def rowConsumeOp (p j b : Nat) (s : State) : State :=
  let s := rowDrainOp j b s
  let bd := getBand s b
  match takeEntry p j b .row s with
  | (none, s) => s
  | (some e, s) => match e.body with
    | .row d =>
      if !rowOk d then headFault p j b 0x0213 id s
      else if bd.row.isSome then headFault p j b 0x0214 id s
      else
        let drain := if rowGroups d = 0 then some ((j + rowCycles d + rowDrain (rowA0 s b)) % 2 ^ 48) else none
        let run : RowRun := { d := d, start := j, count := 0, lastAt := j, flags := 0, drainAt := drain, side := 0, laneQ := [] }
        modBand b (fun bd => rowSide d j { bd with
          row := some run, rowOut := bd.rowOut.filter (fun o => decide (ageAt j o.at_ ≤ 0)) }) s
    | _ => s

/-- Lanes that group `g` of a descriptor must have (R132, R137-R139). -/
def groupLanes (d : RowDesc) (g : Nat) : Nat :=
  let f := rowForm d.op
  let per := rowPer f
  let gpr := (d.n + per - 1) / per
  let e := min per (d.n - g % gpr * per)
  match f with
  | .bdot _ | .bemit _ => 2
  | .fill => (min 16 (d.rows - 16 * g) + 7) / 8
  | .merge _ => 1
  | _ => if d.fmtIn = .fp32 then (e + 15) / 16 else 1

/-- Entries of a group of the forward form, by slot: the widened value, present, tail. -/
def groupEntries (d : RowDesc) (g per : Nat) (bytes : List Byte) : List (W32 × Bool × Bool) :=
  let gpr := (d.n + per - 1) / per
  let row := g / gpr
  let e0 := g % gpr * per
  let es := elemBytes d.fmtIn
  (List.range per).map (fun i =>
    let tail := decide (e0 + i ≥ d.n)
    (widen d.fmtIn (field bytes (i * es) es), !tail && !rowMasked d row (d.off + e0 + i), tail))

/-- One group is carried out in cycle `j` (R134-R139). -/
def rowGroup (d : RowDesc) (g j lat : Nat) (lanes : List (List Byte)) (bd : Band) : Band :=
  let f := rowForm d.op
  let per := rowPer f
  let gpr := (d.n + per - 1) / per
  let i := g / gpr
  let firstOf := g % gpr = 0
  let ri := d.recIdx + i
  let bi := d.brecIdx + i
  let es : List (W32 × Bool × Bool) := groupEntries d g per (match f with | .bdot _ | .bemit _ => lanes.headD [] | _ => lanes.flatten)
  let gs := (groupEntries d g per (lanes.getD 1 [])).map (·.1)
  let rec_ := recOf bd ri
  let live := fun (e : W32 × Bool × Bool) => e.2.1 && (rowNorm f || (smValue d.scale e.1).1 ≠ nInf)
  let ready := (j + lat) % 2 ^ 48
  let count := if rowEntries f then min per (d.n - g % gpr * per) else 0
  let gAt := fun (k : Nat) => gs.getD k 0
  match f with
  | .stat k =>
    let r0 := if d.first && firstOf then recInit k else rec_
    let r := match k with
      | .softmax => statSoftmax r0 (es.map (fun (e : W32 × Bool × Bool) => if e.2.1 then smValue d.scale e.1 else nf nInf))
      | _ => statNorm k r0 (es.map (fun (e : W32 × Bool × Bool) => if e.2.1 then some e.1 else none)) (d.off + g % gpr * per)
    rowNote r.2 (putRec ri r.1 bd)
  | .apply norm =>
    let ys := (es.map (fun e => narrowRow d.fmtOut (rowY norm rec_ d.scale e.1 e.2.1 e.2.2)))
    let sz := elemBytes d.fmtOut
    let bd := rowNote (ys.foldl (fun a y => a ||| y.2) (rowState norm rec_)) bd
    { bd with rowOut := bd.rowOut ++ outLanesOf d ready sz ((ys.take count).map (·.1)) }
  | .bdot k =>
    let norm := k != .softmax
    let b0 := if d.first && firstOf then (0, 0) else recOf bd bi
    let gy := (List.range 16).map (fun q =>
      let e : W32 × Bool × Bool := es.getD q (0, false, true)
      if live e then fl2 mul32 (nf (gAt q)) (rowY norm rec_ d.scale e.1 e.2.1 e.2.2) else (0, 0))
    let sgy := treeSum 4 (gy.map (·.1))
    let fl := flagsOf gy ||| sgy.2
    let (r, f2) : (W32 × W32) × Nat := match k with
      | .softmax => let x := add32 b0.1 sgy.1; ((x.1, b0.2), x.2)
      | .lnorm =>
        let sg := treeSum 4 ((List.range 16).map (fun q => if live (es.getD q (0, false, true)) then gAt q else 0))
        let x := add32 b0.1 sg.1
        let y := add32 b0.2 sgy.1
        ((x.1, y.1), x.2 ||| y.2 ||| sg.2)
      | .rms => let y := add32 b0.2 sgy.1; ((b0.1, y.1), y.2)
    rowNote (fl ||| f2) (putRec bi r bd)
  | .bemit k =>
    let norm := k != .softmax
    let st := rowState norm rec_
    let br := recOf bd bi
    let nT := nf (natFp (d.off + d.n))
    let dx := fun (q : Nat) =>
        let e : W32 × Bool × Bool := es.getD q (0, false, true)
        if st = fNanRow ∨ st = fInfRow then (if e.2.2 then (0, 0) else (nan32, 0))
        else if st = fEmpty ∨ !live e then (0, 0)
        else
          let y := rowY norm rec_ d.scale e.1 e.2.1 e.2.2
          match k with
          | .softmax =>
            let v := fl2 mul32 y (sub32 (gAt q) br.1)
            if d.scale = one32 then v else fl2 mul32 v (nf d.scale)
          | .lnorm => fl2 mul32 (nf rec_.2) (fl2 sub32 (fl2 sub32 (nf (gAt q)) (fl2 div32 (nf br.1) nT))
              (fl2 mul32 y (fl2 div32 (nf br.2) nT)))
          | .rms => fl2 mul32 (nf rec_.2) (fl2 sub32 (nf (gAt q)) (fl2 mul32 y (fl2 div32 (nf br.2) nT)))
    let os := (List.range 16).map (fun q => narrowRow d.fmtOut (dx q))
    let again := st &&& (fInfRow ||| fNanRow)
    let bd := if firstOf then rowCount again bd else bd
    let bd := rowNote (os.foldl (fun a y => a ||| y.2) again) bd
    { bd with rowOut := bd.rowOut ++ outLanesOf d ready (elemBytes d.fmtOut) ((os.take count).map (·.1)) }
  | .fill =>
    let bytes := lanes.flatten
    (List.range (min 16 (d.rows - 16 * g))).foldl (fun bd k =>
      let v : W64 := BitVec.ofNat 64 (field bytes (8 * k) 8)
      { bd with records := tset 0 bd.records ((d.recIdx + 16 * g + k) % 131072) v }) bd
  | .merge _ =>
    -- one pair a cycle, the first in the cycle of the release
    let bytes := lanes.flatten
    let q := (List.range (min 8 (d.rows - 8 * g))).map (fun q =>
      ({ at_ := j + q, row := 8 * g + q, m := BitVec.ofNat 32 (field bytes (8 * q) 4), s := BitVec.ofNat 32 (field bytes (8 * q + 4) 4) } : LanePair))
    let bd := { bd with row := bd.row.map (fun r => { r with laneQ := r.laneQ ++ q }) }
    sideStep j 0 bd
  | _ => bd

/-- Lanes released to the row engine in cycle `j` meet the active descriptor (R134, R141). -/
def rowReleaseOp (p j b : Nat) (s : State) : State :=
  let bd := getBand s b
  let lanes := (bd.rowIn.filter (fun x => x.1 == j)).flatMap (fun x => x.2.map (·.2))
  let s := setBand b { bd with rowIn := [] } s
  let unexpected := fun (s : State) => if lanes = [] then s else headFault p j b 0x0216 id s
  match bd.row with
  | none => unexpected s
  | some r =>
    if r.count ≥ rowGroups r.d ∨ ageAt j r.start < 1 then unexpected s
    else
      let need := groupLanes r.d r.count
      let a0 := rowA0 s b
      let done := r.count + 1 ≥ rowGroups r.d
      let r' := { r with count := r.count + 1, lastAt := j, drainAt := if done then some ((j + rowDrain a0) % 2 ^ 48) else none }
      let s := modBand b (fun bd => { bd with
        row := some r', rowOut := bd.rowOut.filter (fun o => decide (ageAt j o.at_ ≤ 0)) }) s
      if lanes.length < need then headFault p j b 0x0215 id s
      else
        let s := modBand b (rowGroup r.d r.count j (rowLat a0) (lanes.take need)) s
        if lanes.length > need then headFault p j b 0x0216 id s else s

/-- ROW_DESCRIPTOR_CONSUMPTION (R132). -/
def execRowDescriptorConsumption (t : Nat) (b : Fin 32) (s : State) : Host.Outcome State Fault Refusal :=
  .next (sequencer t b (fun p j s => rowConsumeOp p j b s) s)

/-- ROW_GROUP_RELEASE (R134). -/
def execRowGroupRelease (t : Nat) (b : Fin 32) (s : State) : Host.Outcome State Fault Refusal :=
  .next (island t b (fun p j s => rowReleaseOp p j b s) s)

/-- ROW_ENGINE_DRAIN (R140). -/
def execRowEngineDrain (t : Nat) (b : Fin 32) (s : State) : Host.Outcome State Fault Refusal :=
  .next (island t b (fun _ j s => rowDrainOp j b s) s)

end Sys2Proof.Machine
end

