-- ==== Sys2Proof/Machine/Partition.lean ====
section
/-! DEFINITION. Band and partition resets, GLB_PART_MAP, LOAD_MAQUETTE and BIND (R25-R28, R69-R73, R160, R161, R193-R195,
R207, R213, R214, R222-R224, R376, R416 of spec/). -/

namespace Sys2Proof.Machine

/-- What is left of a cell by a band reset (Table 16.4, R416): the scratchpad and the program. -/
def cellReset (c : Cell) : Cell := { sp := c.sp, spErr := c.spErr, program := c.program }

/-- What BIND leaves of a cell (R113, R416): also the registers that only resets, a START, a pass or software clear. -/
def cellBound (c : Cell) : Cell :=
  { cellReset c with arrNum := c.arrNum, vecFlags := c.vecFlags, descs := c.descs, rowsDone := c.rowsDone, acc16 := c.acc16 }

/-- What is left of a band (Table 16.4): placement, latency, fence state, programs and allocations, and the count of RING_CHECK
records that R68 starts anew at START. -/
def bandKept (x : Band) : Band :=
  { bound := x.bound, lband := x.lband, rot := x.rot, idle := x.idle, perCell := x.perCell, loaded := x.loaded
    arrCompat := x.arrCompat, vecCompat := x.vecCompat, rowCompat := x.rowCompat, digCompat := x.digCompat
    lost := x.lost, persistPending := x.persistPending, fenceBusy := x.fenceBusy, seqImg := x.seqImg, armImem := x.armImem, armData := x.armData
    allocIn := x.allocIn, allocOut := x.allocOut, ringChecks := x.ringChecks }

/-- What BIND leaves of a band (Table 6.14): also the row engine registers that only resets, a START or software clear. -/
def bandBound (x : Band) : Band :=
  { bandKept x with
    rowFlags := x.rowFlags, rowDescs := x.rowDescs, rowEmpty := x.rowEmpty, rowInf := x.rowInf, rowNan := x.rowNan }

/-- The run state of some bands is emptied (R69, R161, R416); `band` and `cell` say what is left of a band and of a cell. -/
def clearBands (band : Band → Band) (cell : Cell → Cell) (bs : List Nat) (s : State) : State :=
  { s with
    bands := tmap {} (fun b x => if bs.contains b then band x else x) s.bands
    cells := tmap {} (fun n c => if bs.contains (n / 128) then cell c else c) s.cells
    seam := s.seam.filter (fun w => !(bs.contains w.src || bs.contains w.dst)) }

/-- Band resets (Table 16.3). -/
def bandResets (bs : List Nat) (s : State) : State := if bs = [] then s else noteCause 5 (clearBands bandKept cellReset bs s)

/-- A band without its binding; its allocations stand until a BIND or a reset (R215). -/
def unbindBand (x : Band) : Band :=
  { x with
    bound := false, lband := 0, rot := 0, idle := [], perCell := false, loaded := false
    arrCompat := false, vecCompat := false, rowCompat := false, digCompat := false, seqImg := [], armImem := [], armData := [] }
def unbindBands (f : Band → Band) (bs : List Nat) (s : State) : State :=
  { s with bands := tmap {} (fun b x => if bs.contains b then f x else x) s.bands }

/-- The regions of a partition are released, with the capture area, and imports of them detached (R223, R376); a drain may
then be over (R231). -/
def releaseRegions (p : Nat) (s : State) : State :=
  let mine := s.regions.filter (fun x => x.1 / 65536 == p)
  let s := mine.foldl (fun s x => endCopy x.1 .partitionState none s) s
  let s := modPart p (fun q => { q with captureAt := none }) { s with
    regions := (s.regions.filter (fun x => x.1 / 65536 != p)).map (fun x =>
      (x.1, match x.2.attached with
        | some (o, _) => if o = p then { x.2 with attached := none } else x.2
        | none => x.2)) }
  drainChecks (List.range 28) s

/-- Dumps that wait end with TIMEOUT (R313, Table 18.3); with `all`, so does one that copies, whose region goes. -/
def endDumps (p : Nat) (all : Bool) (s : State) : State :=
  let gone := (getPart s p).dump.filter (fun d => all || !d.copying)
  let s := modPart p (fun q => { q with dump := q.dump.filter (fun d => !(all || !d.copying)) }) s
  (s.flights.filter (fun x => x.kind == .dump p && gone.any (fun d => d.ring == x.ring && d.slot == x.slot))).foldl
    (fun s x => finishErr (refOf x) .timeout 1 p 0 s) s

/-- What a partition still had in progress ends, since its state has left the one required (R28). -/
def endOthers (p : Nat) (s : State) : State :=
  land (fun k => match k with
    | .start n | .hold n | .resume n | .cast n | .abort n => n == p
    | .pin n _ => n == p
    | _ => false) (fun r s => finishErr r .partitionState 1 p 0 s) s

/-- A partition reset (Table 16.3): the state is EMPTY, and what the partition held is released. -/
def partReset (p : Nat) (s : State) : State :=
  let bs := bandsOf s p
  let s := releaseContexts p s
  let s := { s with plinths := s.plinths.map (fun (x : Nat × Plinth) => (x.1, { x.2 with ctxs := x.2.ctxs.map (fun (e : Nat × Ctx) =>
    if e.2.part = p then (e.1, { e.2 with moved := 0 }) else e) })) }
  let s := s.chans.foldl (fun s (x : Nat × Chan) => if chPart x.2 = p then closeChan x.1 s else s) s
  let s := endOthers p (endDumps p true (releaseRegions p s))
  let s := unbindBands (fun x => { unbindBand x with allocIn := [], allocOut := [] }) bs (bandResets bs s)
  noteCause 4 (setPart p {} s)

/-- GLB_PART_MAP as stored: eight fields of three bits, 5 to 7 stored as 4 (Table 1.3). -/
def partMapOf (v : Nat) : List Nat := (List.range 8).map (fun g => min 4 (bits v (3 * g) 3))

/-- A write of GLB_PART_MAP that may be done: groups whose partition changes, and the partitions concerned. -/
def partMapChanged (s : State) (m : List Nat) : List Nat :=
  [0, 1, 2, 3].filter (fun p => (List.range 8).any (fun g =>
    s.partMap.getD g 4 != m.getD g 4 && (s.partMap.getD g 4 == p || m.getD g 4 == p)))

/-- Whether a partition map may change in a state (R26). -/
def partMapState (s : State) (p : Nat) : Bool := [PState.empty, .loaded, .done].contains (getPart s p).st

/-- A write of GLB_PART_MAP (R26, Table 16.3): the partitions whose groups change are reset; false when refused. -/
def writePartMap (v : Nat) (s : State) : Bool × State :=
  let m := partMapOf v
  let ps := partMapChanged s m
  if ps.all (partMapState s) then (true, { ps.foldl (fun s p => partReset p s) s with partMap := m }) else (false, s)

/-- What a command on a partition claims besides it: its regions (Table 15.7). -/
def partClaims (s : State) (p : Nat) : List Claim :=
  .part p :: (s.regions.filter (fun x => x.1 / 65536 == p)).map (fun x => .region p (x.1 % 65536))

/-- Fenced positions of a band. -/
def fencedAt (s : State) (b : Nat) : List Nat := (s.fence.filter (fun c => c / 128 == b)).map (· % 128)

/-- Whether a rotation puts every fenced position of a band at an idle one (R71). -/
def rotFits (fenced idle : List Nat) (r : Nat) : Bool := fenced.all (fun pos => idle.contains ((pos + 128 - r) % 128))

/-- Usable bands of a partition (R71). -/
def usableBands (s : State) (p : Nat) : List Nat := (bandsOf s p).filter (fun b => !(getBand s b).lost)

/-- Stages that a seam route passes (R66). -/
def seamPath (src dst : Nat) : List Nat :=
  let chain := fun a b => (List.range (max a b - min a b + 1)).map (fun i => min a b + i)
  if src / 16 = dst / 16 then chain src dst
  else chain src (src / 16 * 16 + 15) ++ chain dst (dst / 16 * 16 + 15)

/-- Whether the seam routes between bands placed so far satisfy R66. -/
def seamsOk (s : State) (p : Nat) (m : Maquette) (pl : List (Nat × Nat)) : Bool :=
  m.seams.all (fun r => match pl[r.src]?, pl[r.dst]? with
    | some (a, _), some (b, _) => trackOk a b r.track && (seamPath a b).all (fun x => partOf s x == p)
    | _, _ => true)

/-- Whether the targets of contexts placed so far lie on the plinth die of their owner (R214). -/
def targetsOk (m : Maquette) (pl : List (Nat × Nat)) : Bool :=
  m.contexts.all (fun e => match pl[field e 0 1]? with
    | some (b, _) => (entryTargets e).all (fun l => match pl[l]? with
      | some (c, _) => plinthOf b == plinthOf c
      | none => true)
    | none => true)

/-- Whether no plinth die serves bands with more than 65,536 contexts (R214). -/
def ctxsOk (m : Maquette) (pl : List (Nat × Nat)) : Bool :=
  [0, 1, 2, 3].all (fun k => decide ((m.contexts.filter (fun e =>
    ((pl[field e 0 1]?).map (fun x => plinthOf x.1)) == some k)).length ≤ 65536))

/-- The search of R70: `cands` gives the choices of a logical band in their order. -/
def searchBind (ok : List (Nat × Nat) → Bool) (cands : Nat → List (Nat × Nat)) :
    Nat → List (Nat × Nat) → Option (List (Nat × Nat))
  | 0, pl => some pl
  | n + 1, pl => firstSome (fun (c : Nat × Nat) =>
      if pl.any (fun x => x.1 == c.1) || !ok (pl ++ [c]) then none else searchBind ok cands n (pl ++ [c])) (cands pl.length)

/-- The candidates of a logical band: each usable band with the first rotation that fits the fences. -/
def bindCands (s : State) (p : Nat) (m : Maquette) (fences : Bool) (lb : Nat) : List (Nat × Nat) :=
  let idle := ((m.bands[lb]?).map (·.idle)).getD []
  (usableBands s p).filterMap (fun b =>
    ((List.range 128).find? (fun r => !fences || rotFits (fencedAt s b) idle r)).map (fun r => (b, r)))

/-- The first binding of a maquette (R70, R71). -/
def findBind (s : State) (p : Nat) (m : Maquette) (fences : Bool) : Option (List (Nat × Nat)) :=
  searchBind (fun pl => seamsOk s p m pl && targetsOk m pl && ctxsOk m pl) (bindCands s p m fences) m.bands.length []

/-- Checks 6 and 7 of Table 9.10: a status on failure, with the check. -/
def placeChecks (s : State) (p : Nat) (m : Maquette) : Option (Status × Nat) :=
  if m.bands.length > (usableBands s p).length ∨ m.regions.length > 65536 ∨ !maqAllocOk m ∨ (findBind s p m false).isNone then
    some (.noResource, 6)
  else if (findBind s p m true).isNone then some (.fenceConflict, 7)
  else none

/-- The tier preference of a region (R224). -/
def prefOf (m : Maquette) (h : Nat) (e : List Byte) : Nat :=
  if field e 4 1 ≠ 0 then field e 4 1
  else
    let hints := (m.contexts.filter (fun c => ctxRegion (c.drop 16) == h)).map (fun c => ctxHint (c.drop 16))
    if hints.contains 1 then 1 else if hints.contains 2 then 2 else 0

/-- A region as its declaration gives it (R222). -/
def regionOf (m : Maquette) (h : Nat) (e : List Byte) : Region :=
  let f := field e 7 1
  { size := field e 0 4, tier := field e 4 1, spread := decide (field e 5 1 = 1), affinity := field e 6 1, pref := prefOf m h e
    pinFlag := bitOf f 0, param := bitOf f 1, imported := bitOf f 3 }

/-- The declared regions of a maquette, by key. -/
def regionsOf (p : Nat) (m : Maquette) : List (Nat × Region) :=
  (List.range m.regions.length).map (fun h => (regKey p h, regionOf m h (m.regions.getD h [])))

/-- Order of placement (R224): class of tier preference, then larger regions, then lower handles. -/
def placeClass (pref : Nat) : Nat := if pref = 3 then 0 else if pref = 1 then 1 else if pref = 0 then 2 else 3
def placeBefore (x y : Nat × Region) : Bool :=
  let a := placeClass x.2.pref
  let b := placeClass y.2.pref
  decide (a < b) || (a == b && (decide (x.2.size > y.2.size) || (x.2.size == y.2.size && decide (x.1 < y.1))))
def placeInsert (x : Nat × Region) : List (Nat × Region) → List (Nat × Region)
  | [] => [x]
  | y :: r => if placeBefore x y then x :: y :: r else y :: placeInsert x r

/-- Place one region (R222-R224); `zeroed`, `uc` as its declaration gives them. -/
def placeRegion (k zeroed uc : Nat) (x : Nat × Region) (s : State) : Option State :=
  let r := x.2
  (place s r.size r.spread r.pref k []).map (fun y =>
    let s := { s with regions := tset {} s.regions x.1 { r with bound := true, members := y.1, start := y.2, count := uc, pinned := r.pinFlag } }
    if zeroed = 1 then clearRange y.1 y.2 (memberBytes r.size y.1.length) s else s)

/-- Place the regions of a maquette in the order of R224. -/
def placeAll (m : Maquette) (pl : List (Nat × Nat)) : List (Nat × Region) → State → Option State
  | [], s => some s
  | x :: r, s =>
    let h := x.1 % 65536
    let e := m.regions.getD h []
    match placeRegion (prefPlinth m pl h x.2) (bits (field e 7 1) 2 1) (if x.2.param then field e 8 4 else 0) x s with
    | some s => placeAll m pl r s
    | none => none

/-- The capture area (R376): the plinth die of the lowest group first. -/
def placeCapture (p : Nat) (s : State) : Option State :=
  let k := plinthOf ((bandsOf s p).headD 0)
  (firstSome (fun d => placeOn s 1024 false [] 0 ((k + d) % 4)) [0, 1, 2, 3]).map (fun y =>
    modPart p (fun q => { q with captureAt := some (y.1.headD 0, y.2) }) s)

/-- Whether each plinth die could hold the contexts once its drains are over. -/
def roomWhenDrained (s : State) (m : Maquette) (pl : List (Nat × Nat)) : Bool :=
  [0, 1, 2, 3].all (fun k =>
    let need := (m.contexts.filter (fun e => ((pl[field e 0 1]?).map (fun x => plinthOf x.1)) == some k)).length
    let used := ((getPl s k).ctxs.filter (fun x => x.2.st != .free && x.2.st != .draining)).length
    decide (need + used ≤ 65536))

/-- A physical band as BIND leaves it (R160, R191, R214, R416). -/
def bindBand (s : State) (m : Maquette) (lb r : Nat) : Band → Band := fun x =>
  let e := m.bands.getD lb { idle := [], perCell := false, nContexts := 0, seqImg := [], armImg := [], cellImgs := [], seqCrc := 0, armCrc := 0, cellCrcs := [] }
  let compat := fun i => s.ident.b0 && decide (maqLat m i = 0)
  let alloc := fun out => (List.range 8).foldl (fun t x => tset 0 t x (slotsOf m.contexts lb x out)) []
  { bandBound x with
    bound := true, lband := lb, rot := r, idle := e.idle.map (fun q => (q + r) % 128), perCell := e.perCell, loaded := true
    arrCompat := compat 0, vecCompat := compat 1, rowCompat := compat 2, digCompat := compat 3
    seqImg := e.seqImg, armImem := e.armImg.take 32768, armData := e.armImg.drop 32768, allocIn := alloc false, allocOut := alloc true }

/-- Programs of the cells of a band in per-cell mode (R160). -/
def bindCells (m : Maquette) (lb b r : Nat) (s : State) : State :=
  let e := (m.bands[lb]?)
  match e with
  | none => s
  | some e => (List.range 128).foldl (fun s pos =>
      let q := (pos + 128 - r) % 128
      let prog := if e.perCell && !e.idle.contains q && !s.fence.contains (cellOf b pos) then
        ((e.cellImgs.find? (fun x => x.1 == q)).map (·.2)).getD [] else []
      modCell (cellOf b pos) (fun c => { cellBound c with program := prog }) s) s

/-- BIND with a binding chosen (R195, R213, R214, R223, R224, R376). -/
def bindTo (p : Nat) (m : Maquette) (pl : List (Nat × Nat)) (s : State) : Except Status State :=
  let decl := s.regions.filter (fun x => x.1 / 65536 == p)
  if decl.any (fun x => x.2.imported && (resolve s p (x.1 % 65536)).isNone) then .error .noResource
  else
    let order := (decl.filter (fun x => !x.2.imported)).foldl (fun l x => placeInsert x l) []
    match (placeAll m pl order s).bind (placeCapture p) with
    | none => .error .noResource
    | some t =>
      let t := { t with regions := t.regions.map (fun x =>
        if x.1 / 65536 = p ∧ x.2.imported = true then (x.1, { x.2 with bound := true }) else x) }
      let t := modPart p (fun q => { q with binding := pl, bindOk := true }) t
      match allocContexts p m.contexts [] t with
      | none => .error (if roomWhenDrained s m pl then .notDrained else .noResource)
      | some (cm, t) =>
        let t := (List.range pl.length).foldl (fun t lb => match pl[lb]? with
          | some (b, r) => bindCells m lb b r (modBand b (bindBand s m lb r) t)
          | none => t) (clearBands bandBound cellBound (pl.map (·.1)) t)
        let t := if bitOf (maqFlags m) 1 then { t with wdog := tset 0x01000000 t.wdog p (maqWdog m) } else t
        .ok (modPart p (fun q => { q with st := .bound, ctxMap := cm }) t)

/-- The binding that BIND uses, or the status that refuses it (R70, R71, R195). -/
def bindChoice (s : State) (p : Nat) (m : Maquette) (explicit : Bool) (table : List (Nat × Nat)) :
    Except (Status × Nat) (List (Nat × Nat)) :=
  if explicit then
    let pl := table.take m.bands.length
    if pl.any (fun x => !(usableBands s p).contains x.1) ∨ !noDup (pl.map (·.1)) ∨ m.regions.length > 65536 ∨ !maqAllocOk m ∨
        !seamsOk s p m pl ∨ !targetsOk m pl ∨ !ctxsOk m pl then .error (.noResource, 6)
    else if (List.range pl.length).any (fun lb => match pl[lb]?, m.bands[lb]? with
        | some (b, r), some e => !rotFits (fencedAt s b) e.idle r
        | _, _ => true) then .error (.fenceConflict, 7)
    else .ok pl
  else match placeChecks s p m with
    | some x => .error x
    | none => match findBind s p m true with
      | some pl => .ok pl
      | none => .error (.fenceConflict, 7)

/-- The bytes of a binding report, NBANDS entries of band and rotation (Table 15.7). -/
def bindReport (pl : List (Nat × Nat)) : List Byte := pl.flatMap (fun x => [BitVec.ofNat 8 x.1, BitVec.ofNat 8 x.2])

/-- The first piece of a write that lies at an unpopulated address of a tier. -/
def emptyPiece (s : State) (a : Nat) : Nat → Nat → Option Nat
  | 0, _ => none
  | f + 1, n =>
    let k := min n (64 - a % 64)
    if k = 0 then none
    else if !inWindow a && !(populated s a && populated s (a + k - 1)) then some a
    else emptyPiece s (a + k) f (n - k)

/-- Bytes written by a command to a bulk address, what falls on an unpopulated one discarded and logged (R9, R311): host memory, a tier, or a scratchpad through its window, under the
rules of Table 10.1 (R181). -/
def bulkWrite (loc addr : Nat) (bs : List Byte) (s : State) : State :=
  if loc = 0 then hostOut addr bs s
  else
    let t := (spaceWrite addr (bs.length / 64 + 2) bs s).2
    match emptyPiece s addr (bs.length / 64 + 2) bs.length with
    | some a => unpopulated windowWho a t
    | none => t

/-- Bytes of a partition's binding table and of its report: NBANDS entries of 2 (R311). -/
def tableBytes (s : State) (p : Nat) : Nat := match (getPart s p).maq with
  | some m => 2 * m.bands.length
  | none => 0

/-- The effect of BIND on a partition in LOADED. With `badLoad` a program that was loaded does not verify (R160, R195): the
partition stays in LOADED with no band bound. -/
def bindOp (r : CmdRef) (p loc : Nat) (explicit : Bool) (table : List (Nat × Nat)) (report : Nat) (badLoad : Bool) (s : State) : State :=
  let q := getPart s p
  match q.st, q.maq with
  | .loaded, some m =>
    if explicit && (decide (table.length < m.bands.length) || table.any (fun x => decide (x.1 ≥ 32 ∨ x.2 ≥ 128))) then
      finish r .badParam 0 noRec s
    else
      let keys := (s.regions.filter (fun x => x.1 / 65536 == p && x.2.imported)).filterMap (fun x => (resolve s p (x.1 % 65536)).map (·.1))
      let s := endCopies keys s
      match bindChoice s p m explicit table with
      | .error (st, d) => finishErr r st 1 p d s
      | .ok pl => match bindTo p m pl s with
        | .error st => finishErr r st 1 p 0 s
        | .ok t => if badLoad then finishErr r .fault 1 p 0 s else
          let t := if report = 0 then t else bulkWrite loc report (bindReport pl) t
          finishOk r (pl.foldl (fun a x => a ||| 2 ^ x.1) 0) t
  | _, _ => finishErr r .partitionState 1 p 0 s

/-- The failing check of Table 9.10 after check 1, with its status. -/
def loadCheck (s : State) (p size : Nat) (m : Maquette) : Option (Status × Nat) :=
  if !maqFormOk m ∨ maqSize m > size then some (.badParam, 2)
  else if custOutcome s s.sec.reqMaq m.sigBlock m.signedBytes ≠ 0 then some (.signatureRejected, 3)
  else if !maqLatOk s m then some (.steppingMismatch, 4)
  else if !m.bands.all bandProgsOk then some (.badParam, 5)
  else placeChecks s p m

/-- LOAD_MAQUETTE takes effect (R194, R207, R223). -/
def loadTo (p : Nat) (m : Maquette) (s : State) : State :=
  let s := endDumps p true (releaseRegions p (releaseContexts p s))
  let s := unbindBands unbindBand (bandsOf s p) s
  let s := { s with
    regions := (regionsOf p m).foldl (fun t x => tset {} t x.1 x.2) s.regions
    sec := { s.sec with maqDigest := tset [] s.sec.maqDigest p (Config.sha384 (m.signedBytes ++ m.sigBlock.getD [])) } }
  modPart p (fun q => { q with
    st := .loaded, held := false, faultCast := false, faulted := false, cut := none, pendCast := none, pendFatal := none
    maq := some m, binding := [], bindOk := false, ctxMap := [], runs := 0, taps := [], sfaults := [] }) s

/-- The effect of LOAD_MAQUETTE once its image is read: checks 2 to 7 of Table 9.10, and the load. Every image is hashed for its
measurement (R348), a cryptographic service that the security block gives only while it is OPERATIONAL (R343). -/
def loadOp (r : CmdRef) (p size : Nat) (m : Maquette) (s : State) : State :=
  if maqFormOk m && decide (maqSize m ≤ size) && s.sec.st != .operational then
    finishErr r .fault 1 p 3 s
  else match loadCheck s p size m with
    | some (.badParam, _) => finish r .badParam 0 noRec s
    | some (.signatureRejected, _) =>
      let (i, s) := rejectImage (custOutcome s s.sec.reqMaq m.sigBlock m.signedBytes) 1 r.opcode r.ring s
      finish r .signatureRejected 0 i s
    | some (st, d) => finishErr r st 1 p d s
    | none => finishOk r 0 (loadTo p m s)

/-- Whether the bytes that device memory gives are those of an image; host memory is not the model's. -/
def imageIs (bs : Option (List Byte)) (m : Maquette) : Bool :=
  bs.all (fun b => b.take (maqSize m) == m.signedBytes ++ m.sigBlock.getD [])

/-- LOAD_MAQUETTE (R194). The spec gives a band entry of an image no layout, so the image is the operand, from device memory too; an
operand that is not what stands there is no image of the format (log entry 8). -/
def execLoadMaquette (h : CmdHdr) (part loc addr size : Nat) (img : Maquette) (s : State) : Host.Outcome State Fault Refusal :=
  .next (command h {
    op := 0x10, fields := [(8, 1, part), (9, 1, loc), (16, 8, addr), (24, 8, size)], loc := some loc, params := decide (part < 4 ∧ 1 ≤ size) && locOk h loc && bulkOk s loc addr size
    claims := partClaims s part, modFatal := true } (fun r s =>
      if (getPart s part).st = .running ∨ (getPart s part).st = .paused then finishErr r .partitionState 1 part 1 s
      else bulkIn r loc addr size (fun bs s => if imageIs bs img then loadOp r part size img s else finish r .badParam 0 noRec s) s) s)

/-- The binding table that bytes spell: 2-byte entries of global band and rotation (Table 15.7). -/
def tableOf : List Byte → List (Nat × Nat)
  | b :: r :: rest => (b.toNat, r.toNat) :: tableOf rest
  | _ => []

/-- BIND (R195). -/
def execBind (h : CmdHdr) (part loc : Nat) (explicit : Bool) (table : List (Nat × Nat)) (report : BindReport) (s : State) :
    Host.Outcome State Fault Refusal :=
  .next (command h {
    op := 0x11, fields := [(8, 1, part), (9, 1, loc), (10, 1, b2n explicit), (16, 8, report.table), (24, 8, report.addr)], loc := some loc
    params := decide (part < 4) && locOk h loc && (report.addr == 0 || bulkOk s loc report.addr (tableBytes s part)) &&
      (!explicit || bulkOk s loc report.table (tableBytes s part))
    claims := partClaims s part, modFatal := true } (fun r s =>
      let go := fun (bs : Option (List Byte)) =>
        bindOp r part loc explicit (match bs with
          | some b => tableOf b
          | none => table) report.addr report.badLoad
      if explicit && (getPart s part).st == .loaded then bulkIn r loc report.table (tableBytes s part) go s else go none s) s)

end Sys2Proof.Machine
end

