-- ==== Sys2Proof/Machine/MemCmds.lean ====
section
/-! DEFINITION. Region commands, migration, memory service and memory events (R30, R217-R231, R314 of spec/). -/

namespace Sys2Proof.Machine

/-- RESULT of REGION_MAP QUERY and PIN (Table 15.7). -/
def regionResult (entry r : Region) : Nat :=
  let u := r.members.headD 0
  (if u < 16 then 1 else 2) + u * 2 ^ 8 +
  (b2n r.pinned + 2 * b2n r.spread + 4 * b2n entry.imported) * 2 ^ 16 + r.members.length * 2 ^ 24 + regionAddr r 0 * 2 ^ 32

/-- The channel speed of a DIMM (Table 11.1), and whether it is accepted. -/
def dimmOk (d : DimmProbe) : Bool := d.rdimmEcc && (d.capGiB == 64 || d.capGiB == 128 || d.capGiB == 256) && decide (d.ratedMts ≥ 6400)
def dimmRate (d : DimmProbe) : Nat := if d.ratedMts ≥ 8000 then 2 else if d.ratedMts ≥ 7200 then 1 else 0

/-- A channel takes the DIMM found in its socket (R217): false when it is refused. -/
def takeDimm (c : Nat) (found : Option DimmProbe) (s : State) : Bool × Option Nat × State :=
  let off := fun (s : State) => modDev (16 + c) (fun d => { d with st := 3, cap := 0, rated := 0, rate := 0 }) s
  match found with
  | none => (false, none, off s)
  | some d =>
    if !dimmOk d then
      let (s, i) := logRec (mkRec s .deferred 0x0504 (some (16 + c)) none [(6, 0xFF), (7, 3), (8, 0xFFFF), (10, 0xFF), (12, 0xFFFFFFFF)]) s
      (false, i, off s)
    else if !d.testOk then (false, none, off s)
    else (true, none, zeroDevice (16 + c) (modDev (16 + c) (fun x => { x with st := 1, cap := d.capGiB, rated := d.capGiB, rate := dimmRate d }) s))

/-- A service command begins to empty a device (R231): copies to it end, and every movable region on it gets a new home. -/
def beginDrain (u : Nat) (s : State) : State :=
  let s := (s.regions.filter (fun x => (x.2.target.map (fun y => y.1.contains u)) == some true)).foldl (fun s x => stopCopy x.1 .noResource none s) s
  (s.regions.filter (fun x => drainsRegion u x.2)).foldl (fun s x =>
    if x.2.target.isSome || !mayMove s x.1 x.2 then s
    else match drainHome s u x.1 x.2 with
      | some y => modReg x.1 (fun r => { r with target := some y, copied := 0 }) s
      | none => s) s

/-- Whether a copy is that of a migration pass: no command asked for it, and no device is being drained of it (R227). -/
def passMove (s : State) (key : Nat) : Bool :=
  !s.flights.any (fun x => match x.kind with
    | .migrate p h => regKey p h == key
    | .dimmOff c => drainsRegion (16 + c) (getReg s key)
    | .stack n _ => drainsRegion n (getReg s key)
    | _ => false)

/-- Insert a region by ascending size. -/
def bySize (x : Nat × Region) : List (Nat × Region) → List (Nat × Region)
  | [] => [x]
  | y :: r => if x.2.size < y.2.size then x :: y :: r else y :: bySize x r

/-- Whether a migration pass considers a region (R226, R227, R368). -/
def passTakes (s : State) (key : Nat) (r : Region) : Bool :=
  let pl := getPl s (plinthOfUnit (r.members.headD 0))
  r.bound && !r.imported && r.target.isNone && mayMove s key r && pl.autoMigrate && !dumpReads s key &&
    (pl.migMax == 0 || decide (r.size ≤ pl.migMax * 16384))

/-- Regions that a migration pass considers, smallest first (R227). -/
def passRegions (s : State) : List (Nat × Region) :=
  (s.regions.filter (fun x => passTakes s x.1 x.2)).foldl (fun l x => bySize x l) []

/-- Preferred plinth die of a bound region. -/
def homePref (s : State) (key : Nat) (r : Region) : Nat :=
  match (getPart s (key / 65536)).maq with
  | some m => prefPlinth m (getPart s (key / 65536)).binding (key % 65536) r
  | none => 0

/-- Free HBM of a plinth die, in bytes, and its capacity. A stack that is not ONLINE has none free (Table 11.9). -/
def hbmFree (s : State) (k : Nat) : Nat := ([0, 1, 2, 3].map (fun i => freeOn s (4 * k + i))).foldl (· + ·) 0
def hbmCap (s : State) (k : Nat) : Nat := ([0, 1, 2, 3].map (fun i => (getDev s (4 * k + i)).cap * gib)).foldl (· + ·) 0

/-- Whether a region lies in DDR5. -/
def inDdr (r : Region) : Bool := decide (r.members.headD 0 ≥ 16)

/-- Whether no context has read a region during the last COLD_RUNS runs of its partition (R227). -/
def coldRegion (s : State) (key : Nat) (r : Region) : Bool :=
  decide (r.lastRead + max 1 (getPl s (plinthOfUnit (r.members.headD 0))).coldRuns ≤ (getPart s (key / 65536)).runs)

/-- Least recently read first, by the GTC of the last read. -/
def byRead (x : Nat × Region) : List (Nat × Region) → List (Nat × Region)
  | [] => [x]
  | y :: r => if x.2.readGtc < y.2.readGtc then x :: y :: r else y :: byRead x r

/-- The home to which a pass moves a region under one of its three rules (R227), as memory stands at its turn. -/
def passHome (s : State) (rule key : Nat) : Option (List Nat × Nat) :=
  let r := getReg s key
  let k := homePref s key r
  let home := plinthOfUnit (r.members.headD 0)
  if !passTakes s key r then none
  else if rule = 1 then
    if (r.pref = 1 ∨ r.pref = 3) ∧ inDdr r = true then
      firstSome (fun d => placeOn s r.size r.spread [] 0 ((k + d) % 4)) [0, 1, 2, 3]
    else none
  else if rule = 2 then
    if home = k then none
    else (place s r.size r.spread r.pref k []).filter (fun y => plinthOfUnit (y.1.headD 0) == k)
  else if !inDdr r && r.pref != 3 && coldRegion s key r &&
      decide (hbmFree s home * 100 < min 100 (getPl s home).lowWater * hbmCap s home) then
    placeOn s r.size r.spread [] 1 home
  else none

/-- The first move of those that a pass has still to look at that has a home, and what comes after it. -/
def passNextOf (s : State) : List (Nat × Nat) → Option (Nat × List Nat × Nat) × List (Nat × Nat)
  | [] => (none, [])
  | x :: l => match passHome s x.1 x.2 with
    | some y => (some (x.2, y.1, y.2), l)
    | none => passNextOf s l

/-- A pass goes on, one move at a time (R227, R228): the next one begins once no move of a pass is in progress. -/
def passNext (s : State) : State :=
  if s.passQ = [] ∨ s.regions.any (fun x => x.2.target.isSome && passMove s x.1) = true then s
  else match passNextOf s s.passQ with
    | (some (key, y), l) => modReg key (fun r => { r with target := some y, copied := 0 }) { s with passQ := l }
    | (none, _) => { s with passQ := [] }

/-- A migration pass (R227): its moves in the order of their rules. -/
def migrationPass (s : State) : State :=
  let l := passRegions s
  passNext { s with passQ := s.passQ ++ l.map (fun x => (1, x.1)) ++ l.map (fun x => (2, x.1)) ++
    (l.foldl (fun l x => byRead x l) []).map (fun x => (3, x.1)) }

/-- One unit of a copy, and with the last one the switch (R228). A codeword that cannot be read, or a source that is no longer
populated, stops the copy. A pass waits while a dump reads the region (R368). -/
def migrateUnit (key : Nat) (s : State) : State :=
  let s := passNext s
  let r := getReg s key
  match r.target with
  | none => s
  | some (ms, st) =>
    if passMove s key && dumpReads s key then s else
    match copyUnit r ms st r.copied s with
    | (false, t) => passNext (stopCopy key .fault (firstRec 0x0502 s t) t)
    | (true, s) =>
      let s := ([r, { r with members := ms, start := st }].filterMap (fun g => unitOf (regionAddr g (r.copied * 65536)))).foldl
        (fun s x => chargeMem x.1 65536 s) s
      if r.copied + 1 < r.size then modReg key (fun x => { x with copied := r.copied + 1 }) s
      else
        let s := modReg key (fun x => { x with members := ms, start := st, target := none, copied := 0 }) s
        let s := land (fun k => k == .migrate (key / 65536) (key % 65536)) (fun f s =>
          let n := getReg s key
          finishOk f (regionResult n n) s) s
        passNext (drainChecks r.members s)

/-- Partitions with a region on a memory unit. -/
def unitParts (s : State) (u : Nat) : List Nat :=
  [0, 1, 2, 3].filter (fun p => s.regions.any (fun x =>
    x.1 / 65536 == p && x.2.bound && (onUnit x.2 u || ((resolve s p (x.1 % 65536)).map (fun y => y.2.members.contains u)) == some true)))

/-- Context of a memory record that names no line (Table 11.6). -/
def noLine (a : Nat) : List (Nat × Nat) := [(0, a), (6, 0xFF), (8, 0xFFFF), (10, 0xFF), (12, 0xFFFFFFFF)]

/-- A shared unit fails: each partition that uses it receives the error (R30). -/
def sharedError (code unit : Nat) (ps : List Nat) (a : Nat) (s : State) : State :=
  if ps = [] then logDeferred code (some unit) none (noLine a) s
  else ps.foldl (fun s p => jobFatal p code (some unit) (noLine a) .otherFatal none s) s

/-- A shared unit with no alternative path fails (R30): module-fatal when it serves every partition that is in use, and else
job-fatal for each that uses it. Either way each partition that uses it has its own record. -/
def unitFails (code unit : Nat) (ps : List Nat) (a : Nat) (s : State) : State :=
  let live := [0, 1, 2, 3].filter (livePart s)
  if live ≠ [] ∧ live.all (fun p => ps.contains p) = true then
    live.foldl (fun s p => moduleFatalOf (some p) code (some unit) (noLine a) s) s
  else sharedError code unit ps a s

/-- A memory device is gone: a stack that ends in FAILED is recorded in flash (R231). -/
def deviceGone (u st : Nat) (s : State) : State :=
  let s := modDev u (fun d => { d with st := st, cap := 0, rate := 0, rated := if st = 0 then 0 else d.rated }) s
  if u < 16 ∧ st = 5 then asyncCommit (.stackFailed u true) s else s

/-- The copies to or from a device that is gone end with the record of its loss (R231, R385). -/
def copiesLost (u : Nat) (i : Option Nat) (s : State) : State :=
  (s.regions.filter (fun x => (x.2.target.map (fun y => y.1.contains u || x.2.members.contains u)) == some true)).foldl
    (fun s x => stopCopy x.1 .fault i s) s

/-- Partitions that use the link of a plinth die to the I/O die. DESIGN CHOICE (log entry 32): the spec does not say which do; the
model takes those that use the die. -/
def dieParts (s : State) (k : Nat) : List Nat :=
  [0, 1, 2, 3].filter (fun p => livePart s p && ((bandsOf s p).any (fun b => plinthOf b == k) || regionOnDie s p k))

/-- The two ends of a plinth-to-plinth link (Table 19.3). -/
def linkEnds : Nat → Nat × Nat
  | 0 => (0, 1) | 1 => (0, 2) | 2 => (0, 3) | 3 => (1, 2) | 4 => (1, 3) | _ => (2, 3)

/-- Partitions whose data crosses a plinth-to-plinth link (R17): a context at one end moves data of a region at the other, an
update engine at one end (R264) writes a parameter region at the other, or a region is being copied from one end to the other
(R228). -/
def crossParts (s : State) (k m : Nat) : List Nat :=
  let far := fun (k m p : Nat) => (getPl s k).ctxs.any (fun e => e.2.part == p && e.2.st != .free &&
    ((resolve s p (ctxRegion e.2.img)).map (fun y => y.2.members.any (fun u => plinthOfUnit u == m))) == some true)
  let home := fun (p h : Nat) => (resolve s p h).map (fun y => y.2.members.map plinthOfUnit)
  let engine := fun (k m p : Nat) => s.chans.any (fun x => chPart x.2 == p && chOwner x.2 && chRoutes x.2 &&
    (home p x.2.mreg).any (fun l => l.contains k) && (home p x.2.preg).any (fun l => l.contains m))
  let copy := fun (k m p : Nat) => s.regions.any (fun x => x.1 / 65536 == p && x.2.bound && !x.2.imported &&
    x.2.members.any (fun u => plinthOfUnit u == k) && x.2.target.any (fun y => y.1.any (fun u => plinthOfUnit u == m)))
  [0, 1, 2, 3].filter (fun p => far k m p || far m k p || engine k m p || engine m k p || copy k m p || copy m k p)

/-- The failure of a shared unit (R30). DEDUCED (log entry 32): none of these has an alternative path, since nothing is relayed
through a second plinth die (R17). -/
def sharedFailure (u : SharedUnit) (s : State) : State :=
  match u with
  | .device n => if n < 28 then
      let t := unitFails 0x0505 n (unitParts s n) (unitBase n) (deviceGone n 5 s)
      copiesLost n (firstRec 0x0505 s t) t
    else s
  | .plinthLink i => if i < 6 then unitFails 0x0506 (0x20 + i) (crossParts s (linkEnds i).1 (linkEnds i).2) 0 s else s
  | .ioLink k => if k < 4 then unitFails 0x0506 (0x28 + k) (dieParts s k) 0 s else s

/-- A codeword found uncorrectable or bad by the scrub is rewritten with POISON (Table 11.3). -/
def poisonCw (c : Nat) (bs : List Byte) (s : State) : State :=
  let s := cwWrite c bs s
  { s with poison := tset false s.poison c true }

/-- The scrub of one codeword. -/
def scrubCw (flips : Noise) (c : Nat) (s : State) : State :=
  let w : MemWho := { src := 2, part := none, ctx := none, pol := 1 }
  match cwDecode s flips c with
  | (_, .clean) => s
  | (bs, .corrected i) => cwWrite c bs (noteCe w (c * 32) i s)
  | (bs, .bad i) => poisonCw c bs (noteUe w (c * 32) i s)

/-- One 2 KiB request of the patrol scrub (R221, Table 11.4); `flips` by line of the request. A pass over the plinth's
devices is counted when its last online device has been gone through. -/
def scrubStep (u : Nat) (flips : List (Nat × Noise)) (s : State) : State :=
  let d := getDev s u
  if d.st ≠ 1 ∨ s.clk.run = .stopped then s
  else
    let line0 := (unitBase u + d.scrubAt) / 64
    let s := (List.range 32).foldl (fun s i =>
      let fl := (flips.filter (fun x => x.1 == i)).flatMap (·.2)
      scrubCw fl ((line0 + i) * 2 + 1) (scrubCw fl ((line0 + i) * 2) s)) s
    let s := moveMem (unitBase u + d.scrubAt) 2048 s
    let next := d.scrubAt + 2048
    if next ≥ d.cap * gib then
      let k := plinthOfUnit u
      let last := ((tierUnits s 0 k ++ tierUnits s 1 k).getLast?) == some u
      modPl k (fun p => { p with passes := if last then satAdd 0xFFFF p.passes 1 else p.passes })
        (modDev u (fun d => { d with scrubAt := 0 }) s)
    else modDev u (fun d => { d with scrubAt := next }) s

/-- The answer to a read of an agent: the data, or a bus error, which the host receives as Completer Abort (Table 11.3). -/
def answerRead (a : Agent) (addr : Nat) (o : Option (List Byte)) (s : State) : State :=
  match a, o with
  | .host, some bs => emit (.completion bs) s
  | .host, none => completerAbort s
  | .core n, some bs => emit (.coreData n bs) s
  | .core n, none => coreFaults n 5 addr s

/-- The response to the read of one line (R220, Table 11.3). One to a context of another generation is dropped and counted (R206). -/
def readResponse (rd : MemReader) (a : Nat) (flips : Noise) (s : State) : State :=
  let c := a / 64 * 2
  if !populated s a then s
  else
    let s := match rd with
      | .window _ | .merge _ => moveMem (a / 64 * 64) 64 s
      | _ => s
    let owner := (regionOfAddr s a).map (· / 65536)
    let both := fun (w : MemWho) (s : State) =>
      let (_, ok, s) := cwReads w flips c 2 s
      (ok, s)
    let whole : MemWho := { src := 3, part := none, ctx := none, pol := 1 }
    match rd with
    | .stream ctx gen =>
      let k := ctx / 65536
      let n := ctx % 65536
      let x := getCtx s k n
      if gen % 65536 ≠ x.gen % 65536 then staleMsg k s
      else if x.st ≠ .running then s
      else
        let (ok, s) := both { src := 0, part := some x.part, ctx := some ctx, pol := 2 } s
        if ok then s else modCtx k n (fun y => { y with st := .fault, held := none, grants := [] }) s
    | .update ch =>
      let x := getChan s ch
      let (ok, s) := both { src := 1, part := some (chPart x), ctx := none, pol := 1 } s
      if ok || !(x.st == .active) then s else chanFault ch 4 0xFF (chRank x) (chRank x) (x.updated % max 1 x.units) true s
    | .scrub => scrubCw flips (c + 1) (scrubCw flips c s)
    | .window g =>
      let (bs, ok, s) := cwReads whole flips c 2 s
      answerRead g a (if ok then some bs else none) s
    | .merge g =>
      let (ok, s) := both { whole with src := 5 } s
      match g with
      | .core n => if ok then s else coreFaults n 7 a s
      | .host => s
    | .migration =>
      let t := s
      let w : MemWho := { src := 4, part := owner, ctx := none, pol := 1 }
      let (_, ok0, s) := cwCopy w flips c s
      let (_, ok1, s) := cwCopy (if ok0 then w else { w with pol := 0 }) flips (c + 1) s
      let ok := ok0 && ok1
      match regionOfAddr s a with
      | some key => if ok then s else
        stopCopy key .fault (firstRec 0x0502 t s) s
      | none => s
    | .dump => (both { src := 0, part := owner, ctx := none, pol := 1 } s).2

/-- A command on a bound region (R314). -/
def onRegion (r : CmdRef) (p h : Nat) (f : Region → Nat → Region → State → State) (s : State) : State :=
  match resolve s p h with
  | some (key, g) => if (getReg s (regKey p h)).bound then f (getReg s (regKey p h)) key g s else finishErr r .partitionState 4 h 0 s
  | none => finishErr r .partitionState 4 h 0 s

/-- REGION_MAP QUERY (R311, R314). -/
def execRegionMapQuery (h : CmdHdr) (part handle : Nat) (s : State) : Host.Outcome State Fault Refusal :=
  .next (command h { op := 0x20, fields := [(8, 1, part), (9, 1, 0), (10, 2, handle)], params := decide (part < 4 ∧ handle < 65536), claims := [.region part handle], names := [.part part] } (fun r s =>
    onRegion r part handle (fun e _ g s => finishOk r (regionResult e g) s) s) s)

/-- REGION_MAP PIN (R228, R314). -/
def execRegionMapPin (h : CmdHdr) (part handle : Nat) (s : State) : Host.Outcome State Fault Refusal :=
  .next (command h { op := 0x20, fields := [(8, 1, part), (9, 1, 1), (10, 2, handle)], params := decide (part < 4 ∧ handle < 65536), claims := [.region part handle], names := [.part part] } (fun r s =>
    onRegion r part handle (fun e key _ s =>
      let s := modReg key (fun g => { g with pinned := true }) (endCopies [key] s)
      finishOk r (regionResult e (getReg s key)) s) s) s)

/-- REGION_MAP UNPIN (R314). -/
def execRegionMapUnpin (h : CmdHdr) (part handle : Nat) (s : State) : Host.Outcome State Fault Refusal :=
  .next (command h { op := 0x20, fields := [(8, 1, part), (9, 1, 2), (10, 2, handle)], params := decide (part < 4 ∧ handle < 65536), claims := [.region part handle], names := [.part part] } (fun r s =>
    onRegion r part handle (fun _ key _ s => finishOk r 0 (modReg key (fun g => { g with pinned := g.pinFlag }) s)) s) s)

/-- REGION_MAP ATTACH (R223, R314). -/
def execRegionMapAttach (h : CmdHdr) (part handle srcPart srcHandle : Nat) (s : State) : Host.Outcome State Fault Refusal :=
  .next (command h {
    op := 0x20, fields := [(8, 1, part), (9, 1, 3), (10, 2, handle), (12, 1, srcPart), (14, 2, srcHandle)]
    params := decide (part < 4 ∧ handle < 65536 ∧ srcPart < 4 ∧ srcHandle < 65536 ∧ srcPart ≠ part), claims := [.region part handle]
    names := [.part part, .part srcPart, .region srcPart srcHandle] }
    (fun r s =>
      let e := getReg s (regKey part handle)
      let g := getReg s (regKey srcPart srcHandle)
      match (getPart s part).st, g.bound && (resolve s srcPart srcHandle).isSome with
      | .loaded, true =>
        if !e.imported then finish r .badParam 0 noRec s
        else if e.size > g.size then finishErr r .noResource 4 handle 0 s
        else finishOk r 0 (modReg (regKey part handle) (fun x => { x with attached := some (srcPart, srcHandle) }) s)
      | _, _ => finishErr r .partitionState 4 handle 0 s) s)

/-- The home that REGION_MIGRATE asks for (R229, Table 15.7). -/
def migrateHome (s : State) (key : Nat) (r : Region) (tier dev : Nat) : Option (List Nat × Nat) :=
  let t := tier - 1
  if dev = 0xFF then firstSome (fun d => placeOn s r.size r.spread [] t ((homePref s key r + d) % 4)) [0, 1, 2, 3]
  else if r.spread then placeOn s r.size true [] t (plinthOfUnit dev)
  else if (getDev s dev).st = 1 then (lowestFree s [dev] (r.size * 65536)).map (fun st => ([dev], st)) else none

/-- REGION_MIGRATE (R229). -/
def execRegionMigrate (h : CmdHdr) (part handle tier device : Nat) (s : State) : Host.Outcome State Fault Refusal :=
  .next (command h {
    op := 0x21, fields := [(8, 1, part), (10, 2, handle), (12, 1, tier), (13, 1, device)]
    params := decide (part < 4 ∧ handle < 65536 ∧ (tier = 1 ∨ tier = 2) ∧
      (device = 0xFF ∨ (tier = 1 ∧ device < 16) ∨ (tier = 2 ∧ 16 ≤ device ∧ device < 28)))
    claims := [.region part handle], names := [.part part] } (fun r s =>
      let key := regKey part handle
      let g := getReg s key
      if !g.bound ∨ g.imported ∨ !movableState s key then finishErr r .partitionState 4 handle 0 s
      else if chanWrites s key then finish r .busy 0 noRec s
      else
        let s := endCopies [key] s
        match migrateHome s key g tier device with
        | none => finishErr r .noResource 4 handle 0 s
        | some y => launch r [.region part handle] (.migrate part handle)
            (modReg key (fun x => { x with target := some y, copied := 0 }) s)) s)

/-- MIGRATION_UNIT_COPY (R228). -/
def execMigrationUnitCopy (p : Fin 4) (handle : Nat) (s : State) : Host.Outcome State Fault Refusal :=
  .next (announce s (migrateUnit (regKey p (handle % 65536)) s))

/-- Regions that a command on a device claims (Table 15.7). -/
def unitClaims (s : State) (u : Nat) : List Claim :=
  (s.regions.filter (fun x => drainsRegion u x.2)).map (fun x => .region (x.1 / 65536) (x.1 % 65536))

/-- DIMM_OFFLINE (R231). -/
def execDimmOffline (h : CmdHdr) (chan : Nat) (s : State) : Host.Outcome State Fault Refusal :=
  .next (command h {
    op := 0x90, fields := [(8, 1, chan)], params := decide (chan < 12) && ((getDev s (16 + chan)).st == 1 || (getDev s (16 + chan)).st == 2)
    claims := .dimm chan :: unitClaims s (16 + chan) } (fun r s =>
      let u := 16 + chan
      let s := beginDrain u (modDev u (fun d => { d with st := 2 }) s)
      drainCheckUnit u (launch r (.dimm chan :: unitClaims s u) (.dimmOff chan) s)) s)

/-- DIMM_ONLINE (R231). -/
def execDimmOnline (h : CmdHdr) (chan : Nat) (found : Option DimmProbe) (s : State) : Host.Outcome State Fault Refusal :=
  .next (command h {
    op := 0x91, fields := [(8, 1, chan)], params := decide (chan < 12) && ((getDev s (16 + chan)).st == 3 || (getDev s (16 + chan)).st == 2)
    claims := .dimm chan :: unitClaims s (16 + chan) } (fun r s =>
      let u := 16 + chan
      if (getDev s u).st = 2 then finishOk r 1 (modDev u (fun d => { d with st := 1 }) s)
      else match takeDimm chan found s with
        | (true, _, s) => finishOk r 1 s
        | (false, some i, s) => finish r .fault 3 i s
        | (false, none, s) => finishErrR r .fault 6 u 0 3 s) s)

/-- STACK_RETRAIN (R231): the drain first, then the outcome `ok` of the training. A stack that was FAILED has its capacity again
(Table 11.9). -/
def execStackRetrain (h : CmdHdr) (stack : Nat) (ok : Bool) (s : State) : Host.Outcome State Fault Refusal :=
  .next (command h {
    op := 0x94, fields := [(8, 1, stack)]
    params := decide (stack < 16) && ((getDev s stack).st == 1 || (getDev s stack).st == 2 || (getDev s stack).st == 5)
    claims := .stack stack :: (drainUnits stack).flatMap (unitClaims s) } (fun r s =>
      let cl := .stack stack :: (drainUnits stack).flatMap (unitClaims s)
      let s := beginDrain stack (modDev stack (fun d => { d with st := 2, cap := 36 }) s)
      drainCheckUnit stack (launch r cl (.stack stack ok) s)) s)

/-- MEMORY_READ_RESPONSE (R220). -/
def execMemoryReadResponse (reader : MemReader) (addr : Nat) (flips : Noise) (s : State) : Host.Outcome State Fault Refusal :=
  .next (announce s (readResponse reader addr flips s))

/-- REFRESH (R221): the bank is busy from now on; what it delays shows only in the times at which words arrive. -/
def execRefresh (unit : Fin 28) (_bank : Nat) (s : State) : Host.Outcome State Fault Refusal :=
  .next (if (getDev s unit).st = 1 ∨ (getDev s unit).st = 2 then modDev unit (fun d => { d with refreshGtc := s.clk.gtc }) s else s)

/-- PHY_CALIBRATION (R221): it waits until a refresh in progress has finished. DESIGN CHOICE (log entry 52): R221 bounds that wait, and the
model takes the whole bound. -/
def execPhyCalibration (unit : Fin 28) (s : State) : Host.Outcome State Fault Refusal :=
  .next (if (getDev s unit).st = 1 ∨ (getDev s unit).st = 2 then
    advanceGtc ((getDev s unit).refreshGtc + (if (unit : Nat) < 16 then 160 else 130)) s else s)

/-- PATROL_SCRUB (R221). -/
def execPatrolScrub (unit : Fin 28) (flips : List (Nat × Noise)) (s : State) : Host.Outcome State Fault Refusal :=
  .next (scrubStep unit flips s)

/-- TEMP_HIGH (R221). -/
def execTempHigh (unit : Fin 28) (above : Bool) (s : State) : Host.Outcome State Fault Refusal :=
  .next (modDev unit (fun d => { d with tempHigh := above }) s)

/-- DIMM_REMOVED (R231). -/
def execDimmRemoved (c : Fin 12) (s : State) : Host.Outcome State Fault Refusal :=
  .next (announce s (let st := (getDev s (16 + c)).st
    if st = 0 then s
    else if st = 3 then modDev (16 + c) (fun d => { d with rated := 0 }) s
    else
      let t := sharedError 0x0505 (16 + c) (unitParts s (16 + c)) (unitBase (16 + c)) (deviceGone (16 + c) 0 s)
      copiesLost (16 + c) (firstRec 0x0505 s t) t))

/-- SHARED_UNIT_FAILURE (R30). -/
def execSharedUnitFailure (u : SharedUnit) (s : State) : Host.Outcome State Fault Refusal :=
  .next (announce s (sharedFailure u s))

end Sys2Proof.Machine
end

