-- ==== Sys2Proof/Machine/Control.lean ====
section
/-! DEFINITION. START, HOLD, RESUME, CAST, ABORT, the end of a maquette, and fencing (R28, R40, R50, R74-R78, R169, R170,
R175, R188, R207, R274, R312, R313, R374-R376, R380, R381, R417 of spec/). -/

namespace Sys2Proof.Machine

/-- The next hold boundary (R50): the first multiple of 64 after the present cycle. -/
def nextBoundary (s : State) : Nat := roundUp (s.clk.mcc + 1) 64

/-- A START ends without the partition RUNNING: a HOLD or CAST that waits for it finds another state (R308, R28). -/
def startFails (p : Nat) (f : CmdRef → State → State) (s : State) : State :=
  let s := modPart p (fun q => { q with startDrains := false, startAt := none, armAt := none, pauseAt := none, castGtc := none, pendCast := none }) s
  land (fun k => k == .hold p || k == .cast p) (fun r s => finishErr r .partitionState 1 p 0 s) (land (fun k => k == .start p) f s)

/-- The regions that a START concerns (R228): those of the partition, and those that its imports stand for. -/
def startKeys (s : State) (p : Nat) : List Nat :=
  (s.regions.filter (fun x => x.1 / 65536 == p)).filterMap (fun x => (resolve s p (x.1 % 65536)).map (·.1))

/-- START begins (R207 step 1, R228). A partition that holds a LOST band cannot run (R77). -/
def startOp (r : CmdRef) (p : Nat) (seed : W64) (at_ : Nat) (s : State) : State :=
  let q := getPart s p
  if q.st ≠ .bound ∧ q.st ≠ .done then finishErr r .partitionState 1 p 0 s
  else match (boundBands s p).find? (fun b => (getBand s b).lost) with
  | some b => finishErr r .noResource 2 b 0 s
  | none =>
    let s := releaseContexts p (endCopies (startKeys s p) s)
    launch r [.part p] (.start p) (modPart p (fun q => { q with
      startDrains := true, reqSeed := seed, reqAt := at_, reqGtc := s.clk.gtc }) s)

/-- The port buffers of a partition's bands are emptied with their contexts (R417). -/
def emptyPorts (p : Nat) (s : State) : State :=
  (boundBands s p).foldl (fun s b => modBand b (fun x => { x with inStreams := [], outStreams := [] }) s) s

/-- START is accepted (R207 steps 3 and 4, R312). -/
def startAccept (p : Nat) (s : State) : State :=
  let q := getPart s p
  if !q.startDrains || anyDraining s p || s.clk.run != .running then s
  else
    let n := roundUp (s.clk.mcc + 12288) 4096
    if s.log.modFatal then startFails p finishFatal s
    else if q.reqAt ≠ 0 ∧ q.reqAt < n then startFails p (fun r s => finish r .badParam 0 noRec s) s
    else match q.maq with
      | none => startFails p (fun r s => finishErr r .partitionState 1 p 0 s) s
      | some m => match allocContexts p m.contexts q.ctxMap s with
        | none => startFails p (fun r s => finishErr r .noResource 1 p 0 s) s
        | some (cm, s) =>
          let s := endCopies (startKeys s p) s
          let a := if q.reqAt = 0 then n else q.reqAt
          emptyPorts p (modPart p (fun q => { q with
            startDrains := false, ctxMap := cm, startAt := some a, armAt := some (a - 8192), jobSeed := q.reqSeed
            runs := (q.runs + 1) % 2 ^ 32 }) s)

/-- The drains have not completed within 1 s (R207). -/
def startTimeout (p : Nat) (s : State) : State :=
  let q := getPart s p
  if !q.startDrains || !anyDraining s p then s
  else startFails p (fun r s => finishErr r .notDrained 1 p 0 s) (advanceGtc (q.reqGtc + 1000000000) s)

/-- A band as the Armature cores find it when they leave reset (R169). -/
def armBand (mcc : Nat) (x : Band) : Band :=
  { x with qArray := [], qVector := [], qRow := [], qPort := [], pushes := [], deliveries := [], arm := { st := .running }, armPc := mcc + 1 }

/-- The Armature cores of a partition leave reset, and its contexts begin (R169, R171, R201). -/
def armLeave (t p : Nat) (s : State) : State :=
  let s := advanceTo t s
  match (getPart s p).armAt with
  | none => s
  | some a =>
    if s.clk.mcc < a ∨ s.clk.run ≠ .running then s
    else
      let bs := boundBands s p
      let s := { s with
        bands := tmap {} (fun b x => if bs.contains b then armBand s.clk.mcc x else x) s.bands
        cells := tmap {} (fun n c => if bs.contains (n / 128) then { c with arrayFifo := [], vecFifo := [] } else c) s.cells
        plinths := s.plinths.map (fun x => (x.1, { x.2 with ctxs := x.2.ctxs.map (fun e =>
          if e.2.part = p ∧ e.2.st = .allocated then (e.1, { e.2 with st := .running }) else e) })) }
      modPart p (fun q => { q with armAt := none, flags := [], updates := [] }) s

/-- A band at JCC 0 (R417): what was in flight is dropped. -/
def startBand (x : Band) : Band :=
  { x with
    seqState := 1, seqEnd := none, lanes := [], deliveries := [], inRuns := [], outRun := none, popped := none, seamGot := none, seamOut := none
    seamQueue := [], used := none, tap := none, tapSeq := [], row := none, rowOut := [], rowIn := [], outAt := none
    ringChecks := 0, rowStatus := [], rowFlags := 0, rowDescs := 0, rowEmpty := 0, rowInf := 0, rowNan := 0
    arm := if x.arm.st = .waitFlag then { x.arm with since := 0 } else x.arm }

/-- A cell at JCC 0 (R417), before its generators are seeded. -/
def startCellState (c : Cell) : Cell :=
  { c with
    sp := { c.sp with old := [] }, tiles := { c.tiles with old := [] }, ct := tmap ctDef (fun _ d => d.settle) c.ct
    cmp := tmap cmpDef (fun _ d => d.settle) c.cmp, laneCw := c.laneCw.settle, laneCcw := c.laneCcw.settle
    passes := [], chunkQ := [], rowData := [], steps := [], arrNum := 0, vec := none, vecOld := none, vecOuts := []
    vecStatus := [], descs := 0, vecFlags := 0, staged := [], reqs := [], tileReads := [], tileWrites := []
    early := [], bundle := none, ctrSink := [] }

/-- The flags and counts that START clears for every band and cell of a partition, bound or not (R113, R130, R142). -/
def clearCounts (bs : List Nat) (s : State) : State :=
  { s with
    bands := tmap {} (fun b x => if bs.contains b then { x with rowFlags := 0, rowDescs := 0, rowEmpty := 0, rowInf := 0, rowNan := 0 } else x) s.bands
    cells := tmap {} (fun n c => if bs.contains (n / 128) then { c with arrNum := 0, vecFlags := 0, descs := 0 } else c) s.cells }

/-- Move on to the next multiple of `k` of MCC, when the cycle `at_` of an event has come and the clocks run: the event takes
effect there (R40, R50). `none` while it waits. -/
def toBoundary (k at_ : Nat) (s : State) : Option State :=
  if s.clk.mcc < at_ ∨ s.clk.run ≠ .running then none
  else
    let s := advanceTo (roundUp s.clk.mcc k) s
    if s.clk.run = .running then some s else none

/-- JCC 0 of a START (R40, R50, R107, R174, R417), at a multiple of 4,096 of MCC. -/
def startCount (t p : Nat) (s : State) : State :=
  let s := advanceTo t s
  let q := getPart s p
  match q.startAt with
  | none => s
  | some at_ => match toBoundary 4096 at_ s with
    | none => s
    | some s => if s.log.modFatal then startFails p finishFatal s else
      let a := s.clk.mcc
      let s := endCopies (startKeys s p) s
      let bs := boundBands s p
      let s := clearCounts (bandsOf s p) { s with seam := s.seam.filter (fun w => !(bs.contains w.src || bs.contains w.dst)) }
      let s := bs.foldl (fun s b =>
        let lb := (getBand s b).lband
        let r := (getBand s b).rot
        let s := modBand b startBand s
        (List.range 128).foldl (fun s pos =>
          modCell (cellOf b pos) (fun c => seedCell q.jobSeed (lb * 128 + (pos + 128 - r) % 128) 0 (startCellState c)) s) s) s
      let s := modPart p (fun q => { q with
        st := .running, held := false, faultCast := false, faulted := false, jcc := 0, wrap := false, holdUnits := 0, holdNow := 0
        startAt := none, endJcc := none, decided := some a, sfCount := 0, sfFirst := 0, sfBands := [], sfaults := [], cut := none
        pauseAt := if s.flights.any (fun x => x.kind == .hold p) then some (nextBoundary s) else none
        pendCast := if q.castGtc.isNone then q.pendCast.map (fun c => { c with at_ := some (nextBoundary s) }) else q.pendCast }) s
      let s := if windowCovered q a then s else holdUnit p (reqsAt q a) s
      land (fun k => k == .start p) (fun r s => finishOk r (a % 2 ^ 48) s) s

/-- PAUSED takes effect (R50). -/
def pauseAt (t p : Nat) (s : State) : State :=
  let s := advanceTo t s
  let q := getPart s p
  match q.pauseAt with
  | none => s
  | some a => if q.st ≠ .running then s else match toBoundary 64 a s with
    | none => s
    | some s =>
      let q := getPart s p
      let s := modPart p (fun q => { endHold q with st := .paused, pauseAt := none }) s
      land (fun k => k == .hold p) (fun r s => finishOk r q.jcc s) s

/-- One record of R175 (Table 8.4), for a core that waits at the cast boundary. -/
def waitRecord (p : Nat) (c : PendCast) (first : Bool) (s : State) (b : Nat) : State :=
  let a := (getBand s b).arm
  if a.st ≠ .waitFlag ∧ a.st ≠ .stallQueue then s
  else
    let f := getFlag (getPart s p) a.flag
    let onFlag := decide (a.st = .waitFlag)
    let ctx : List (Nat × Nat) :=
      if onFlag then [(0, a.flag), (1, b2n a.eq), (2, 0xFF), (3, f.setter.getD 0xFF), (4, a.want.toNat), (8, f.value.toNat), (12, f.setGtc % 2 ^ 32)]
      else [(0, 0xFF), (1, 0xFF), (2, qCode a.queue), (3, 0xFF)]
    if c.wd.contains b then
      let cause := first && c.cause == .watchdog && c.wd.head? == some b
      if cause then writeRec (mkRec s .jobFatal 0x0306 (some b) (some p) ctx) s
      else if first || (c.cause == .watchdog && c.wd.head? == some b) then s
      else writeRec { mkRec s .deferred 0x0306 (some b) (some p) ctx with secondary := true } s
    else if first then s
    else writeRec (mkRec s .deferred 0x0307 (some b) (some p) ctx) s

/-- Schedule faults in the order of R188. -/
def faultInsert (x : SFault × Nat) : List (SFault × Nat) → List (SFault × Nat)
  | [] => [x]
  | y :: r => if x.1.before y.1 then x :: y :: r else y :: faultInsert x r

/-- Context of a schedule fault record (Table 9.6). -/
def faultCtx (x : SFault × Nat) (boundary : Nat) : List (Nat × Nat) :=
  let f := x.1
  [(0, f.jcc), (6, f.ppos), (7, f.lpos), (8, f.lane % 8 + 8 * b2n f.ccw + 16 * (f.bank % 16)), (9, f.cmp % 16 + 16 * (f.tag % 16)),
   (10, f.loser), (11, f.winner), (12, x.2), (14, boundary % 65536)]

/-- The records of schedule faults (R188); the first is job-fatal when it is the partition's first job-fatal error (R381). -/
def faultRecords (p : Nat) (c : PendCast) (s : State) : State :=
  let q := getPart s p
  let l := q.sfaults.foldl (fun l x => faultInsert x l) []
  (l.foldl (fun (a : Bool × State) x =>
    let s := a.2
    let r := mkRec s (if a.1 then .jobFatal else .deferred) x.1.code (some x.1.band) (some p) (faultCtx x q.jcc)
    (false, writeRec { r with secondary := !a.1 } s)) (decide (c.cause = .schedFault) || (c.fault && !q.faulted), s)).2

/-- An Armature core halts at a cast (R170, R374). -/
def haltBand (mcc : Nat) (x : Band) : Band :=
  let a := x.arm
  { x with
    armPc := if a.st = .running then mcc + 1 else x.armPc
    seqState := if x.seqState = 1 then 3 else x.seqState
    arm := if a.st = .running ∨ a.st = .stallQueue ∨ a.st = .waitFlag then { a with st := .halted, haltedFrom := a.st } else a }

/-- It goes on at RESUME, at the instruction it halted at (R170). DESIGN CHOICE (log entry 26): a wait that starts anew tests
its flag anew and its watchdog counts from the RESUME. -/
def goBand (jcc : Nat) (x : Band) : Band :=
  let a := x.arm
  { x with
    seqState := if x.seqState = 3 then 1 else x.seqState
    arm := if a.st = .halted ∧ a.haltedFrom ≠ .halted then
        { a with st := a.haltedFrom, haltedFrom := .halted, since := if a.haltedFrom = .waitFlag then jcc else a.since }
      else a }

/-- Frames of a partition's channels that stand in receive buffers, by link and acceptance (R376). -/
def captureNow (s : State) (p : Nat) : List (List Byte) :=
  let es := s.chans.flatMap (fun (x : Nat × Chan) =>
    let ch := x.2
    if chPart ch = p ∧ chRoutes ch = true then
      (chChildren ch).flatMap (fun l => (tget {} ch.edgeQ l).red.map (fun b =>
        captureEntry l 3 x.1 ch.gen (if ch.units = 0 then 0 else b.offset % ch.units) b.gtc b.body)) ++
      (match chOutput ch with
        | some l => ch.outQ.map (fun b => captureEntry l 4 x.1 ch.gen (b.offset % max 1 (chParams ch)) b.gtc b.body)
        | none => [])
    else [])
  let byTime := es.foldl (fun l e =>
    l.takeWhile (fun x => decide (field x 10 6 ≤ field e 10 6)) ++ e :: l.dropWhile (fun x => decide (field x 10 6 ≤ field e 10 6))) []
  byTime.foldl (fun l e => captureInsert e l) []

/-- Sum of the powers of two of some indices. -/
def maskOf (l : List Nat) : Nat := l.foldl (fun a b => a ||| 2 ^ b) 0

/-- A partition is cast (R374-R376, R386): the records, the halted cores, and the cut. -/
def takeCast (p : Nat) (c : PendCast) (s : State) : State :=
  let q := getPart s p
  let i := s.log.head
  let bs := boundBands s p
  let s := if c.fault then bs.foldl (waitRecord p c true) s else s
  let s := faultRecords p c s
  let s := if c.fault then bs.foldl (waitRecord p c false) s else s
  let first := c.record.orElse (fun _ => if s.log.head = i then none else some i)
  let capture := captureNow s p
  let s := { s with bands := tmap {} (fun b x => if bs.contains b then haltBand s.clk.mcc x else x) s.bands }
  let s := modPart p (fun q => { endHold q with
    st := .cast, faultCast := c.fault, faulted := c.fault, pendCast := none, castGtc := none, pendFatal := none, pauseAt := none
    resumeAt := none, sfaults := [], reqs := [], reqFor := none
    cut := some {
      jcc := q.jcc, mcc := s.clk.mcc, gtc := s.clk.gtc, cause := c.cause, time := s.clk.timeState, held := q.held, mask := maskOf bs
      capture := capture, record := first, atGtc := c.atGtc, patina := s.patina.live }
    captured := some (s.clk.gtc, capture) }) s
  let s := match (getPart s p).captureAt, (getPart s p).captured with
    | some (u, _), some c => if c.2 = [] then s else chargeMem u c.2.flatten.length s
    | _, _ => s
  let s := storeCapture p s
  let s := land (fun k => k == .cast p) (fun r s => finishOk r (q.jcc + s.clk.gtc % 2 ^ 48 * 2 ^ 48) s) s
  land (fun k => k == .hold p) (fun r s => finishErr r .partitionState 1 p 0 s) s

/-- CAST_AT_BOUNDARY (R374): a cast takes effect at a hold boundary. A fatal error kept pending while PAUSED joins it. -/
def castBoundary (t p : Nat) (s : State) : State :=
  let s := advanceTo t s
  let q := getPart s p
  if s.clk.mcc % 64 ≠ 0 ∨ (q.st ≠ .running ∧ q.st ≠ .paused) ∨ s.clk.run ≠ .running then s
  else match castDue s q with
    | none => s
    | some c =>
      let c := match q.pendFatal with
        | some f => { f with atGtc := c.atGtc }
        | none => c
      land (fun k => k == .resume p) (fun r s =>
        if s.log.modFatal then finishFatal r s else finishErr r .partitionState 1 p 0 s) (takeCast p c s)

/-- RESUME takes effect (R50, R381). -/
def resumeBoundary (t p : Nat) (s : State) : State :=
  let s := advanceTo t s
  let q := getPart s p
  match q.resumeAt with
  | none => s
  | some at_ => if q.st ≠ .paused ∧ q.st ≠ .cast then s else match toBoundary 64 at_ s with
    | none => s
    | some s => if s.log.modFatal then land (fun k => k == .resume p) finishFatal (modPart p (fun q => { q with resumeAt := none }) s) else
      let a := s.clk.mcc
      let done := fun (s : State) => land (fun k => k == .resume p) (fun r s => finishOk r q.jcc s) s
      match q.pendFatal with
      | some c => done (takeCast p c s)
      | none =>
        let bs := boundBands s p
        let s := if q.st = .cast then
            bs.foldl (retest p) { s with bands := tmap {} (fun b x => if bs.contains b then goBand q.jcc x else x) s.bands } else s
        let s := modPart p (fun q => { q with st := .running, resumeAt := none, decided := some a, faultCast := false, faulted := false, cut := none }) s
        done (if windowCovered q a || q.endJcc == some q.jcc then s else holdUnit p (reqsAt q a) s)

/-- RESUME is accepted (R28, R375). -/
def resumeOp (r : CmdRef) (p : Nat) (s : State) : State :=
  let q := getPart s p
  if q.st = .paused ∨ (q.st = .cast ∧ q.faultCast = false) then
    let s := launch r [.part p] (.resume p) (modPart p (fun q => { q with resumeAt := some (nextBoundary s) }) s)
    if q.st = .cast then deliverParked p s else s
  else finishErr r .partitionState 1 p 0 s

/-- HOLD is accepted (R50, R308). -/
def holdOp (r : CmdRef) (p : Nat) (s : State) : State :=
  let q := getPart s p
  if q.st = .running then launch r [] (.hold p) (modPart p (fun q => { q with pauseAt := some (q.pauseAt.getD (nextBoundary s)) }) s)
  else if starting s p then launch r [] (.hold p) s
  else finishErr r .partitionState 1 p 0 s

/-- CAST_AT goes out on every edge of every open channel of a partition (R274). -/
def sendCastAt (p at_ : Nat) (s : State) : State :=
  s.chans.foldl (fun s (x : Nat × Chan) =>
    if chPart x.2 = p ∧ chRoutes x.2 = true then
      ((List.range 32).filter (fun l => edgeRole x.2 l != 0)).foldl (fun s l => queueFrame l (.msg (.castAt x.1 (at_ % 2 ^ 46))) s) s
    else s) { s with castSeen := at_ :: s.castSeen }

/-- Whether a CAST's time is one that R313 allows. -/
def castTimeOk (fabric : Bool) (at_ : Nat) (s : State) : Bool := !fabric || (decide (at_ ≥ s.clk.gtc + 10000) && aligned s)

/-- CAST is accepted (R274, R308). -/
def castOp (r : CmdRef) (p : Nat) (fabric : Bool) (at_ : Nat) (s : State) : State :=
  let q := getPart s p
  if q.st ≠ .running ∧ q.st ≠ .paused ∧ starting s p = false then finishErr r .partitionState 1 p 0 s
  else
    let cause : CastCause := if fabric then .fabricCommand else .command
    let s := if fabric then sendCastAt p at_ s else s
    let s := modPart p (fun q =>
      if at_ ≤ s.clk.gtc then askCast { at_ := some (nextBoundary s), cause := cause, fault := false, atGtc := at_ } q
      else askGtc at_ cause q) s
    launch r [] (.cast p) s

/-- ABORT (R28, R69, R161, R170, R207). -/
def abortOp (r : CmdRef) (p : Nat) (s : State) : State :=
  let q := getPart s p
  if q.st = .running ∨ q.st = .paused ∨ q.st = .cast ∨ q.st = .done then
    let s := bandResets (boundBands s p) (releaseContexts p (endDumps p false s))
    let s := modPart p (fun q => { endHold q with
      st := .bound, faultCast := false, faulted := false, cut := none, pauseAt := none, resumeAt := none, startAt := none, armAt := none, endJcc := none
      pendCast := none, castGtc := none, pendFatal := none, sfaults := [], reqs := [], reqFor := none, updates := [] }) s
    let s := land (fun k => k == .hold p || k == .cast p) (fun r s => finishErr r .partitionState 1 p 0 s) s
    finishOk r 0 s
  else finishErr r .partitionState 1 p 0 s

/-- Context of a BAND record that names the head (Table 19.3). -/
def headCtx (s : State) (p : Nat) : List (Nat × Nat) := [(0, (getPart s p).jcc), (6, 0x80), (7, 0xFF), (8, 0xFF)]

/-- A band whose partition is DONE (R170). -/
def doneBand (p : Nat) (unfinished : List Nat) (s : State) (b : Nat) : State :=
  let x := getBand s b
  let s := if x.arm.st = .done then s
    else logDeferred 0x0304 (some b) (some p) (headCtx s p) (modBand b (fun x => { x with
      armPc := if x.arm.st = .running then s.clk.mcc + 1 else x.armPc, arm := { x.arm with st := .halted, haltedFrom := .halted } }) s)
  if x.perCell && unfinished.contains b then logDeferred 0x0305 (some b) (some p) (headCtx s p) s else s

/-- The end of the maquette (R170, R227, R366): DONE at the first hold boundary after every sequencer has executed END, where the
count of JCC ends. DESIGN CHOICE
(log entry 45): the spec does not say what becomes of a fault whose cast is still pending then; the partition does not enter
DONE while one is, and the cast takes effect at its boundary. -/
def partDone (t p : Nat) (unfinished : List Nat) (s : State) : State :=
  let s := advanceTo t s
  let q := getPart s p
  let bs := boundBands s p
  if s.clk.mcc % 64 ≠ 0 ∨ q.st ≠ .running ∨ q.endJcc ≠ some q.jcc ∨ s.clk.run ≠ .running ∨ (castDue s q).isSome ∨
      (faultAsked q).isSome then s
  else
    let s := bs.foldl (doneBand p unfinished) s
    let s := modPart p (fun q => { endHold q with
      st := .done, doneJcc := q.jcc, pauseAt := none, castGtc := none, pendCast := none
      dump := q.dump.map (fun d => if d.step + 1 = q.runs then { d with copying := true, startGtc := s.clk.gtc, startTime := s.clk.timeState, doneJcc := q.jcc } else d) }) s
    let s := land (fun k => k == .hold p || k == .cast p) (fun r s => finishErr r .partitionState 1 p 0 s) s
    migrationPass s

/-- A cell is fenced (R73). -/
def fenceOn (cell : Nat) (s : State) : State :=
  { s with
    fence := setIn cell true s.fence
    cells := terase cell s.cells }

/-- FENCE_CELL (R74, R76). DESIGN CHOICE (log entry 32): a cell of a LOST band that is not idle matches two rows of Table 3.4, and that of
the LOST band is taken; the table has no row for a band that is not bound in a partition from BOUND on, and its cell is fenced at
once. -/
def fenceOp (r : CmdRef) (cell : Nat) (s : State) : State :=
  let b := cell / 128
  let x := getBand s b
  let now := fun (s : State) => commitThen r [.band b] (.fenceMap cell true) 1 (fenceOn cell s)
  if s.fence.contains cell then finishOk r 1 s
  else if x.lost ∨ x.bound = false then now s
  else if !x.idle.contains (cell % 128) then finishErrR r .fenceConflict 3 cell 0 (b2n (s.fence.contains cell)) s
  else if (getPart s (partOf s b)).st = .running then launch r [.band b] (.fence cell) (modBand b (fun x => { x with fenceBusy := true }) s)
  else now s

/-- A fence that waited for the boundary takes effect (R74). -/
def fenceBoundary (t p : Nat) (s : State) : State :=
  let s := advanceTo t s
  if s.clk.mcc % 64 ≠ 0 ∨ s.clk.run ≠ .running then s
  else (s.flights.filter (fun x => match x.kind with
      | .fence c => partOf s (c / 128) == p
      | _ => false)).foldl (fun s x => match x.kind with
    | .fence c =>
      let s := fenceOn c (modBand (c / 128) (fun x => { x with fenceBusy := false }) s)
      commitThen (refOf x) [.band (c / 128)] (.fenceMap c true) 1 { s with flights := s.flights.filter (fun y => y != x) }
    | _ => s) s

/-- UNFENCE_CELL (R75, R76). DESIGN CHOICE (log entry 8): the spec names no status for a cell that is not fenced; the command
completes with OK and result 0. -/
def unfenceOp (r : CmdRef) (cell : Nat) (pass : Bool) (s : State) : State :=
  let b := cell / 128
  let x := getBand s b
  if x.lost then
    if pass then commitThen r [.band b] (.lostBand b false) (b2n (s.fence.contains cell)) (modBand b (fun x => { x with lost := false }) s)
    else finishErrR r .fault 2 b 0 (b2n (s.fence.contains cell)) s
  else if s.ident.factoryFence.contains cell then finishErrR r .fenceConflict 3 cell 0 (b2n (s.fence.contains cell)) s
  else if !s.fence.contains cell then finishOk r 0 s
  else
    let s := { s with cells := terase cell s.cells }
    if pass then commitThen r [.band b] (.fenceMap cell false) 0 { s with fence := setIn cell false s.fence }
    else finishErrR r .fault 3 cell 0 1 s

/-- A band becomes LOST (R77). -/
def bandLost (b : Nat) (s : State) : State :=
  let s := asyncCommit (.lostBand b true) (modBand b (fun x => { x with lost := true }) s)
  let p := partOf s b
  if p < 4 then jobFatal p 0x0302 (some b) (headCtx s p) .otherFatal none s
  else logDeferred 0x0302 (some b) none [(6, 0x80), (7, 0xFF), (8, 0xFF)] s

/-- START (R207, R312). -/
def execStart (h : CmdHdr) (part : Nat) (jobSeed : W64) (atMcc : Nat) (s : State) : Host.Outcome State Fault Refusal :=
  .next (command h { op := 0x12, fields := [(8, 1, part), (16, 8, jobSeed.toNat), (24, 6, atMcc)], params := decide (part < 4 ∧ atMcc % 4096 = 0 ∧ atMcc < 2 ^ 48), claims := [.part part], modFatal := true }
    (fun r s => startOp r part jobSeed atMcc s) s)

/-- START accepted (R207 step 4). -/
def execStartAccepted (p : Fin 4) (s : State) : Host.Outcome State Fault Refusal := .next (announce s (startAccept p s))

/-- The drains of a START take too long (R207). -/
def execStartDrainTimeout (p : Fin 4) (s : State) : Host.Outcome State Fault Refusal := .next (announce s (startTimeout p s))

/-- ARMATURE_LEAVE_RESET (R169). -/
def execArmatureLeaveReset (t : Nat) (p : Fin 4) (s : State) : Host.Outcome State Fault Refusal := .next (armLeave t p s)

/-- START_COUNT_REACHED (R40). -/
def execStartCountReached (t : Nat) (p : Fin 4) (s : State) : Host.Outcome State Fault Refusal := .next (announce s (startCount t p s))

/-- HOLD (R50). -/
def execHold (h : CmdHdr) (part : Nat) (s : State) : Host.Outcome State Fault Refusal :=
  .next (command h { op := 0x13, fields := [(8, 1, part)], params := decide (part < 4) } (fun r s => holdOp r part s) s)

/-- PAUSE_AT_BOUNDARY (R50). -/
def execPauseAtBoundary (t : Nat) (p : Fin 4) (s : State) : Host.Outcome State Fault Refusal := .next (announce s (pauseAt t p s))

/-- RESUME (R50). -/
def execResume (h : CmdHdr) (part : Nat) (s : State) : Host.Outcome State Fault Refusal :=
  .next (command h { op := 0x14, fields := [(8, 1, part)], params := decide (part < 4), claims := [.part part], modFatal := true } (fun r s => resumeOp r part s) s)

/-- RESUME_AT_BOUNDARY (R50, R381). -/
def execResumeAtBoundary (t : Nat) (p : Fin 4) (s : State) : Host.Outcome State Fault Refusal := .next (announce s (resumeBoundary t p s))

/-- CAST (R313). -/
def execCast (h : CmdHdr) (part atGtc : Nat) (s : State) : Host.Outcome State Fault Refusal :=
  .next (command h { op := 0x15, fields := [(8, 1, part), (16, 8, atGtc)], params := decide (part < 4) && castTimeOk (bitOf h.flags 1) atGtc s, fabric := true } (fun r s => castOp r part (bitOf h.flags 1) atGtc s) s)

/-- CAST_AT_BOUNDARY (R374). -/
def execCastAtBoundary (t : Nat) (p : Fin 4) (s : State) : Host.Outcome State Fault Refusal := .next (announce s (castBoundary t p s))

/-- ABORT (R28). -/
def execAbort (h : CmdHdr) (part : Nat) (s : State) : Host.Outcome State Fault Refusal :=
  .next (command h { op := 0x16, fields := [(8, 1, part)], params := decide (part < 4), claims := [.part part] } (fun r s => abortOp r part s) s)

/-- PARTITION_DONE (R170). -/
def execPartitionDone (t : Nat) (p : Fin 4) (unfinished : List Nat) (s : State) : Host.Outcome State Fault Refusal :=
  .next (announce s (partDone t p unfinished s))

/-- FENCE_CELL (R74). -/
def execFenceCell (h : CmdHdr) (cell : Nat) (s : State) : Host.Outcome State Fault Refusal :=
  .next (command h { op := 0x70, fields := [(8, 2, cell)], params := decide (cell < 4096), claims := [.band (cell / 128)] } (fun r s => fenceOp r cell s) s)

/-- FENCE_AT_BOUNDARY (R74). -/
def execFenceAtBoundary (t : Nat) (p : Fin 4) (s : State) : Host.Outcome State Fault Refusal := .next (fenceBoundary t p s)

/-- UNFENCE_CELL (R75). -/
def execUnfenceCell (h : CmdHdr) (cell : Nat) (pass : Bool) (s : State) : Host.Outcome State Fault Refusal :=
  .next (command h { op := 0x71, fields := [(8, 2, cell)], params := decide (cell < 4096), claims := [.band (cell / 128)] } (fun r s => unfenceOp r cell pass s) s)

/-- Whether a band's router self-test is due (R68): three RING_CHECK records since the last START, and its partition not in
RUNNING. -/
def routerTestDue (s : State) (b : Nat) : Bool :=
  let p := partOf s b
  decide ((getBand s b).ringChecks ≥ 3) && !(decide (p < 4) && (getPart s p).st == .running)

/-- ROUTER_SELF_TEST (R68, R77). -/
def execRouterSelfTest (b : Fin 32) (pass : Bool) (s : State) : Host.Outcome State Fault Refusal :=
  .next (announce s (if routerTestDue s b then
    let s := modBand b (fun x => { x with ringChecks := 0 }) s
    if pass then s else bandLost b s
  else s))

end Sys2Proof.Machine
end

