-- ==== Sys2Proof/Machine/Observe.lean ====
section
/-! DEFINITION. Patina samples, tensor dumps, digest taps and cut objects (chapter 18 of spec/). -/

namespace Sys2Proof.Machine

/-- Fields of an indexed register: whether an offset lies among `n` elements of `stride` bytes from `base`. -/
def inArray (off base stride n : Nat) : Bool := decide (base ≤ off ∧ off < base + stride * n)

/-- A live counter of the patina block by its offset from 0x340_0000 (Tables 18.1, 18.2); none where there is none. -/
def patWord (v : PatLive) (off : Nat) : Option Nat :=
  if inArray off 0x10000 0x40 32 then
    let x := tget ({} : PatBand) v.band ((off - 0x10000) / 0x40)
    [x.run, x.hold, x.req, x.array, x.vector, x.portIn, x.portOut, x.sfaults][off % 0x40 / 8]?
  else if inArray off 0x20000 0x20 28 then
    let x := tget ({} : PatMem) v.mem ((off - 0x20000) / 0x20)
    [x.ce, x.ue, x.charged, x.moved][off % 0x20 / 8]?
  else if inArray off 0x30000 0x20 32 then
    let x := tget ({} : PatLink) v.link ((off - 0x30000) / 0x20)
    [x.tx, x.rx, x.replays, x.fecUe][off % 0x20 / 8]?
  else if inArray off 0x40000 0x10 1024 then
    let x := tget ({} : PatCh) v.ch ((off - 0x40000) / 0x10)
    [x.nan, x.steps][off % 0x10 / 8]?
  else if off = 0x50000 then some v.hours
  else if inArray off 0x50100 0x10 28 then
    let u := (off - 0x50100) / 0x10
    some (if off % 0x10 = 0 then tget 0 v.lifeCe u else tget 0 v.lifeUe u)
  else if inArray off 0x50400 8 32 then some (tget 0 v.lifeRep ((off - 0x50400) / 8))
  else none

/-- ARR_STS of a cell (Table 4.8). DESIGN CHOICE (log entry 22): PASS_ACTIVE reads 1 during a pass that is predicated off too, whose rows
ROWS_DONE and ACC16 do not count; the spec does not say (R96, R163). -/
def arrSts (s : State) (b pos : Nat) : Nat :=
  let cell := cellOf b pos
  let c := getCell s cell
  let mask := fun (f : Nat → Bool) => (List.range 4).foldl (fun a j => a + b2n (f j) * 2 ^ j) 0
  b2n c.wide + 4 * b2n (c.passes.any (fun p => decide (p.n < p.cycles))) + 8 * b2n c.acc16 +
  2 ^ 8 * mask (fun j => (tget none c.resident j).isSome) +
  2 ^ 12 * mask (fun j => ((tget none c.resident j).map (·.transposed)) == some true) +
  2 ^ 16 * mask (fun j => ((tget none c.shadow j).map Shadow.full) == some true) + 2 ^ 31 * b2n (s.fence.contains cell)

/-- The sample of every counter at a multiple of 1,000,000 ns (R362). Time that passes on the way takes the samples that are due;
the one at `g` shows the counters as they stand when all that ends with that GTC has settled. -/
def sampleOp (g : Nat) (s : State) : State :=
  if g % 1000000 ≠ 0 ∨ g < s.clk.gtc ∨ s.pwr.st = .aux ∨ (s.clk.gtc = g ∧ s.patina.seq ≠ 0 ∧ s.patina.sampleGtc = g) then s
  else
    let u := advanceGtc g s
    if u.clk.gtc < g then u
    else { u with patina := { u.patina with
      sample := u.patina.live, sampleGtc := g
      seq := if s.clk.gtc < g then u.patina.seq else (u.patina.seq + 1) % 2 ^ 32 } }

/-- The 64-byte dump header (Table 18.4). -/
def dumpHeader (p kind handle step gtc time jcc : Nat) (data : List Byte) : List Byte :=
  leBytes 4 0x504D5544 ++ leBytes 1 p ++ leBytes 1 kind ++ leBytes 2 handle ++ leBytes 4 step ++ leBytes 8 gtc ++ leBytes 1 time ++ zeros 3 ++
  leBytes 6 jcc ++ zeros 2 ++ leBytes 8 data.length ++ leBytes 4 (crc32c data).toNat ++ zeros 20

/-- The 80 bytes of a lane slot in a cut: data, and the fields of Table 3.2 packed from bit 0. -/
def laneBytes80 (j : Nat) (l : Option Lane) : List Byte :=
  match l with
  | none => zeros 80
  | some l => fit 64 l.data ++ leBytes 16 (1 + 2 * (l.dest % 4) + 2 ^ 3 * (l.tag % 16) + 2 ^ 7 * unsigned 16 (l.age j) + 2 ^ 23 * (l.life % 2 ^ 15) +
      2 ^ 38 * (l.check ^^^ Config.checkStart).toNat)

/-- Bytes that a cut holds where nothing of the state stands. -/
def hiddenBytes (obj b pos from_ n : Nat) : List Byte := (List.range n).map (fun i => Config.cutByte obj b pos (from_ + i))

/-- Bytes that show some state in a layout that is not given. -/
def stateBytes (obj : Nat) (x : List Nat) (n : Nat) : List Byte := (List.range n).map (Config.cutState obj x)

/-- Slots of 64 bytes that hold the entries of a queue, oldest first. -/
def entryBytes (obj b pos from_ n : Nat) (l : List QEntry) : List Byte :=
  (List.range n).flatMap (fun i => match l[i]? with
    | some e => (List.range 64).map (Config.entryByte e.tag e.seq e.body)
    | none => hiddenBytes obj b pos (from_ + 64 * i) 64)

/-- Cut object 0x01 (Table 18.6). -/
def cutSummary (p : Nat) (c : Cut) : List Byte :=
  let cause := match c.cause with
    | .command => 0 | .fabricCommand => 1 | .castAt => 2 | .schedFault => 3 | .watchdog => 4 | .otherFatal => 5
  fit 256 (leBytes 8 c.jcc ++ leBytes 8 c.mcc ++ leBytes 8 c.gtc ++ leBytes 1 cause ++ leBytes 1 c.time ++ leBytes 1 (b2n c.held) ++
    leBytes 1 p ++ leBytes 4 c.mask ++ leBytes 4 c.capture.length ++ zeros 4 ++ leBytes 4 (c.record.getD 0xFFFFFFFF) ++ leBytes 8 c.atGtc)

/-- Cut object 0x02: ring, alignment stages and seam stage. DESIGN CHOICE (log entry 14): the position of a lane in an alignment
stage is the one that its AGE would give it on the ring. -/
def cutRing (s : State) (p b : Nat) : List Byte :=
  let bd := getBand s b
  let j := (getPart s p).jcc
  let slots := fun (f : Bool → Nat → Nat → Option Lane) => [false, true].flatMap (fun ccw => (List.range 128).flatMap (fun pos =>
    (List.range 8).flatMap (fun i => laneBytes80 j (f ccw i pos))))
  let stage := fun (f : Lane → Bool) (ccw : Bool) (i pos : Nat) =>
    bd.lanes.find? (fun l => l.ccw == ccw && l.idx == i && l.pos j == pos && f l)
  let seam := (List.range 4).flatMap (fun t =>
    let w := s.seam.find? (fun w => ageAt j w.placedAt ≥ 0 && seamAt w.src w.dst w.track ((ageAt j w.placedAt).toNat + 2) == some (b, t))
    (List.range 8).flatMap (fun i => match w.bind (fun w => (w.lanes.find? (·.1 == i)).map (fun x => (w.tag, x))) with
      | some (tag, _, data, check) => fit 64 data ++ leBytes 16 (1 + 2 * 3 + 2 ^ 3 * tag + 2 ^ 38 * (check ^^^ Config.checkStart).toNat)
      | none => zeros 80))
  slots (laneAt bd j) ++ slots (stage (fun l => !l.placed)) ++
    slots (stage (fun l => l.placed && l.dest != 0 && decide (l.age j ≥ l.headAge))) ++ seam

/-- Cut object 0x03: the port buffers. -/
def cutPort (s : State) (b : Nat) : List Byte :=
  let bd := getBand s b
  let side := fun (t : Tbl (List PortWord)) (n : Nat) =>
    fit (528 * n) ((List.range 8).flatMap (fun x => (tget [] t x).flatMap (fun w =>
      fit 512 w.data ++ leBytes 1 x ++ leBytes 1 w.tag ++ leBytes 1 1 ++ zeros 13)))
  side bd.inStreams 2048 ++ side bd.outStreams 512

/-- The bits of elements packed into bytes, element 0 in the lowest. -/
def packBytes (w n : Nat) (es : List Nat) : List Byte :=
  leBytes n (es.foldr (fun e a => e % 2 ^ w + 2 ^ w * a) 0)

/-- One block of cut object 0x10. -/
def cutBlock (o : Option Block) : List Byte :=
  match o with
  | none => zeros 528
  | some k => packBytes (elemBits k.fmt.elem) 512 k.elems ++ fit 16 (k.scales.flatMap (leBytes 1))

/-- The rows in flight of a cell in the order of their entry, with their bytes (Table 18.6): those whose step is not complete, and
those of the steps that have still to be written. -/
def rowsInFlight (c : Cell) (j : Nat) : List (RowPart × List Byte) :=
  let pack := fun (f : OpFmt) (r : RowPart) => packBytes (elemBits f.elem) 32 r.xs
  let begun := (c.passes.filter (·.performed)).flatMap (fun p =>
    (p.part.filter (fun r => r.ok || !r.ended)).map (fun r => (r, if r.ended then pack p.d.xf r else (rowBytesOf c p r.row).getD [])))
  let formed := (c.steps.filter (fun x => x.performed)).flatMap (fun x => x.rows.map (fun r => (r, pack x.xf r)))
  (formed ++ begun).foldl (fun l x =>
    let first := fun (y : RowPart × List Byte) => decide (ageAt j y.1.at_ ≥ ageAt j x.1.at_)
    l.takeWhile first ++ x :: l.dropWhile first) []

/-- Cut object 0x10: blocks, generators, ARR_STS, and the rows in flight. -/
def cutArrays (s : State) (b pos : Nat) : List Byte :=
  let c := getCell s (cellOf b pos)
  let top := (List.range 4).flatMap (fun j => cutBlock (tget none c.resident j)) ++
    (List.range 4).flatMap (fun j => cutBlock ((tget none c.shadow j).map Shadow.block)) ++
    (List.range 5).flatMap (fun a => leBytes 4 (genOf c a).toNat) ++ leBytes 4 (arrSts s b pos)
  fit 16384 (fit 4352 top ++ (rowsInFlight c (getPart s (partOf s b)).jcc).flatMap (fun x =>
    fit 64 (leBytes 2 (x.1.at_ % 65536) ++ leBytes 1 x.1.array ++ leBytes 1 1 ++ fit 32 x.2)))

/-- A current run as numbers. -/
def runNums (r : Option CurRun) : List Nat :=
  match r with
  | some r => [1, r.stream, r.left, r.from_]
  | none => [0]

/-- Cut object 0x04: the queues, and the sequencer's state. -/
def cutQueues (s : State) (p b : Nat) : List Byte :=
  let bd := getBand s b
  entryBytes 4 b 0xFF 0 64 bd.qArray ++ entryBytes 4 b 0xFF 4096 64 bd.qVector ++ entryBytes 4 b 0xFF 8192 32 bd.qRow ++
    entryBytes 4 b 0xFF 10240 128 bd.qPort ++
    stateBytes 4 ([bd.seqState, (getPart s p).jcc] ++ (List.range 8).flatMap (fun x => runNums (tget none bd.inRuns x)) ++ runNums bd.outRun) 256

/-- Cut object 0x05: the Armature core. Its private program may have written its data memory since it left reset. -/
def cutArm (s : State) (b : Nat) : List Byte :=
  let bd := getBand s b
  fit 32768 bd.armImem ++ (if bd.armPc = 0 then fit 65536 bd.armData else stateBytes 5 [b, bd.armPc, 1] 65536) ++
    stateBytes 5 [b, bd.armPc, 0] 256

/-- Cut object 0x06: the side memory, and the state of the active descriptor. -/
def cutRow (s : State) (b : Nat) : List Byte :=
  let bd := getBand s b
  (List.range 131072).flatMap (fun i => leBytes 8 (tget 0 bd.records i).toNat) ++
    stateBytes 6 (match bd.row with | some r => [1, r.start, r.count, r.lastAt, r.flags, r.side] | none => [0]) 256

/-- Cut object 0x11: counters, comparators, lane registers, FIFOs, and the vector engine. -/
def cutVector (s : State) (b pos : Nat) : List Byte :=
  let x := getCell s (cellOf b pos)
  let j := (getPart s (partOf s b)).jcc
  let cmp := (List.range 4).flatMap (fun i =>
    let g := (tget cmpDef x.cmp i).get j
    stateBytes 0x11 [g.ctr, match g.rel with | .eq => 0 | .ne => 1 | .lt => 2 | .ge => 3, b2n g.signed, g.second.getD 8, g.value] 8)
  let run := match x.vec with
    | some v => [1, v.start, v.issued, v.accN, v.results, v.packedN, v.packedWords, v.taken, v.flags]
    | none => [0]
  (List.range 8).flatMap (fun i => leBytes 4 (ctAt x j i).toNat) ++ cmp ++ leBytes 1 (x.laneCw.get j) ++ leBytes 1 (x.laneCcw.get j) ++
    hiddenBytes 0x11 b pos 66 62 ++ entryBytes 0x11 b pos 128 4 x.arrayFifo ++ entryBytes 0x11 b pos 384 4 x.vecFifo ++
    (match x.vec with
      | some v => (List.range 64).map (Config.entryByte 0 0 (.vector v.d))
      | none => hiddenBytes 0x11 b pos 640 64) ++ stateBytes 0x11 run 64 ++
    fit (29 * 256) (x.vecOuts.flatMap (fun o => stateBytes 0x11 ([o.at_, o.flags] ++ o.bytes.map (fun e => e.2.toNat)) 256))

/-- Cut object 0x14: the scratchpad, codeword by codeword, with the records of R197 and Table 18.6. -/
def cutScratch (p b pos : Nat) (s : State) : List Byte × State :=
  let cell := cellOf b pos
  let j := (getPart s p).jcc
  (List.range 16384).foldl (fun (a : List Byte × State) i =>
    let (bs, e) := spDecode (spNow (getCell a.2 cell)) j (i / 2) (i % 2)
    (a.1 ++ bs, match e with
      | .corrected _ _ => spCorrected j cell (i / 2 * 64) a.2
      | .uncorrectable => spUncorrectable p j cell (i / 2 * 64) false a.2
      | _ => a.2)) ([], s)

/-- A cut object by its selector (R377, Table 18.6); none where there is no such object. -/
def cutObject (p sel : Nat) (c : Cut) (s : State) : Option (List Byte × State) :=
  let obj := sel % 256
  let b := sel / 256 % 256
  let pos := sel / 65536 % 256
  let band := decide (b < 32) && (getBand s b).bound && partOf s b == p
  let cell := band && decide (pos < 128) && !s.fence.contains (cellOf b pos)
  let bd := getBand s b
  let x := getCell s (cellOf b pos)
  let j := (getPart s p).jcc
  if sel ≥ 2 ^ 24 ∨ !(b == 0xFF || band) ∨ !(b == 0xFF || pos == 0xFF || cell) then none
  else if obj = 0x01 then some (cutSummary p c, s)
  else if obj = 0x20 then some (c.capture.flatten, s)
  else if obj = 0x21 then some ((List.range (263424 / 8)).flatMap (fun i => leBytes 8 ((patWord c.patina (0x10000 + 8 * i)).getD 0)), s)
  else if obj = 0x02 ∧ band = true then some (cutRing s p b, s)
  else if obj = 0x03 ∧ band = true then some (cutPort s b, s)
  else if obj = 0x04 ∧ band = true then some (cutQueues s p b, s)
  else if obj = 0x05 ∧ band = true then some (cutArm s b, s)
  else if obj = 0x06 ∧ band = true then some (cutRow s b, s)
  else if obj = 0x07 ∧ band = true then some (fit 65536 bd.seqImg, s)
  else if obj = 0x10 ∧ cell = true then some (cutArrays s b pos, s)
  else if obj = 0x11 ∧ cell = true then some (cutVector s b pos, s)
  else if obj = 0x12 ∧ cell = true then some (x.tiles.read j 0 32768, s)
  else if obj = 0x13 ∧ cell = true then some (fit 16384 x.program, s)
  else if obj = 0x14 ∧ cell = true then some (cutScratch p b pos s)
  else none

/-- Whether a selector names an object of Table 18.6, of a bound band of the partition and no fenced cell (R377). -/
def cutNames (p sel : Nat) (s : State) : Bool :=
  let obj := sel % 256
  let b := sel / 256 % 256
  let pos := sel / 65536 % 256
  let band := decide (b < 32) && (getBand s b).bound && partOf s b == p
  let cell := band && decide (pos < 128) && !s.fence.contains (cellOf b pos)
  decide (sel < 2 ^ 24) && (b == 0xFF || band) && (b == 0xFF || pos == 0xFF || cell) &&
    ([0x01, 0x20, 0x21].contains obj || (decide (2 ≤ obj ∧ obj ≤ 7) && band) || (decide (0x10 ≤ obj ∧ obj ≤ 0x14) && cell))

/-- DUMP_TENSOR (R366, R377, Table 18.3): the size is that of the region named, which of an import may be less than its source's
(Table 11.5). -/
def dumpOp (r : CmdRef) (p loc point step addr len : Nat) (s : State) : State :=
  let q := getPart s p
  if point = 0xFFFF then
    match q.st, q.cut with
    | .cast, some c => match cutObject p step c s with
      | none => finish r .badParam 0 noRec s
      | some (data, t) =>
        if len < 64 + data.length then finishErr r .noResource 1 p 0 s
        else finishOk r (64 + data.length)
          (bulkWrite loc addr (dumpHeader p 1 0xFFFF step c.gtc c.time c.jcc data ++ data) t)
    | _, _ => finishErr r .partitionState 1 p 0 s
  else match q.st, resolve s p point with
    | .empty, _ | .loaded, _ | _, none => finishErr r .partitionState 1 p 0 s
    | st, some _ =>
      let size := (getReg s (regKey p point)).size
      let job : DumpJob := {
        ring := r.ring, slot := r.slot, loc := loc, handle := point, step := step, addr := addr, len := len, copying := false
        startGtc := 0, startTime := 0 }
      let go := fun (d : DumpJob) (s : State) => launch r [] (.dump p) (modPart p (fun q => { q with dump := q.dump ++ [d] }) s)
      if len < 64 + size * 65536 then finishErr r .noResource 1 p 0 s
      else if step ≥ q.runs ∨ (step + 1 = q.runs ∧ (st = .running ∨ st = .paused ∨ st = .cast)) then go job s
      else if step + 1 = q.runs ∧ st = .done then
        go { job with copying := true, startGtc := s.clk.gtc, startTime := s.clk.timeState, doneJcc := q.doneJcc } s
      else finishErr r .timeout 1 p 0 s

/-- The copy of a dump completes (R367, R368): the region as it stands. -/
def dumpDone (p : Nat) (s : State) : State :=
  let q := getPart s p
  match q.dump.find? (fun d => d.copying) with
  | none => s
  | some d => match resolve s p d.handle with
    | none => endDumps p true s
    | some (_, g) =>
      let who : MemWho := { src := 0, part := some p, ctx := none, pol := 1 }
      let s := (List.range (getReg s (regKey p d.handle)).size).foldl (fun s i => chargeRegion g (65536 * i) 65536 s) s
      let (data, _, s) := regionRead who g 0 ((getReg s (regKey p d.handle)).size * 1024) s
      let s := bulkWrite d.loc d.addr (dumpHeader p 0 d.handle d.step d.startGtc d.startTime d.doneJcc data ++ data) s
      let s := modPart p (fun q => { q with dump := q.dump.filter (fun x => x != d) }) s
      (s.flights.filter (fun x => x.kind == .dump p && x.ring == d.ring && x.slot == d.slot)).foldl
        (fun s x => finishOk (refOf x) (64 + data.length) s) s

/-- Formats that a tap may name (R369), with their codes. -/
def tapFmt : Elem → Option Nat
  | .fp32 => some 0 | .bf16 => some 1 | .fp16 => some 2 | .e4m3 => some 3 | .e5m2 => some 4 | .int32 => some 5 | .int8 => some 6
  | _ => none

/-- Digest latency (Table 9.4, R369). -/
def digLat (s : State) (b : Nat) : Nat := if !s.ident.b0 || (getBand s b).digCompat then 12 else 9

/-- A tap operation (R369). -/
def tapOp (p j b tap : Nat) (fmt : Elem) (n tag : Nat) (s : State) : State :=
  let bd := getBand s b
  let busy := match bd.tap with
    | none => false
    | some t => match t.doneAt with
      | none => true
      | some d => decide (ageAt j d ≤ (digLat s b : Int))
  if tag % 16 ≠ j % 16 then headFault p j b 0x0205 (fun f => { f with cmp := j % 16, tag := tag % 16 }) s
  else if busy then headFault p j b 0x021D id s
  else if (tapFmt fmt).isNone ∨ n = 0 ∨ n > 16777216 ∨ tap ≥ 0xFFFF then s
  else setBand b { bd with tap := some {
    tap := tap, fmt := fmt, left := n, count := 0, nan := 0, posInf := 0, negInf := 0, finite := 0, minV := none, maxV := none
    sumI := 0, sumF := 0, crc := 0xFFFFFFFF, doneAt := none } } s

/-- An exact integer sum divided by a count, rounded to binary64 and then to binary32 (R371). -/
def meanInt (v : Int) (count : Nat) : W32 :=
  if v = 0 ∨ count = 0 then 0
  else
    let q := v.natAbs * 2 ^ 128
    let (_, m, e) := dec64 (code64 (2 * (q / count) + (if q % count = 0 then 0 else 1)) (-129))
    (fin32 (decide (v < 0)) m e).1

/-- A digest record (Table 18.5). -/
def digestRec (t : Tap) (jcc lband seq : Nat) : List Byte :=
  let int := elemInt t.fmt
  let empty := (t.minV.isNone || decide (t.finite = 0))
  let mn := t.minV.getD (if int then 0x7FFFFFFF else 0x7F800000)
  let mx := t.maxV.getD (if int then 0x80000000 else 0xFF800000)
  let mean := if int then meanInt t.sumI t.finite else mean64 t.sumF t.finite
  leBytes 2 t.tap ++ leBytes 1 ((tapFmt t.fmt).getD 0) ++ leBytes 1 (b2n empty) ++ leBytes 4 t.count ++ leBytes 4 t.nan ++ leBytes 4 t.posInf ++
  leBytes 4 t.negInf ++ leBytes 4 mn.toNat ++ leBytes 4 mx.toNat ++ leBytes 4 mean.toNat ++ leBytes 4 (t.crc ^^^ 0xFFFFFFFF).toNat ++
  leBytes 6 jcc ++ leBytes 1 lband ++ zeros 1 ++ leBytes 4 seq ++ zeros 16

/-- The oldest pending copies of a plinth die are written (R373). -/
def writeCopies (k n : Nat) (s : State) : State :=
  let l := (getPl s k).copies
  (l.take n).foldl (fun t x => bulkWrite x.loc x.addr x.data t) (modPl k (fun x => { x with copies := l.drop n }) s)

/-- The armed copy of a record (R372, R373): GTC, band and time state filled in, for the next slot of the ring; with 256 pending on
the plinth die it is not copied. DESIGN CHOICE (log entry 51): the spec does not say when a pending copy is written; a free value
says how many are by the next record. -/
def armedCopy (p b : Nat) (bs : List Byte) (tap : Nat) (s : State) : State :=
  match (getPart s p).taps.find? (fun a => a.tap == tap) with
  | none => s
  | some a =>
    let k := plinthOf b
    let (v, s) := takeFree s
    let s := writeCopies k (v.toNat % 257) s
    if (getPl s k).copies.length ≥ 256 then s
    else
      let out := bs.take 48 ++ leBytes 8 s.clk.gtc ++ leBytes 1 b ++ leBytes 1 s.clk.timeState ++ zeros 6
      modPl k (fun x => { x with copies := x.copies ++ [{ loc := a.loc, addr := a.addr + 64 * a.next, data := out }] })
        (modPart p (fun q => { q with
          taps := q.taps.map (fun x => if x.tap = tap then { x with next := (x.next + 1) % x.entries } else x) }) s)

/-- The digest unit releases its record (R369, R370). -/
def digestOp (p j b : Nat) (s : State) : State :=
  let bd := getBand s b
  match bd.tap with
  | none => s
  | some t => match t.doneAt with
    | none => s
    | some d =>
      if ageAt j d ≠ (digLat s b : Int) then s
      else
        let n := tget 0 bd.tapSeq t.tap
        let bs := digestRec t d bd.lband n
        let s := setBand b { bd with tapSeq := tset 0 bd.tapSeq t.tap ((n + 1) % 2 ^ 32) } s
        if bd.outAt = some j then headFault p j b 0x0206 id s
        else
          let ok := match bd.outRun with
            | some r => decide (ageAt j r.from_ ≥ 0)
            | none => false
          let s := outWord p j b [(0, bs)] s
          if ok then armedCopy p b bs t.tap s else s

/-- DUMP_TENSOR (R366, R377). -/
def execDumpTensor (h : CmdHdr) (part loc point step addr len : Nat) (s : State) : Host.Outcome State Fault Refusal :=
  .next (command h {
    op := 0x60, fields := [(8, 1, part), (9, 1, loc), (10, 2, point), (12, 4, step), (16, 8, addr), (24, 8, len)], loc := some loc, names := [.part part]
    params := decide (part < 4 ∧ point < 65536 ∧ step < 2 ^ 32) && locOk h loc && bulkOk s loc addr len && (point != 0xFFFF || cutNames part step s) }
    (fun r s => dumpOp r part loc point step addr len s) s)

/-- DUMP_COPY_COMPLETE (R368). -/
def execDumpCopyComplete (p : Fin 4) (s : State) : Host.Outcome State Fault Refusal := .next (announce s (dumpDone p s))

/-- DIGEST_TAP with arm = 1 (R373). -/
def execDigestTapArm (h : CmdHdr) (part loc tap addr entries : Nat) (s : State) : Host.Outcome State Fault Refusal :=
  .next (command h {
    op := 0x61, fields := [(8, 1, part), (9, 1, loc), (10, 2, tap), (12, 1, 1), (16, 8, addr), (24, 4, entries)], loc := some loc, names := [.part part]
    params := decide (part < 4 ∧ tap ≤ 0xFFFE ∧ 1 ≤ entries ∧ entries < 2 ^ 32) && locOk h loc && bulkOk s loc addr (64 * entries) }
    (fun r s =>
      if (getPart s part).st = .empty then finishErr r .partitionState 1 part 0 s
      else finishOk r 0 (modPart part (fun q => { q with
        taps := q.taps.filter (fun x => x.tap != tap) ++ [{ tap := tap, loc := loc, addr := addr, entries := entries, next := 0 }] }) s)) s)

/-- DIGEST_TAP with arm = 0 (R373). -/
def execDigestTapDisarm (h : CmdHdr) (part loc tap : Nat) (s : State) : Host.Outcome State Fault Refusal :=
  .next (command h { op := 0x61, fields := [(8, 1, part), (9, 1, loc), (10, 2, tap), (12, 1, 0)], loc := some loc, names := [.part part], params := decide (part < 4 ∧ tap ≤ 0xFFFE) && locOk h loc } (fun r s =>
    if (getPart s part).st = .empty then finishErr r .partitionState 1 part 0 s
    else finishOk r 0 (modPart part (fun q => { q with taps := q.taps.filter (fun x => x.tap != tap) }) s)) s)

/-- TAP_OPERATION (R369). -/
def execTapOperation (t : Nat) (b : Fin 32) (tap : Nat) (fmt : Elem) (n tag : Nat) (s : State) : Host.Outcome State Fault Refusal :=
  .next (sequencer t b (fun p j s => tapOp p j b tap fmt n tag s) s)

/-- DIGEST_RECORD_RELEASE (R369). -/
def execDigestRecordRelease (t : Nat) (b : Fin 32) (s : State) : Host.Outcome State Fault Refusal :=
  .next (island t b (fun p j s => digestOp p j b s) s)

/-- PATINA_SAMPLE (R362). -/
def execPatinaSample (gtc : Nat) (s : State) : Host.Outcome State Fault Refusal := .next (sampleOp gtc s)

end Sys2Proof.Machine
end

