-- ==== Sys2Proof/Machine/PowerM.lean ====
section
/-! DEFINITION. Power states, resets, start-up, the power manager, hold-up tests and deferred commits (chapter 16 of
spec/, with R37, R44, R278, R291, R292, R354, R357, R364). -/

namespace Sys2Proof.Machine

/-- Whether PERST, or an event of R278, is in force (R329). -/
def perstHolds (s : State) : Bool := s.pcie.perst || s.pcie.down

/-- Whether the endpoint takes memory requests of the host: powered, and no reset in force; and whether the function is ready after
its last function-level reset (R291). -/
def endpointUp (s : State) : Bool := s.pwr.st != .aux && !perstHolds s
def fnReady (s : State) : Bool := decide (s.pcie.flrUntil ≤ s.clk.gtc)

/-- Whether an MCTP message of a bus reaches the module: the PCI Express transport runs in D0 only (R319). -/
def busUp (s : State) : MctpBus → Bool
  | .smbus => true
  | .pcie => endpointUp s && fnReady s && !s.pcie.d3hot

/-- A link register block with only the fields that software writes (Table 12.9). -/
def linkConfig (x : Link) : Link := { retryTo := x.retryTo, retryMax := x.retryMax, recalSer := x.recalSer }

/-- Every link is reset (Table 16.3), and the module looks for a parent among none (R248). -/
def resetLinks (s : State) : State :=
  let s := (List.range 32).foldl (fun s l => linkReset l s) s
  let s := (List.range 32).foldl (fun s l => land (fun k => k == .link l true) (fun r s => finishErr r .timeout 7 l 0 s) s) s
  noteCause 6 (if s.fab.parent.isSome then chooseRoot s else s)

/-- The flights that a reset of the function ends without an answer: those of the rings, and with `all` those of the
management ring too, whose queue is then empty. -/
def dropFlights (all : Bool) (s : State) : State :=
  { s with
    flights := if all then [] else s.flights.filter (fun x => decide (16 ≤ x.ring))
    mgmt := if all then [] else s.mgmt
    rings := if all then [] else s.rings.filter (fun x => x.1 == 16) }

/-- The commits that wait without the SET_CERTIFICATE requests of a transport. -/
def dropKeys (p : Transport → Bool) (l : List Commit) : List Commit :=
  l.filter (fun c => match c with
    | .keys tr _ _ => !p tr
    | _ => true)

/-- What FLR, WARM and PERST have in common (R291, Table 16.4, the Restored by columns). `all`: Flomor stops. DEDUCED (log entry 36):
a warm reset restores GLB_AP_STS.REFUSED as FLR does (R329), though its row of Table 14.8 does not list WARM. -/
def functionReset (all : Bool) (s : State) : State :=
  let s := { dropFlights all s with chans := [], passQ := [], redMcastTo := 100, castSeen := [] }
  let s := [0, 1, 2, 3].foldl (fun s p => partReset p s) s
  let s := resetLinks s
  { s with
    partMap := [0, 0, 0, 0, 0, 0, 0, 0], wdog := []
    plinths := tmap {} (fun _ x => { passes := x.passes }) s.plinths
    devs := tmap {} (fun _ d => { d with ceWarn := false }) s.devs
    bands := tmap {} (fun _ x => { x with fenceBusy := false }) s.bands
    links := tmap {} (fun _ x => { calLive := x.calLive, st := x.st }) s.links
    app := {}, msix := { s.msix with plic := [] }, pcie := { s.pcie with refused := 0 }
    log := { s.log with peerDoe := 0 }
    pwr := { s.pwr with waiting := dropKeys (· == .doe) s.pwr.waiting }
    clk := { s.clk with
      stsJitter := false, stsDuty := false, stsSkewCorr := false, stsSkewFail := false, stsSlip := false, stsUnlock := false
      stsRegion := 0, jitterLimit := 0x14, dutyLimit := 0x32, breach := [] }
    sec := { s.sec with sessions := s.sec.sessions.filter (fun x => x.tr != .doe), spdmDoe := .none, privMem := s.sec.privMem.filter (fun x => decide (256 ≤ x.1)) } }

/-- Every link trains again in the best mode it has (R242, R243), where the link ports have power. -/
def trainLinks (s : State) : State :=
  if s.pwr.st ≠ .active ∧ s.pwr.st ≠ .idle then s
  else (List.range 32).foldl (fun s l => if (getLink s l).st = .down then startTraining l (bestMode s l) s else s) s

/-- A function-level reset (R291). A free value says when the function is ready again, which is within 100 ms. PRESUMED (log entry 47): of configuration space, Max Payload Size, Link Control and AER's
status, masks and severities stay, as the PCI Express Base Specification has it. -/
def flrOp (s : State) : State :=
  if s.pwr.st = .aux ∨ perstHolds s then s
  else
    let (v, s) := takeFree (noteCause 2 (functionReset false s))
    trainLinks { s with
      pcie := { s.pcie with
        apBase := 0, doeError := false, d3hot := false, cmd := 0, bar0 := 0, bar2 := 0, bar4 := 0
        devCtl := 0x2010 ||| (s.pcie.devCtl &&& 0xE0), devSts := 0, devCtl2 := 0, engine := 0
        doeReady := false, doeIn := [], doeOut := [], held := [], flrUntil := s.clk.gtc + v.toNat % 100000000 }
      msix := {} }

/-- The patina counters at PERST: the lifetime counters stay (Table 18.2). -/
def patinaReset (x : Patina) : Patina :=
  { live := { hours := x.live.hours, lifeCe := x.live.lifeCe, lifeUe := x.live.lifeUe, lifeRep := x.live.lifeRep }
    activeNs := x.activeNs, activeFrom := x.activeFrom }

/-- Memory devices that were DRAINING are ONLINE, since no region is left (Table 16.4 note 9), and the drains end. -/
def undrain (s : State) : State :=
  let s := { s with devs := tmap {} (fun _ d => { d with st := if d.st = 2 then 1 else d.st, tempHigh := false }) s.devs }
  (List.range 28).foldl (fun s u => land (fun k => match k with
    | .dimmOff c => 16 + c == u
    | .stack n _ => n == u
    | _ => false) (fun r s => finishErrR r .fault 6 u 0 (getDev s u).st s) s) s

/-- A PERST reset begins (R329, Table 16.4). `all`: Flomor stops too, at entry to AUX. -/
def perstReset (all : Bool) (s : State) : State :=
  let s := noteCause 1 (undrain (functionReset all s))
  { s with
    clk := { s.clk with
      run := .stopped, mcc := 0, syncMcc := 0, syncGtc := 0, curLevel := 5, tgtLevel := 5, pendingChange := false
      queuedTgt := none, freqAt := 0, pauses := 0, realign := [], pulse := none, locked := false, aligned := false, fastLock := false, copies := [], timeState := 0 }
    links := tmap {} (fun _ x => { st := x.st }) s.links
    fab := {}, mbox := [], plinths := [], msix := {}, patina := patinaReset s.patina
    pcie := { perst := s.pcie.perst, down := s.pcie.down }
    pwr := { s.pwr with
      ready := false, stage := .auxWait, pmLevel := 0, cap := 0, stepsDown := 0, coolWindows := 0, warmAt := none }
    log := { s.log with modFatal := false, modRec := 0xFFFFFFFF } }

/-- ACTIVE begins, or ends: the GTC spent in it counts towards a full hour (R364). -/
def beginActive (s : State) : State := { s with
  pwr := { s.pwr with st := .active }, patina := { s.patina with activeFrom := some s.clk.gtc } }
def endActive (x : PowerState) (s : State) : State := { s with
  pwr := { s.pwr with st := x }
  patina := { s.patina with
    activeNs := s.patina.activeNs + (match s.patina.activeFrom with | some g => s.clk.gtc - g | none => 0), activeFrom := none } }

/-- The module enters AUX: the main rails go off (R324-R326, Table 16.4). -/
def enterAux (why : AuxWhy) (s : State) : State :=
  let s := endActive .aux (perstReset true s)
  { s with
    cells := [], seam := [], mem := [], memErr := [], poison := [], devs := [], lasers := [], links := []
    pwr := { s.pwr with auxWhy := why, warmStart := false, flomorUp := false }
    clk := { s.clk with coreLock := false }
    pcie := { perst := s.pcie.perst, down := true } }

/-- PERST# is asserted (R329). In AUX only the pin changes. -/
def perstOp (s : State) : State :=
  let s := { s with pcie := { s.pcie with perst := true } }
  if s.pwr.st = .aux then s else perstReset false s

/-- An event of R278: it resets as PERST# does, and lasts until its end. -/
def dlDownOp (s : State) : State :=
  if s.pwr.st = .aux then s else perstReset false { s with pcie := { s.pcie with down := true } }

/-- The HBM stacks as training finds them (R77, R216, R231): a stack that fails, or that flash records as FAILED, is
FAILED. -/
def stackInit (bad : List Nat) (s : State) (u : Nat) : State :=
  let failed := bad.contains u || s.flash.failedStacks.contains u
  let s := if bad.contains u && !s.flash.failedStacks.contains u then asyncCommit (.stackFailed u true) s else s
  modDev u (fun _ => if failed then { st := 5 } else { st := 1, cap := 36, rated := 36 }) s

/-- The DIMM channels as start-up finds them (R217). A capacity of 0 stands for an empty socket. -/
def dimmInit (found : StartupFind) (s : State) (c : Nat) : State :=
  match found.dimms[c]? with
  | some d => if d.capGiB = 0 then modDev (16 + c) (fun _ => {}) s else (takeDimm c (some d) s).2.2
  | none => modDev (16 + c) (fun _ => {}) s

/-- The values of a commit of the lifetime counters. -/
def counterValues : Commit → Option (Tbl Nat)
  | .counters v => some v
  | _ => none

/-- The persisted lifetime counters from flash (R332 step 4, R364). DEDUCED (log entry 38): those of a commit that still waits go before
them, since the registers show the counts of a deferred commit as long as it is not lost. -/
def loadCounters (s : State) : State :=
  let c := ((s.pwr.deferred ++ s.pwr.waiting).filterMap counterValues).getLast?.getD s.flash.counters
  { s with patina := { s.patina with live := { s.patina.live with
      hours := tget 0 c 128
      lifeCe := (List.range 28).foldl (fun t u => tset 0 t u (tget 0 c (2 * u))) []
      lifeUe := (List.range 28).foldl (fun t u => tset 0 t u (tget 0 c (2 * u + 1))) []
      lifeRep := (List.range 32).foldl (fun t l => tset 0 t l (tget 0 c (64 + l))) [] } } }

/-- Fence map and LOST bands from flash after POR (R76, R77, Table 16.4). -/
def loadFlash (s : State) : State :=
  { s with
    fence := s.ident.factoryFence ++ s.flash.fenceMap.filter (fun x => !s.ident.factoryFence.contains x)
    bands := (List.range 32).foldl (fun t b => tmod {} t b (fun (x : Band) => { x with lost := s.flash.lost.contains b, persistPending := false })) s.bands }

/-- Both tiers and the scratchpads are written to zero (R219, R332 step 4). -/
def zeroAll (s : State) : State := { s with mem := [], memErr := [], poison := [], cells := [] }

/-- Router self-tests (R77). -/
def routerTests (bad : List Nat) (s : State) : State :=
  bad.foldl (fun s b => if (getBand s b).lost then s else bandLost b s) s

/-- The laser modules as detection finds them. -/
def laserInit (found : StartupFind) (s : State) : State :=
  (List.range 4).foldl (fun s n => modLaser n (fun _ => { st := if found.lasers.getD n false then 3 else 0 }) s) s

/-- The work of Flomor's step 4 of R332 after POR or AUX. The clocks wait for the end of a PERST reset (R39). -/
def hardwareInit (found : StartupFind) (s : State) : State :=
  let s := if perstHolds s then s else startClocks s
  let s := routerTests found.badRouters (loadCounters (if s.pwr.coldStart then loadFlash s else s))
  let s := (List.range 16).foldl (stackInit found.badStacks) s
  laserInit found (zeroAll ((List.range 12).foldl (dimmInit found) s))

/-- The bytes of a label. -/
def labelBytes (x : String) : List Byte := x.toList.map (fun c => BitVec.ofNat 8 c.toNat)

/-- The keys that are derived for an image (R345). -/
def deriveKeys (i : FwId) (x : Sec) : Sec :=
  let device := Config.p384Key (Config.kdf x.uds (labelBytes "ZX4 DEVICEID"))
  let cdi := Config.kdf x.uds (labelBytes "ZX4 CDI" ++ i.digest ++ [BitVec.ofNat 8 i.svn])
  let aliasK := Config.p384Key (Config.kdf cdi (labelBytes "ZX4 ALIAS"))
  { x with
    booted := i, keysDerived := true, deviceKey := device, devicePub := Config.p384Public device, cdi := cdi, aliasKey := aliasK
    aliasPub := Config.p384Public aliasK }

/-- Whether a start of Flomor derives its keys: at a POR or a warm reset (R345), while the boundary is operational (R343). -/
def derives (s : State) : Bool :=
  s.sec.st == .operational && (s.pwr.coldStart || s.pwr.warmStart || !s.sec.keysDerived)

/-- An image is measured for the CDI (R345). -/
def measureBoot (i : FwId) (s : State) : State := if derives s then { s with sec := deriveKeys i s.sec } else s

/-- A self-test fails (R343): the failing row of Table 17.1, 0xFF for the ROM check. -/
def selfTestFails (row : Nat) (s : State) : State :=
  moduleFatal 0x0A01 none [(0, row % 256)] { s with sec := { s.sec with st := .error, approved := false } }

/-- Flomor starts (R332 steps 3 and 4). After a warm reset the hardware needs no new start. When the pairwise test of the derived keys
fails (R343, row 0 of Table 17.1), the loader goes on to the recovery path. -/
def flomorStart (i : FwId) (found : StartupFind) (s : State) : State :=
  if found.keyFails && derives s then
    let s := selfTestFails 0 s
    { s with pwr := { s.pwr with stage := .recovery, backoff := 0 } }
  else
    let s := measureBoot i { s with sec := { s.sec with running := i }, pwr := { s.pwr with stage := .flomorInit, backoff := 0, flomorUp := true } }
    if s.pwr.warmStart then s else hardwareInit found s

/-- The ROM loader verifies the image in flash (R332 step 3, R343, R350); when that fails it offers the recovery path. -/
def romAttempt (found : StartupFind) (s : State) : State :=
  let toRecovery := fun (s : State) => { s with pwr := { s.pwr with stage := .recovery, backoff := 0 } }
  if s.sec.st ≠ .operational then toRecovery s
  else match s.flash.image with
    | none => toRecovery (rejectImage 1 0 0 0 s).2
    | some i =>
      let k := fwCheck s true i
      if k = 0 then flomorStart (fwIdOf s.sec.imgKey i) found { s with pwr := { s.pwr with recovered := false } }
      else toRecovery (rejectImage k 0 0 0 s).2

/-- A failed attempt (R333): ATTEMPTS, and the wait. -/
def attemptFailed (s : State) : State :=
  let k := s.pwr.attempts + 1
  { s with pwr := { s.pwr with attempts := min 0xFFFF k, backoff := if k ≥ 7 then 60 else min (2 ^ (k - 1)) 60, stage := .backoff } }

/-- The main rails may be enabled (R402): the connector is mated, MAIN_EN# is low, and the 54 V input is within its range. -/
def railsAllowed (s : State) : Bool := s.pwr.st == .aux && s.board.prsntLow && s.pwr.mainEnLow && s.pwr.mainOk

/-- The link to the host as it trains (Table 14.1), when PERST# is deasserted: FLIT mode is always on from 64.0 GT/s on (R277), and
REFCLK, where it is there, gives common clocking, and SRIS where it is not (R404). -/
def linkUp (found : StartupFind) (p : Pcie) : Pcie :=
  { p with rate := found.pcieRate, flit := found.pcieFlit || decide (found.pcieRate ≥ 5), width := found.pcieWidth, refclk := found.refclk }

/-- Steps 2 and 3 of R332, once the 54 V input has been in range for 100 ms. -/
def railsUp (found : StartupFind) (s : State) : State :=
  if railsAllowed s && s.pwr.stage == .rails then
    let s := beginActive s
    let s := { s with
      pwr := { s.pwr with stage := .rom }
      clk := { s.clk with coreLock := true }
      pcie := linkUp found { perst := s.pcie.perst }
      sec := if s.sec.st = .selfTest then { s.sec with st := .operational, approved := true } else s.sec }
    romAttempt found s
  else s

/-- The wait of R333 ends. -/
def backoffOver (found : StartupFind) (s : State) : State :=
  if s.pwr.stage = .backoff then romAttempt found { s with pwr := { s.pwr with stage := .rom, backoff := 0 } } else s

/-- MB63 as the loader releases it (R354): its sender, the host, is signalled as by any release (R316). -/
def releaseRecovery (s : State) : State :=
  let t := signal 79 { s with mbox := tmod {} s.mbox 63 (fun m => { m with slot := [], full := false, emptied := true }) }
  { t with msix := { t.msix with plic := s.msix.plic } }

/-- The host address and the size of the image that the message in MB63 names; none when it is malformed (R354). -/
def recoveryMsg (s : State) : Option (Nat × Nat) :=
  let slot := (tget {} s.mbox 63).slot
  let bs := (List.range 24).map (tget 0 slot)
  if field bs 0 4 = 0x56434552 ∧ field bs 4 4 = 0 ∧ slot.all (fun x => decide (x.1 < 24) || x.2 == 0) = true then some (field bs 8 8, field bs 16 8)
  else none

/-- An image of some size, of bytes: its header, and the rest. -/
def imageOf (size : Nat) (bs : List Byte) : FlomorImage := { hdr := (fit size bs).take 512, cipher := (fit size bs).drop 512 }

/-- The ROM loader takes the message committed in MB63 (R354). `image` is what stands at the host address that it names; its read waits
while the function sends nothing (R292). -/
def recoverWith (image : FlomorImage) (found : StartupFind) (s : State) : State :=
  if s.pwr.stage ≠ .recovery ∨ !(tget {} s.mbox 63).full ∨ quiet s = true then s
  else match recoveryMsg s with
  | none => attemptFailed (releaseRecovery s)
  | some (addr, n) =>
    let img := imageOf n (image.hdr ++ image.cipher)
    let s := hostIn addr n (releaseRecovery s)
    let k := fwCheck s false img
    if s.sec.st ≠ .operational then attemptFailed s
    else if k = 0 then
      flomorStart (fwIdOf s.sec.imgKey img) found { s with
        pwr := { s.pwr with recovered := true }, sec := { s.sec with waitingImage := some img } }
    else attemptFailed (rejectImage k 0 0 0 s).2

/-- Every partition and channel lets the power state change (Table 16.2): the status that refuses it otherwise, with the
object's kind and number. -/
def powerCheck (s : State) (idle : Bool) : Option (Status × Nat × Nat) :=
  match [0, 1, 2, 3].find? (fun p => (getPart s p).st == .running || (getPart s p).st == .paused) with
  | some p => some (.partitionState, 1, p)
  | none => match s.chans.find? (fun x => if idle then x.2.st == .active else x.2.st != .free) with
    | some x => some (.notDrained, 9, x.1)
    | none =>
      if s.plinths.any (fun x => x.2.ctxs.any (fun e => e.2.st == .draining)) then some (.notDrained, 5, 0)
      else match s.app.cores.find? (fun x => x.2.st != 0 && !(idle && x.2.st == 3)) with
        | some x => some (.busy, 10, x.1)
        | none => none

/-- IDLE: the arithmetic clocks stop, and neither lock nor alignment holds (R34, Table 16.1). A frequency pause in progress ends
first. -/
def enterIdle (s : State) : State :=
  let s := endActive .idle (freqRestartOp s)
  { s with clk := { s.clk with run := .stopped, locked := false, aligned := false } }

/-- Whether an address lies in an HBM stack (Table 14.1). -/
def inHbm (a : Nat) : Bool := decide (a < 16 * 0x900000000)

/-- The contents of every HBM stack are lost (Table 16.4). -/
def loseHbm (s : State) : State := { s with
  mem := s.mem.filter (fun x => !inHbm x.1), memErr := s.memErr.filter (fun x => !inHbm (x.1 / 80 * 64))
  poison := s.poison.filter (fun x => !inHbm (x.1 * 32)) }

/-- STANDBY (R325, Table 16.4): what is unpowered is lost, the HBM stacks and laser modules among it, and the fields that software
writes are saved; status fields are not. -/
def enterStandby (s : State) : State :=
  let cause := s.pwr.cause
  let s := [0, 1, 2, 3].foldl (fun s p => partReset p s) s
  let s := endActive .standby (loseHbm (undrain (resetLinks s)))
  { s with
    plinths := tmap {} (fun _ x => { x with ctxs := [], last := [], stale := 0, passes := 0, copies := [] }) s.plinths
    links := tmap {} (fun _ x => linkConfig x) s.links
    devs := (tmap {} (fun _ d => { d with ceWarn := false }) s.devs).filter (fun x => decide (16 ≤ x.1))
    cells := [], seam := [], lasers := [], app := {}, msix := { s.msix with plic := [] }
    clk := { s.clk with
      run := .stopped, mcc := 0, syncMcc := 0, syncGtc := 0, curLevel := 5, tgtLevel := 5, pendingChange := false
      queuedTgt := none, freqAt := 0, pauses := 0, realign := [], pulse := none, locked := false, aligned := false, fastLock := false
      copies := [], stsJitter := false, stsDuty := false, stsSkewCorr := false, stsSkewFail := false, stsSlip := false
      stsUnlock := false, stsRegion := 0, breach := [] }
    pwr := { s.pwr with cause := cause, pmLevel := 0, cap := 0, stepsDown := 0, coolWindows := 0 } }

/-- Return from STANDBY: step 4 of R332 except the DDR5 work. The GTC is not aligned until the fabric alignment completes
(R42). -/
def leaveStandby (found : StartupFind) (s : State) : State :=
  let s := routerTests found.badRouters (loadCounters (startClocks (beginActive s)))
  let s := laserInit found ((List.range 16).foldl (stackInit found.badStacks) (loseHbm { s with cells := [] }))
  { s with
    clk := { s.clk with timeState := if s.clk.timeState = 3 then 0 else s.clk.timeState }
    pwr := { s.pwr with ready := false, stage := .flomorInit } }

/-- The code of a power state (Table 16.7). -/
def powerCode : PowerState → Nat
  | .active => 0 | .idle => 1 | .standby => 2 | .aux => 3

/-- From ACTIVE to a low-power state (Table 16.2). -/
def powerDown (r : CmdRef) (target : Nat) (s : State) : State :=
  match powerCheck s (decide (target = 1)) with
  | some (st, kind, n) => if st = .busy then finish r .busy (powerCode s.pwr.st) noRec s else finishErrR r st kind n 0 (powerCode s.pwr.st) s
  | none =>
    if target = 1 then finishOk r 1 (enterIdle s)
    else if target = 2 then finishOk r 2 (enterStandby s)
    else enterAux .held (finishOk r 3 s)

/-- Whether an input that was lost is back within its range. Between its loss and the second for which it must hold (R324) no row
tells: a free value decides. -/
def mainSeen (s : State) : State :=
  if s.pwr.mainOk || !s.pwr.mainEnLow then s
  else
    let (v, s) := takeFree s
    { s with pwr := { s.pwr with mainOk := bitOf v.toNat 0 } }

/-- SET_POWER_STATE after the tests of R310 (R323, R324). A change between two low-power states passes through ACTIVE. -/
def powerOp (r : CmdRef) (goal : PowerGoal) (s : State) : State :=
  let target := goal.target
  if powerCode s.pwr.st = target ∧ s.pwr.st ≠ .active then finishOk r target s
  else match s.pwr.st with
    | .active =>
      if target = 0 then
        let s := finishOk r 0 s
        { s with pwr := { s.pwr with warmAt := some (s.clk.gtc + 1000000) } }
      else powerDown r target s
    | .idle =>
      let s := beginActive s
      let s := setTarget (max s.pwr.cap s.pwr.pmLevel) (if s.clk.mcc = 0 then startClocks s else startArith id (relock s))
      if target = 0 then finishOk r 0 s else powerDown r target s
    | .standby => launch r [.module] (.setPower target) (leaveStandby goal.found s)
    | .aux =>
      let s := mainSeen s
      if !s.pwr.mainOk || !s.pwr.mainEnLow then finishErrR r .noResource 0 0 0 (powerCode s.pwr.st) s
      else launch r [.module] (.setPower target) { s with pwr := { s.pwr with
        stage := if s.pwr.auxWhy = .held then .rails else s.pwr.stage } }

/-- The fuses advance when Flomor reaches READY after a POR (R351). -/
def advanceFuses (s : State) : State :=
  let i := s.sec.running
  if s.pwr.coldStart && i.pinSvn then
    { s with sec := { s.sec with
      minSvn := max s.sec.minSvn (min 64 i.svn)
      fwRevoke := s.sec.fwRevoke ||| BitVec.ofNat 4 ((List.range 4).foldl (fun a n =>
        if bitOf i.revoke n && n != i.keySlot then a + 2 ^ n else a) 0) } }
  else s

/-- A new image takes the place of one that waits (R352). -/
def dropWaiting (s : State) : State :=
  let others := fun (l : List Commit) => l.filter (fun c => decide (commitKind c ≠ 0))
  { s with pwr := { s.pwr with deferred := others s.pwr.deferred, waiting := others s.pwr.waiting } }

/-- READY (R332 steps 5 and 6): the rings are served, the frequency target is the cap, links train, an image taken by
the recovery path is committed (R354), whose slot may read back otherwise (R352: a free value), and a SET_POWER_STATE that waited goes on. -/
def readyOp (s : State) : State :=
  if s.pwr.stage ≠ .flomorInit ∨ perstHolds s = true then s
  else
    let s := advanceFuses s
    let s := { s with pwr := { s.pwr with ready := true, stage := .ready, coldStart := false, warmStart := false } }
    let s := trainLinks (if s.clk.run = .running then setTarget (max s.pwr.cap s.pwr.pmLevel) s else s)
    let s := match s.sec.waitingImage with
      | some i =>
        let (v, s) := takeFree (dropWaiting { s with sec := { s.sec with waitingImage := none } })
        asyncCommit (.image i (bitOf v.toNat 0)) s
      | none => s
    (s.flights.filter (fun x => match x.kind with
        | .setPower _ => true
        | _ => false)).foldl (fun s x => match x.kind with
      | .setPower t => if t = 0 then finishOk (refOf x) 0 s else powerDown (refOf x) t s
      | _ => s) s

/-- The pre-operational test at a PERST or warm reset (R343): `failing` as at POR. -/
def preTest (failing : Option Nat) (s : State) : State :=
  match failing with
  | some r => selfTestFails r s
  | none => s

/-- The warm reset begins (R330): as FLR, with Flomor restarted from its verified copy, or from flash when armed. -/
def warmOp (failing : Option Nat) (s : State) : State :=
  match s.pwr.warmAt with
  | none => s
  | some g =>
    if s.pwr.st ≠ .active then { s with pwr := { s.pwr with warmAt := none } }
    else
      let s := advanceGtc g s
      let armed := s.pwr.armed
      let s := noteCause 3 (functionReset true s)
      let s := trainLinks { s with
        pwr := { s.pwr with ready := false, armed := false, stage := .rom, warmAt := none, warmStart := true, flomorUp := false }
        log := { s.log with modFatal := false, modRec := 0xFFFFFFFF } }
      let s := preTest failing s
      if armed then romAttempt {} s else flomorStart s.sec.running {} s

/-- PERST, or an event of R278, ends (R39, R332): Flomor initialises what was reset. Where the ROM loader still runs, it
goes on, and repeats step 3 of R332 when the reset has cleared STAGE. DESIGN CHOICE (log entry 37): in IDLE, whose arithmetic clocks
Table 16.1 keeps stopped, they start at the return to ACTIVE. -/
def perstEnds (found : StartupFind) (failing : Option Nat) (s : State) : State :=
  if !perstHolds s then s
  else if s.pwr.st = .aux then preTest failing { s with pcie := { s.pcie with perst := false } }
  else
    let s := preTest failing { s with
      pcie := linkUp found { s.pcie with perst := false, down := false } }
    if s.pwr.flomorUp then
      let s := { s with pwr := { s.pwr with stage := .flomorInit }, clk := { s.clk with fastLock := decide (s.pwr.st ≠ .standby) } }
      routerTests found.badRouters (loadCounters (if s.pwr.st = .active then startClocks s else s))
    else if s.pwr.stage = .auxWait then romAttempt found { s with pwr := { s.pwr with stage := .rom } }
    else s

/-- A condition of R402 ends in AUX: a start-up that has begun waits as after a loss of the input (R324). -/
def railsWait (s : State) : State :=
  if s.pwr.stage = .rails then { s with pwr := { s.pwr with stage := .auxWait, auxWhy := .mainLost } } else s

/-- The 54 V input is lost (R326). -/
def mainLost (volts : Nat) (s : State) : State :=
  if s.pwr.st = .aux then railsWait { s with pwr := { s.pwr with mainOk := false } }
  else
    let s := enterAux .mainLost (moduleFatal 0x0901 none [(0, volts % 65536)] s)
    noteCause 7 { s with pwr := { s.pwr with mainOk := false } }

/-- The conditions of R402 have held for 1 s (R324). -/
def mainRestored (s : State) : State :=
  let s := { s with pwr := { s.pwr with mainOk := true } }
  { s with pwr := { s.pwr with
    stage := if railsAllowed s && s.pwr.stage == .auxWait && s.pwr.auxWhy != .held then .rails else s.pwr.stage } }

/-- MAIN_EN# changes (R402). The voltage that the record gives is not known to the model. -/
def mainEnOp (high : Bool) (s : State) : State :=
  let s1 := { s with pwr := { s.pwr with mainEnLow := !high } }
  if !high then s1
  else if s.pwr.st = .aux then railsWait s1
  else
    let (v, s) := takeFree s1
    noteCause 7 (enterAux .mainLost (moduleFatal 0x0901 none [(0, v.toNat % 65536)] s))

/-- A thermal trip (R326). -/
def tripOp (die tenthC : Nat) (s : State) : State :=
  if s.pwr.st = .aux then s
  else noteCause 8 (enterAux .held (moduleFatal 0x0902 (some die) [(0, tenthC % 65536)] s))

/-- Zeroisation (R357). -/
def zeroiseOp (s : State) : State :=
  { s with
    pwr := { s.pwr with
      deferred := s.pwr.deferred.filter (fun c => decide (commitKind c ≠ 0)), waiting := dropKeys (fun _ => true) s.pwr.waiting }
    flash := { s.flash with certs := [] }
    sec := { s.sec with
      st := .zeroised, approved := false, zeroised := true, sessions := [], spdmDoe := .none, spdmMctp := .none
      keysDerived := false, deviceKey := [], devicePub := [], cdi := [], aliasKey := [], aliasPub := [], drbg := [], drbgCount := 0
      privMem := [], waitingImage := none } }

/-- A cover opening (R357). In AUX a SET_POWER_STATE in progress ends as at an entry to AUX. -/
def tamperOp (s : State) : State :=
  let s := zeroiseOp s
  let s := moduleFatal 0x0A03 none [] { s with sec := { s.sec with tamper := true } }
  if s.pwr.st = .aux then
    dropFlights true { s with pwr := { s.pwr with auxWhy := .held, stage := if s.pwr.stage = .rails then .auxWait else s.pwr.stage } }
  else enterAux .held s

/-- Power-on reset (R332 step 1, Table 16.4): what is fused or in flash stays, and so do the pins. -/
def porOp (wireOpen : Bool) (failing : Option Nat) (s : State) : State :=
  let x := s.sec
  let s : State := {
    pending := s.pending, out := s.out, free := s.free, ident := s.ident, flash := s.flash
    board := { jtag := s.board.jtag, prsntLow := s.board.prsntLow }
    pcie := { perst := s.pcie.perst, down := true }
    pwr := { mainEnLow := s.pwr.mainEnLow, mainOk := s.pwr.mainOk }
    sec := {
      provisioned := x.provisioned, reqMaq := x.reqMaq, reqApp := x.reqApp, custSuite := x.custSuite, custHash := x.custHash
      fwRevoke := x.fwRevoke, fwKeyHash := x.fwKeyHash, decommissioned := x.decommissioned, minSvn := x.minSvn
      uds := x.uds, imgKey := x.imgKey } }
  let s := match failing with
    | some r => selfTestFails r s
    | none => { s with sec := { s.sec with st := .operational, approved := true } }
  if wireOpen then tamperOp s else s

/-- The power manager acts: vector 89 (Table 14.5). -/
def pmActs (s : State) : State := signal 89 s

/-- One window of the power manager (R327). The present level is the slower of its own and the cap. -/
def pmWindow (meanW hottest auxW : Nat) (s : State) : State :=
  let s := { s with pwr := { s.pwr with mainW := meanW % 65536, auxW := min 255 auxW } }
  if s.pwr.st ≠ .active ∨ s.clk.run = .stopped then s
  else
    let lvl := max s.pwr.cap s.pwr.pmLevel
    if meanW > 3400 ∨ hottest ≥ 100 then
      if lvl ≥ 5 then { s with pwr := { s.pwr with coolWindows := 0 } }
      else pmActs <| setTarget (lvl + 1) { s with pwr := { s.pwr with
        pmLevel := lvl + 1, coolWindows := 0, stepsDown := satAdd 0xFFFF s.pwr.stepsDown 1 } }
    else if meanW < 3060 ∧ hottest < 95 then
      if s.pwr.coolWindows + 1 ≥ 50 then
        if s.pwr.pmLevel > s.pwr.cap then
          pmActs <| setTarget (s.pwr.pmLevel - 1) { s with pwr := { s.pwr with pmLevel := s.pwr.pmLevel - 1, coolWindows := 0 } }
        else { s with pwr := { s.pwr with coolWindows := 50 } }
      else { s with pwr := { s.pwr with coolWindows := s.pwr.coolWindows + 1 } }
    else { s with pwr := { s.pwr with coolWindows := 0 } }

/-- SET_FREQ_LEVEL after the tests of R310 (R328). -/
def freqOp (r : CmdRef) (level : Nat) (s : State) : State :=
  let slower := decide (level > s.clk.curLevel)
  let s := { s with pwr := { s.pwr with cap := level } }
  let go := setTarget (max level s.pwr.pmLevel)
  if slower then go (launch r [.module] .setFreq s) else finishOk r s.clk.curLevel (go s)

/-- The usable energy in 0.1 J (R335); for a drop of 0 the spec states no capacitance. -/
def energyOf (milliA dropMv fullMv : Nat) (s : State) : Nat × State :=
  if dropMv = 0 then let (v, s) := takeFree s; (v.toNat % 65536, s)
  else (min 0xFFFF (9 * milliA * (fullMv * fullMv - 64000000) / (20 * dropMv * 1000000)), s)

/-- A hold-up test ends (R335, R336): what waited for it is decided. -/
def testDone (milliA dropMv fullMv : Nat) (s : State) : State :=
  if !s.pwr.testing then s
  else
    let (e, s) := energyOf milliA dropMv fullMv s
    settleWaiting { s with pwr := { s.pwr with energy := e, valid := true, testing := false, testGtc := some s.clk.gtc } }

/-- A list without the first element that satisfies a test, and that element. -/
def takeFirst {α : Type} (p : α → Bool) : List α → Option (α × List α)
  | [] => none
  | x :: r => if p x then some (x, r) else (takeFirst p r).map (fun y => (y.1, x :: y.2))

/-- The first deferred commit that the bank allows completes (R336). -/
def commitRetry (s : State) : State :=
  if !s.pwr.ready then s
  else match takeFirst (fun c => mayCommit s (commitNeed c)) s.pwr.deferred with
    | none => s
    | some (c, rest) =>
      let s := applyCommit c { s with pwr := { s.pwr with deferred := rest } }
      signal 90 (match commitBand c with
        | some b => settlePersist b s
        | none => s)

/-- The GTC spent in ACTIVE since the last full hour, in nanoseconds (R364). -/
def activeTime (s : State) : Nat :=
  s.patina.activeNs + (match s.patina.activeFrom with | some g => s.clk.gtc - g | none => 0)

/-- One hour. -/
def hourNs : Nat := 3600000000000

/-- The persisted counters that a commit writes (R364). -/
def lifeTable (old : Tbl Nat) (v : PatLive) : Tbl Nat :=
  let t1 := (List.range 28).foldl (fun t u => tset 0 (tset 0 t (2 * u) (tget 0 v.lifeCe u)) (2 * u + 1) (tget 0 v.lifeUe u)) old
  let t2 := (List.range 32).foldl (fun t l => tset 0 t (64 + l) (tget 0 v.lifeRep l)) t1
  tset 0 t2 128 v.hours

/-- The lifetime counters of a full hour in ACTIVE (R364). -/
def lifeCommit (s : State) : State :=
  if s.pwr.st ≠ .active ∨ s.pwr.ready = false ∨ activeTime s < hourNs then s
  else
    let v := s.patina.live
    let b := s.patina.base
    let rise := fun (x y : Nat) => (x + 2 ^ 64 - y) % 2 ^ 64
    let live := { v with
      hours := cnt v.hours 1
      lifeCe := (List.range 28).foldl (fun t u => tmod 0 t u (fun n => cnt n (rise (tget ({} : PatMem) v.mem u).ce (tget ({} : PatMem) b.mem u).ce))) v.lifeCe
      lifeUe := (List.range 28).foldl (fun t u => tmod 0 t u (fun n => cnt n (rise (tget ({} : PatMem) v.mem u).ue (tget ({} : PatMem) b.mem u).ue))) v.lifeUe
      lifeRep := (List.range 32).foldl (fun t l => tmod 0 t l (fun n => cnt n (rise (tget ({} : PatLink) v.link l).replays (tget ({} : PatLink) b.link l).replays))) v.lifeRep }
    asyncCommit (.counters (lifeTable s.flash.counters live)) { s with patina := { s.patina with
      live := live, base := { mem := v.mem, link := v.link }, activeNs := activeTime s - hourNs, activeFrom := some s.clk.gtc } }

/-- The 12 V input is lost (R337). An exhausted bank loses the deferred commits. -/
def auxLost (exhausted : Bool) (s : State) : State :=
  { s with pwr := { s.pwr with
    onBank := true, deferred := if exhausted then [] else s.pwr.deferred, waiting := if exhausted then [] else s.pwr.waiting } }

/-- SET_POWER_STATE (R323). -/
def execSetPowerState (h : CmdHdr) (goal : PowerGoal) (s : State) : Host.Outcome State Fault Refusal :=
  .next (command h { op := 0x02, fields := [(8, 1, goal.target)], active := false, params := decide (goal.target ≤ 3), claims := [.module] } (fun r s => powerOp r goal s) s)

/-- SET_FREQ_LEVEL (R328). -/
def execSetFreqLevel (h : CmdHdr) (level : Nat) (s : State) : Host.Outcome State Fault Refusal :=
  .next (command h { op := 0x03, fields := [(8, 1, level)], params := decide (level ≤ 5), claims := [.module] } (fun r s => freqOp r level s) s)

/-- WARM_RESET (R330). -/
def execWarmReset (failing : Option Nat) (s : State) : Host.Outcome State Fault Refusal := .next (announce s (warmOp failing s))

/-- FLR (R291). -/
def execFlr (s : State) : Host.Outcome State Fault Refusal := .next (flrOp s)

/-- PERST_ASSERTED (R329). -/
def execPerstAsserted (s : State) : Host.Outcome State Fault Refusal := .next (perstOp s)

/-- PERST_DEASSERTED (R39). -/
def execPerstDeasserted (found : StartupFind) (failing : Option Nat) (s : State) : Host.Outcome State Fault Refusal := .next (perstEnds found failing s)

/-- DL_DOWN (R278). -/
def execDlDown (s : State) : Host.Outcome State Fault Refusal := .next (dlDownOp s)

/-- POR (R332). -/
def execPor (wireOpen : Bool) (failing : Option Nat) (s : State) : Host.Outcome State Fault Refusal := .next (porOp wireOpen failing s)

/-- MAIN_RAILS_POWER_UP (R332). -/
def execMainRailsPowerUp (found : StartupFind) (s : State) : Host.Outcome State Fault Refusal := .next (railsUp found s)

/-- READY (R332). -/
def execReady (s : State) : Host.Outcome State Fault Refusal := .next (announce s (readyOp s))

/-- BACKOFF_EXPIRY (R333). -/
def execBackoffExpiry (found : StartupFind) (s : State) : Host.Outcome State Fault Refusal := .next (backoffOver found s)

/-- RECOVERY_MESSAGE (R354). -/
def execRecoveryMessage (img : FlomorImage) (found : StartupFind) (s : State) : Host.Outcome State Fault Refusal :=
  .next (recoverWith img found s)

/-- RECOVERY_TIMEOUT (R354). -/
def execRecoveryTimeout (s : State) : Host.Outcome State Fault Refusal :=
  .next (if s.pwr.stage = .recovery then attemptFailed s else s)

/-- MAIN_INPUT_LOST (R326). -/
def execMainInputLost (volts : Nat) (s : State) : Host.Outcome State Fault Refusal := .next (mainLost volts s)

/-- MAIN_INPUT_RESTORED (R324). -/
def execMainInputRestored (s : State) : Host.Outcome State Fault Refusal := .next (mainRestored s)

/-- THERMAL_TRIP (R326). -/
def execThermalTrip (die tenthC : Nat) (s : State) : Host.Outcome State Fault Refusal := .next (tripOp die tenthC s)

/-- MAIN_EN (R402). -/
def execMainEn (high : Bool) (s : State) : Host.Outcome State Fault Refusal := .next (mainEnOp high s)

/-- COVER_OPENING (R357). -/
def execCoverOpening (s : State) : Host.Outcome State Fault Refusal := .next (tamperOp s)

/-- POWER_MANAGER_WINDOW (R327). -/
def execPowerManagerWindow (meanW hottest auxW : Nat) (s : State) : Host.Outcome State Fault Refusal := .next (pmWindow meanW hottest auxW s)

/-- Whether a discharge test is due (R335): the first after POR, and then every 3,600 s of GTC. -/
def testDue (s : State) : Bool :=
  !s.pwr.onBank && !s.pwr.testing && (match s.pwr.testGtc with
    | some g => decide (s.clk.gtc ≥ g + hourNs)
    | none => true)

/-- HOLDUP_TEST (R335). -/
def execHoldupTest (s : State) : Host.Outcome State Fault Refusal :=
  .next (if !testDue s then s else { s with pwr := { s.pwr with testing := true } })

/-- HOLDUP_TEST_COMPLETE (R335). -/
def execHoldupTestComplete (milliA dropMv fullMv : Nat) (s : State) : Host.Outcome State Fault Refusal :=
  .next (testDone milliA dropMv fullMv s)

/-- FLASH_COMMIT_COMPLETE (R336). -/
def execFlashCommitComplete (s : State) : Host.Outcome State Fault Refusal := .next (commitRetry s)

/-- LIFETIME_COUNTER_COMMIT (R364). -/
def execLifetimeCounterCommit (s : State) : Host.Outcome State Fault Refusal := .next (lifeCommit s)

/-- AUX_INPUT_LOST (R337). -/
def execAuxInputLost (bankExhausted : Bool) (s : State) : Host.Outcome State Fault Refusal := .next (auxLost bankExhausted s)

end Sys2Proof.Machine
end

