-- ==== Sys2Proof/Machine/Security.lean ====
section
/-! DEFINITION. The security block: SPDM, vendor requests, firmware updates and handover (chapter 17 of spec/, with R321,
R338, R339). -/

namespace Sys2Proof.Machine

/-- MCTP's two buses lead to one responder (R319). -/
def seat : Transport → Transport
  | .doe => .doe
  | .mctp | .mctpVdm => .mctp

/-- How far the exchange of a transport has come, and the suite that it has negotiated (R347). -/
def spdmPhase (s : State) : Transport → SpdmPhase
  | .doe => s.sec.spdmDoe
  | .mctp | .mctpVdm => s.sec.spdmMctp
def setPhase (tr : Transport) (x : SpdmPhase) (s : State) : State :=
  match tr with
  | .doe => { s with sec := { s.sec with spdmDoe := x } }
  | .mctp | .mctpVdm => { s with sec := { s.sec with spdmMctp := x } }
def suiteOf (s : State) : Transport → Nat
  | .doe => s.sec.suiteDoe
  | .mctp | .mctpVdm => s.sec.suiteMctp
def setSuite (tr : Transport) (n : Nat) (s : State) : State :=
  match tr with
  | .doe => { s with sec := { s.sec with suiteDoe := n } }
  | .mctp | .mctpVdm => { s with sec := { s.sec with suiteMctp := n } }

/-- Whether a transport reaches the security block (R277, R292, R319). -/
def spdmReach (s : State) : Transport → Bool
  | .doe | .mctpVdm => busUp s .pcie
  | .mctp => true

/-- An answer goes out. -/
def answer (tr : Transport) (a : SpdmAns) (s : State) : State := emit (.spdm tr a) s

/-- The random bit generator answers a request for some bytes (R342). It is seeded from the entropy source, whose samples are free
values, before its first request and after every 2^20. -/
def drbgBytes (n : Nat) (s : State) : List Byte × State :=
  let s := if s.sec.drbg = [] ∨ s.sec.drbgCount ≥ 2 ^ 20 then
      let (e, s) := freeBytes 48 s
      { s with sec := { s.sec with drbg := Config.drbgSeed e, drbgCount := 0 } }
    else s
  (Config.drbgOut s.sec.drbg n, { s with sec := { s.sec with drbg := Config.drbgNext s.sec.drbg, drbgCount := s.sec.drbgCount + 1 } })

/-- The hash of the negotiated suite, and a signature by the Alias key with it (R347, Table 17.1). -/
def suiteHash (s : State) (tr : Transport) (bs : List Byte) : List Byte :=
  if suiteOf s tr = 1 then Config.sha256 bs else Config.sha384 bs
def aliasSign (s : State) (tr : Transport) (bs : List Byte) : List Byte :=
  if suiteOf s tr = 1 then Config.ecdsaSign256 s.sec.aliasKey bs else Config.ecdsaSign s.sec.aliasKey bs

/-- A request that needs random bits: a continuous test of the entropy may fail, which ends the services (R343). -/
def withEntropy (tr : Transport) (failing : Option Nat) (f : State → State) (s : State) : State :=
  match failing with
  | some row => spdmError tr .errUnexpected (selfTestFails row s)
  | none => f s

/-- Bytes wrapped under a key derived from the UDS (R341), or unwrapped: the keystream of AES-256-GCM. -/
def wrapBytes (s : State) (bs : List Byte) : List Byte :=
  bs.zipWith (fun b i => b ^^^ Config.gcmStream (Config.kdf s.sec.uds (labelBytes "ZX4 KEYSTORE")) i) (List.range bs.length)

/-- A write of the private memory of 2 MiB (R341). -/
def privWrite (a : Nat) (bs : List Byte) (s : State) : State :=
  { s with sec := { s.sec with privMem :=
    (List.range bs.length).foldl (fun t i => if a + i < 0x200000 then tset 0 t (a + i) (bs.getD i 0) else t) s.sec.privMem } }

/-- Where the private memory keeps the key of a session. -/
def privSlot (tr : Transport) (n : Nat) : Nat := 64 * (n % 4 + (if seat tr = .doe then 0 else 4))

/-- A request that needs NEGOTIATE_ALGORITHMS first, and the cryptographic services (R343, R347, Table 19.7). -/
def spdmRequest (tr : Transport) (f : State → State) (s : State) : State :=
  if !spdmReach s tr then s
  else if spdmPhase s tr ≠ .negotiated ∨ s.sec.st ≠ .operational then spdmError tr .errUnexpected s
  else f s

/-- The certificate chain of a slot, when it holds one (R346). -/
def slotChain (s : State) (slot : Nat) : Option (List Byte) :=
  if slot = 0 then some (Config.rootCert ++ Config.interCert ++ Config.deviceCert s.sec.devicePub ++
    Config.aliasCert s.sec.deviceKey s.sec.aliasPub s.sec.booted.digest s.sec.booted.svn)
  else if slot < 8 ∧ tget [] s.flash.certs slot ≠ [] then some (wrapBytes s (tget [] s.flash.certs slot)) else none

/-- A measurement block (Table 17.3). -/
def measurement (s : State) (i : Nat) : Option (List Byte) :=
  let x := s.sec
  if i = 1 then some Config.romDigest
  else if i = 2 then some x.running.digest
  else if i = 3 then some (leBytes 4 x.running.version ++ leBytes 1 x.running.svn)
  else if i = 4 then some x.booted.digest
  else if i = 5 then some (leBytes 1 x.minSvn ++ leBytes 1 x.fwRevoke.toNat ++ leBytes 1 (b2n x.reqMaq) ++ leBytes 1 (b2n x.reqApp) ++
    leBytes 1 (b2n x.provisioned) ++ fit 48 x.custHash)
  else if i = 6 then some (fit 48 x.appDigest)
  else if 0x10 ≤ i ∧ i ≤ 0x13 then
    some (if (getPart s (i - 0x10)).st = .empty then zeros 48 else fit 48 (tget [] x.maqDigest (i - 0x10)))
  else none

/-- The indices of Table 17.3. -/
def measurementIndices : List Nat := [1, 2, 3, 4, 5, 6, 0x10, 0x11, 0x12, 0x13]

/-- GET_MEASUREMENTS (R348): one block, or all; index 0 asks for their number, and returns no block. -/
def measureOp (tr : Transport) (index : Nat) (nonce : Nonce) (s : State) : State :=
  let pick := if index = 0xFF then measurementIndices else if index = 0 then [] else [index]
  if pick.all (fun i => (measurement s i).isSome) then
    withEntropy tr nonce.failing (fun s =>
      let bs := pick.map (fun i => (i, (measurement s i).getD []))
      let (own, s) := drbgBytes 32 s
      answer tr (.measurements bs own (aliasSign s tr (nonce.bytes ++ own ++ bs.flatMap (·.2)))) s) s
  else spdmError tr .errInvalid s

/-- The sessions of a transport. -/
def sessionsOf (s : State) (tr : Transport) : List Session := s.sec.sessions.filter (fun x => x.tr == seat tr)

/-- The lowest session number of a transport that is not in use, from `n` on. -/
def freeSession (l : List Session) (n : Nat) : Nat → Nat
  | 0 => n
  | f + 1 => if l.any (fun x => x.id == n) then freeSession l (n + 1) f else n

/-- KEY_EXCHANGE (R347): a new key pair for ECDHE from random bits, whose pairwise test, or a continuous test of the entropy, may
fail (R343), kept in the private memory; the session's secret; and a response signed with the Alias key. -/
def keyExchangeOp (tr : Transport) (x : KeyShare) (s : State) : State :=
  let l := sessionsOf s tr
  if l.length ≥ 4 then spdmError tr .errBusy s
  else withEntropy tr x.failing (fun s =>
    let n := freeSession l 0 4
    let (seed, s) := drbgBytes 48 s
    let key := Config.p384Key seed
    let point := Config.p384Public key
    let s := privWrite (privSlot tr n) (fit 48 key) s
    answer tr (.keyExchangeRsp n point (aliasSign s tr (x.point ++ point))) { s with sec := { s.sec with
      sessions := s.sec.sessions ++ [{
        tr := seat tr, id := n, peerKey := x.peer, secret := Config.hkdf (Config.ecdh key x.point) (x.point ++ point)
        established := false, updates := 0 }] } }) s

/-- A session of a transport. -/
def findSession (s : State) (tr : Transport) (n : Nat) : Option Session :=
  s.sec.sessions.find? (fun x => x.tr == seat tr && x.id == n)

/-- Change a session, or end it. -/
def modSession (tr : Transport) (n : Nat) (f : Session → Option Session) (s : State) : State :=
  { s with sec := { s.sec with
    sessions := s.sec.sessions.filterMap (fun x => if x.tr == seat tr && x.id == n then f x else some x) } }

/-- What a requester proves with FINISH: the verify data of the session's secret, and, when it is mutually authenticated, a signature by
its leaf key (R347). DESIGN CHOICE (log entry 13): the secret stands for the transcript that both are computed from. -/
def verifyData (x : Session) : List Byte := Config.hkdf x.secret (labelBytes "finished")
def finishProves (s : State) (tr : Transport) (x : Session) (m : FinishMsg) : Bool :=
  m.mac == verifyData x && x.peerKey.all (fun k => Config.ecdsaVerify (suiteOf s tr == 2) k x.secret m.sig)

/-- FINISH (R347). -/
def finishOp (tr : Transport) (m : FinishMsg) (s : State) : State :=
  match findSession s tr m.id with
  | some x =>
    if x.established then spdmError tr .errUnexpected s
    else if !finishProves s tr x m then spdmError tr .errInvalid s
    else answer tr .finishRsp (modSession tr m.id (fun x => some { x with established := true }) s)
  | none => spdmError tr .errInvalid s

/-- Whether a message of a session decrypts under AES-256-GCM: its tag is that of the session's secret, the number of the message and
its request code (R347). -/
def sealOk (x : Session) (code : Nat) (m : SessionMsg) : Bool := m.tag == Config.sessionTag x.secret x.received code

/-- A message of a session has been received: the next one has another number. -/
def received (tr : Transport) (n : Nat) (s : State) : State :=
  modSession tr n (fun x => some { x with received := x.received + 1 }) s

/-- The codes of the requests in a session: HEARTBEAT, KEY_UPDATE, END_SESSION, VENDOR_DEFINED_REQUEST (PRESUMED: DSP0274). -/
def heartbeatCode : Nat := 0xE8
def keyUpdateCode : Nat := 0xE9
def endSessionCode : Nat := 0xEC
def vendorCode : Nat := 0xFE

/-- A request inside an established session (R347). DESIGN CHOICE (log entry 39): one that does not decrypt is answered as malformed. -/
def inSession (tr : Transport) (code : Nat) (m : SessionMsg) (f : State → State) (s : State) : State :=
  spdmRequest tr (fun s => match findSession s tr m.id with
    | some x =>
      if !x.established then spdmError tr .errUnexpected s
      else if !sealOk x code m then spdmError tr .errInvalid s
      else f (received tr m.id s)
    | none => spdmError tr .errUnexpected s) s

/-- A session ends: its key leaves the private memory. -/
def endSessionOp (tr : Transport) (n : Nat) (s : State) : State :=
  privWrite (privSlot tr n) (zeros 48) (modSession tr n (fun _ => none) s)

/-- A vendor request (R356): in an established session only. While STATE is not OPERATIONAL it is refused with 0x01 (DESIGN CHOICE,
log entry 36: of the three requests whose condition does not name STATE). -/
def vendorRequest (tr : Transport) (m : SessionMsg) (f : Session → State → State) (s : State) : State :=
  if !spdmReach s tr then s
  else match findSession s tr m.id with
    | some x => if spdmPhase s tr ≠ .negotiated ∨ x.established = false then spdmError tr .errUnexpected s
      else if !sealOk x vendorCode m then spdmError tr .errInvalid s
      else if s.sec.st ≠ .operational then answer tr (.vendor 1) (received tr m.id s)
      else f x (received tr m.id s)
    | none => spdmError tr .errUnexpected s

/-- SET_CERTIFICATE (R346, R359): the leaf key is the Alias or the DeviceID key; a commit of kind 4; while a hold-up test runs it waits (R336). -/
def setCertOp (tr : Transport) (slot : Nat) (chain : List Byte) (leaf : CertLeaf) (s : State) : State :=
  if slot = 0 ∨ slot ≥ 8 ∨ leaf.ok = false ∨ (leaf.key ≠ s.sec.aliasPub ∧ leaf.key ≠ s.sec.devicePub) then spdmError tr .errInvalid s
  else
    let c := Commit.keys tr slot (wrapBytes s chain)
    if bankUnknown s then { s with pwr := { s.pwr with waiting := s.pwr.waiting ++ [c] } } else keyCommit tr c s

/-- PROVISION (Table 17.7). On a read-back mismatch the fuses hold some other hash. -/
def provisionOp (tr : Transport) (keyHash : List Byte) (suite reqMaq reqApp ok : Bool) (s : State) : State :=
  if s.sec.provisioned then answer tr (.vendor 1) s
  else
    let (h, s) := if ok then (fit 48 keyHash, s) else freeBytes 48 s
    let s := { s with sec := { s.sec with
      provisioned := true, custHash := h, custSuite := suite, reqMaq := reqMaq, reqApp := reqApp } }
    if ok then answer tr (.vendor 0) s else answer tr (.vendor 2) (logDeferred 0x0A02 none none [] s)

/-- Whether the requester of a session may zeroise (Table 17.7). -/
def mayZeroise (s : State) (x : Session) : Bool :=
  !s.sec.provisioned || (match x.peerKey with
    | some k => Config.sha384 k == s.sec.custHash
    | none => false)

/-- FW_UPDATE after the tests of R310 (R352). -/
def updateOp (r : CmdRef) (img : FlomorImage) (flashOk : Bool) (s : State) : State :=
  let k := fwCheck s false img
  if s.sec.st ≠ .operational then finishErr r .fault 0 0 0 s
  else if k ≠ 0 then
    let (i, s) := rejectImage k 0 0x50 r.ring s
    finish r .signatureRejected 0 i s
  else
    commitThen r [.firmware] (.image img flashOk) (fwVersion img) (dropWaiting s)

/-- The PLDM update (R321): as FW_UPDATE, with PLDM completion codes. While its commit waits for a hold-up test, it claims the
firmware as FW_UPDATE does, in the place of a ring that no other command has. -/
def pldmUpdate (img : FlomorImage) (flashOk : Bool) (s : State) : State :=
  let reply := fun (ok retry : Bool) (s : State) => emit (.pldmStatus ok retry) s
  if !s.pwr.ready || s.pwr.st != .active || s.sec.st != .operational then reply false false s
  else if s.flights.any (fun x => x.claims.contains .firmware) then reply false true s
  else
    let k := fwCheck s false img
    let c := Commit.image img flashOk
    if k ≠ 0 then reply false false (rejectImage k 0 0x50 16 s).2
    else
      let s := dropWaiting s
      if bankUnknown s then
        launch { ring := 17, slot := 0, opcode := 0x50, tag := 0, irq := false } [.firmware] (.pldm c) (commitWaits c s)
      else
        let (i, s) := flashCommit c s
        reply (i.isNone && flashOk) false s

/-- The committed image, when it is newer than the running one (R338 step 1). -/
def newerImage (s : State) : Option FlomorImage :=
  match s.flash.image with
  | some i => if fwVersion i > s.sec.running.version then some i else none
  | none => none

/-- Whether a command other than HOLD, CAST and QUERY_INFO is in progress elsewhere (R338 step 1). -/
def othersRun (s : State) : Bool := s.flights.any (fun x => !([0x01, 0x13, 0x15].contains x.opcode))

/-- The handover (R338 steps 3 to 6): the record of a failed verification, or whether the new image, which comes from the flash,
took over (RECOVERED, Table 16.7). -/
def handover (i : FlomorImage) (accepts : Bool) (ring : Nat) (s : State) : Option Nat × Bool × State :=
  let k := fwCheck s true i
  if s.sec.st ≠ .operational then (none, false, s)
  else if k ≠ 0 then
    let (n, s) := rejectImage k 0 0x51 ring s
    (some n, false, s)
  else if accepts then (none, true, { s with
    sec := { s.sec with running := fwIdOf s.sec.imgKey i }, pwr := { s.pwr with recovered := false } })
  else (none, false, s)

/-- FW_ACTIVATE MODE 0x0 after the tests of R310 (R338). -/
def activateOp (r : CmdRef) (accepts : Bool) (s : State) : State :=
  match newerImage s with
  | none => finishErr r .noResource 0 0 0 s
  | some i =>
    if othersRun s then finish r .busy 0 noRec s
    else match handover i accepts r.ring s with
      | (_, true, s) => finishOk r s.sec.running.version s
      | (some n, false, s) => finish r .fault 0 n s
      | (none, false, s) => finishErr r .fault 0 0 0 s

/-- FW_ACTIVATE MODE 0x1 after the tests of R310 (R339). -/
def armOp (r : CmdRef) (s : State) : State :=
  match newerImage s with
  | none => finishErr r .noResource 0 0 0 s
  | some _ => finishOk r s.sec.running.version { s with pwr := { s.pwr with armed := true } }

/-- ActivateFirmware (R321). -/
def pldmActivate (accepts : Bool) (s : State) : State :=
  match newerImage s with
  | none => emit (.pldmStatus false false) s
  | some i =>
    if !s.pwr.ready || s.pwr.st != .active then emit (.pldmStatus false false) s
    else if othersRun s then emit (.pldmStatus false true) s
    else
      let (_, ok, s) := handover i accepts 16 s
      emit (.pldmStatus ok false) s

/-- GET_VERSION (R347): it begins the exchange again. -/
def execGetVersion (tr : Transport) (s : State) : Host.Outcome State Fault Refusal :=
  .next (if spdmReach s tr then answer tr (.version [0x12, 0x13]) (setPhase tr .version s) else s)

/-- GET_CAPABILITIES (R347). -/
def execGetCapabilities (tr : Transport) (s : State) : Host.Outcome State Fault Refusal :=
  .next (if !spdmReach s tr then s
    else if spdmPhase s tr = .version then answer tr (.capabilities true false false) (setPhase tr .capabilities s)
    else spdmError tr .errUnexpected s)

/-- NEGOTIATE_ALGORITHMS (R347). `offered` lists the suites of Table 17.1 that the requester has; one must be common. -/
def execNegotiateAlgorithms (tr : Transport) (offered : List Nat) (s : State) : Host.Outcome State Fault Refusal :=
  .next (if !spdmReach s tr then s
    else if spdmPhase s tr ≠ .capabilities then spdmError tr .errUnexpected s
    else if offered.any (fun n => n == 1 || n == 2) then
      let suite := if offered.contains 2 then 2 else 1
      answer tr (.algorithms suite "AES-256-GCM" "secp384r1") (setSuite tr suite (setPhase tr .negotiated s))
    else spdmError tr .errInvalid s)

/-- GET_DIGESTS (R347). -/
def execGetDigests (tr : Transport) (s : State) : Host.Outcome State Fault Refusal :=
  .next (spdmRequest tr (fun s =>
    answer tr (.digests ((List.range 8).filterMap (fun n => (slotChain s n).map (fun c => (n, suiteHash s tr c))))) s) s)

/-- GET_CERTIFICATE (R346). -/
def execGetCertificate (tr : Transport) (slot : Nat) (s : State) : Host.Outcome State Fault Refusal :=
  .next (spdmRequest tr (fun s => match slotChain s slot with
    | some c => answer tr (.certificate slot c) s
    | none => spdmError tr .errInvalid s) s)

/-- CHALLENGE (R347): signed with the Alias key. -/
def execChallenge (tr : Transport) (slot : Nat) (nonce : Nonce) (s : State) : Host.Outcome State Fault Refusal :=
  .next (announce s (spdmRequest tr (fun s => match slotChain s slot with
    | some c => withEntropy tr nonce.failing (fun s =>
      let (own, s) := drbgBytes 32 s
      answer tr (.challengeAuth slot own (aliasSign s tr (nonce.bytes ++ own ++ c))) s) s
    | none => spdmError tr .errInvalid s) s))

/-- GET_MEASUREMENTS (R348). -/
def execGetMeasurements (tr : Transport) (index : Nat) (nonce : Nonce) (s : State) : Host.Outcome State Fault Refusal :=
  .next (announce s (spdmRequest tr (measureOp tr index nonce) s))

/-- KEY_EXCHANGE (R347). -/
def execKeyExchange (tr : Transport) (share : KeyShare) (s : State) : Host.Outcome State Fault Refusal :=
  .next (announce s (spdmRequest tr (keyExchangeOp tr share) s))

/-- FINISH (R347). -/
def execFinish (tr : Transport) (session : FinishMsg) (s : State) : Host.Outcome State Fault Refusal :=
  .next (spdmRequest tr (finishOp tr session) s)

/-- HEARTBEAT (R347). -/
def execHeartbeat (tr : Transport) (session : SessionMsg) (s : State) : Host.Outcome State Fault Refusal :=
  .next (inSession tr heartbeatCode session (answer tr .heartbeatAck) s)

/-- KEY_UPDATE (R347): the session's next secret is derived from its present one. -/
def execKeyUpdate (tr : Transport) (session : SessionMsg) (s : State) : Host.Outcome State Fault Refusal :=
  .next (inSession tr keyUpdateCode session (fun s =>
    answer tr .keyUpdateAck (modSession tr session.id (fun x => some { x with
      secret := Config.hkdf x.secret (labelBytes "traffic upd"), updates := x.updates + 1, received := 0 }) s)) s)

/-- END_SESSION (R347). -/
def execEndSession (tr : Transport) (session : SessionMsg) (s : State) : Host.Outcome State Fault Refusal :=
  .next (inSession tr endSessionCode session (fun s => answer tr .endSessionAck (endSessionOp tr session.id s)) s)

/-- SET_CERTIFICATE (R346). -/
def execSetCertificate (tr : Transport) (slot : Nat) (chain : List Byte) (leaf : CertLeaf) (s : State) :
    Host.Outcome State Fault Refusal :=
  .next (spdmRequest tr (setCertOp tr slot chain leaf) s)

/-- SELF_TEST (R356). -/
def execSelfTest (tr : Transport) (session : SessionMsg) (failing : Option Nat) (s : State) : Host.Outcome State Fault Refusal :=
  .next (announce s (vendorRequest tr session (fun _ s => match failing with
    | none => answer tr (.vendor 0) s
    | some row => answer tr (.vendor 2) (selfTestFails row s)) s))

/-- PROVISION (R356). -/
def execProvision (tr : Transport) (session : SessionMsg) (keyHash : List Byte) (suite reqMaq reqApp readBackOk : Bool) (s : State) :
    Host.Outcome State Fault Refusal :=
  .next (vendorRequest tr session (fun _ s => provisionOp tr keyHash suite reqMaq reqApp readBackOk s) s)

/-- ZEROISE (R357). -/
def execZeroise (tr : Transport) (session : SessionMsg) (s : State) : Host.Outcome State Fault Refusal :=
  .next (vendorRequest tr session (fun x s =>
    if mayZeroise s x then answer tr (.vendor 0) (zeroiseOp s) else answer tr (.vendor 1) s) s)

/-- DECOMMISSION (R357). -/
def execDecommission (tr : Transport) (session : SessionMsg) (s : State) : Host.Outcome State Fault Refusal :=
  .next (vendorRequest tr session (fun x s =>
    if mayZeroise s x then
      let s := zeroiseOp s
      answer tr (.vendor 0) { s with sec := { s.sec with decommissioned := true } }
    else answer tr (.vendor 1) s) s)

/-- FW_UPDATE (R352). -/
def execFwUpdate (h : CmdHdr) (loc addr size : Nat) (img : FlomorImage) (flashOk : Bool) (s : State) : Host.Outcome State Fault Refusal :=
  .next (command h {
    op := 0x50, fields := [(9, 1, loc), (16, 8, addr), (24, 8, size)], loc := some loc, params := locOk h loc && decide (1 ≤ size) && bulkOk s loc addr size, claims := [.firmware] }
    (fun r s => bulkIn r loc addr size (fun bs => updateOp r (imageOf size (bs.getD (img.hdr ++ img.cipher))) flashOk) s) s)

/-- FW_ACTIVATE MODE 0x0 (R338). -/
def execFwActivateLiveHandover (h : CmdHdr) (accepts : Bool) (s : State) : Host.Outcome State Fault Refusal :=
  .next (command h { op := 0x51, fields := [(8, 1, 0)], claims := [.firmware, .module] } (fun r s => activateOp r accepts s) s)

/-- FW_ACTIVATE MODE 0x1 (R339). -/
def execFwActivateAtWarmReset (h : CmdHdr) (s : State) : Host.Outcome State Fault Refusal :=
  .next (command h { op := 0x51, fields := [(8, 1, 1)], claims := [.firmware, .module] } (fun r s => armOp r s) s)

/-- PLDM firmware update (R321). -/
def execPldmFirmwareUpdate (img : FlomorImage) (flashOk : PldmFlag) (s : State) : Host.Outcome State Fault Refusal :=
  .next (if busUp s flashOk.bus then pldmUpdate img flashOk.on s else s)

/-- ActivateFirmware (R321). -/
def execActivateFirmware (accepts : PldmFlag) (s : State) : Host.Outcome State Fault Refusal :=
  .next (if busUp s accepts.bus then pldmActivate accepts.on s else s)

end Sys2Proof.Machine
end

