-- ==== Sys2Proof/Machine/Registers.lean ====
section
/-! DEFINITION. The register space of BAR0 (the register tables of every chapter, with R11 to R13): what reads return, and
what writes do. -/

namespace Sys2Proof.Machine

/-- Codes of the partition states (Table 1.5). -/
def partCode : PState → Nat
  | .empty => 0 | .loaded => 1 | .bound => 2 | .running => 3 | .paused => 4 | .cast => 5 | .done => 6

/-- Codes of the Armature core states (Table 8.3), of the queues, and of the channel states (Table 13.7). -/
def armCode : ArmState → Nat
  | .halted => 0 | .running => 1 | .stallQueue => 2 | .waitFlag => 3 | .done => 4 | .fault => 5
def queueCode : QName → Nat
  | .array => 0 | .vector => 1 | .row => 2 | .port => 3
def chanCode : ChSt → Nat
  | .free => 0 | .open_ => 1 | .active => 2 | .fault => 3 | .draining => 4

/-- Codes of the power stages (Table 16.7), of the security states (Table 17.9) and of the severities (Table 19.1). -/
def stageCode : Stage → Nat
  | .auxWait => 0 | .rails => 1 | .rom => 2 | .backoff => 3 | .recovery => 4 | .flomorInit => 5 | .ready => 6
def secCode : SecState → Nat
  | .selfTest => 0 | .operational => 1 | .error => 2 | .zeroised => 3
def sevCode : Sev → Nat
  | .corrected => 0 | .deferred => 1 | .jobFatal => 2 | .moduleFatal => 3

/-- A mask of the numbers below `n` that satisfy a test. -/
def maskBy (n : Nat) (f : Nat → Bool) : Nat := (List.range n).foldl (fun a i => a + b2n (f i) * 2 ^ i) 0

/-- A field over four partitions, `w` bits each. -/
def perPart (s : State) (w : Nat) (f : Part → Nat) : Nat :=
  [0, 1, 2, 3].foldl (fun a p => a + f (getPart s p) % 2 ^ w * 2 ^ (w * p)) 0

/-- GLB_ID (Table 0.1). -/
def glbId (s : State) : Nat := 0x5A04 + 2 ^ 16 * b2n s.ident.b0 + 2 ^ 20 * b2n s.ident.gradeB

/-- The 32 bytes of an error record (Table 19.2); a slot that holds none reads 0. -/
def recBytes (r : ErrRec) : List Byte :=
  if r = {} then zeros 32
  else leBytes 8 r.gtc ++ leBytes 1 (r.code / 256) ++ leBytes 1 (sevCode r.sev + 4 * b2n r.secondary + 8 * r.part.getD 7) ++
    leBytes 2 r.code ++ leBytes 3 (r.unit.getD 0xFFFFFF) ++ leBytes 1 r.time ++ fit 16 r.ctx

/-- PWR_HOLDUP AGE: whole minutes since the latest test (Table 16.7). -/
def testAge (s : State) : Nat :=
  match s.pwr.testGtc with
  | some g => min 0xFF ((s.clk.gtc - g) / 60000000000)
  | none => 0xFF

/-- ARM_PC of a band (Table 8.7): 0 after a reset; it moves on while the core runs, and stands where the core stopped. -/
def armPcOf (s : State) (b : Nat) : Nat :=
  let x := getBand s b
  if x.armPc = 0 then 0 else (Config.armPc b (if x.arm.st = .running then s.clk.mcc + 1 else x.armPc)).toNat

/-- Registers of one band, by offset in its block (Tables 3.5, 4.8, 6.6, 6.14, 8.5, 9.8, 10.7). -/
def bandReg (s : State) (b off : Nat) : Option Nat :=
  let x := getBand s b
  if off = 0 then some (x.lband % 32 + 2 ^ 5 * b2n x.bound + 2 ^ 8 * (x.rot % 128))
  else if off = 4 then some (b2n x.lost + 2 * b2n x.persistPending + 4 * b2n (x.fenceBusy || routerTestDue s b) + 2 ^ 4 * (fencedAt s b).length)
  else if off % 4 = 0 ∧ inArray off 0x10 4 4 = true then
    some (maskBy 32 (fun i => s.fence.contains (cellOf b (32 * ((off - 0x10) / 4) + i))))
  else if off % 4 = 0 ∧ inArray off 0x20 4 4 = true then
    some (maskBy 32 (fun i => s.ident.factoryFence.contains (cellOf b (32 * ((off - 0x20) / 4) + i))))
  else if off % 4 = 0 ∧ inArray off 0x30 4 4 = true then some (maskBy 32 (fun i => x.idle.contains (32 * ((off - 0x30) / 4) + i)))
  else if off % 4 = 0 ∧ inArray off 0x10000 0x10 128 = true then
    let pos := (off - 0x10000) / 0x10
    let c := getCell s (cellOf b pos)
    let k := off % 0x10
    if k = 0 then some (arrSts s b pos)
    else if k = 4 then some (c.rowsDone % 2 ^ 32)
    else if k = 8 then some c.arrNum.toNat
    else if s.fence.contains (cellOf b pos) then some 0
    else some (c.vecFlags % 2 ^ 9 + 2 ^ 16 * min 0xFFFF c.descs)
  else if off = 0x20000 then some (x.rowFlags % 2 ^ 7 + 2 ^ 8 * b2n x.row.isSome + 2 ^ 16 * min 0xFFFF x.rowDescs)
  else if off = 0x20004 then some (min 0xFFFF x.rowEmpty + 2 ^ 16 * min 0xFFFF x.rowInf)
  else if off = 0x20008 then some (min 0xFFFF x.rowNan)
  else if off = 0x30000 then some (b2n x.perCell + 2 * b2n x.loaded + 4 * (x.seqState % 4))
  else if off = 0x30004 then
    some (armCode x.arm.st + (if x.arm.st = .stallQueue then 2 ^ 4 * queueCode x.arm.queue else 0) +
      (if x.arm.st = .waitFlag then 2 ^ 8 * (x.arm.flag % 64) else 0))
  else if off = 0x30008 then some (armPcOf s b)
  else if off = 0x3000C then
    some (x.qArray.length % 256 + 2 ^ 8 * (x.qVector.length % 256) + 2 ^ 16 * (x.qRow.length % 256) + 2 ^ 24 * (x.qPort.length % 256))
  else if off = 0x30010 then
    some (if s.ident.b0 then b2n x.arrCompat + 2 * b2n x.vecCompat + 4 * b2n x.rowCompat + 8 * b2n x.digCompat else 0)
  else if off = 0x40000 then
    some ((x.inStreams.foldl (fun a y => a + y.2.length) 0) % 2 ^ 12 + 2 ^ 16 * ((x.outStreams.foldl (fun a y => a + y.2.length) 0) % 2 ^ 10))
  else if off % 4 = 0 ∧ inArray off 0x40010 4 8 = true then
    let n := (off - 0x40010) / 4
    some (tget 0 x.allocIn n % 2 ^ 12 + 2 ^ 16 * (tget 0 x.allocOut n % 2 ^ 10))
  else none

/-- A memory device by its register on a plinth die (Table 11.9). -/
def devOf (k n : Nat) : Nat := if n < 4 then 4 * k + n else 16 + 3 * k + (n - 4)

/-- Registers of one plinth die, by offset in its block (Tables 10.6, 11.9). -/
def plinthReg (s : State) (k off : Nat) : Option Nat :=
  let x := getPl s k
  if off = 0 then some (x.mcastTo % 2 ^ 16)
  else if off = 4 then some ((x.ctxs.filter (fun e => e.2.st != .free && e.2.st != .draining)).length)
  else if off = 8 then some ((x.ctxs.filter (fun e => e.2.st == .draining)).length)
  else if off = 0xC then some (x.stale % 2 ^ 32)
  else if off = 0x10 then some (x.sel % 2 ^ 16)
  else if off = 0x14 then
    let c := getCtx s k x.sel
    some (ctxState s k x.sel + 2 ^ 8 * (c.part % 4) + 2 ^ 16 * (c.gen % 2 ^ 16))
  else if off = 0x18 then some ((getCtx s k x.sel).moved % 2 ^ 32)
  else if off % 4 = 0 ∧ inArray off 0x40 4 16 = true then
    let c := getCtx s k x.sel
    some (field (leBytes 2 c.gen ++ (fit 64 c.img).drop 2) (off - 0x40) 4)
  else if off = 0x10000 then
    some (b2n x.autoMigrate + 2 ^ 4 * (x.coldRuns % 16) + 2 ^ 8 * (x.lowWater % 256) + 2 ^ 16 * (x.migMax % 256))
  else if off = 0x10004 then some (x.periodH % 256 + 2 ^ 8 * min 0xFFFF x.passes)
  else if off = 0x10008 then some x.ceLimit.toNat
  else if off % 4 = 0 ∧ inArray off 0x10010 4 7 = true then
    let n := (off - 0x10010) / 4
    let d := getDev s (devOf k n)
    some (d.st % 8 + 8 * b2n d.tempHigh + 2 ^ 4 * (if n < 4 then 3 else d.rate % 4) + 2 ^ 8 * (d.cap % 512) + 2 ^ 17 * b2n d.ceWarn)
  else if off = 0x10030 then some (([0, 1, 2, 3].foldl (fun a n => a + freeOn s (devOf k n)) 0) / 65536)
  else if off = 0x10034 then some (([4, 5, 6].foldl (fun a n => a + freeOn s (devOf k n)) 0) / 65536)
  else none

/-- 32-bit registers of one link (Table 12.9). -/
def linkReg (s : State) (l off : Nat) : Option Nat :=
  let x := getLink s l
  if off = 0 then some (linkCode x.st + 2 ^ 4 * b2n x.calLive + 2 ^ 5 * b2n (s.flash.linkCal.contains l) +
    2 ^ 6 * b2n x.recalAdvise + 2 ^ 7 * b2n x.parent + 2 ^ 16 * (x.retrains % 2 ^ 16))
  else if off = 4 then some (x.retryTo % 256 + 2 ^ 8 * (x.retryMax % 16) + 2 ^ 16 * (x.recalSer % 16))
  else if off = 0x10 then some (x.replays % 2 ^ 32)
  else if off = 0x14 then some (x.fecUe % 2 ^ 32)
  else if off = 0x20 then some (x.viol % 2 ^ 16 + 2 ^ 16 * (x.violLast % 256))
  else if off = 0x24 then some ((getLaser s (l / 8)).st % 8 + 2 ^ 8 * (getLaser s (l / 8)).outPwr.toNat)
  else none

/-- 32-bit registers of one channel (Tables 13.6 to 13.8). -/
def chanReg (ch : Chan) (off : Nat) : Option Nat :=
  if off = 0 then some (chanCode ch.st + 8 * b2n ch.owner + 2 ^ 4 * (ch.cause % 16) + 2 ^ 16 * (ch.gen % 2 ^ 16))
  else if off = 4 then some ch.cfg.toNat
  else if off = 8 then some (ch.nextGen % 2 ^ 16)
  else if off = 0xC then some (ch.units % 2 ^ 23)
  else if off = 0x10 then some (ch.shard % 2 ^ 23)
  else if off = 0x14 then some (ch.deadline % 2 ^ 16)
  else if off = 0x18 then some (ch.preg % 2 ^ 16)
  else if off = 0x1C then some (ch.pbase % 2 ^ 32)
  else if off = 0x20 then some (ch.mreg % 2 ^ 16 + 2 ^ 16 * (ch.sreg % 2 ^ 16))
  else if off = 0x24 then some (ch.mbase % 2 ^ 32)
  else if off = 0x28 then some (ch.sbase % 2 ^ 32)
  else if off % 4 = 0 ∧ inArray off 0x30 4 8 = true then some (tget 0 ch.opts ((off - 0x30) / 4)).toNat
  else if off = 0x50 then some (ch.steps % 2 ^ 32)
  else if off = 0x54 then some (ch.nan % 2 ^ 32)
  else if off = 0x60 then some (ch.switches % 2 ^ 16 + 2 ^ 16 * (ch.elems % 2 ^ 16))
  else if off = 0x64 then some (ch.stale % 2 ^ 32)
  else if off % 4 = 0 ∧ inArray off 0x80 4 32 = true then some (tget 0 ch.edges ((off - 0x80) / 4) % 2 ^ 16)
  else none

/-- 32-bit registers of the MSI-X table and the pending bits (R285). -/
def msixReg (s : State) (off : Nat) : Option Nat :=
  if off < 0x9000 then
    let v := tget {} s.msix.vecs ((off - 0x8000) / 16)
    some (if off % 16 = 0 then v.addr.toNat % 2 ^ 32 else if off % 16 = 4 then v.addr.toNat / 2 ^ 32
      else if off % 16 = 8 then v.data.toNat else b2n v.masked)
  else some (maskBy 32 (fun i => (tget {} s.msix.vecs (8 * (off - 0x9000) + i)).pendingBit))

/-- 32-bit registers of the ID and global block (Tables 0.1, 1.3, 1.4, 8.6, 9.7, 14.7). -/
def globalReg (s : State) (off : Nat) : Option Nat :=
  if off = 0 then some (glbId s)
  else if off = 0x40 then some ((List.range 8).foldl (fun a g => a + s.partMap.getD g 4 * 2 ^ (3 * g)) 0)
  else if off = 0x44 then
    some (perPart s 4 (fun q => partCode q.st) + 2 ^ 16 * perPart s 1 (fun q => b2n q.held) + 2 ^ 20 * perPart s 1 (fun q => b2n q.faultCast))
  else if off % 4 = 0 ∧ inArray off 0x50 4 4 = true then some (tget 0x01000000 s.wdog ((off - 0x50) / 4) % 2 ^ 32)
  else if off % 4 = 0 ∧ inArray off 0x60 4 4 = true then
    let q := getPart s ((off - 0x60) / 4)
    some (q.sfCount % 2 ^ 16 + 2 ^ 16 * (q.sfFirst % 32) + 2 ^ 24 * (q.sfBands.length % 128) + 2 ^ 31 * b2n (q.sfBands != []))
  else if off = 0x108 then some (s.pcie.refused % 2 ^ 16)
  else if off = 0x10C then some (s.pcie.rate % 8 + 8 * b2n s.pcie.flit + 2 ^ 4 * (s.pcie.width % 16) + 2 ^ 16 * (s.pcie.retrains % 2 ^ 16))
  else if off = 0x200 then some (maskBy 32 (fun n => (tget {} s.app.cores n).st == 0))
  else if off = 0x210 then some 0
  else if off % 4 = 0 ∧ inArray off 0x1000 0x100 4 = true then
    some (tget {} (getPart s ((off - 0x1000) / 0x100)).flags (off % 0x100 / 4)).value.toNat
  else if off % 4 = 0 ∧ inArray off 0x2000 0x100 4 = true then
    some (match (tget {} (getPart s ((off - 0x2000) / 0x100)).flags (off % 0x100 / 4)).setter with
      | some b => min 31 b + 32
      | none => 0)
  else if off % 4 = 0 ∧ 0x8000 ≤ off ∧ off < 0x9020 then msixReg s off
  else none

/-- 32-bit registers of the clock and fabric time block (Tables 2.6, 2.7, 12.10, 12.11). -/
def clockReg (s : State) (off : Nat) : Option Nat :=
  let c := s.clk
  if off = 0x20 then some (c.curLevel % 8 + 2 ^ 4 * (c.tgtLevel % 8) + 2 ^ 8 * b2n c.pendingChange + 2 ^ 16 * (c.pauses % 2 ^ 16))
  else if off = 0x30 then
    some (b2n c.stsJitter + 2 * b2n c.stsDuty + 4 * b2n c.stsSkewCorr + 8 * b2n c.stsSkewFail + 16 * b2n c.stsSlip +
      32 * b2n c.stsUnlock + 2 ^ 8 * (c.stsRegion % 64))
  else if off = 0x34 then some (c.jitterLimit.toNat + 2 ^ 8 * c.dutyLimit.toNat)
  else if off % 4 = 0 ∧ inArray off 0x80 4 4 = true then
    let q := getPart s ((off - 0x80) / 4)
    some (q.holdBand % 32 + 2 ^ 5 * b2n q.holdOut + 2 ^ 16 * min 0xFFFF q.holdLast)
  else if off = 0x100 then some (s.fab.rootPrio % 16 + 2 ^ 8 * (s.fab.holdoverMs % 256))
  else if off = 0x104 then
    some (c.timeState % 8 + 2 ^ 8 * (s.fab.parent.getD 0 % 32) + 2 ^ 16 * (s.fab.hops % 16) + 2 ^ 20 * (s.fab.steps % 2 ^ 12))
  else if off = 0x108 then some (unsigned 32 s.fab.offset)
  else none

/-- Registers of the power and reset block (Table 16.7). -/
def powerReg (s : State) (off : Nat) : Option Nat :=
  let x := s.pwr
  if off = 0 then some (powerCode x.st + 4 * b2n x.ready + 2 ^ 4 * stageCode x.stage + 2 ^ 8 * b2n x.armed)
  else if off = 4 then some x.cause.toNat
  else if off = 8 then some (x.attempts % 2 ^ 16 + 2 ^ 16 * (x.backoff % 64) + 2 ^ 22 * b2n x.recovered)
  else if off = 0xC then some (x.pmLevel % 8 + 2 ^ 4 * (x.cap % 8) + 2 ^ 7 * b2n (decide (x.pmLevel > x.cap)) + 2 ^ 16 * (x.stepsDown % 2 ^ 16))
  else if off = 0x10 then some (x.mainW % 2 ^ 16 + 2 ^ 16 * (x.auxW % 256))
  else if off = 0x14 then some (x.energy % 2 ^ 16 + 2 ^ 16 * testAge s + 2 ^ 24 * b2n x.valid + 2 ^ 25 * b2n x.testing)
  else if off = 0x18 then
    some (min 0xFF x.deferred.length + 2 ^ 8 * maskBy 8 (fun n => x.deferred.any (fun c => commitKind c == n)) + 2 ^ 16 * (x.deferredCount % 2 ^ 16))
  else none

/-- Registers of the security block (Table 17.9). -/
def secReg (s : State) (off : Nat) : Option Nat :=
  let x := s.sec
  if off = 0 then some (secCode x.st + 4 * b2n x.approved + 8 * b2n x.tamper + 16 * b2n x.zeroised +
    2 ^ 5 * ((sessionsOf s .doe).length % 8) + 2 ^ 8 * ((sessionsOf s .mctp).length % 8))
  else if off = 4 then some (b2n x.provisioned + 2 * b2n x.reqMaq + 4 * b2n x.reqApp + 8 * b2n x.custSuite + 2 ^ 4 * x.fwRevoke.toNat +
    2 ^ 8 * b2n x.decommissioned)
  else if off = 8 then some (x.minSvn % 128 + 2 ^ 8 * (x.running.svn % 128) + 2 ^ 16 * (x.booted.svn % 128))
  else if off = 0xC then some (x.running.version % 2 ^ 32)
  else if off = 0x10 then some (x.booted.version % 2 ^ 32)
  else if off = 0x14 then some (x.rejImages % 2 ^ 16 + 2 ^ 16 * (x.rejSpdm % 2 ^ 16))
  else none

/-- 32-bit registers of the error log (Table 19.6). -/
def errReg (s : State) (off : Nat) : Option Nat :=
  let g := s.log
  if off = 0 then some g.head
  else if off = 4 then some (g.ack % 2 ^ 32)
  else if off = 8 then some (b2n g.modFatal + 2 * b2n g.overflow + 4 * b2n g.firstValid + 2 ^ 16 * (g.suppressed % 2 ^ 16))
  else if off = 0xC then some (g.first % 2 ^ 32)
  else if off = 0x10 then some (g.lost % 2 ^ 32)
  else if off = 0x14 then some (g.peerMctp % 2 ^ 16 + 2 ^ 16 * (g.peerDoe % 2 ^ 16))
  else if off = 0x18 then some (g.adviseCell % 2 ^ 12 + 2 ^ 12 * b2n g.adviseValid)
  else none

/-- CR_CFG and CR_STS of a ring (Table 15.2). -/
def ringReg (s : State) (n off : Nat) : Option Nat :=
  let g := getRing s n
  if off = 0x10 then some (b2n g.enable + 2 * b2n g.loc + 2 ^ 4 * (g.log2 % 16))
  else if off = 0x14 then some (b2n g.busy + 2 * b2n g.overrun + 4 * b2n g.fetchErr)
  else none

/-- A 32-bit register of BAR0; none where no register stands. -/
def reg32 (s : State) (off : Nat) : Option Nat :=
  if off % 4 ≠ 0 then none
  else if off < 0x100000 then globalReg s off
  else if off < 0x200000 then clockReg s (off - 0x100000)
  else if off < 0x400000 then powerReg s (off - 0x200000)
  else if inArray off 0x400000 0x20 16 then ringReg s ((off - 0x400000) / 0x20) (off % 0x20)
  else if inArray off 0x1000000 0x80000 32 then bandReg s ((off - 0x1000000) / 0x80000) (off % 0x80000)
  else if inArray off 0x2000000 0x200000 4 then plinthReg s ((off - 0x2000000) / 0x200000) (off % 0x200000)
  else if inArray off 0x2800000 0x20000 32 then linkReg s ((off - 0x2800000) / 0x20000) (off % 0x20000)
  else if off = 0x3000000 then some (s.redMcastTo % 2 ^ 16)
  else if off = 0x3000004 then
    some ((s.chans.filter (fun x => x.2.st == .open_ || x.2.st == .active || x.2.st == .fault)).length +
      2 ^ 16 * (s.chans.filter (fun x => x.2.st == .draining)).length)
  else if inArray off 0x3010000 0x100 1024 then chanReg (getChan s ((off - 0x3010000) / 0x100)) (off % 0x100)
  else if off = 0x3400008 then some s.patina.seq
  else if inArray off 0x3400010 4 4 then some ((getPart s ((off - 0x3400010) / 4)).runs % 2 ^ 32)
  else if inArray off 0x3800000 4 6 then secReg s (off - 0x3800000)
  else if inArray off 0x3C00000 4 7 then errReg s (off - 0x3C00000)
  else none

/-- A 64-bit register of BAR0; none where none stands. -/
def reg64 (s : State) (off : Nat) : Option Nat :=
  let c := s.clk
  if off % 8 ≠ 0 then none
  else if off = 0x100 then some (s.pcie.apBase % 2 ^ 18 * 2 ^ 30)
  else if off = 0x208 then some ((List.range 32).foldl (fun a n => a + coreState s n % 4 * 2 ^ (2 * n)) 0)
  else if off = 0x100000 then some c.mcc
  else if off = 0x100008 then some c.gtc
  else if off = 0x100010 then some c.syncMcc
  else if off = 0x100018 then some c.syncGtc
  else if off = 0x100028 then some c.freqAt
  else if inArray off 0x100040 8 4 then
    let q := getPart s ((off - 0x100040) / 8)
    some (q.jcc % 2 ^ 48 + 2 ^ 48 * b2n q.wrap)
  else if inArray off 0x100060 8 4 then some ((getPart s ((off - 0x100060) / 8)).holdUnits % 2 ^ 64)
  else if off = 0x100110 then some (s.ident.fabId % 2 ^ 48)
  else if off = 0x100118 then some (s.fab.rootId % 2 ^ 48 + 2 ^ 48 * (s.fab.rootPrioOf % 16))
  else if inArray off 0x400000 0x20 16 && off % 0x20 == 0 then some (getRing s ((off - 0x400000) / 0x20)).base.toNat
  else if inArray off 0x400000 0x20 16 && off % 0x20 == 8 then some (getRing s ((off - 0x400000) / 0x20)).sbase.toNat
  else if inArray off 0x2800000 0x20000 32 && off % 0x20000 == 8 then
    let x := getLink s ((off - 0x2800000) / 0x20000)
    some (x.peerId % 2 ^ 48 + 2 ^ 48 * (x.peerLink % 32))
  else if inArray off 0x2800000 0x20000 32 && off % 0x20000 == 0x18 then some ((getLink s ((off - 0x2800000) / 0x20000)).fecCe % 2 ^ 64)
  else if inArray off 0x3010000 0x100 1024 && off % 0x100 == 0x58 then
    some (match (getChan s ((off - 0x3010000) / 0x100)).src with
      | some (rank, e) => e % 2 ^ 28 + 2 ^ 28 * (rank % 2 ^ 12) + 2 ^ 40
      | none => 0)
  else if off = 0x3400000 then some s.patina.sampleGtc
  else if 0x3410000 ≤ off ∧ off < 0x3460000 then patWord s.patina.live (off - 0x3400000)
  else if 0x3610000 ≤ off ∧ off < 0x3660000 then patWord s.patina.sample (off - 0x3600000)
  else if inArray off 0x3C10000 0x20 4096 then
    some (field (recBytes (tget {} s.log.slots ((off - 0x3C10000) / 0x20))) (off % 0x20) 8)
  else none

/-- A read of 4 or 8 bytes (R11): the value, and whether any register stands there. -/
def regRead (s : State) (off size : Nat) : Nat × Bool :=
  let half := fun (o : Nat) => match reg32 s o with
    | some v => (v, true)
    | none => match reg64 s (o / 8 * 8) with
      | some v => (v / 2 ^ (8 * (o % 8)) % 2 ^ 32, true)
      | none => (0, false)
  if size = 4 then half off
  else match reg64 s off with
    | some v => (v, true)
    | none =>
      let a := half off
      let b := half (off + 4)
      (a.1 + 2 ^ 32 * b.1, a.2 || b.2)

/-- What a register write comes to: done, done in part and refused otherwise, refused, or no register there. -/
inductive WOut where
  | done (s : State)
  | partly (s : State)
  | refused
  | absent
  deriving DecidableEq, Repr

/-- A core placed in RESET (GLB_APP_CTL). -/
def resetCores (mask : Nat) (s : State) : State :=
  { s with app := { s.app with cores := s.app.cores.filter (fun x => !bitOf mask x.1) } }

/-- Messages of vectors whose pending bits may go out now (R286). -/
def flushMsix (s : State) : State :=
  (List.range 256).foldl (fun s v => if (tget {} s.msix.vecs v).pendingBit && !msixHeld s v then sendMsix v s else s) s

/-- A write of the MSI-X table (R285, R286). -/
def writeMsix (off v : Nat) (s : State) : State :=
  let n := (off - 0x8000) / 16
  let s := { s with msix := { s.msix with vecs := tmod {} s.msix.vecs n (fun x =>
    if off % 16 = 0 then { x with addr := BitVec.ofNat 64 (x.addr.toNat / 2 ^ 32 * 2 ^ 32 + v) }
    else if off % 16 = 4 then { x with addr := BitVec.ofNat 64 (x.addr.toNat % 2 ^ 32 + 2 ^ 32 * v) }
    else if off % 16 = 8 then { x with data := BitVec.ofNat 32 v }
    else { x with masked := bitOf v 0 }) } }
  flushMsix s

/-- Writes of the ID and global block (Tables 1.3, 8.7, 14.8). -/
def writeGlobal (off v : Nat) (s : State) : WOut :=
  if off = 0x40 then
    match writePartMap v s with
    | (true, s) => .done s
    | (false, _) => .refused
  else if inArray off 0x50 4 4 then .done { s with wdog := tset 0x01000000 s.wdog ((off - 0x50) / 4) (max 0x1000 v) }
  else if off = 0x200 then .done (resetCores v s)
  else if off = 0x210 then if 0x80 ≤ v % 256 then .done (signal (v % 256) s) else .refused
  else if inArray off 0x1000 0x100 4 then
    let p := (off - 0x1000) / 0x100
    if (getPart s p).st = .running ∨ (getPart s p).st = .paused then .refused
    else
      let f := off % 0x100 / 4
      let s := modPart p (fun q => { q with
        flags := tset {} q.flags f { value := BitVec.ofNat 32 v, setter := some 32, setGtc := s.clk.gtc } }) s
      .done ((bandsOf s p).foldl (satisfyOne f (BitVec.ofNat 32 v)) s)
  else if inArray off 0x8000 16 256 then .done (writeMsix off v s)
  else .refused

/-- Writes of the clock and fabric time block (Tables 2.7, 12.11). -/
def writeClock (off v : Nat) (s : State) : WOut :=
  let c := s.clk
  if off = 0x30 then .done { s with clk := { c with
    stsJitter := c.stsJitter && !bitOf v 0, stsDuty := c.stsDuty && !bitOf v 1, stsSkewCorr := c.stsSkewCorr && !bitOf v 2
    stsSkewFail := c.stsSkewFail && !bitOf v 3, stsSlip := c.stsSlip && !bitOf v 4, stsUnlock := c.stsUnlock && !bitOf v 5 } }
  else if off = 0x34 then .done { s with clk := { c with jitterLimit := BitVec.ofNat 8 v, dutyLimit := BitVec.ofNat 8 (v / 256) } }
  else if off = 0x100 then .done { s with fab := { s.fab with rootPrio := v % 16, holdoverMs := v / 256 % 256 } }
  else .refused

/-- Writes of a band's registers: the sticky flags (Tables 5.5, 6.6, 6.14). -/
def writeBand (b off v : Nat) (s : State) : WOut :=
  if inArray off 0x10000 0x10 128 && off % 0x10 == 8 then
    .done (modCell (cellOf b ((off - 0x10000) / 0x10)) (fun c =>
      let n := c.arrNum.toNat
      let low := n % 2 ^ 16 &&& (0xFFFF - v % 2 ^ 16)
      { c with arrNum := BitVec.ofNat 32 (low + (if bitOf v 0 && bitOf v 1 then 0 else n / 2 ^ 16 * 2 ^ 16)) }) s)
  else if inArray off 0x10000 0x10 128 && off % 0x10 == 0xC then
    .done (modCell (cellOf b ((off - 0x10000) / 0x10)) (fun c => { c with vecFlags := c.vecFlags &&& (0x1FF - v % 2 ^ 9) }) s)
  else if off = 0x20000 then .done (modBand b (fun x => { x with rowFlags := x.rowFlags &&& (0x7F - v % 2 ^ 7) }) s)
  else .refused

/-- Writes of a plinth die's registers (Tables 10.8, 11.9). -/
def writePlinth (k off v : Nat) (s : State) : WOut :=
  if off = 0 then .done (modPl k (fun x => { x with mcastTo := v % 2 ^ 16 }) s)
  else if off = 0x10 then .done (modPl k (fun x => { x with sel := v % 2 ^ 16 }) s)
  else if off = 0x10000 then .done (modPl k (fun x => { x with
    autoMigrate := bitOf v 0, coldRuns := v / 2 ^ 4 % 16, lowWater := v / 2 ^ 8 % 256, migMax := v / 2 ^ 16 % 256 }) s)
  else if off = 0x10004 then .done (modPl k (fun x => { x with periodH := v % 256 }) s)
  else if off = 0x10008 then .done (modPl k (fun x => { x with ceLimit := BitVec.ofNat 32 v }) s)
  else if inArray off 0x10010 4 7 then
    .done (modDev (devOf k ((off - 0x10010) / 4)) (fun d => { d with ceWarn := d.ceWarn && !bitOf v 17 }) s)
  else .refused

/-- Writes of a link's registers (Table 12.9). -/
def writeLink (l off v : Nat) (s : State) : WOut :=
  if off = 0 then .done (modLink l (fun x => { x with recalAdvise := x.recalAdvise && !bitOf v 6 }) s)
  else if off = 4 then .done (modLink l (fun x => { x with
    retryTo := v % 256, retryMax := v / 2 ^ 8 % 16, recalSer := v / 2 ^ 16 % 16 }) s)
  else .refused

/-- Writes of a channel's registers, locked while the channel is not FREE (R275, Tables 13.7, 13.8). -/
def writeChan (c off v : Nat) (s : State) : WOut :=
  let set := fun (f : Chan → Chan) => if (getChan s c).st = .free then WOut.done (modChan c f s) else WOut.refused
  if off = 4 then set (fun x => { x with cfg := BitVec.ofNat 32 (v &&& 0x0FFF37FF) })
  else if off = 8 then set (fun x => { x with nextGen := v % 2 ^ 16 })
  else if off = 0xC then set (fun x => { x with units := v % 2 ^ 23 })
  else if off = 0x10 then set (fun x => { x with shard := v % 2 ^ 23 })
  else if off = 0x14 then set (fun x => { x with deadline := v % 2 ^ 16 })
  else if off = 0x18 then set (fun x => { x with preg := v % 2 ^ 16 })
  else if off = 0x1C then set (fun x => { x with pbase := v })
  else if off = 0x20 then set (fun x => { x with mreg := v % 2 ^ 16, sreg := v / 2 ^ 16 })
  else if off = 0x24 then set (fun x => { x with mbase := v })
  else if off = 0x28 then set (fun x => { x with sbase := v })
  else if inArray off 0x30 4 7 then set (fun x => { x with opts := tset 0 x.opts ((off - 0x30) / 4) (BitVec.ofNat 32 v) })
  else if off = 0x4C then set id
  else if inArray off 0x80 4 32 then set (fun x => { x with edges := tset 0 x.edges ((off - 0x80) / 4) (v &&& 0xFFF3) })
  else .refused

/-- CR_CFG (R303, Table 15.2). -/
def writeRingCfg (v : Nat) (g : CmdRing) : CmdRing :=
  if g.enable then { g with enable := bitOf v 0 }
  else
    let g := { g with loc := bitOf v 1, log2 := max 4 (min 12 (v / 2 ^ 4 % 16)) }
    if bitOf v 0 then { g with enable := true, tail := 0, head := 0, done := 0, phase := true } else g

/-- Whether a write of CR_CFG would change a field that ENABLE = 1 locks. DESIGN CHOICE (log entry 43): one that gives each its
present value is no violation, and is not recorded. -/
def ringLocked (v : Nat) (g : CmdRing) : Bool := g.enable && (bitOf v 1 != g.loc || max 4 (min 12 (v / 2 ^ 4 % 16)) != g.log2)

/-- Writes of a ring's 32-bit registers (Table 15.2). What ENABLE locks is discarded, and recorded (R392). -/
def writeRing (n off v : Nat) (s : State) : WOut :=
  if off = 0x10 then
    let t := modRing n (writeRingCfg v) s
    if ringLocked v (getRing s n) then .partly t else .done t
  else if off = 0x14 then .done (modRing n (fun g => { g with overrun := g.overrun && !bitOf v 1, fetchErr := g.fetchErr && !bitOf v 2 }) s)
  else .refused

/-- Writes of the error log (R386, R389, Table 19.6). -/
def writeErr (off v : Nat) (s : State) : WOut :=
  let g := s.log
  if off = 4 then .done { s with log := { g with ack := v } }
  else if off = 8 then .done { s with log := { g with
    overflow := g.overflow && !bitOf v 1, firstValid := g.firstValid && !bitOf v 2
    first := if bitOf v 2 then 0xFFFFFFFF else g.first } }
  else if off = 0x18 then .done { s with log := { g with adviseValid := g.adviseValid && !bitOf v 12 } }
  else .refused

/-- A 4-byte write of a 32-bit register (R13). A register with no field that software may write refuses (R392). -/
def write32 (off v : Nat) (s : State) : WOut :=
  if (reg32 s off).isNone then .absent
  else if off < 0x100000 then writeGlobal off v s
  else if off < 0x200000 then writeClock (off - 0x100000) v s
  else if off = 0x200004 then .done { s with pwr := { s.pwr with cause := s.pwr.cause &&& ~~~(BitVec.ofNat 9 v) } }
  else if inArray off 0x400000 0x20 16 then writeRing ((off - 0x400000) / 0x20) (off % 0x20) v s
  else if inArray off 0x1000000 0x80000 32 then writeBand ((off - 0x1000000) / 0x80000) (off % 0x80000) v s
  else if inArray off 0x2000000 0x200000 4 then writePlinth ((off - 0x2000000) / 0x200000) (off % 0x200000) v s
  else if inArray off 0x2800000 0x20000 32 then writeLink ((off - 0x2800000) / 0x20000) (off % 0x20000) v s
  else if off = 0x3000000 then .done { s with redMcastTo := v % 2 ^ 16 }
  else if inArray off 0x3010000 0x100 1024 then writeChan ((off - 0x3010000) / 0x100) (off % 0x100) v s
  else if inArray off 0x3C00000 4 7 then writeErr (off - 0x3C00000) v s
  else .refused

/-- A write of a 64-bit register. -/
def write64 (off v : Nat) (s : State) : WOut :=
  if (reg64 s off).isNone then .absent
  else if off = 0x100 then .done { s with pcie := { s.pcie with apBase := v / 2 ^ 30 % 2 ^ 18 } }
  else if inArray off 0x400000 0x20 16 && (off % 0x20 == 0 || off % 0x20 == 8) then
    let n := (off - 0x400000) / 0x20
    let a := BitVec.ofNat 64 (v / 64 * 64)
    if (getRing s n).enable then .refused
    else .done (modRing n (fun g => if off % 0x20 = 0 then { g with base := a } else { g with sbase := a }) s)
  else .refused

/-- A 4-byte write (R11): a 32-bit register, or one half of a 64-bit one. -/
def write4 (off v : Nat) (s : State) : WOut :=
  if (reg32 s off).isSome then write32 off v s
  else if (reg64 s (off / 8 * 8)).isSome then (if off % 8 = 4 then write64 (off - 4) (v * 2 ^ 32) s else .done s)
  else .absent

/-- Who accesses, as a record names it (Table 19.3): a core's number; the host's requester ID is not known here. -/
def requesterOf (a : Agent) (s : State) : Nat × State :=
  match a with
  | .core n => (n, s)
  | .host => let (v, s) := takeFree s; (v.toNat % 65536, s)

/-- A record of the HOST class (Table 19.3). -/
def hostRecord (code : Nat) (unit : Option Nat) (a : Agent) (addr kind ans data : Nat) (s : State) : State :=
  let (q, s) := requesterOf a s
  logDeferred code unit none [(0, addr), (8, q), (10, kind), (11, ans), (12, data % 2 ^ 32)] s

/-- Where the application cores find the register space and BAR4 (Table 14.6). -/
def coreBar0 : Nat := 0x300000000000
def coreBar4 : Nat := 0x300100000000

/-- A refused register write (R392): a core takes an access fault. -/
def refuseReg (a : Agent) (off v : Nat) (s : State) : State :=
  match a with
  | .host => hostRecord 0x0803 none a off 1 0 v s
  | .core n => coreFaults n 7 (coreBar0 + off) (hostRecord 0x0803 none a off 1 4 v s)

/-- A write where no register stands (R281): counted only; a core takes an access fault. -/
def missReg (a : Agent) (off : Nat) (s : State) : State :=
  let s := { s with log := { s.log with unassigned := s.log.unassigned + 1 } }
  match a with
  | .host => s
  | .core n => coreFaults n 7 (coreBar0 + off) s

/-- What a write comes to, for its agent. -/
def settleWrite (a : Agent) (off v : Nat) (s : State) : WOut → State
  | .done s => s
  | .partly s => refuseReg a off v s
  | .refused => refuseReg a off v s
  | .absent => missReg a off s

/-- A write of a register by an agent that may make it (R11, R13): 4 or 8 bytes, aligned. -/
def writeReg (a : Agent) (off size v : Nat) (s : State) : State :=
  if size = 4 then settleWrite a off (v % 2 ^ 32) s (write4 off (v % 2 ^ 32) s)
  else if (reg64 s off).isSome then settleWrite a off v s (write64 off v s)
  else
    let none2 := !(regRead s off 8).2
    if none2 then missReg a off s
    else
      let half := fun (o w : Nat) (s : State) => match write4 o w s with
        | .absent => s
        | r => settleWrite a o w s r
      half (off + 4) (v / 2 ^ 32 % 2 ^ 32) (half off (v % 2 ^ 32) s)

end Sys2Proof.Machine
end

