-- ==== Sys2Proof/Machine/Pcie.lean ====
section
/-! DEFINITION. The configuration space of the function (R277, R279, R280). The identity values and limits are those of Tables
14.1 to 14.3. PRESUMED (log entry 47): the registers' places and fields are those of the PCI Express Base Specification, to
which R277 has the endpoint conform. DESIGN CHOICE (log entry 47): the offsets of the capability structures. -/

namespace Sys2Proof.Machine

/-- The sizes of BAR0, BAR2 and BAR4, and the space that each takes in the reads of the host (Table 14.3). -/
def bar0Size : Nat := 0x4000000
def bar2Size : Nat := 0x1000000000
def bar4Size : Nat := 0x100000

/-- A BAR as configuration reads show it: its base, 64-bit memory, prefetchable or not (Table 14.3). -/
def barValue (base size : Nat) (prefetch : Bool) : Nat := base / size * size + 4 + 8 * b2n prefetch

/-- Power Management, PCI Express and MSI-X capabilities (Table 14.1, R285, R292), and the Link Status of Table 14.8, whose Slot Clock
Configuration says whether REFCLK is used (R404). -/
def capWord (s : State) (off : Nat) : Nat :=
  let p := s.pcie
  if off = 0x40 then 0x00034801
  else if off = 0x44 then 8 + (if p.d3hot then 3 else 0)
  else if off = 0x48 then 0x80028810
  else if off = 0x4C then 0x10008022
  else if off = 0x50 then p.devCtl % 2 ^ 16 + 2 ^ 16 * (p.devSts % 16)
  else if off = 0x54 then 0x00000887
  else if off = 0x58 then p.lnkCtl % 2 ^ 16 + 2 ^ 16 * (p.rate % 8 + 1) + 2 ^ 20 * (p.width % 64) + 2 ^ 28 * b2n p.refclk
  else if off = 0x6C then 0x0003000F
  else if off = 0x70 then p.devCtl2 % 2 ^ 16
  else if off = 0x74 then 0xFE
  else if off = 0x88 then 0x00FF0011 + 2 ^ 30 * b2n s.msix.fnMask + 2 ^ 31 * b2n s.msix.enable
  else if off = 0x8C then 0x8000
  else if off = 0x90 then 0x9000
  else 0

/-- Advanced Error Reporting, Device Serial Number and Data Object Exchange (Table 14.1). -/
def extWord (s : State) (off : Nat) : Nat :=
  let p := s.pcie
  if off = 0x100 then 0x14820001
  else if off = 0x104 then p.aerSts % 2 ^ 32
  else if off = 0x108 then p.aerMask % 2 ^ 32
  else if off = 0x10C then p.aerSev % 2 ^ 32
  else if off = 0x114 then p.aerCorMask % 2 ^ 32
  else if off = 0x148 then 0x15810003
  else if off = 0x14C then s.ident.fabId % 2 ^ 32
  else if off = 0x150 then s.ident.fabId / 2 ^ 32 % 2 ^ 16
  else if off = 0x158 then 0x0002002E
  else if off = 0x164 then 2 ^ 31 * b2n p.doeReady + 4 * b2n p.doeError
  else if off = 0x16C then p.doeOut.headD 0
  else 0

/-- A 32-bit word of configuration space: the header of Table 14.2, the BARs, and the capabilities. -/
def cfgWord (s : State) (off : Nat) : Nat :=
  let p := s.pcie
  if off = 0 then 0x1F5D + 2 ^ 16 * 0x5A04
  else if off = 4 then p.cmd % 2 ^ 16 + 2 ^ 20
  else if off = 8 then b2n s.ident.b0 + 2 ^ 8 * 0x120000
  else if off = 0x10 then barValue p.bar0 bar0Size false % 2 ^ 32
  else if off = 0x14 then p.bar0 / 2 ^ 32
  else if off = 0x18 then barValue p.bar2 bar2Size true % 2 ^ 32
  else if off = 0x1C then barValue p.bar2 bar2Size true / 2 ^ 32
  else if off = 0x20 then barValue p.bar4 bar4Size false % 2 ^ 32
  else if off = 0x24 then p.bar4 / 2 ^ 32
  else if off = 0x2C then 0x1F5D + 2 ^ 16 * (if s.ident.gradeB then 0x0B16 else 0x0A16)
  else if off = 0x34 then 0x40
  else if off = 0x3C then 0
  else if off < 0x100 then capWord s off
  else extWord s off

/-- The low or the high half of a base with another value. -/
def withHalf (high : Bool) (v old : Nat) : Nat :=
  if high then old % 2 ^ 32 + 2 ^ 32 * v else old / 2 ^ 32 * 2 ^ 32 + v

/-- What the DOE mailbox answers to DOE discovery of an index (Table 14.1): a protocol of vendor 0x0001 - 0 discovery, 1 CMA/SPDM, 2
secured CMA/SPDM - and the next index; no protocol stands at an index from 3 on. -/
def doeAnswer (index : Nat) : List Nat :=
  [1, 3, if index < 3 then 1 + 2 ^ 16 * index + 2 ^ 24 * (if index < 2 then index + 1 else 0) else 0xFFFF]

/-- A DOE object (R277, R392). The answer to discovery stands ready in the mailbox; the SPDM requests that an object of the other two
types carries are rows of their own, which give their answers. -/
def doeOp (typ index len : Nat) (busy : Bool) (s : State) : State :=
  if busy || decide (len > 65536) || decide (typ > 2) then
    { s with pcie := { s.pcie with doeError := true }, log := { s.log with peerDoe := satAdd 0xFFFF s.log.peerDoe 1 } }
  else emit (.doe typ) { s with pcie := { s.pcie with doeReady := true, doeOut := if typ = 0 then doeAnswer index else [] } }

/-- DOE Go: the object that the mailbox has taken, word by word: vendor and type, its length in words, its data. One of another vendor
is of no type that the mailbox knows. -/
def doeGo (s : State) : State :=
  let w := s.pcie.doeIn
  let s := { s with pcie := { s.pcie with doeIn := [] } }
  let typ := if w.getD 0 0 % 2 ^ 16 = 1 then w.getD 0 0 / 2 ^ 16 % 256 else 3
  doeOp typ (w.getD 2 0 % 256) (4 * (w.getD 1 0 % 2 ^ 18)) (s.pcie.doeReady || decide (w.length ≠ w.getD 1 0 % 2 ^ 18)) s

/-- A configuration write of a word: `v` as the register holds it afterwards where it can be written, `ones` the ones written
(for bits that a one clears). A write of Initiate Function Level Reset resets the function (R291); one of the power state
enters or leaves D3hot (R292); one of MSI-X's control enables, disables or masks (R286); one of the DOE registers aborts, starts, takes
a word of an object or moves on to the next word of the answer (Table 14.1). -/
def cfgPut (off v ones : Nat) (s : State) : State :=
  let put := fun (f : Pcie → Pcie) => ({ s with pcie := f s.pcie } : State)
  if off = 4 then flushMsix (flushHeld (put (fun p => { p with cmd := v &&& 0x547 })))
  else if off = 0x10 ∨ off = 0x14 then put (fun p => { p with bar0 := withHalf (off == 0x14) v p.bar0 / bar0Size * bar0Size })
  else if off = 0x18 ∨ off = 0x1C then put (fun p => { p with bar2 := withHalf (off == 0x1C) v p.bar2 / bar2Size * bar2Size })
  else if off = 0x20 ∨ off = 0x24 then put (fun p => { p with bar4 := withHalf (off == 0x24) v p.bar4 / bar4Size * bar4Size })
  else if off = 0x44 then
    flushMsix (flushHeld (put (fun p => { p with d3hot := v % 4 == 3 })))
  else if off = 0x50 then
    let s := put (fun p => { p with devCtl := v &&& 0x71FF, devSts := p.devSts &&& (15 - ones / 2 ^ 16 % 16) })
    if bitOf ones 15 then flrOp s else s
  else if off = 0x58 then put (fun p => { p with lnkCtl := v &&& 2 })
  else if off = 0x70 then put (fun p => { p with devCtl2 := v &&& 0x100F })
  else if off = 0x88 then flushMsix { s with msix := { s.msix with fnMask := bitOf v 30, enable := bitOf v 31 } }
  else if off = 0x104 then put (fun p => { p with aerSts := p.aerSts &&& (0xFFFFFFFF - ones % 2 ^ 32) })
  else if off = 0x108 then put (fun p => { p with aerMask := v &&& 0x4F7F030 })
  else if off = 0x10C then put (fun p => { p with aerSev := v &&& 0x4F7F030 })
  else if off = 0x114 then put (fun p => { p with aerCorMask := v &&& 0xF1C1 })
  else if off = 0x160 then
    if bitOf ones 0 then put (fun p => { p with doeError := false, doeReady := false, doeIn := [], doeOut := [] })
    else if bitOf ones 31 then doeGo s else s
  else if off = 0x168 then put (fun p => { p with doeIn := p.doeIn ++ [v] })
  else if off = 0x16C then put (fun p => { p with doeReady := p.doeReady && decide (1 < p.doeOut.length), doeOut := p.doeOut.tail })
  else s

/-- A configuration request covers bytes of one word. -/
def cfgFits (off size : Nat) : Bool := (size == 1 || size == 2 || size == 4) && decide (off % 4 + size ≤ 4 ∧ off < 4096)

/-- A configuration write of 1, 2 or 4 bytes. -/
def cfgWrite (off size v : Nat) (s : State) : State :=
  if !cfgFits off size then s
  else
    let w := off / 4 * 4
    let mask := (2 ^ (8 * size) - 1) * 2 ^ (8 * (off % 4))
    let ones := v % 2 ^ (8 * size) * 2 ^ (8 * (off % 4))
    cfgPut w ((cfgWord s w &&& (0xFFFFFFFF - mask)) ||| ones) ones s

/-- A configuration read of 1, 2 or 4 bytes. -/
def cfgRead (off size : Nat) (s : State) : List Byte :=
  if !cfgFits off size then zeros size else leBytes size (cfgWord s (off / 4 * 4) / 2 ^ (8 * (off % 4)))

end Sys2Proof.Machine
end

