-- ==== Sys2Proof/Machine/Host.lean ====
section
/-! DEFINITION. The host attachment, mailboxes, doorbells, application cores, MCTP and PLDM (chapters 14 and 15 of spec/,
with R26, R113, R173, R196, R389, R392). -/

namespace Sys2Proof.Machine

/-- ROM mode, or a warm reset that runs (R330, R334). -/
def romMode (s : State) : Bool := s.pwr.stage == .rom || s.pwr.stage == .backoff || s.pwr.stage == .recovery
def limited (s : State) : Bool := romMode s || (s.pwr.warmStart && !s.pwr.ready)

/-- Whether an agent can access the register space or BAR4: the host through the endpoint, a core that executes. -/
def agentUp (s : State) : Agent → Bool
  | .host => endpointUp s && fnReady s
  | .core n => coreRuns s n

/-- A memory request of the host as the record of its refusal shows it (Table 19.3): the BAR, the address, read or write, and the first
bytes of its data. -/
structure HostReq where
  bar : Option Nat
  addr : Nat
  kind : Nat
  data : Nat
  deriving DecidableEq, Repr

/-- Whether the function decodes memory requests: not in D3hot (R292), and only while Memory Space Enable of its Command register is 1
(PRESUMED, log entry 47). -/
def memoryOn (s : State) : Bool := !s.pcie.d3hot && bitOf s.pcie.cmd 1

/-- What the host gets while the function decodes no memory request, and while a function-level reset goes on (R291, R292):
Unsupported Request, which is logged as every refused request is (R281). `f` is what happens otherwise. -/
def hostRequest (q : HostReq) (f : State → State) (s : State) : State :=
  if !endpointUp s then s
  else if !memoryOn s || !fnReady s then unsupportedRequest (hostRecord 0x0801 q.bar .host q.addr q.kind 1 q.data s)
  else f s

/-- A configuration request: Request Retry Status until a function-level reset is over (R291). -/
def cfgRequest (f : State → State) (s : State) : State :=
  if !endpointUp s then s else if !fnReady s then emit .retryStatus s else f s

/-- A request of an agent. -/
def agentRequest (a : Agent) (q : HostReq) (f : State → State) (s : State) : State :=
  match a with
  | .host => hostRequest q f s
  | .core n => if coreRuns s n then f (wakeCore n s) else s

/-- Whether the application cores may write a register (R295). -/
def coreMayWrite (off : Nat) : Bool := decide (0x400000 ≤ off ∧ off < 0x400200) || off == 0x200 || off == 0x210

/-- A BAR0 write (R281, R295, R330, R334): size and alignment first, then who may write what. -/
def bar0Write (a : Agent) (off size v : Nat) (s : State) : State :=
  if !((size == 4 || size == 8) && off % size == 0) then
    match a with
    | .host => hostRecord 0x0801 (some 0) a off 1 0 v s
    | .core n => coreFaults n 7 (coreBar0 + off) (hostRecord 0x0803 none a off 1 4 v s)
  else match a with
    | .host => if limited s then refuseReg a off v s else writeReg a off size v s
    | .core _ =>
      if coreMayWrite off then writeReg a off size v s
      else if (regRead s off size).2 then refuseReg a off v s
      else missReg a off s

/-- A BAR0 read (R281, R330, R334): the data, or none for a bus error. -/
def bar0Read (off size : Nat) (s : State) : Option (List Byte) × State :=
  if !((size == 4 || size == 8) && off % size == 0) then (none, s)
  else if limited s && !decide (0x200000 ≤ off ∧ off < 0x20001C) then (some (zeros size), s)
  else
    let r := regRead s off size
    (some (leBytes size r.1), if r.2 then s else { s with log := { s.log with unassigned := s.log.unassigned + 1 } })

/-- Mailboxes. In RECOVERY the sender of MB63 is the host, and the ROM loader is its receiver (R354). -/
def getMb (s : State) (m : Nat) : Mailbox := tget {} s.mbox m
def modMb (m : Nat) (f : Mailbox → Mailbox) (s : State) : State := { s with mbox := tmod {} s.mbox m f }
def mbSender (s : State) (m : Nat) : Nat := if romMode s && m == 63 then 0x20 else (getMb s m).sender
def mbReceiver (s : State) (m : Nat) : Nat := if romMode s && m == 63 then 0x22 else (getMb s m).receiver

/-- Whether a SENDER or RECEIVER code names an agent (Table 15.4). -/
def codeIs (code : Nat) : Agent → Bool
  | .host => code == 0x20
  | .core n => code == n || code == 0x21

/-- Signal the agent that a code names (R316): MSI-X for the host, the interrupt controller for a core. -/
def signalAgent (code m : Nat) (s : State) : State :=
  if code = 0x20 then
    let t := signal (16 + m) s
    { t with msix := { t.msix with plic := s.msix.plic } }
  else if code ≤ 0x1F ∨ code = 0x21 then { s with msix := { s.msix with plic := tset false s.msix.plic (17 + m) true } }
  else s

/-- An access of a mailbox is refused (R317): a host read gets Completer Abort, and a core takes an access fault, `cause` for a read. -/
def mbRefuseAs (cause : Nat) (a : Agent) (m addr kind data : Nat) (s : State) : State :=
  let s := modMb m (fun x => { x with refused := satAdd 0xFFFF x.refused 1 }) s
  match a with
  | .host =>
    let s := hostRecord 0x0804 (some m) a addr kind (if kind = 0 then 2 else 0) data s
    if kind = 0 then completerAbort s else s
  | .core n => coreFaults n (if kind = 1 then 7 else cause) (coreBar4 + addr) (hostRecord 0x0804 (some m) a addr kind 4 data s)
def mbRefuse : Agent → Nat → Nat → Nat → Nat → State → State := mbRefuseAs 5

/-- Whether a mailbox is in use: neither its SENDER nor its RECEIVER is 0x3F (R317). -/
def mbInUse (s : State) (m : Nat) : Bool := mbSender s m != 0x3F && mbReceiver s m != 0x3F

/-- A write of the slot (R316, R317). -/
def slotWrite (a : Agent) (m off : Nat) (bs : List Byte) (s : State) : State :=
  if mbInUse s m && codeIs (mbSender s m) a && !(getMb s m).full && decide (1 ≤ bs.length ∧ bs.length ≤ 8 ∧ off + bs.length ≤ 256) then
    modMb m (fun x => { x with slot := (List.range bs.length).foldl (fun t i => tset 0 t (off + i) (bs.getD i 0)) x.slot }) s
  else mbRefuse a m (0x100 * m + off) 1 (field bs 0 4) s

/-- Data of a read goes to its agent. -/
def readData (a : Agent) (bs : List Byte) (s : State) : State :=
  match a with
  | .host => emit (.completion bs) s
  | .core n => emit (.coreData n bs) s

/-- A read of MB_COMMIT (R316, R317); `more` are the bytes that the read covers after it (R11). -/
def commitMb (cause : Nat) (a : Agent) (m : Nat) (more : List Byte) (s : State) : State :=
  if mbInUse s m && codeIs (mbSender s m) a && !(getMb s m).full then
    let q := ((getMb s m).seq + 1) % 256
    let s := modMb m (fun x => { x with full := true, arrived := true, seq := q }) s
    signalAgent (mbReceiver s m) m (readData a (leBytes 4 (1 + 2 ^ 8 * q) ++ more) s)
  else mbRefuseAs cause a m (0x4008 + 0x10 * m) 0 0 s

/-- A write of MB_RELEASE (R316, R317). -/
def releaseMb (a : Agent) (m v : Nat) (s : State) : State :=
  if mbInUse s m && codeIs (mbReceiver s m) a then
    if bitOf v 0 && (getMb s m).full then
      signalAgent (mbSender s m) m (modMb m (fun x => { x with slot := [], full := false, emptied := true }) s)
    else s
  else mbRefuse a m (0x400C + 0x10 * m) 1 v s

/-- SENDER and RECEIVER as stored (Table 15.4). -/
def agentCode (v : Nat) : Nat := if v ≤ 0x21 then v else 0x3F

/-- A write of MB_CFG (R317). -/
def configMb (a : Agent) (m v : Nat) (s : State) : State :=
  match a, (getMb s m).full with
  | .host, false => modMb m (fun x => { x with sender := agentCode (v % 64), receiver := agentCode (v / 2 ^ 8 % 64) }) s
  | _, _ => mbRefuse a m (0x4000 + 0x10 * m) 1 v s

/-- A doorbell (R305). -/
def doorbell (n v : Nat) (s : State) : State :=
  let g := getRing s n
  let tail := v % 65536
  if !g.enable || decide ((tail + 65536 - g.head) % 65536 > 2 ^ g.log2) then modRing n (fun g => { g with overrun := true }) s
  else modRing n (fun g => { g with tail := tail }) s

/-- Whether BAR4 serves an offset now (R330, R334): in ROM mode MB63 only, in a warm reset the mailboxes only. -/
def bar4Serves (s : State) (off : Nat) : Bool :=
  if romMode s then decide ((0x3F00 ≤ off ∧ off < 0x4000) ∨ (0x43F0 ≤ off ∧ off < 0x4400))
  else if limited s then decide (off < 0x4400) else true

/-- A write of BAR4 that is discarded and logged (R304, R334). -/
def bar4Refuse (a : Agent) (off data : Nat) (s : State) : State :=
  match a with
  | .host => hostRecord 0x0803 none a off 1 0 data s
  | .core n => coreFaults n 7 (coreBar4 + off) (hostRecord 0x0803 none a off 1 4 data s)

/-- A write of one 32-bit register of BAR4 (R304, Table 15.3). A mailbox that no agent holds refuses every access but the host's write
of MB_CFG, which gives it its agents (R317; DEDUCED, log entry 43). -/
def bar4Word (a : Agent) (off v : Nat) (s : State) : State :=
  if off < 0x4400 then
    let m := (off - 0x4000) / 0x10
    if off % 0x10 = 0 then configMb a m v s
    else if !mbInUse s m then mbRefuse a m off 1 v s
    else if off % 0x10 = 4 then modMb m (fun x => { x with arrived := x.arrived && !bitOf v 1, emptied := x.emptied && !bitOf v 2 }) s
    else if off % 0x10 = 0xC then releaseMb a m v s
    else bar4Refuse a off v s
  else if inArray off 0x8000 0x10 16 && off % 0x10 == 0 then doorbell ((off - 0x8000) / 0x10) v s
  else bar4Refuse a off v s

/-- Whether an access of BAR4 reaches a byte that is assigned to something (Table 15.3). -/
def bar4Assigned (off size : Nat) : Bool :=
  (List.range (min size 4096)).any (fun i => decide (off + i < 0x4400) || (inArray (off + i) 0x8000 0x10 16 && decide ((off + i) % 0x10 < 8)))

/-- A write of BAR4 (R304, Table 15.3). One of 8 bytes reaches two 32-bit registers (R11). -/
def bar4Write (a : Agent) (off : Nat) (bs : List Byte) (s : State) : State :=
  let v := field bs 0 4
  if !bar4Serves s off then bar4Refuse a off v s
  else if off < 0x4000 then slotWrite a (off / 0x100) (off % 0x100) bs s
  else if bs.length = 4 ∧ off % 4 = 0 then bar4Word a off v s
  else if bs.length = 8 ∧ off % 8 = 0 then bar4Word a (off + 4) (field bs 4 4) (bar4Word a off v s)
  else if inArray off 0x4000 0x10 64 && !mbInUse s ((off - 0x4000) / 0x10) then mbRefuse a ((off - 0x4000) / 0x10) off 1 v s
  else if !bar4Assigned off bs.length then bar4Refuse a off v s
  else match a with
    | .host => hostRecord 0x0801 (some 4) a off 1 0 v s
    | .core n => coreFaults n 7 (coreBar4 + off) (hostRecord 0x0803 none a off 1 4 v s)

/-- What one 32-bit register of BAR4 other than MB_COMMIT reads as. -/
def bar4Value (s : State) (off : Nat) : Nat :=
  if off < 0x4400 then
    let x := getMb s ((off - 0x4000) / 0x10)
    if off % 0x10 = 0 then x.sender + 2 ^ 8 * x.receiver
    else if off % 0x10 = 4 then 1 * b2n x.full + 2 * b2n x.arrived + 4 * b2n x.emptied + 2 ^ 8 * x.seq + 2 ^ 16 * x.refused
    else 0
  else if inArray off 0x8000 0x10 16 then
    let g := getRing s ((off - 0x8000) / 0x10)
    if off % 0x10 = 0 then g.tail else if off % 0x10 = 4 then g.head + 2 ^ 16 * g.done else 0
  else 0

/-- A read of BAR4 other than MB_COMMIT (R304, R316): data, or none for a bus error. One of 8 bytes covers two 32-bit
registers (R11). Where nothing is assigned, every read returns 0. -/
def bar4Data (a : Agent) (off size : Nat) (s : State) : Option (List Byte) :=
  if !bar4Serves s off then none
  else if off < 0x4000 then
    let m := off / 0x100
    if mbInUse s m && codeIs (mbReceiver s m) a && (size == 4 || size == 8) && off % size == 0 then
      some (if (getMb s m).full then (List.range size).map (fun i => tget 0 (getMb s m).slot (off % 0x100 + i)) else zeros size)
    else none
  else if size = 4 ∧ off % 4 = 0 then some (leBytes 4 (bar4Value s off))
  else if size = 8 ∧ off % 8 = 0 then some (leBytes 4 (bar4Value s off) ++ leBytes 4 (bar4Value s (off + 4)))
  else if bar4Assigned off size then none else some (zeros size)

/-- Whether a read is of a register of a mailbox that no agent holds (R317). -/
def mbIdleRead (s : State) (off : Nat) : Bool := decide (0x4000 ≤ off ∧ off < 0x4400) && !mbInUse s ((off - 0x4000) / 0x10)

/-- A read of BAR4; `cause` is the exception of an application core whose access fails. A refused read of a mailbox is counted (R317). -/
def bar4ReadAs (cause : Nat) (a : Agent) (off size : Nat) (s : State) : State :=
  if bar4Serves s off && mbIdleRead s off then mbRefuseAs cause a ((off - 0x4000) / 0x10) off 0 0 s
  else if inArray off 0x4000 0x10 64 && off % 0x10 == 8 && (size == 4 || size == 8) && bar4Serves s off then
    commitMb cause a ((off - 0x4000) / 0x10) (zeros (size - 4)) s
  else match bar4Data a off size s with
    | some bs => readData a bs s
    | none =>
      if off < 0x4000 ∧ bar4Serves s off = true then mbRefuseAs cause a (off / 0x100) off 0 0 s
      else match a with
        | .host => completerAbort (hostRecord 0x0801 (some 4) a off 0 2 0 s)
        | .core n => coreFaults n cause (coreBar4 + off) s
def bar4Read : Agent → Nat → Nat → State → State := bar4ReadAs 5

/-- BAR2 requests refused are counted (GLB_AP_STS). -/
def countRefused (s : State) : State := { s with pcie := { s.pcie with refused := satAdd 0xFFFF s.pcie.refused 1 } }

/-- The device physical address of a BAR2 offset (R282). -/
def apAddr (s : State) (off : Nat) : Nat := s.pcie.apBase % 2 ^ 18 * 2 ^ 30 + off

/-- Whether every bank word and every tier address of a range may be read, or written: populated, and not refused by Table 10.1. -/
def mayAccess (s : State) (a len : Nat) (write : Bool) : Bool :=
  (List.range ((a % 64 + len + 63) / 64)).all (fun i =>
    let x := a / 64 * 64 + 64 * i
    if inWindow x then windowRule s ((x - 0x200000000000) / 0x80000) write == 0 else populated s x)

/-- A BAR2 read (R281, R284). One that is refused is logged; an uncorrectable one has the records of its memory (R385). -/
def readBar2 (off len : Nat) (s : State) : State :=
  let a := apAddr s off
  let abort := fun (s : State) => completerAbort (countRefused s)
  let refuse := fun (s : State) => abort (hostRecord 0x0801 (some 2) .host a 0 2 0 s)
  if limited s ∨ off + len > 0x1000000000 then refuse s
  else match spaceRead a (len / 64 + 2) len s with
    | (some bs, s) => emit (.completion bs) s
    | (none, t) => if mayAccess s a len false then abort t else refuse t

/-- A BAR2 write (R281, R284). One that is discarded only because its merge meets an uncorrectable codeword has the records of its memory
(R219). -/
def writeBar2 (off : Nat) (bs : List Byte) (s : State) : State :=
  let a := apAddr s off
  let drop := fun (s : State) => countRefused (hostRecord 0x0801 (some 2) .host a 1 0 (field bs 0 4) s)
  if limited s ∨ off + bs.length > 0x1000000000 then drop s
  else match spaceWrite a (bs.length / 64 + 2) bs s with
    | (true, s) => s
    | (false, t) => if mayAccess s a bs.length true then countRefused t else drop t

/-- A memory request of the host that no BAR decodes: Unsupported Request (PRESUMED, log entry 47). -/
def noBar (q : HostReq) (s : State) : State := unsupportedRequest (hostRecord 0x0801 none .host q.addr q.kind 1 q.data s)

/-- A BAR0 read by the host (R281). -/
def readBar0 (off len : Nat) (s : State) : State :=
  match bar0Read off len s with
  | (some bs, s) => emit (.completion bs) s
  | (none, s) => completerAbort (hostRecord 0x0801 (some 0) .host off 0 2 0 s)

/-- Where the host's reads stand in the operand of BAR2_READ: the aperture first, then BAR0, BAR4 and configuration space. -/
def readsBar0 : Nat := 0x1000000000
def readsBar4 : Nat := 0x2000000000
def readsCfg : Nat := 0x3000000000

/-- A read of the host, by the operand of BAR2_READ. -/
def readReq (off : Nat) (s : State) : HostReq :=
  if off < bar2Size then { bar := some 2, addr := apAddr s off, kind := 0, data := 0 }
  else if readsBar0 ≤ off ∧ off < readsBar0 + bar0Size then { bar := some 0, addr := off - readsBar0, kind := 0, data := 0 }
  else if readsBar4 ≤ off ∧ off < readsBar4 + bar4Size then { bar := some 4, addr := off - readsBar4, kind := 0, data := 0 }
  else { bar := none, addr := off, kind := 0, data := 0 }

/-- A memory read of the host (R281). -/
def hostLoad (off len : Nat) (s : State) : State :=
  if off < bar2Size then readBar2 off len s
  else if readsBar0 ≤ off ∧ off < readsBar0 + bar0Size then readBar0 (off - readsBar0) len s
  else if readsBar4 ≤ off ∧ off < readsBar4 + bar4Size then bar4Read .host (off - readsBar4) len s
  else noBar (readReq off s) s

/-- Where writes stand in the operand of REGISTER_WRITE: BAR0 first, then BAR4 and configuration space. -/
def writesBar4 : Nat := 0x100000000
def writesCfg : Nat := 0x200000000

/-- A write by the operand of REGISTER_WRITE, of BAR0 or of BAR4. -/
def writeReq (off v : Nat) : HostReq :=
  if off < bar0Size then { bar := some 0, addr := off, kind := 1, data := v }
  else if writesBar4 ≤ off ∧ off < writesBar4 + bar4Size then { bar := some 4, addr := off - writesBar4, kind := 1, data := v }
  else { bar := none, addr := off, kind := 1, data := v }
def bar0Req (off v : Nat) : HostReq := { bar := some 0, addr := off, kind := 1, data := v }
def bar4Req (off v : Nat) : HostReq := { bar := some 4, addr := off, kind := 1, data := v }

/-- A write of a register (R281); outside the two BARs no register stands. -/
def registerStore (a : Agent) (off size v : Nat) (s : State) : State :=
  if off < bar0Size then bar0Write a off size v s
  else if writesBar4 ≤ off ∧ off < writesBar4 + bar4Size then bar4Write a (off - writesBar4) (leBytes (min 8 size) v) s
  else match a with
    | .host => noBar (writeReq off v) s
    | .core n => coreFaults n 7 (coreBar0 + off) s

/-- The command of a ring meets an error of its host read: the one in progress, which `ends` (R290), or the one at HEAD, which then
cannot be read (R309). -/
def readFails (ring : Nat) (ends : CmdRef → State → State) (s : State) : State :=
  match s.flights.find? (fun x => x.ring == ring) with
  | some x =>
    let s := match x.kind with
      | .dump p => modPart p (fun q => { q with dump := q.dump.filter (fun d => d.ring != ring) }) s
      | _ => s
    ends (refOf x) s
  | none =>
    let g := getRing s ring
    if s.pwr.ready && decide (ring < 16) && g.enable && !g.loc && !g.busy && g.head != g.tail then
      unread ring (slotAddr ring s) s
    else s

/-- Whether a command of a ring is concerned by an error of a host read: one in progress, or the one at HEAD, whose packet is
read from host memory, or whose bulk input is. Other completions are of requests before a reset, and are discarded (R291). -/
def readConcerns (rd : DmaRead) (s : State) : Bool :=
  let g := getRing s rd.ring
  s.flights.any (fun x => x.ring == rd.ring) ||
    (s.pwr.ready && decide (rd.ring < 16) && g.enable && !g.busy && g.head != g.tail && (!g.loc || rd.bulk.isSome))

/-- An error of a device-initiated read (R290, Table 19.7). The command whose bulk input fails ends with its status; one whose
packet cannot be read, as R309 has it. -/
def dmaFails (engine : Nat) (rd : DmaRead) (addr : Nat) (st : Status) (s : State) : State :=
  if !readConcerns rd s then s
  else
    let (s, i) := logRec (mkRec s .deferred 0x0805 (some engine) none [(0, addr), (10, 0)]) s
    let ends := fun (r : CmdRef) (s : State) => finishRec r st i s
    match rd.bulk, s.flights.any (fun x => x.ring == rd.ring) with
    | some c, false =>
      let g := getRing s rd.ring
      ends { ring := rd.ring, slot := g.head % ringEntries rd.ring g, opcode := c.opcode, tag := c.tag, irq := c.irq }
        (modRing rd.ring (fun g => { g with head := (g.head + 1) % 65536, busy := true }) s)
    | _, _ => readFails rd.ring ends s

/-- The merged message of a vector (R286). -/
def mergedOp (v : Nat) (s : State) : State :=
  let x := tget {} s.msix.vecs v
  match x.merge, x.last with
  | true, some g =>
    let s := advanceGtc (g + 1000) s
    if msixHeld s v then
      { s with msix := { s.msix with vecs := tmod {} s.msix.vecs v (fun x => { x with merge := false, pendingBit := true }) } }
    else sendMsix v s
  | _, _ => s

/-- A mask of MSI-X clears (R286). -/
def unmaskOp (v : Option Nat) (s : State) : State :=
  flushMsix { s with msix := (match v with
    | some n => { s.msix with vecs := tmod {} s.msix.vecs n (fun x => { x with masked := false }) }
    | none => { s.msix with fnMask := false }) }

/-- RESULT of QUERY_INFO (Table 15.7). -/
def queryResult (s : State) (kind : Nat) : Nat :=
  if kind = 0 then
    glbId s + 2 ^ 32 * (s.sec.running.version % 2 ^ 32) + 2 ^ 64 * maskBy 16 (fun n => (getRing s n).enable) +
    2 ^ 80 * powerCode s.pwr.st + 2 ^ 88 * s.clk.curLevel
  else s.ident.fabId % 2 ^ 48 + 2 ^ 48 * s.clk.timeState + 2 ^ 56 * s.fab.hops

/-- A command packet over MCTP (R319, R320): queued, or answered at once. DESIGN CHOICE (log entry 50): the packet of a command that
takes no slot gives SLOT 0. -/
def mgmtCommand (op loc tag : Nat) (s : State) : State :=
  if s.mgmt.length ≥ 4 then
    emit (.status { opcode := op, status := .busy, tag := tag, phase := (getRing s 16).phase, ring := 16, slot := 0, gtc := s.clk.gtc, result := 0, record := noRec }) s
  else { s with mgmt := s.mgmt ++ [{ opcode := op, loc := loc, tag := tag }] }

/-- A BAR0 read over MCTP (R319, R320). In AUX only the power and reset block and the error log are read. -/
def mgmtRead (off width : Nat) (s : State) : State :=
  if s.pwr.st = .aux && !decide ((0x200000 ≤ off ∧ off < 0x20001C) ∨ (0x3C00000 ≤ off ∧ off < 0x3C30000)) then s
  else match bar0Read off width s with
    | (some bs, s) => emit (.vdmData (BitVec.ofNat 64 (leNat bs))) s
    | (none, s) => emit (.mctpAnswer 0x7E false []) s

/-- One more dropped packet, or unsupported command, of the management path (R392). -/
def countMctp (s : State) : State := { s with log := { s.log with peerMctp := satAdd 0xFFFF s.log.peerMctp 1 } }

/-- MCTP control (R319): 0x01 Set Endpoint ID, 0x02 Get Endpoint ID, 0x03 UUID, 0x04 version 1.3, 0x05 message types. PRESUMED (log
entry 50): the command numbers and the data are those of DSP0236. -/
def mctpOp (command eid : Nat) (s : State) : State :=
  let say := fun (bs : List Byte) (s : State) => emit (.mctpAnswer command true bs) s
  if command = 0 ∨ command > 5 then emit (.mctpAnswer command false []) (countMctp s)
  else if command = 1 then
    if eid = 0 ∨ eid ≥ 0xFF then emit (.mctpAnswer 1 false []) s
    else say [0, BitVec.ofNat 8 eid, 0] { s with board := { s.board with eid := eid } }
  else if command = 2 then say [BitVec.ofNat 8 s.board.eid, 0, 0] s
  else if command = 3 then say Config.uuid s
  else if command = 4 then say [1, 0xF1, 0xF3, 0xF0, 0] s
  else say [3, 0x01, 0x05, 0x7E] s

/-- PLDM Type 0 (Table 15.8): 0x01 SetTID, 0x02 GetTID, 0x03 GetPLDMVersion, 0x04 GetPLDMTypes, 0x05 GetPLDMCommands. PRESUMED (log
entry 50): the numbers and the data are those of DSP0240. The version of Type 0 and the lists of commands are not given: free
values. -/
def pldmBase (command value : Nat) (s : State) : State :=
  let say := fun (bs : List Byte) (s : State) => emit (.pldmBase command bs) s
  if command = 1 then say [] { s with board := { s.board with tid := value % 256 } }
  else if command = 2 then say [BitVec.ofNat 8 s.board.tid] s
  else if command = 3 ∧ value = 2 then say [0xF1, 0xF2, 0xF0, 0] s
  else if command = 3 ∧ value = 5 then say [0xF1, 0xF1, 0xF0, 0] s
  else if command = 3 ∧ value = 0 then let (bs, s) := freeBytes 4 s; say bs s
  else if command = 4 then say [0x25, 0, 0, 0, 0, 0, 0, 0] s
  else if command = 5 ∧ (value = 0 ∨ value = 2 ∨ value = 5) then let (bs, s) := freeBytes 32 s; say bs s
  else emit (.pldmStatus false false) (countMctp s)

/-- A PLDM monitoring request (R321, Table 15.9). Temperatures and voltages are not the model's. -/
def monitorOp (x : Sensor) (s : State) : State :=
  let measured := fun (id : Nat) => emit (.pldmValue (Config.sensor id s.free)) { s with free := s.free + 1 }
  let bad := emit (.pldmStatus false false) (countMctp s)
  match x with
  | .numeric id =>
    if id = 3 then emit (.pldmValue s.pwr.mainW) s
    else if id = 5 then emit (.pldmValue s.pwr.auxW) s
    else if 0x30 ≤ id ∧ id ≤ 0x33 then emit (.pldmValue (getLaser s (id - 0x30)).outPwr.toNat) s
    else if id = 1 ∨ id = 2 ∨ id = 4 ∨ id = 0x10 ∨ id = 0x11 ∨ id = 0x12 ∨ (0x20 ≤ id ∧ id ≤ 0x2F) then measured id
    else bad
  | .power => emit (.pldmValue (powerCode s.pwr.st)) s
  | .base c v => pldmBase c v s
  | .partition p => if p < 4 then emit (.pldmValue (partCode (getPart s p).st)) s else bad

/-- A load from the interrupt controller's range: pending bits, a claim, or what was stored. -/
def plicLoad (o : Nat) (s : State) : Nat × State :=
  if inArray o 0x1000 4 3 then (maskBy 32 (fun i => plicPending s ((o - 0x1000) / 4 * 32 + i)), s)
  else if inArray o 0x200000 0x1000 64 && o % 0x1000 == 4 then plicClaim ((o - 0x200000) / 0x1000) s
  else (plicWord s o, s)

/-- The values that the device description block shows (Table 14.6): GLB_ID, the fence map, tier sizes and device states. -/
def blockOf (s : State) : List Nat :=
  glbId s :: (List.range 28).flatMap (fun u => [(getDev s u).cap, (getDev s u).st]) ++ s.fence

/-- A load or an instruction fetch by an application core (R294, Table 14.6); `cause` is the exception of an access fault. -/
def coreLoad (n cause addr size : Nat) (s : State) : State :=
  let bad := coreFaults n cause addr s
  let word := (size == 4 || size == 8) && addr % size == 0
  if size = 0 then bad
  else if addr < 0x300000000000 then
    match spaceRead addr (size / 64 + 2) size s with
    | (some bs, s) => emit (.coreData n bs) s
    | (none, s) => coreFaults n cause addr s
  else if addr < 0x300004000000 then
    match bar0Read (addr - coreBar0) size s with
    | (some bs, s) => emit (.coreData n bs) s
    | (none, s) => coreFaults n cause addr s
  else if 0x300100000000 ≤ addr ∧ addr < 0x300100100000 then bar4ReadAs cause (.core n) (addr - coreBar4) size s
  else if 0x380000000000 ≤ addr ∧ addr < 0x380004000000 then
    if size = 4 ∧ addr % 4 = 0 then
      let (v, s) := plicLoad (addr - 0x380000000000) s
      emit (.coreData n (leBytes 4 v)) s
    else bad
  else if 0x380400000000 ≤ addr ∧ addr < 0x380400010000 then
    let o := addr - 0x380400000000
    if !word then bad
    else if 0xBFF8 ≤ o ∧ o < 0xC000 then emit (.coreData n (leBytes size (s.clk.gtc / 2 ^ (8 * (o % 8))))) s
    else emit (.coreData n (leBytes size (timerWord s o))) s
  else if 0x380800000000 ≤ addr ∧ addr + size ≤ 0x380800010000 then
    emit (.coreData n ((List.range size).map (fun i => Config.deviceBlock s.app.block (addr - 0x380800000000 + i)))) s
  else bad

/-- A store by an application core (R294, R295, Table 14.6). -/
def coreStore (n addr : Nat) (bs : List Byte) (s : State) : State :=
  let fault := coreFaults n 7 addr
  let size := bs.length
  let word := (size == 4 || size == 8) && addr % size == 0
  if size = 0 then fault s
  else if inWindow addr || decide (addr < 0x200000000000 ∧ populated s addr = true ∧ populated s (addr + size - 1) = true) then
    match spaceWrite addr (size / 64 + 2) bs s with
    | (true, s) => endReserve (addr / 64) s
    | (false, s) => fault s
  else if 0x300000000000 ≤ addr ∧ addr < 0x300004000000 then bar0Write (.core n) (addr - coreBar0) size (leNat bs) s
  else if 0x300100000000 ≤ addr ∧ addr < 0x300100100000 then bar4Write (.core n) (addr - coreBar4) bs s
  else if 0x380000000000 ≤ addr ∧ addr < 0x380004000000 then
    let o := addr - 0x380000000000
    if size ≠ 4 ∨ addr % 4 ≠ 0 then fault s
    else if inArray o 0x1000 4 32 then s
    else if inArray o 0x200000 0x1000 64 && o % 0x1000 == 4 then plicComplete ((o - 0x200000) / 0x1000) (leNat bs) s
    else { s with app := { s.app with plicMem := tset 0 s.app.plicMem (o / 4) (BitVec.ofNat 32 (leNat bs)) } }
  else if 0x380400000000 ≤ addr ∧ addr < 0x380400010000 then
    let o := addr - 0x380400000000
    if !word then fault s
    else if 0xBFF8 ≤ o ∧ o < 0xC000 then s
    else
      let t := tset 0 s.app.timerMem (o / 4) (BitVec.ofNat 32 (leNat bs))
      { s with app := { s.app with timerMem := if size = 8 then tset 0 t (o / 4 + 1) (BitVec.ofNat 32 (leNat bs / 2 ^ 32)) else t } }
  else if 0x380800000000 ≤ addr ∧ addr < 0x380800010000 then fault s
  else fault (unpopulated windowWho addr s)

/-- Whether an AMO, an LR or an SC may reach an address: they do in the cacheable ranges only (R294). -/
def atomicOk (addr size : Nat) (s : State) : Bool :=
  (size == 4 || size == 8) && addr % size == 0 && decide (addr < 0x200000000000) && populated s addr

/-- An AMO by an application core (R294): the old value is read, and what the operation makes of it is stored. -/
def coreAmo (n addr : Nat) (op : AmoOp) (size : Nat) (v : W64) (s : State) : State :=
  if atomicOk addr size s then
    match spaceRead addr 2 size s with
    | (some old, s) =>
      emit (.coreData n old) (endReserve (addr / 64)
        (spaceWrite addr 2 (leBytes size (amoValue op size (BitVec.ofNat 64 (leNat old)) v).toNat) s).2)
    | (none, s) => coreFaults n 7 addr s
  else coreFaults n 7 addr s

/-- LR (R294): the value is read, and its line reserved. Where it may reach the address, a bus error is that of a load. -/
def coreLr (n addr size : Nat) (s : State) : State :=
  if atomicOk addr size s then
    match spaceRead addr 2 size s with
    | (some old, s) => emit (.coreData n old) (modCore n (fun c => { c with reserve := some (addr / 64) }) s)
    | (none, s) => coreFaults n 5 addr s
  else coreFaults n 7 addr s

/-- SC (R294): the store is made only while the reservation holds; `ok`: no write of another agent has ended it. The answer is 0 for
a store that was made, and 1 otherwise. The core holds no reservation afterwards. -/
def coreSc (n addr : Nat) (bs : List Byte) (ok : Bool) (s : State) : State :=
  if atomicOk addr bs.length s then
    let s1 := modCore n (fun c => { c with reserve := none }) s
    if ok && (getCore s n).reserve == some (addr / 64) then
      match spaceWrite addr 2 bs s1 with
      | (true, s) => emit (.coreData n [0]) (endReserve (addr / 64) s)
      | (false, s) => coreFaults n 7 addr s
    else emit (.coreData n [1]) s1
  else coreFaults n 7 addr s

/-- The cores of a mask. -/
def coresIn (mask : Nat) : List Nat := (List.range 32).filter (bitOf mask)

/-- APP_CORES_BOOT after the tests of R310 (R299, R355). -/
def bootOp (r : CmdRef) (addr size entry mask fails : Nat) (s : State) : State :=
  if (coresIn mask).any (coreUp s) then finish r .busy 0 noRec s
  else if s.sec.st ≠ .operational then finishErr r .fault 0 0 0 s
  else match spaceRead addr (size / 64 + 2) size s with
    | (none, t) => finishRec r .fault (firstBad s t) t
    | (some bs, s) =>
      let blk := bs.drop (size - 208)
      let has := decide (size ≥ 208) && field blk 0 4 == 0x4749535A
      let k := custOutcome s s.sec.reqApp (if has then some blk else none) (bs.take (size - 208))
      if k ≠ 0 then
        let (i, s) := rejectImage k 2 0x80 r.ring s
        finish r .signatureRejected 0 i s
      else
        let go := (coresIn mask).filter (fun n => !bitOf fails n)
        let s := { s with
          app := { s.app with cores := go.foldl (fun t n => tset {} t n {
            st := 1, pc := BitVec.ofNat 64 (addr + entry), xs := tset 0 (tset 0 [] 10 (BitVec.ofNat 64 n)) 11 0x380800000000 }) s.app.cores, block := blockOf s }
          sec := { s.sec with appDigest := Config.sha384 bs } }
        match (coresIn mask).find? (bitOf fails) with
        | some n => finishErr r .fault 10 n 0 s
        | none => finishOk r (maskBy 32 (coreUp s)) s

/-- QUERY_INFO (R311). -/
def execQueryInfo (h : CmdHdr) (kind : Nat) (s : State) : Host.Outcome State Fault Refusal :=
  .next (command h { op := 0x01, fields := [(8, 1, kind)], active := false, params := decide (kind ≤ 1) } (fun r s => finishOk r (queryResult s kind) s) s)

/-- APP_CORES_BOOT (R299). -/
def execAppCoresBoot (h : CmdHdr) (addr size entry mask : Nat) (selfTestFails : Nat) (s : State) : Host.Outcome State Fault Refusal :=
  .next (command h {
    op := 0x80, fields := [(16, 8, addr), (24, 4, size), (28, 4, entry), (32, 4, mask)], modFatal := true
    params := decide (1 ≤ mask ∧ mask < 2 ^ 32 ∧ 1 ≤ size ∧ addr + size ≤ 0x200000000000) && bulkOk s 1 addr size
    claims := (coresIn mask).map .core } (fun r s => bootOp r addr size entry mask selfTestFails s) s)

/-- CR_DB (R305). -/
def execCrDb (a : Agent) (ring : Fin 16) (value : W32) (s : State) : Host.Outcome State Fault Refusal :=
  .next (agentRequest a (bar4Req (0x8000 + 0x10 * ring) value.toNat) (bar4Write a (0x8000 + 0x10 * ring) (leBytes 4 value.toNat)) s)

/-- CR_CFG (R303). -/
def execCrCfg (a : Agent) (ring : Fin 16) (value : W32) (s : State) : Host.Outcome State Fault Refusal :=
  .next (agentRequest a (bar0Req (0x400010 + 0x20 * ring) value.toNat) (bar0Write a (0x400010 + 0x20 * ring) 4 value.toNat) s)

/-- MB_SLOT_WRITE (R316). -/
def execMbSlotWrite (a : Agent) (m : Fin 64) (off : Nat) (bytes : List Byte) (s : State) : Host.Outcome State Fault Refusal :=
  .next (agentRequest a (bar4Req (0x100 * m + off % 0x100) (field bytes 0 4)) (bar4Write a (0x100 * m + off % 0x100) bytes) s)

/-- MB_COMMIT (R316). -/
def execMbCommit (a : Agent) (m : Fin 64) (s : State) : Host.Outcome State Fault Refusal :=
  .next (agentRequest a { bar := some 4, addr := 0x4008 + 0x10 * m, kind := 0, data := 0 } (bar4Read a (0x4008 + 0x10 * m) 4) s)

/-- MB_RELEASE (R316). -/
def execMbRelease (a : Agent) (m : Fin 64) (value : W32) (s : State) : Host.Outcome State Fault Refusal :=
  .next (agentRequest a (bar4Req (0x400C + 0x10 * m) value.toNat) (bar4Write a (0x400C + 0x10 * m) (leBytes 4 value.toNat)) s)

/-- MB_CFG (R317). -/
def execMbCfg (a : Agent) (m : Fin 64) (value : W32) (s : State) : Host.Outcome State Fault Refusal :=
  .next (agentRequest a (bar4Req (0x4000 + 0x10 * m) value.toNat) (bar4Write a (0x4000 + 0x10 * m) (leBytes 4 value.toNat)) s)

/-- GLB_PART_MAP (R26). -/
def execGlbPartMap (a : Agent) (value : W32) (s : State) : Host.Outcome State Fault Refusal :=
  .next (announce s (agentRequest a (bar0Req 0x40 value.toNat) (bar0Write a 0x40 4 value.toNat) s))

/-- GLB_AP_BASE (R283). -/
def execGlbApBase (a : Agent) (value : W64) (s : State) : Host.Outcome State Fault Refusal :=
  .next (agentRequest a (bar0Req 0x100 value.toNat) (bar0Write a 0x100 8 value.toNat) s)

/-- GLB_APP_CTL (R300). -/
def execGlbAppCtl (a : Agent) (value : W32) (s : State) : Host.Outcome State Fault Refusal :=
  .next (agentRequest a (bar0Req 0x200 value.toNat) (bar0Write a 0x200 4 value.toNat) s)

/-- GLB_APP_IRQ (R300). -/
def execGlbAppIrq (a : Agent) (value : W32) (s : State) : Host.Outcome State Fault Refusal :=
  .next (agentRequest a (bar0Req 0x210 value.toNat) (bar0Write a 0x210 4 value.toNat) s)

/-- GLB_FLAG (R173). -/
def execGlbFlag (a : Agent) (p : Fin 4) (f : Fin 64) (value : W32) (s : State) : Host.Outcome State Fault Refusal :=
  .next (agentRequest a (bar0Req (0x1000 + 0x100 * p + 4 * f) value.toNat) (bar0Write a (0x1000 + 0x100 * p + 4 * f) 4 value.toNat) s)

/-- ERR_STS (R389). -/
def execErrSts (a : Agent) (value : W32) (s : State) : Host.Outcome State Fault Refusal :=
  .next (agentRequest a (bar0Req 0x3C00008 value.toNat) (bar0Write a 0x3C00008 4 value.toNat) s)

/-- ARR_NUM (R113). -/
def execArrNum (a : Agent) (b : Fin 32) (pos : Fin 128) (value : W32) (s : State) : Host.Outcome State Fault Refusal :=
  .next (agentRequest a (bar0Req (0x1010008 + 0x80000 * b + 0x10 * pos) value.toNat) (bar0Write a (0x1010008 + 0x80000 * b + 0x10 * pos) 4 value.toNat) s)

/-- D3HOT (R292). What was to be sent to the host meanwhile goes out on return to D0, and then the messages whose pending bits were
set. -/
def execD3hot (enter : Bool) (s : State) : Host.Outcome State Fault Refusal :=
  .next (if endpointUp s then
    (let s := { s with pcie := { s.pcie with d3hot := enter } }
     if enter then s else flushMsix (flushHeld s)) else s)

/-- MSIX_UNMASK (R286). The vectors' masks, in BAR0, are out of reach while the function decodes no memory request (R292). -/
def execMsixUnmask (vector : Option (Fin 256)) (s : State) : Host.Outcome State Fault Refusal :=
  .next (if !endpointUp s || (!memoryOn s && vector.isSome) then s else unmaskOp (vector.map (·.val)) s)

/-- REGISTER_WRITE (R13). A configuration write of the host is taken in D3hot too (R292). -/
def execRegisterWrite (a : Agent) (off size : Nat) (value : W64) (s : State) : Host.Outcome State Fault Refusal :=
  .next (announce s (if a = .host ∧ writesCfg ≤ off then
      cfgRequest (cfgWrite (off - writesCfg) size value.toNat) s
    else agentRequest a (writeReq off value.toNat) (registerStore a off size value.toNat) s))

/-- BAR2_READ (R284), and the host's other reads (R281). A configuration read is answered in D3hot too (R292). -/
def execBar2Read (off len : Nat) (s : State) : Host.Outcome State Fault Refusal :=
  .next (if readsCfg ≤ off then
      cfgRequest (fun s => emit (.completion (cfgRead (off - readsCfg) len s)) s) s
    else hostRequest (readReq off s) (hostLoad off len) s)

/-- BAR2_WRITE (R284). -/
def execBar2Write (off : Nat) (bytes : List Byte) (s : State) : Host.Outcome State Fault Refusal :=
  .next (hostRequest { bar := some 2, addr := apAddr s off, kind := 1, data := field bytes 0 4 } (writeBar2 off bytes) s)

/-- UNSUPPORTED_REQUEST (R281). -/
def execUnsupportedRequest (requester addr : Nat) (s : State) : Host.Outcome State Fault Refusal :=
  .next (if endpointUp s then
    unsupportedRequest (logDeferred 0x0801 none none [(0, addr), (8, requester % 65536), (10, 2), (11, 1)] s) else s)

/-- MALFORMED_TLP (R281). -/
def execMalformedTlp (requester addr : Nat) (s : State) : Host.Outcome State Fault Refusal :=
  .next (if endpointUp s then
    logDeferred 0x0802 none none [(0, addr), (8, requester % 65536), (10, 2)] (aerError 18 s) else s)

/-- POISONED_WRITE (R281). -/
def execPoisonedWrite (requester bar addr : Nat) (first4 : W32) (s : State) : Host.Outcome State Fault Refusal :=
  .next (if endpointUp s then
    (let s := if bar = 2 then countRefused s else s
    logDeferred 0x0801 (some bar) none [(0, addr), (8, requester % 65536), (10, 1), (12, first4.toNat)] (aerError 12 s)) else s)

/-- UNEXPECTED_COMPLETION (R392). -/
def execUnexpectedCompletion (requester : Nat) (s : State) : Host.Outcome State Fault Refusal :=
  .next (if endpointUp s then
    logDeferred 0x0802 none none [(8, requester % 65536), (10, 2)] (aerError 16 s) else s)

/-- DMA_ERROR (R290). -/
def execDmaError (engine : Fin 8) (rd : DmaRead) (hostAddr : Nat) (s : State) : Host.Outcome State Fault Refusal :=
  .next (if endpointUp s then dmaFails engine rd hostAddr .fault s else s)

/-- COMPLETION_TIMEOUT (R290). -/
def execCompletionTimeout (engine : Fin 8) (rd : DmaRead) (hostAddr : Nat) (s : State) : Host.Outcome State Fault Refusal :=
  .next (if endpointUp s && readConcerns rd s then
    dmaFails engine rd hostAddr .timeout (aerError 14 s) else s)

/-- DOE_OBJECT (R277). -/
def execDoeObject (typ : DoeType) (len : Nat) (whileBusy : Bool) (s : State) : Host.Outcome State Fault Refusal :=
  .next (if endpointUp s && fnReady s then doeOp typ.typ typ.index len whileBusy s else s)

/-- MERGED_MESSAGE (R286). -/
def execMergedMessage (vector : Fin 256) (s : State) : Host.Outcome State Fault Refusal := .next (mergedOp vector s)

/-- APPLICATION_CORE_ACCESS (R294). -/
def execApplicationCoreAccess (core : Fin 32) (addr : Nat) (op : CoreOp) (s : State) : Host.Outcome State Fault Refusal :=
  .next (if coreRuns s core then
    (let s := wakeCore core s
    match op with
    | .load size => coreLoad core 5 addr size s
    | .store bytes => coreStore core addr bytes s
    | .amo op size v => coreAmo core addr op size v s
    | .fetch size => coreLoad core 1 addr size s
    | .lr size => coreLr core addr size s
    | .sc bytes ok => coreSc core addr bytes ok s
    | .retire w => modCore core (coreRetire w) s
    | .wfi => coreWfi core s
    | .interrupt => coreInterrupt core s) else s)

/-- PCIE_LINK_RETRAIN (R300), to a rate and a width of Table 14.1; FLIT mode is always on from 64.0 GT/s on (R277). -/
def execPcieLinkRetrain (rate width : Nat) (flit : Bool) (s : State) : Host.Outcome State Fault Refusal :=
  .next (if endpointUp s && decide (rate ≤ 6) && [1, 2, 4, 8].contains width then { s with pcie := { s.pcie with
    rate := rate, width := width, flit := flit || decide (rate ≥ 5), retrains := satAdd 0xFFFF s.pcie.retrains 1 } } else s)

/-- MCTP_CONTROL (R319). -/
def execMctpControl (command : Nat) (eid : MctpEid) (s : State) : Host.Outcome State Fault Refusal :=
  .next (if busUp s eid.bus then mctpOp command eid.eid s else s)

/-- MCTP_BAD_PACKET (R392). -/
def execMctpBadPacket (s : State) : Host.Outcome State Fault Refusal := .next (countMctp s)

/-- VDM_COMMAND_PACKET (R320). -/
def execVdmCommandPacket (opcode loc : Nat) (tag : MctpTag) (s : State) : Host.Outcome State Fault Refusal :=
  .next (if busUp s tag.bus then mgmtCommand opcode loc tag.tag s else s)

/-- VDM_BAR0_READ (R320). -/
def execVdmBar0Read (off : Nat) (width : MctpWidth) (s : State) : Host.Outcome State Fault Refusal :=
  .next (if busUp s width.bus then mgmtRead off width.width s else s)

/-- PLDM_MONITORING (R321). -/
def execPldmMonitoring (query : PldmQuery) (s : State) : Host.Outcome State Fault Refusal :=
  .next (if busUp s query.bus then monitorOp query.sensor s else s)

end Sys2Proof.Machine
end

