-- ==== Sys2Proof/Machine/Board.lean ====
section
/-! DEFINITION. Indicators and the test port of the board (chapter 21 of spec/). -/

namespace Sys2Proof.Machine

/-- STATUS of the front panel (Table 21.1). -/
inductive Lamp where
  | amber | amberBlink | greenBlink | green | off
  deriving DecidableEq, Repr
def lampOf (s : State) : Lamp :=
  if s.log.modFatal || s.sec.st == .error || s.sec.st == .zeroised then .amber
  else if s.pwr.stage = .backoff ∨ s.pwr.stage = .recovery then .amberBlink
  else if s.pwr.stage = .rails ∨ s.pwr.stage = .rom ∨ s.pwr.stage = .flomorInit then .greenBlink
  else if s.pwr.ready then .green
  else .off

/-- SMBALERT# is low (Table 21.5). -/
def alertLow (s : State) : Bool := s.log.modFatal || s.sec.tamper

/-- The indicator of a DIMM socket is lit: the channel is OFFLINE, its supplies off (R409, R231). -/
def dimmLamp (s : State) (c : Nat) : Bool := (getDev s (16 + c)).st = 3

/-- PWR_ALERT# is low (Table 21.2): the mean of the last window of main input power is above 3,400 W. -/
def pwrAlertLow (s : State) : Bool := decide (s.pwr.mainW > 3400)

/-- CLKREQ# is low (Table 21.4): from READY on. -/
def clkreqLow (s : State) : Bool := s.pwr.ready

/-- Indicator of a laser bay (Table 21.6). -/
inductive BayLamp where
  | blue | blueBlink | amber | off
  deriving DecidableEq, Repr
def bayLamp (s : State) (n : Nat) : BayLamp :=
  match (getLaser s n).st with
  | 4 => .blue
  | 3 => .blueBlink
  | 2 | 5 => .amber
  | _ => .off

/-- IDCODE (R406): the stepping, 0x5A04, the manufacturer code, and a one. -/
def idcode (s : State) : Nat := (b2n s.ident.b0 * 2 ^ 16 + 0x5A04) * 2 ^ 12 + 2 * Config.maker.toNat + 1

/-- The I/O die pins of J2 and J3 that the boundary-scan chain covers (R406, Tables 21.4 and 21.5). -/
inductive ScanPin where
  | pet (lane : Nat) (neg : Bool)
  | per (lane : Nat) (neg : Bool)
  | refclk (neg : Bool)
  | perst | clkreq | smbclk | smbdat | smbalert | ident
  deriving DecidableEq, Repr

/-- The chain. DESIGN CHOICE (log entry 51): its order, which the BSDL file gives, is that of Tables 21.4 and 21.5. -/
def chainPins : List ScanPin :=
  (List.range 8).flatMap (fun i => [.pet i false, .pet i true, .per i false, .per i true]) ++
  [.refclk false, .refclk true, .perst, .clkreq, .smbclk, .smbdat, .smbalert, .ident]

/-- The level of a pin, where the model knows it. -/
def pinLevel (s : State) : ScanPin → Option Bool
  | .perst => some (!s.pcie.perst)
  | .clkreq => some (!clkreqLow s)
  | .smbalert => some (!alertLow s)
  | _ => none

/-- What the register that an instruction selects holds: the IDCODE, a 0 for BYPASS, the levels of the chain's pins; those that nothing in
the model drives are free. -/
def scanData (i : Jtag) (s : State) : List Bool × State :=
  match i with
  | .idcode => ((List.range 32).map (bitOf (idcode s)), s)
  | .bypass => ([false], s)
  | .samplePreload | .extest =>
    let (v, s) := takeFree s
    (chainPins.zipWith (fun p k => (pinLevel s p).getD (bitOf v.toNat k)) (List.range chainPins.length), s)

/-- The instruction that the TAP loads (R406). -/
def tapLoads (s : State) (i : Jtag) : Jtag :=
  match i with
  | .bypass => .bypass
  | .idcode => .idcode
  | .samplePreload => if s.pcie.perst then .samplePreload else .bypass
  | .extest => if s.pcie.perst then .extest else .bypass

/-- IDENT (R405): IDENT# held low for 1 s toggles IDENTIFY. -/
def execIdent (s : State) : Host.Outcome State Fault Refusal :=
  .next { s with board := { s.board with identify := !s.board.identify } }

/-- PLDM_IDENTIFY (R398). -/
def execPldmIdentify (on : PldmFlag) (s : State) : Host.Outcome State Fault Refusal :=
  .next (if busUp s on.bus then { s with board := { s.board with identify := on.on } } else s)

/-- BOUNDARY_SCAN_INSTRUCTION (R406). -/
def execBoundaryScanInstruction (i : Jtag) (s : State) : Host.Outcome State Fault Refusal :=
  .next (
    let j := tapLoads s i
    let (bits, s) := scanData j { s with board := { s.board with jtag := j } }
    emit (.boundary j bits) s)

end Sys2Proof.Machine
end

