-- ==== Sys2Proof/Machine/Dispatch.lean ====
section
/-! DEFINITION. What each command and event of the ZX4 does: one arm per row of spec/opcode_table.json. -/

namespace Sys2Proof.Machine

/-- The effect of a command or event on everything but the queue. -/
def exec (i : Instr) (s : State) : Host.Outcome State Fault Refusal :=
  match i with
  | .queryInfo h kind => Sys2Proof.Machine.execQueryInfo h kind s
  | .setPowerState h goal => Sys2Proof.Machine.execSetPowerState h goal s
  | .setFreqLevel h level => Sys2Proof.Machine.execSetFreqLevel h level s
  | .loadMaquette h part loc addr size img => Sys2Proof.Machine.execLoadMaquette h part loc addr size img s
  | .bind h part loc explicit table report => Sys2Proof.Machine.execBind h part loc explicit table report s
  | .start h part jobSeed atMcc => Sys2Proof.Machine.execStart h part jobSeed atMcc s
  | .startAccepted p => Sys2Proof.Machine.execStartAccepted p s
  | .startDrainTimeout p => Sys2Proof.Machine.execStartDrainTimeout p s
  | .armatureLeaveReset t p => Sys2Proof.Machine.execArmatureLeaveReset t p s
  | .startCountReached t p => Sys2Proof.Machine.execStartCountReached t p s
  | .hold h part => Sys2Proof.Machine.execHold h part s
  | .pauseAtBoundary t p => Sys2Proof.Machine.execPauseAtBoundary t p s
  | .resume h part => Sys2Proof.Machine.execResume h part s
  | .resumeAtBoundary t p => Sys2Proof.Machine.execResumeAtBoundary t p s
  | .cast h part atGtc => Sys2Proof.Machine.execCast h part atGtc s
  | .castAtBoundary t p => Sys2Proof.Machine.execCastAtBoundary t p s
  | .abort h part => Sys2Proof.Machine.execAbort h part s
  | .partitionDone t p unfinished => Sys2Proof.Machine.execPartitionDone t p unfinished s
  | .migrationUnitCopy p handle => Sys2Proof.Machine.execMigrationUnitCopy p handle s
  | .regionMapQuery h part handle => Sys2Proof.Machine.execRegionMapQuery h part handle s
  | .regionMapPin h part handle => Sys2Proof.Machine.execRegionMapPin h part handle s
  | .regionMapUnpin h part handle => Sys2Proof.Machine.execRegionMapUnpin h part handle s
  | .regionMapAttach h part handle srcPart srcHandle => Sys2Proof.Machine.execRegionMapAttach h part handle srcPart srcHandle s
  | .regionMigrate h part handle tier device => Sys2Proof.Machine.execRegionMigrate h part handle tier device s
  | .linkTrain h link => Sys2Proof.Machine.execLinkTrain h link s
  | .linkRecal h link => Sys2Proof.Machine.execLinkRecal h link s
  | .linkDrain h link => Sys2Proof.Machine.execLinkDrain h link s
  | .channelOpen h chan => Sys2Proof.Machine.execChannelOpen h chan s
  | .channelClose h chan => Sys2Proof.Machine.execChannelClose h chan s
  | .fwUpdate h loc addr size img flashOk => Sys2Proof.Machine.execFwUpdate h loc addr size img flashOk s
  | .fwActivateLiveHandover h accepts => Sys2Proof.Machine.execFwActivateLiveHandover h accepts s
  | .fwActivateAtWarmReset h => Sys2Proof.Machine.execFwActivateAtWarmReset h s
  | .dumpTensor h part loc point step addr len => Sys2Proof.Machine.execDumpTensor h part loc point step addr len s
  | .dumpCopyComplete p => Sys2Proof.Machine.execDumpCopyComplete p s
  | .digestTapArm h part loc tap addr entries => Sys2Proof.Machine.execDigestTapArm h part loc tap addr entries s
  | .digestTapDisarm h part loc tap => Sys2Proof.Machine.execDigestTapDisarm h part loc tap s
  | .fenceCell h cell => Sys2Proof.Machine.execFenceCell h cell s
  | .fenceAtBoundary t p => Sys2Proof.Machine.execFenceAtBoundary t p s
  | .unfenceCell h cell pass => Sys2Proof.Machine.execUnfenceCell h cell pass s
  | .routerSelfTest b pass => Sys2Proof.Machine.execRouterSelfTest b pass s
  | .appCoresBoot h addr size entry mask selfTestFails => Sys2Proof.Machine.execAppCoresBoot h addr size entry mask selfTestFails s
  | .dimmOffline h chan => Sys2Proof.Machine.execDimmOffline h chan s
  | .dimmOnline h chan found => Sys2Proof.Machine.execDimmOnline h chan found s
  | .stackRetrain h stack ok => Sys2Proof.Machine.execStackRetrain h stack ok s
  | .laserOffline h n => Sys2Proof.Machine.execLaserOffline h n s
  | .laserOnline h n recognised => Sys2Proof.Machine.execLaserOnline h n recognised s
  | .warmReset failing => Sys2Proof.Machine.execWarmReset failing s
  | .crDb a ring value => Sys2Proof.Machine.execCrDb a ring value s
  | .crCfg a ring value => Sys2Proof.Machine.execCrCfg a ring value s
  | .mbSlotWrite a m off bytes => Sys2Proof.Machine.execMbSlotWrite a m off bytes s
  | .mbCommit a m => Sys2Proof.Machine.execMbCommit a m s
  | .mbRelease a m value => Sys2Proof.Machine.execMbRelease a m value s
  | .mbCfg a m value => Sys2Proof.Machine.execMbCfg a m value s
  | .glbPartMap a value => Sys2Proof.Machine.execGlbPartMap a value s
  | .glbApBase a value => Sys2Proof.Machine.execGlbApBase a value s
  | .glbAppCtl a value => Sys2Proof.Machine.execGlbAppCtl a value s
  | .glbAppIrq a value => Sys2Proof.Machine.execGlbAppIrq a value s
  | .glbFlag a p f value => Sys2Proof.Machine.execGlbFlag a p f value s
  | .errSts a value => Sys2Proof.Machine.execErrSts a value s
  | .arrNum a b pos value => Sys2Proof.Machine.execArrNum a b pos value s
  | .msixUnmask vector => Sys2Proof.Machine.execMsixUnmask vector s
  | .registerWrite a off size value => Sys2Proof.Machine.execRegisterWrite a off size value s
  | .bar2Read off len => Sys2Proof.Machine.execBar2Read off len s
  | .bar2Write off bytes => Sys2Proof.Machine.execBar2Write off bytes s
  | .unsupportedRequest requester addr => Sys2Proof.Machine.execUnsupportedRequest requester addr s
  | .malformedTlp requester addr => Sys2Proof.Machine.execMalformedTlp requester addr s
  | .poisonedWrite requester bar addr first4 => Sys2Proof.Machine.execPoisonedWrite requester bar addr first4 s
  | .unexpectedCompletion requester => Sys2Proof.Machine.execUnexpectedCompletion requester s
  | .dmaError engine rd hostAddr => Sys2Proof.Machine.execDmaError engine rd hostAddr s
  | .completionTimeout engine rd hostAddr => Sys2Proof.Machine.execCompletionTimeout engine rd hostAddr s
  | .doeObject typ len whileBusy => Sys2Proof.Machine.execDoeObject typ len whileBusy s
  | .flr => Sys2Proof.Machine.execFlr s
  | .d3hot enter => Sys2Proof.Machine.execD3hot enter s
  | .perstAsserted => Sys2Proof.Machine.execPerstAsserted s
  | .perstDeasserted found failing => Sys2Proof.Machine.execPerstDeasserted found failing s
  | .dlDown => Sys2Proof.Machine.execDlDown s
  | .mergedMessage vector => Sys2Proof.Machine.execMergedMessage vector s
  | .mctpControl command eid => Sys2Proof.Machine.execMctpControl command eid s
  | .mctpBadPacket => Sys2Proof.Machine.execMctpBadPacket s
  | .vdmCommandPacket opcode loc tag => Sys2Proof.Machine.execVdmCommandPacket opcode loc tag s
  | .vdmBar0Read off width => Sys2Proof.Machine.execVdmBar0Read off width s
  | .pldmMonitoring query => Sys2Proof.Machine.execPldmMonitoring query s
  | .pldmFirmwareUpdate img flashOk => Sys2Proof.Machine.execPldmFirmwareUpdate img flashOk s
  | .activateFirmware accepts => Sys2Proof.Machine.execActivateFirmware accepts s
  | .pldmIdentify on => Sys2Proof.Machine.execPldmIdentify on s
  | .ident => Sys2Proof.Machine.execIdent s
  | .getVersion tr => Sys2Proof.Machine.execGetVersion tr s
  | .getCapabilities tr => Sys2Proof.Machine.execGetCapabilities tr s
  | .negotiateAlgorithms tr offered => Sys2Proof.Machine.execNegotiateAlgorithms tr offered s
  | .getDigests tr => Sys2Proof.Machine.execGetDigests tr s
  | .getCertificate tr slot => Sys2Proof.Machine.execGetCertificate tr slot s
  | .challenge tr slot nonce => Sys2Proof.Machine.execChallenge tr slot nonce s
  | .getMeasurements tr index nonce => Sys2Proof.Machine.execGetMeasurements tr index nonce s
  | .keyExchange tr share => Sys2Proof.Machine.execKeyExchange tr share s
  | .finish tr session => Sys2Proof.Machine.execFinish tr session s
  | .heartbeat tr session => Sys2Proof.Machine.execHeartbeat tr session s
  | .keyUpdate tr session => Sys2Proof.Machine.execKeyUpdate tr session s
  | .endSession tr session => Sys2Proof.Machine.execEndSession tr session s
  | .setCertificate tr slot chain leaf => Sys2Proof.Machine.execSetCertificate tr slot chain leaf s
  | .selfTest tr session failing => Sys2Proof.Machine.execSelfTest tr session failing s
  | .provision tr session keyHash suite reqMaq reqApp readBackOk => Sys2Proof.Machine.execProvision tr session keyHash suite reqMaq reqApp readBackOk s
  | .zeroise tr session => Sys2Proof.Machine.execZeroise tr session s
  | .decommission tr session => Sys2Proof.Machine.execDecommission tr session s
  | .por wireOpen failing => Sys2Proof.Machine.execPor wireOpen failing s
  | .mainRailsPowerUp found => Sys2Proof.Machine.execMainRailsPowerUp found s
  | .ready => Sys2Proof.Machine.execReady s
  | .backoffExpiry found => Sys2Proof.Machine.execBackoffExpiry found s
  | .recoveryMessage img found => Sys2Proof.Machine.execRecoveryMessage img found s
  | .recoveryTimeout => Sys2Proof.Machine.execRecoveryTimeout s
  | .mainInputLost volts => Sys2Proof.Machine.execMainInputLost volts s
  | .mainInputRestored => Sys2Proof.Machine.execMainInputRestored s
  | .thermalTrip die tenthC => Sys2Proof.Machine.execThermalTrip die tenthC s
  | .mainEn high => Sys2Proof.Machine.execMainEn high s
  | .coverOpening => Sys2Proof.Machine.execCoverOpening s
  | .powerManagerWindow meanW hottest auxW => Sys2Proof.Machine.execPowerManagerWindow meanW hottest auxW s
  | .holdupTest => Sys2Proof.Machine.execHoldupTest s
  | .holdupTestComplete milliA dropMv fullMv => Sys2Proof.Machine.execHoldupTestComplete milliA dropMv fullMv s
  | .flashCommitComplete => Sys2Proof.Machine.execFlashCommitComplete s
  | .lifetimeCounterCommit => Sys2Proof.Machine.execLifetimeCounterCommit s
  | .frequencyPause => Sys2Proof.Machine.execFrequencyPause s
  | .frequencyRestart => Sys2Proof.Machine.execFrequencyRestart s
  | .syncPulse found => Sys2Proof.Machine.execSyncPulse found s
  | .pllUnlock region => Sys2Proof.Machine.execPllUnlock region s
  | .jccWrap p => Sys2Proof.Machine.execJccWrap p s
  | .patinaSample gtc => Sys2Proof.Machine.execPatinaSample gtc s
  | .holdRequest t p windows => Sys2Proof.Machine.execHoldRequest t p windows s
  | .holdDecision t p => Sys2Proof.Machine.execHoldDecision t p s
  | .bundleIssue t b q slot skew order ops => Sys2Proof.Machine.execBundleIssue t b q slot skew order ops s
  | .capture t b q d dest noise pred => Sys2Proof.Machine.execCapture t b q d dest noise pred s
  | .emission t b q d lane dest laps tag src pred => Sys2Proof.Machine.execEmission t b q d lane dest laps tag src pred s
  | .laneRegisterWrite t b q d v pred => Sys2Proof.Machine.execLaneRegisterWrite t b q d v pred s
  | .laneRemoval t b => Sys2Proof.Machine.execLaneRemoval t b s
  | .bandPortPop t b streams => Sys2Proof.Machine.execBandPortPop t b streams s
  | .headInjection t b inj => Sys2Proof.Machine.execHeadInjection t b inj s
  | .headRelease t b noise => Sys2Proof.Machine.execHeadRelease t b noise s
  | .seamPlacement t b dst track tag => Sys2Proof.Machine.execSeamPlacement t b dst track tag s
  | .seamArrival t b inject => Sys2Proof.Machine.execSeamArrival t b inject s
  | .rowPassStart t b q seq pred => Sys2Proof.Machine.execRowPassStart t b q seq pred s
  | .rowEntry t b q => Sys2Proof.Machine.execRowEntry t b q s
  | .partialSumRead t b q noise => Sys2Proof.Machine.execPartialSumRead t b q noise s
  | .outputWrite t b q => Sys2Proof.Machine.execOutputWrite t b q s
  | .weightChunkWrite t b q chunks pred => Sys2Proof.Machine.execWeightChunkWrite t b q chunks pred s
  | .swap t b q mask pred => Sys2Proof.Machine.execSwap t b q mask pred s
  | .modeSet t b q wide pred => Sys2Proof.Machine.execModeSet t b q wide pred s
  | .seedOperation t b q salt pred => Sys2Proof.Machine.execSeedOperation t b q salt pred s
  | .counterOperation t b q j op pred => Sys2Proof.Machine.execCounterOperation t b q j op pred s
  | .comparatorConfiguration t b q j cfg pred => Sys2Proof.Machine.execComparatorConfiguration t b q j cfg pred s
  | .vectorDescriptorStart t b q seq pred => Sys2Proof.Machine.execVectorDescriptorStart t b q seq pred s
  | .vectorWordIssue t b q => Sys2Proof.Machine.execVectorWordIssue t b q s
  | .vectorResultWrite t b q => Sys2Proof.Machine.execVectorResultWrite t b q s
  | .operationStatusWord t b q => Sys2Proof.Machine.execOperationStatusWord t b q s
  | .tapOperation t b tap fmt n tag => Sys2Proof.Machine.execTapOperation t b tap fmt n tag s
  | .digestRecordRelease t b => Sys2Proof.Machine.execDigestRecordRelease t b s
  | .queuePush t b queue tag body => Sys2Proof.Machine.execQueuePush t b queue tag body s
  | .queueRelease t b vector => Sys2Proof.Machine.execQueueRelease t b vector s
  | .cellFifoDelivery t b vector => Sys2Proof.Machine.execCellFifoDelivery t b vector s
  | .rowDescriptorConsumption t b => Sys2Proof.Machine.execRowDescriptorConsumption t b s
  | .rowGroupRelease t b => Sys2Proof.Machine.execRowGroupRelease t b s
  | .rowEngineDrain t b => Sys2Proof.Machine.execRowEngineDrain t b s
  | .portRunEntry t b => Sys2Proof.Machine.execPortRunEntry t b s
  | .sequencerEnd t b => Sys2Proof.Machine.execSequencerEnd t b s
  | .flagSet t b f v => Sys2Proof.Machine.execFlagSet t b f v s
  | .flagAdd t b f v => Sys2Proof.Machine.execFlagAdd t b f v s
  | .flagWait t b f eq v => Sys2Proof.Machine.execFlagWait t b f eq v s
  | .flagUpdateApplied t p => Sys2Proof.Machine.execFlagUpdateApplied t p s
  | .waitEnd t b => Sys2Proof.Machine.execWaitEnd t b s
  | .mccRead t b => Sys2Proof.Machine.execMccRead t b s
  | .armatureEnd t b => Sys2Proof.Machine.execArmatureEnd t b s
  | .armatureFault t b => Sys2Proof.Machine.execArmatureFault t b s
  | .waitWatchdog t b => Sys2Proof.Machine.execWaitWatchdog t b s
  | .streamTransferIssue k engine => Sys2Proof.Machine.execStreamTransferIssue k engine s
  | .fetchWordArrival k ctx gen noise => Sys2Proof.Machine.execFetchWordArrival k ctx gen noise s
  | .updateCountReached k ctx => Sys2Proof.Machine.execUpdateCountReached k ctx s
  | .storeWord k ctx => Sys2Proof.Machine.execStoreWord k ctx s
  | .mcastGrant k ctx grant => Sys2Proof.Machine.execMcastGrant k ctx grant s
  | .mcastTimeout k ctx => Sys2Proof.Machine.execMcastTimeout k ctx s
  | .drainTokenReturn k ctx => Sys2Proof.Machine.execDrainTokenReturn k ctx s
  | .shardHandoff k ctx => Sys2Proof.Machine.execShardHandoff k ctx s
  | .memoryReadResponse reader addr flips => Sys2Proof.Machine.execMemoryReadResponse reader addr flips s
  | .refresh unit bank => Sys2Proof.Machine.execRefresh unit bank s
  | .phyCalibration unit => Sys2Proof.Machine.execPhyCalibration unit s
  | .patrolScrub unit flips => Sys2Proof.Machine.execPatrolScrub unit flips s
  | .tempHigh unit above => Sys2Proof.Machine.execTempHigh unit above s
  | .dimmRemoved c => Sys2Proof.Machine.execDimmRemoved c s
  | .sharedUnitFailure u => Sys2Proof.Machine.execSharedUnitFailure u s
  | .frameTransmit l => Sys2Proof.Machine.execFrameTransmit l s
  | .crcFailure l kind => Sys2Proof.Machine.execCrcFailure l kind s
  | .ack l seq => Sys2Proof.Machine.execAck l seq s
  | .nak l seq => Sys2Proof.Machine.execNak l seq s
  | .credit l cls granted => Sys2Proof.Machine.execCredit l cls granted s
  | .timeReq l t1 t2 t3 => Sys2Proof.Machine.execTimeReq l t1 t2 t3 s
  | .timeResp l t2 t3 t4 => Sys2Proof.Machine.execTimeResp l t2 t3 t4 s
  | .root l hops prio id => Sys2Proof.Machine.execRoot l hops prio id s
  | .train l peerId peerLink version start => Sys2Proof.Machine.execTrain l peerId peerLink version start s
  | .red l seq chan gen offset body => Sys2Proof.Machine.execRed l seq chan gen offset body s
  | .param l seq chan gen offset body => Sys2Proof.Machine.execParam l seq chan gen offset body s
  | .quiesce l seq => Sys2Proof.Machine.execQuiesce l seq s
  | .quiesceOk l seq => Sys2Proof.Machine.execQuiesceOk l seq s
  | .quiesceRefuse l seq => Sys2Proof.Machine.execQuiesceRefuse l seq s
  | .fail l seq chan gen cause rank => Sys2Proof.Machine.execFail l seq chan gen cause rank s
  | .stepFail l seq chan gen cause rank => Sys2Proof.Machine.execStepFail l seq chan gen cause rank s
  | .nanReport l seq chan valid rank element => Sys2Proof.Machine.execNanReport l seq chan valid rank element s
  | .drain l seq chan gen => Sys2Proof.Machine.execDrain l seq chan gen s
  | .drainDone l seq chan gen => Sys2Proof.Machine.execDrainDone l seq chan gen s
  | .castAt l seq chan atGtc => Sys2Proof.Machine.execCastAt l seq chan atGtc s
  | .error l seq entry => Sys2Proof.Machine.execError l seq entry s
  | .retryTimeout l => Sys2Proof.Machine.execRetryTimeout l s
  | .trainingStateComplete l peerId peerLink version => Sys2Proof.Machine.execTrainingStateComplete l peerId peerLink version s
  | .trainingStateTimeout l => Sys2Proof.Machine.execTrainingStateTimeout l s
  | .lossOfLock l => Sys2Proof.Machine.execLossOfLock l s
  | .fecWindow l uncorrectable corrected rateExp => Sys2Proof.Machine.execFecWindow l uncorrectable corrected rateExp s
  | .rootAdvertisement => Sys2Proof.Machine.execRootAdvertisement s
  | .timeExchange t1 => Sys2Proof.Machine.execTimeExchange t1 s
  | .parentReselection => Sys2Proof.Machine.execParentReselection s
  | .holdoverExpiry => Sys2Proof.Machine.execHoldoverExpiry s
  | .laserDegraded n wavelength outPwr => Sys2Proof.Machine.execLaserDegraded n wavelength outPwr s
  | .laserFailed n wavelength outPwr => Sys2Proof.Machine.execLaserFailed n wavelength outPwr s
  | .laserRemoved n => Sys2Proof.Machine.execLaserRemoved n s
  | .latchOpened n => Sys2Proof.Machine.execLatchOpened n s
  | .wavelengthLock n => Sys2Proof.Machine.execWavelengthLock n s
  | .unitFold c => Sys2Proof.Machine.execUnitFold c s
  | .deadline c => Sys2Proof.Machine.execDeadline c s
  | .optimiserStep c => Sys2Proof.Machine.execOptimiserStep c s
  | .paramTransfer c => Sys2Proof.Machine.execParamTransfer c s
  | .paramMulticastTimeout c => Sys2Proof.Machine.execParamMulticastTimeout c s
  | .linkDrainTimeout l => Sys2Proof.Machine.execLinkDrainTimeout l s
  | .wavelengthLockTimeout n absent => Sys2Proof.Machine.execWavelengthLockTimeout n absent s
  | .auxInputLost bankExhausted => Sys2Proof.Machine.execAuxInputLost bankExhausted s
  | .ctrlUnknownKind l => Sys2Proof.Machine.execCtrlUnknownKind l s
  | .msgUnknown l seq chan fault => Sys2Proof.Machine.execMsgUnknown l seq chan fault s
  | .applicationCoreAccess core addr op => Sys2Proof.Machine.execApplicationCoreAccess core addr op s
  | .pcieLinkRetrain rate width flit => Sys2Proof.Machine.execPcieLinkRetrain rate width flit s
  | .boundaryScanInstruction j => Sys2Proof.Machine.execBoundaryScanInstruction j s

end Sys2Proof.Machine
end

