-- ==== Sys2Proof/Machine/Idle.lean ====
section
/-! DEFINITION. What time does while no command or event waits. -/

namespace Sys2Proof.Machine

/-- One tick: the next cycle of the main clock while it runs (R35, R39), else 20 ns of GTC, which counts from power-on
reset on (R10, R42); a frequency pause that has lasted 40 µs ends (R44). DESIGN CHOICE (log entry 5): the length of the tick of an
empty queue. The copies of digest records that are pending are written (R373, log entry 51). -/
def idle (s : State) : State :=
  let s := [0, 1, 2, 3].foldl (fun t k => writeCopies k 256 t) s
  if s.clk.run = .running then advanceTo (s.clk.mcc + 1) s
  else if s.clk.run = .pause ∧ s.clk.pauseGtc + 40000 ≤ s.clk.gtc then freqRestartOp s
  else advanceGtc (s.clk.gtc + 20) s

end Sys2Proof.Machine
end

