-- ==== Sys2Proof/Machine/Step.lean ====
section
/-! DEFINITION. One step of the ZX4: the oldest waiting command, or, when none waits, one tick of time. -/

namespace Sys2Proof.Machine

/-- One step (DESIGN CHOICE, log entry 5: commands and events take effect one at a time, in the order they are queued). -/
def step (s : State) : Host.Outcome State Fault Refusal :=
  match s.pending with
  | [] => .next (idle s)
  | c :: rest => exec c { s with pending := rest }

/-- The state with the command that a table word spells at the front of its queue; no word spells one. -/
def State.withFetchWord (s : State) (nbits w : Nat) : State :=
  match Sys2Proof.decodeTableWord nbits w with
  | some c => { s with pending := c :: s.pending }
  | none => s

end Sys2Proof.Machine
end

