-- ==== Sys2Proof/Safety.lean ====
section
/-! DEFINITION. The words in which claims about the ZX4 are made: when a command is accepted, what it sends back, when an
event of the static island is due, and what every state of the module keeps. -/

namespace Sys2Proof.Machine

/-- A command as the slot that HEAD names gives it (R306). -/
def slotOf (h : CmdHdr) (op : Nat) (s : State) : CmdRef := {
  ring := h.ring, slot := (getRing s h.ring).head % ringEntries h.ring (getRing s h.ring), opcode := op
  tag := h.tag, irq := bitOf h.flags 0 }

/-- The state once a command has been taken from its ring (R306): its packet has been read. -/
def taken (h : CmdHdr) (s : State) : State :=
  modRing h.ring (fun g => { g with head := (g.head + 1) % 65536, busy := true }) (packetRead h.ring s)

/-- A command may start, and none of the tests that R310 puts before the statuses of its opcode turns it away; that its
parameters are in range is said beside it. -/
abbrev Accepted (h : CmdHdr) (c : CmdSpec) (s : State) : Prop :=
  cmdDue h c s = true ∧ h.reserved = false ∧ h.flags < (if c.fabric then 4 else 2) ∧
  (c.active = true → s.pwr.st = .active) ∧
  (s.flights.all (fun x => x.claims.all (fun k => !(c.claims ++ c.names).contains k))) = true ∧
  (c.modFatal = true → s.log.modFatal = false) ∧ (!slotBad h.ring s && h.badOp.isNone) = true

/-- Something went out of the module between two states. -/
def Sent (o : Out) (s t : State) : Prop := ∃ a b, t.out = a ++ o :: b ++ s.out

/-- A command has completed with a status and a RESULT (Table 15.6); the write of its packet waits while the function sends no request
(R292). -/
def Replied (r : CmdRef) (st : Status) (v : Nat) (s t : State) : Prop :=
  ∃ p : StatusPkt, (Sent (.status p) s t ∨ (quiet s = true ∧ .status p ∈ t.pcie.held)) ∧ p.opcode = r.opcode ∧ p.status = st ∧ p.tag = r.tag ∧ p.ring = r.ring ∧
    p.slot = r.slot ∧ p.result = v

/-- A command is in progress and waits for something (R306). -/
def Waiting (r : CmdRef) (k : FlightKind) (s : State) : Prop := ∃ x ∈ s.flights, x.kind = k ∧ refOf x = r

/-- A record of a code stands in the log at an index. -/
def Recorded (i code : Nat) (s : State) : Prop := (tget {} s.log.slots (i % 4096)).code = code

/-- At MCC `t` the band is bound and its partition RUNNING and not held: an event of its island takes place (R18, R49). -/
abbrev Live (t b : Nat) (s : State) : Prop :=
  (advanceTo t s).clk.run = .running ∧ (getBand (advanceTo t s) b).bound = true ∧ partOf (advanceTo t s) b < 4 ∧
  (getPart (advanceTo t s) (partOf (advanceTo t s) b)).islandRuns = true

/-- JCC of a band's partition at MCC `t`. -/
def jccAt (t b : Nat) (s : State) : Nat := jccOf (advanceTo t s) (partOf (advanceTo t s) b)

/-- The cell at a logical position of a band at MCC `t` (R6, R7). -/
def cellAt (t b q : Nat) (s : State) : Nat := cellOf b (physOf (advanceTo t s) b q)

/-- An event of that cell takes place: its island is live, and it is neither fenced nor idle (R72, R73). -/
abbrev CellLive (t b q : Nat) (s : State) : Prop :=
  Live t b s ∧ (advanceTo t s).fence.contains (cellAt t b q s) = false ∧
  (getBand (advanceTo t s) b).idle.contains (physOf (advanceTo t s) b q) = false

/-- An Armature core executes at MCC `t` (R168). -/
abbrev ArmRuns (t b : Nat) (s : State) : Prop :=
  (getBand (advanceTo t s) b).bound = true ∧ partOf (advanceTo t s) b < 4 ∧
  (getBand (advanceTo t s) b).arm.st = .running ∧ (advanceTo t s).clk.run = .running

/-- A sequenced frame of a credit class arrives in order, within the credit granted (R237, R240). -/
abbrev InOrder (l seq cls : Nat) (s : State) : Prop :=
  framing (getLink s l) = true ∧ seq % 4096 = (getLink s l).rxSeq ∧
  tget 0 (getLink s l).received cls <
    (if tget 0 (getLink s l).given cls = 0 then clsBodies cls else tget 0 (getLink s l).given cls)

/-- A channel that carries steps (R271). -/
abbrev Carries (s : State) (c : Nat) : Prop := (getChan s c).st = .open_ ∨ (getChan s c).st = .active

/-- An agent can access the register space and the mailboxes, and the module serves them in full (R281, R292, R330, R334). -/
abbrev CanAccess (a : Agent) (s : State) : Prop :=
  agentUp s a = true ∧ (a = .host → memoryOn s = true) ∧ limited s = false

/-- A core that makes a request executes (Table 14.8); a request of the host changes no core. -/
def awake : Agent → State → State
  | .host, s => s
  | .core n, s => wakeCore n s

/-- A request that SPDM takes after NEGOTIATE_ALGORITHMS, while the cryptographic services run (R343, R347). -/
abbrev Negotiated (tr : Transport) (s : State) : Prop :=
  spdmReach s tr = true ∧ spdmPhase s tr = .negotiated ∧ s.sec.st = .operational

/-- A message of an established session of a transport, which decrypts (R347). -/
abbrev InSession (tr : Transport) (code : Nat) (m : SessionMsg) (x : Session) (s : State) : Prop :=
  Negotiated tr s ∧ findSession s tr m.id = some x ∧ x.established = true ∧ sealOk x code m = true

/-- The bulk input of a command has been read (R311): host memory gives its bytes to the command, device memory gives them here. -/
abbrev BulkRead (loc addr n : Nat) (bs : Option (List Byte)) (s u : State) : Prop :=
  loc = 0 ∧ bs = none ∧ u = hostIn addr n s ∨ loc ≠ 0 ∧ bs.isSome = true ∧ (bs, u) = spaceRead addr (n / 64 + 2) n s

/-- Tier memory in which nothing is in error (R220). -/
abbrev NoErrors (s : State) : Prop := s.memErr = [] ∧ s.poison = []

/-- Every byte of a range stands in populated tier memory. -/
abbrev AllPopulated (s : State) (a n : Nat) : Prop := ∀ i, i < n → populated s (a + i) = true

/-- Bytes have been sent to host memory at an address: each stands at its place in one of the writes that went out (R287). -/
def WroteHost (addr : Nat) (bs : List Byte) (s t : State) : Prop :=
  ∀ i, i < bs.length → ∃ e a r d, Sent (.hostWrite e a r d) s t ∧ a ≤ addr + i ∧ d[addr + i - a]? = bs[i]?

/-- Bulk output has gone where LOC and ADDR say (R311): to host memory, while the function sends requests, or into tier memory that was
populated and without errors in `u`. -/
def BulkWritten (loc addr : Nat) (bs : List Byte) (s u t : State) : Prop :=
  (loc = 0 → quiet s = false → WroteHost addr bs s t) ∧
  (loc = 1 → NoErrors u → AllPopulated u addr bs.length → readBytes t.mem addr bs.length = bs)

/-- The events of the static islands and of the Armature cores, but for a released digest record, which a tap's ring in memory
may take a copy of (R372). -/
def islandEvent : Instr → Bool
  | .bundleIssue .. | .capture .. | .emission .. | .laneRegisterWrite .. | .laneRemoval .. | .bandPortPop .. | .headInjection ..
  | .headRelease .. | .seamPlacement .. | .seamArrival .. | .rowPassStart .. | .rowEntry .. | .partialSumRead .. | .outputWrite ..
  | .weightChunkWrite .. | .swap .. | .modeSet .. | .seedOperation .. | .counterOperation .. | .comparatorConfiguration ..
  | .vectorDescriptorStart .. | .vectorWordIssue .. | .vectorResultWrite .. | .operationStatusWord .. | .tapOperation ..
  | .queuePush .. | .queueRelease .. | .cellFifoDelivery .. | .rowDescriptorConsumption .. | .rowGroupRelease ..
  | .rowEngineDrain .. | .portRunEntry .. | .sequencerEnd .. | .flagSet .. | .flagAdd .. | .flagWait .. | .waitEnd .. | .mccRead ..
  | .armatureEnd .. | .armatureFault .. | .waitWatchdog .. => true
  | _ => false

/-- The SPDM requests that neither test, zeroise nor decommission the module (R347, Table 17.7). -/
def spdmEvent : Instr → Bool
  | .getVersion .. | .getCapabilities .. | .negotiateAlgorithms .. | .getDigests .. | .getCertificate .. | .finish ..
  | .heartbeat .. | .keyUpdate .. | .endSession .. | .setCertificate .. | .provision .. => true
  | .challenge _ _ n | .getMeasurements _ _ n => n.failing.isNone
  | .keyExchange _ x => x.failing.isNone
  | _ => false

/-- The events of fabric time (R246 to R250). -/
def timeEvent : Instr → Bool
  | .timeReq .. | .timeResp .. | .root .. | .rootAdvertisement .. | .timeExchange .. | .parentReselection .. | .holdoverExpiry .. => true
  | _ => false

/-- The accesses of BAR4: doorbells and mailboxes (R304, R316). -/
def bar4Event : Instr → Bool
  | .crDb .. | .mbSlotWrite .. | .mbCommit .. | .mbRelease .. | .mbCfg .. => true
  | _ => false

/-- What the management controller and the board ask without a command that runs (R319 to R321, R398, R405, R406). -/
def boardEvent : Instr → Bool
  | .mctpControl .. | .mctpBadPacket .. | .vdmCommandPacket .. | .vdmBar0Read .. | .pldmMonitoring .. | .pldmIdentify ..
  | .ident .. | .boundaryScanInstruction .. => true
  | _ => false

/-- The rows that are commands of a ring, with the header of their packet and their opcode (Table 15.7). -/
def commandRow : Instr → Option (CmdHdr × Nat)
  | .queryInfo h .. => some (h, 0x01)
  | .setPowerState h .. => some (h, 0x02)
  | .setFreqLevel h .. => some (h, 0x03)
  | .loadMaquette h .. => some (h, 0x10)
  | .bind h .. => some (h, 0x11)
  | .start h .. => some (h, 0x12)
  | .hold h .. => some (h, 0x13)
  | .resume h .. => some (h, 0x14)
  | .cast h .. => some (h, 0x15)
  | .abort h .. => some (h, 0x16)
  | .regionMapQuery h .. | .regionMapPin h .. | .regionMapUnpin h .. | .regionMapAttach h .. => some (h, 0x20)
  | .regionMigrate h .. => some (h, 0x21)
  | .linkTrain h .. => some (h, 0x30)
  | .linkRecal h .. => some (h, 0x31)
  | .linkDrain h .. => some (h, 0x32)
  | .channelOpen h .. => some (h, 0x40)
  | .channelClose h .. => some (h, 0x41)
  | .fwUpdate h .. => some (h, 0x50)
  | .fwActivateLiveHandover h .. | .fwActivateAtWarmReset h => some (h, 0x51)
  | .dumpTensor h .. => some (h, 0x60)
  | .digestTapArm h .. | .digestTapDisarm h .. => some (h, 0x61)
  | .fenceCell h .. => some (h, 0x70)
  | .unfenceCell h .. => some (h, 0x71)
  | .appCoresBoot h .. => some (h, 0x80)
  | .dimmOffline h .. => some (h, 0x90)
  | .dimmOnline h .. => some (h, 0x91)
  | .laserOffline h .. => some (h, 0x92)
  | .laserOnline h .. => some (h, 0x93)
  | .stackRetrain h .. => some (h, 0x94)
  | _ => none

/-- The partitions, the islands, tier memory and what lies in it, and the channels are the same. -/
structure WorkKept (s t : State) : Prop where
  parts : t.parts = s.parts
  map : t.partMap = s.partMap
  bands : t.bands = s.bands
  cells : t.cells = s.cells
  seam : t.seam = s.seam
  fence : t.fence = s.fence
  mem : t.mem = s.mem
  memErr : t.memErr = s.memErr
  poison : t.poison = s.poison
  regions : t.regions = s.regions
  devs : t.devs = s.devs
  plinths : t.plinths = s.plinths
  chans : t.chans = s.chans
  flights : t.flights = s.flights
  pending : t.pending = s.pending

/-- Every band group is owned by one of the four partitions or by none (R25, R26). -/
abbrev PartMapOk (s : State) : Prop := s.partMap.length = 8 ∧ ∀ g ∈ s.partMap, g ≤ 4

/-- What every state of the module keeps: the partition map is legal, and tier memory is in canonical form. -/
structure Sound (s : State) : Prop where
  parts : PartMapOk s
  mem : Memory.wf s.mem

end Sys2Proof.Machine
end

