-- ==== Sys2Proof/Certificates/Slice0/Obligations.lean ====
section
/-! DEFINITION. The statements about the ZX4. -/

open Sys2Proof Sys2Proof.Machine

/-- A step takes the command at the front of the queue and runs it on the state with the rest of the queue.
The model's choices in it: log entry 5. -/
def Obligations.StepRunsTheFrontCommand : Prop :=
  ∀ (c : Instr) (rest : List Instr) (s : State),
    step { s with pending := c :: rest } = exec c { s with pending := rest }

/-- DESIGN CHOICE (log entry 5): with nothing queued a step is one tick. The clocks running, MCC moves on by one and GTC by
the period, and by what a correction of fabric time that still runs adds or takes; stopped, GTC moves on by 20 ns. -/
def Obligations.EmptyQueueIsOneTick : Prop :=
  ∀ (s : State), s.pending = [] → s.clk.gtc + 20 < 2 ^ 64 → s.clk.mcc + 1 < 2 ^ 64 → s.clk.phase < 378 →
    (s.clk.run ≠ .running → (s.clk.run = .pause → s.clk.gtc + 20 ≤ s.clk.pauseGtc + 40000) → ∃ t, step s = .next t ∧ t.clk.gtc = s.clk.gtc + 20 ∧ t.clk.mcc = s.clk.mcc ∧ t.parts = s.parts) ∧
    (s.clk.run = .running → (s.clk.pendingChange = true → s.clk.mcc ≠ s.clk.freqAt) → ∃ t, step s = .next t ∧ t.clk.mcc = s.clk.mcc + 1 ∧
      (s.fab.slew = 0 → 378 * t.clk.gtc + t.clk.phase = 378 * s.clk.gtc + s.clk.phase + period s.clk.curLevel) ∧
      t.clk.gtc = gtcPlus s.clk.gtc ((s.clk.phase + period s.clk.curLevel) / 378)
        (slewOf ((s.clk.phase + period s.clk.curLevel) / 378) s.fab).1 ∧
      (∀ p, p < 4 → (getPart s p).islandRuns = true → (getPart s p).jcc + 1 < 2 ^ 48 →
        (getPart t p).jcc = (getPart s p).jcc + 1) ∧
      (∀ p, p < 4 → (getPart s p).islandRuns = false → (getPart t p).jcc = (getPart s p).jcc))

/-- The state after power-on reset: AUX, not ready, the clocks stopped with every count 0, no record, every ring disabled,
every partition EMPTY, every group with partition 0, nothing queued, and every byte of tier memory, which the model lets read 0.
The model's choices in it: log entries 10, 11 and 12. -/
def Obligations.ResetLeavesAux : Prop :=
  State.reset.pwr.st = .aux ∧ State.reset.pwr.ready = false ∧ State.reset.pending = [] ∧ State.reset.out = [] ∧
  State.reset.clk.run = .stopped ∧ State.reset.clk.mcc = 0 ∧ State.reset.clk.gtc = 0 ∧ State.reset.clk.curLevel = 5 ∧
  State.reset.log.head = 0 ∧ State.reset.log.first = 0xFFFFFFFF ∧ State.reset.log.firstValid = false ∧
  State.reset.log.modFatal = false ∧ State.reset.log.suppressed = 0 ∧
  (∀ n, (getRing State.reset n).enable = false ∧ (getRing State.reset n).log2 = 4 ∧ (getRing State.reset n).phase = true ∧
    (getRing State.reset n).head = 0 ∧ (getRing State.reset n).tail = 0) ∧
  (∀ p, (getPart State.reset p).st = .empty ∧ (getPart State.reset p).jcc = 0 ∧ (getPart State.reset p).flags = []) ∧
  (∀ b, partOf State.reset b = if groupOf b < 8 then 0 else 4) ∧
  (∀ m, (tget {} State.reset.mbox m).full = false ∧ (tget {} State.reset.mbox m).sender = 0x3F ∧
    (tget {} State.reset.mbox m).receiver = 0x3F) ∧
  (∀ l, (getLink State.reset l).st = .down) ∧ (∀ c, (getChan State.reset c).st = .free) ∧ (∀ a, readByte State.reset.mem a = 0)

/-- The state after reset keeps what every state keeps.
The model's choices in it: log entry 10. -/
def Obligations.ResetIsSound : Prop := Sound State.reset

/-- INVARIANT. Whatever the command or event, a step keeps the partition map legal (each of the eight groups with one of
the partitions 0 to 3 or with none) and tier memory in canonical form.
The model's choices in it: log entry 10. -/
def Obligations.EveryStepKeepsSound : Prop :=
  ∀ (s t : State), Sound s → step s = .next t → Sound t

/-- Every command or event takes a next state: none of the 233 faults or is refused.
The model's choices in it: log entry 7. -/
def Obligations.EveryCommandTakesANextState : Prop :=
  ∀ (c : Instr) (s : State), ∃ t, exec c s = .next t

/-- FRAME. Loading, binding, starting, aborting and fencing leave the ownership of the band groups alone: it is GLB_PART_MAP's.
SPDM requests, the events of fabric time, the accesses of BAR4, and what the management controller and the board ask leave
the partitions, the islands, tier memory and the channels alone, and of the rest all but what each of these groups is for.
The model's choices in it: log entry 7. -/
def Obligations.CommandsLeaveTheRestAlone : Prop :=
  (∀ (h : CmdHdr) (s : State),
    (∀ (part loc addr size : Nat) (img : Maquette) (t : State),
      exec (.loadMaquette h part loc addr size img) s = .next t → t.partMap = s.partMap) ∧
    (∀ (part loc : Nat) (e : Bool) (tb : List (Nat × Nat)) (rep : BindReport) (t : State),
      exec (.bind h part loc e tb rep) s = .next t → t.partMap = s.partMap) ∧
    (∀ (part : Nat) (seed : W64) (a : Nat) (t : State), exec (.start h part seed a) s = .next t → t.partMap = s.partMap) ∧
    (∀ (part : Nat) (t : State), exec (.abort h part) s = .next t → t.partMap = s.partMap) ∧
    (∀ (cell : Nat) (t : State), exec (.fenceCell h cell) s = .next t → t.partMap = s.partMap) ∧
    (∀ (cell : Nat) (ok : Bool) (t : State), exec (.unfenceCell h cell ok) s = .next t → t.partMap = s.partMap)) ∧
  (∀ (c : Instr) (s t : State), exec c s = .next t →
    (spdmEvent c = true → WorkKept s t ∧ t.clk = s.clk ∧ t.links = s.links ∧ t.lasers = s.lasers ∧ t.rings = s.rings ∧
      t.mbox = s.mbox ∧ t.ident = s.ident ∧ t.pwr.st = s.pwr.st ∧ t.flash.image = s.flash.image) ∧
    (timeEvent c = true → WorkKept s t ∧ t.clk.mcc = s.clk.mcc ∧ t.clk.run = s.clk.run ∧ t.lasers = s.lasers ∧ t.rings = s.rings ∧
      t.mbox = s.mbox ∧ t.sec = s.sec ∧ t.flash = s.flash ∧ t.pwr = s.pwr) ∧
    (bar4Event c = true → WorkKept s t ∧ t.clk = s.clk ∧ t.links = s.links ∧ t.lasers = s.lasers ∧ t.sec = s.sec ∧
      t.flash = s.flash ∧ t.pwr = s.pwr ∧ t.mgmt = s.mgmt) ∧
    (boardEvent c = true → WorkKept s t ∧ t.clk = s.clk ∧ t.links = s.links ∧ t.lasers = s.lasers ∧ t.rings = s.rings ∧
      t.mbox = s.mbox ∧ t.sec = s.sec ∧ t.flash = s.flash ∧ t.pwr = s.pwr))

/-- START and the steps that lead to JCC 0: the command waits for the drains; it is accepted with JCC 0 at a multiple of
4,096 cycles, and the Armature cores leave reset 8,192 cycles before; at JCC 0 the partition is RUNNING, and held unless its ports
were all found covered at that count.
The model's choices in it: log entries 6, 7 and 32. -/
def Obligations.StartRunsAPartition : Prop :=
  ∀ (s : State),
    (∀ (h : CmdHdr) (part : Nat) (seed : W64) (a : Nat), part < 4 → a % 4096 = 0 → a < 2 ^ 48 →
      Accepted h { op := 0x12, fields := [(8, 1, part), (16, 8, seed.toNat), (24, 6, a)], claims := [.part part], modFatal := true } s →
      ((getPart s part).st = .bound ∨ (getPart s part).st = .done) →
      (boundBands s part).any (fun b => (getBand s b).lost) = false →
      ∃ t, exec (.start h part seed a) s = .next t ∧ (getPart t part).startDrains = true ∧ (getPart t part).reqSeed = seed ∧
        (getPart t part).reqAt = a ∧ Waiting (slotOf h 0x12 s) (.start part) t) ∧
    (∀ (p : Fin 4) (m : Maquette) (x : List (Nat × Nat) × State), (getPart s p).startDrains = true → anyDraining s p = false →
      s.clk.run = .running → s.log.modFatal = false → (getPart s p).maq = some m → (getPart s p).reqAt = 0 →
      allocContexts p m.contexts (getPart s p).ctxMap s = some x →
      ∃ t, exec (.startAccepted p) s = .next t ∧ (getPart t p).startDrains = false ∧
        (getPart t p).startAt = some (roundUp (s.clk.mcc + 12288) 4096) ∧
        (getPart t p).armAt = some (roundUp (s.clk.mcc + 12288) 4096 - 8192) ∧
        (getPart t p).jobSeed = (getPart x.2 p).reqSeed ∧ (getPart t p).ctxMap = x.1) ∧
    (∀ (p : Fin 4), (getPart s p).startDrains = true → anyDraining s p = true →
      ∃ t, exec (.startDrainTimeout p) s = .next t ∧ (getPart t p).startDrains = false ∧ (getPart t p).startAt = none ∧
        ∀ x ∈ s.flights, x.kind = .start p → Replied (refOf x) .notDrained 0 s t) ∧
    (∀ (t' : Nat) (p : Fin 4) (a : Nat), (getPart (advanceTo t' s) p).armAt = some a → a ≤ (advanceTo t' s).clk.mcc →
      (advanceTo t' s).clk.run = .running →
      ∃ t, exec (.armatureLeaveReset t' p) s = .next t ∧ (getPart t p).armAt = none ∧ (getPart t p).flags = [] ∧
        (getPart t p).updates = []) ∧
    (∀ (t' : Nat) (p : Fin 4) (a : Nat) (u : State), (getPart (advanceTo t' s) p).startAt = some a →
      toBoundary 4096 a (advanceTo t' s) = some u → u.log.modFatal = false →
      ∃ t, exec (.startCountReached t' p) s = .next t ∧ u.clk.mcc % 4096 = 0 ∧ t.clk.mcc = u.clk.mcc ∧
        (getPart t p).st = .running ∧ (getPart t p).jcc = 0 ∧
        (getPart t p).held = !windowCovered (getPart (advanceTo t' s) p) u.clk.mcc ∧
        (getPart t p).faultCast = false ∧ (getPart t p).startAt = none ∧
        ∀ x ∈ s.flights, x.kind = .start p → Replied (refOf x) .ok (u.clk.mcc % 2 ^ 48) s t)

/-- HOLD, RESUME and their boundaries: HOLD waits for the next hold boundary, at which the partition is PAUSED and the
command ends with the JCC of the boundary; RESUME likewise brings it back to RUNNING.
The model's choices in it: log entries 6, 7 and 32. -/
def Obligations.HoldAndResume : Prop :=
  ∀ (s : State),
    (∀ (h : CmdHdr) (part : Nat), part < 4 → Accepted h { op := 0x13, fields := [(8, 1, part)] } s → (getPart s part).st = .running →
      ∃ t, exec (.hold h part) s = .next t ∧
        (getPart t part).pauseAt = some ((getPart s part).pauseAt.getD (nextBoundary s)) ∧
        (getPart t part).st = .running ∧ Waiting (slotOf h 0x13 s) (.hold part) t) ∧
    (∀ (t' : Nat) (p : Fin 4) (a : Nat) (u : State), (getPart (advanceTo t' s) p).pauseAt = some a →
      (getPart (advanceTo t' s) p).st = .running → toBoundary 64 a (advanceTo t' s) = some u →
      ∃ t, exec (.pauseAtBoundary t' p) s = .next t ∧ u.clk.mcc % 64 = 0 ∧ t.clk.mcc = u.clk.mcc ∧
        (getPart t p).st = .paused ∧ (getPart t p).pauseAt = none ∧ (getPart t p).jcc = (getPart u p).jcc ∧
        ∀ x ∈ s.flights, x.kind = .hold p → Replied (refOf x) .ok (getPart u p).jcc s t) ∧
    (∀ (h : CmdHdr) (part : Nat), part < 4 → Accepted h { op := 0x14, fields := [(8, 1, part)], claims := [.part part], modFatal := true } s →
      ((getPart s part).st = .paused ∨ ((getPart s part).st = .cast ∧ (getPart s part).faultCast = false)) →
      ∃ t, exec (.resume h part) s = .next t ∧ (getPart t part).resumeAt = some (nextBoundary s) ∧
        (getPart t part).st = (getPart s part).st ∧ Waiting (slotOf h 0x14 s) (.resume part) t) ∧
    (∀ (t' : Nat) (p : Fin 4) (a : Nat) (u : State), (getPart (advanceTo t' s) p).resumeAt = some a →
      toBoundary 64 a (advanceTo t' s) = some u →
      ((getPart (advanceTo t' s) p).st = .paused ∨ (getPart (advanceTo t' s) p).st = .cast) →
      (getPart (advanceTo t' s) p).pendFatal = none → u.log.modFatal = false →
      ∃ t, exec (.resumeAtBoundary t' p) s = .next t ∧ u.clk.mcc % 64 = 0 ∧ t.clk.mcc = u.clk.mcc ∧ (getPart t p).st = .running ∧ (getPart t p).resumeAt = none ∧
        (getPart t p).cut = none ∧ (getPart t p).jcc = (getPart (advanceTo t' s) p).jcc ∧
        ∀ x ∈ s.flights, x.kind = .resume p → Replied (refOf x) .ok (getPart (advanceTo t' s) p).jcc s t)

/-- CAST and its boundary: a cast at the next boundary, or at the first boundary at which GTC has reached AT_GTC; there the
partition is CAST, a cut is kept, and FAULT_CAST tells whether an error caused it.
The model's choices in it: log entries 7, 17, 18, 19 and 32. -/
def Obligations.CastTakesACut : Prop :=
  ∀ (s : State),
    (∀ (h : CmdHdr) (part a : Nat), part < 4 → Accepted h { op := 0x15, fields := [(8, 1, part), (16, 8, a)], fabric := true } s → bitOf h.flags 1 = false →
      ((getPart s part).st = .running ∨ (getPart s part).st = .paused) → a ≤ s.clk.gtc →
      ∃ t c, exec (.cast h part a) s = .next t ∧ (getPart t part).pendCast = some c ∧ (∃ b, c.at_ = some b ∧ b ≤ nextBoundary s) ∧
        Waiting (slotOf h 0x15 s) (.cast part) t) ∧
    (∀ (h : CmdHdr) (part a : Nat), part < 4 → Accepted h { op := 0x15, fields := [(8, 1, part), (16, 8, a)], fabric := true } s →
      ((getPart s part).st = .running ∨ (getPart s part).st = .paused) → s.clk.gtc + 10000 ≤ a → aligned s = true →
      ∃ t g c, exec (.cast h part a) s = .next t ∧ (getPart t part).castGtc = some (g, c) ∧ g ≤ a ∧
        Waiting (slotOf h 0x15 s) (.cast part) t) ∧
    (∀ (t' : Nat) (p : Fin 4) (c : PendCast), (advanceTo t' s).clk.mcc % 64 = 0 →
      ((getPart (advanceTo t' s) p).st = .running ∨ (getPart (advanceTo t' s) p).st = .paused) →
      (advanceTo t' s).clk.run = .running → castDue (advanceTo t' s) (getPart (advanceTo t' s) p) = some c →
      (getPart (advanceTo t' s) p).pendFatal = none →
      ∃ t, exec (.castAtBoundary t' p) s = .next t ∧ (getPart t p).st = .cast ∧ (getPart t p).faultCast = c.fault ∧
        (getPart t p).cut.isSome = true ∧ (getPart t p).pendCast = none ∧
        (getPart t p).jcc = (getPart (advanceTo t' s) p).jcc)

/-- ABORT brings a partition that RUNS, is PAUSED, CAST or DONE back to BOUND. A command that names a partition in a state in which
Table 1.5 does not allow it completes with PARTITION_STATE and changes nothing of it. With the end of its last sequencer the count of a
partition runs to the first hold boundary after, and there, with no cast due and no fault waiting for its cast, it is DONE.
The model's choices in it: log entries 7, 32 and 45. -/
def Obligations.AbortAndDone : Prop :=
  ∀ (s : State),
    (∀ (h : CmdHdr) (part : Nat), part < 4 → Accepted h { op := 0x16, fields := [(8, 1, part)], claims := [.part part] } s →
      (getPart s part).st ∈ [PState.running, .paused, .cast, .done] →
      ∃ t, exec (.abort h part) s = .next t ∧ (getPart t part).st = .bound ∧ (getPart t part).faultCast = false ∧
        (getPart t part).cut = none ∧ Replied (slotOf h 0x16 s) .ok 0 s t) ∧
    (∀ (h : CmdHdr) (part : Nat) (c : Instr) (op : Nat), part < 4 →
      ((∃ loc addr size img, c = .loadMaquette h part loc addr size img ∧ op = 0x10 ∧ 1 ≤ size ∧ locOk h loc = true ∧
          bulkOk s loc addr size = true ∧ (getPart s part).st ∈ [PState.running, .paused] ∧
          Accepted h {
            op := 0x10, fields := [(8, 1, part), (9, 1, loc), (16, 8, addr), (24, 8, size)], loc := some loc
            claims := partClaims s part, modFatal := true } s) ∨
        (∃ loc rep, c = .bind h part loc false [] rep ∧ op = 0x11 ∧ locOk h loc = true ∧ rep.addr = 0 ∧ (getPart s part).st ≠ .loaded ∧
          Accepted h {
            op := 0x11, fields := [(8, 1, part), (9, 1, loc), (10, 1, 0), (16, 8, rep.table), (24, 8, 0)], loc := some loc
            claims := partClaims s part, modFatal := true } s) ∨
        (∃ (seed : W64) (a : Nat), c = .start h part seed a ∧ op = 0x12 ∧ a % 4096 = 0 ∧ a < 2 ^ 48 ∧
          (getPart s part).st ∉ [PState.bound, .done] ∧
          Accepted h { op := 0x12, fields := [(8, 1, part), (16, 8, seed.toNat), (24, 6, a)], claims := [.part part], modFatal := true } s) ∨
        (c = .hold h part ∧ op = 0x13 ∧ (getPart s part).st ≠ .running ∧ starting s part = false ∧
          Accepted h { op := 0x13, fields := [(8, 1, part)] } s) ∨
        (c = .resume h part ∧ op = 0x14 ∧ ((getPart s part).st ∉ [PState.paused, .cast] ∨
            ((getPart s part).st = .cast ∧ (getPart s part).faultCast = true)) ∧
          Accepted h { op := 0x14, fields := [(8, 1, part)], claims := [.part part], modFatal := true } s) ∨
        (∃ a, c = .cast h part a ∧ op = 0x15 ∧ (getPart s part).st ∉ [PState.running, .paused] ∧ starting s part = false ∧
          castTimeOk (bitOf h.flags 1) a s = true ∧
          Accepted h { op := 0x15, fields := [(8, 1, part), (16, 8, a)], fabric := true } s) ∨
        (c = .abort h part ∧ op = 0x16 ∧ (getPart s part).st ∉ [PState.running, .paused, .cast, .done] ∧
          Accepted h { op := 0x16, fields := [(8, 1, part)], claims := [.part part] } s)) →
      ∃ t, exec c s = .next t ∧ Replied (slotOf h op s) .partitionState 0 s t ∧ t.parts = s.parts ∧ t.bands = s.bands ∧
        t.cells = s.cells ∧ t.regions = s.regions ∧ t.chans = s.chans ∧ t.flights = s.flights.filter (fun x => x.ring != h.ring) ∧ t.partMap = s.partMap) ∧
    (∀ (t' : Nat) (b : Fin 32), Live t' b s → (getBand (advanceTo t' s) b).seqState = 1 →
      (∀ x ∈ boundBands (advanceTo t' s) (partOf (advanceTo t' s) b), x ≠ b → (getBand (advanceTo t' s) x).seqState = 2) →
      ∃ t, exec (.sequencerEnd t' b) s = .next t ∧ (getPart t (partOf (advanceTo t' s) b)).endJcc =
        some ((jccAt t' b s + (64 - (advanceTo t' s).clk.mcc % 64)) % 2 ^ 48)) ∧
    (∀ (t' : Nat) (p : Fin 4) (un : List Nat), (advanceTo t' s).clk.mcc % 64 = 0 →
      (getPart (advanceTo t' s) p).st = .running → (advanceTo t' s).clk.run = .running →
      (getPart (advanceTo t' s) p).endJcc = some (getPart (advanceTo t' s) p).jcc →
      castDue (advanceTo t' s) (getPart (advanceTo t' s) p) = none → faultAsked (getPart (advanceTo t' s) p) = none →
      ∃ t, exec (.partitionDone t' p un) s = .next t ∧ (getPart t p).st = .done ∧
        (getPart t p).doneJcc = (getPart (advanceTo t' s) p).jcc ∧ (getPart t p).pauseAt = none)

/-- Fencing: a cell of an unbound band is fenced at once, and loses what it holds; one that waits for the boundary is fenced
there; a fenced cell that the factory did not fence and whose self-test passes is unfenced; a router whose self-test,
made after three ring errors, fails makes its band LOST; a cell fenced in the factory is never unfenced.
The model's choices in it: log entries 7 and 8, and 32 that a cell of any band that is not bound is fenced at once. -/
def Obligations.FencingOfCells : Prop :=
  (∀ (s : State),
    (∀ (h : CmdHdr) (cell : Nat), cell < 4096 → Accepted h { op := 0x70, fields := [(8, 2, cell)], claims := [.band (cell / 128)] } s →
      s.fence.contains cell = false → (getBand s (cell / 128)).bound = false →
      ∃ t, exec (.fenceCell h cell) s = .next t ∧ t.fence.contains cell = true ∧ getCell t cell = {}) ∧
    (∀ (t' : Nat) (p : Fin 4) (x : Flight) (cell : Nat), (advanceTo t' s).clk.mcc % 64 = 0 → (advanceTo t' s).clk.run = .running → x ∈ s.flights →
      x.kind = .fence cell → partOf s (cell / 128) = p →
      ∃ t, exec (.fenceAtBoundary t' p) s = .next t ∧ t.fence.contains cell = true) ∧
    (∀ (h : CmdHdr) (cell : Nat), cell < 4096 → Accepted h { op := 0x71, fields := [(8, 2, cell)], claims := [.band (cell / 128)] } s →
      (getBand s (cell / 128)).lost = false → s.ident.factoryFence.contains cell = false → s.fence.contains cell = true →
      ∃ t, exec (.unfenceCell h cell true) s = .next t ∧ t.fence.contains cell = false ∧ getCell t cell = {}) ∧
    (∀ (b : Fin 32), routerTestDue s b = true →
      (∃ t, exec (.routerSelfTest b false) s = .next t ∧ (getBand t b).lost = true ∧ (getBand t b).ringChecks = 0) ∧
      (∃ t, exec (.routerSelfTest b true) s = .next t ∧ (getBand t b).lost = (getBand s b).lost ∧
        (getBand t b).ringChecks = 0))) ∧
  (∀ (h : CmdHdr) (cell : Nat) (pass : Bool) (s t : State), s.ident.factoryFence.contains cell = true →
    s.fence.contains cell = true → exec (.unfenceCell h cell pass) s = .next t → t.fence.contains cell = true)

/-- REGION_MAP: QUERY answers the placement and changes no region; PIN and UNPIN set PINNED; ATTACH gives an import of a
LOADED partition its region.
The model's choices in it: log entries 8 and 34. -/
def Obligations.RegionMapCommands : Prop :=
  ∀ (h : CmdHdr) (part handle : Nat) (s : State), part < 4 → handle < 65536 →
    (∀ (key : Nat) (g : Region), resolve s part handle = some (key, g) → (getReg s (regKey part handle)).bound = true →
      (Accepted h { op := 0x20, fields := [(8, 1, part), (9, 1, 0), (10, 2, handle)], claims := [.region part handle], names := [.part part] } s →
        ∃ t, exec (.regionMapQuery h part handle) s = .next t ∧ t.regions = s.regions ∧
        Replied (slotOf h 0x20 s) .ok (regionResult (getReg s (regKey part handle)) g) s t) ∧
      (Accepted h { op := 0x20, fields := [(8, 1, part), (9, 1, 1), (10, 2, handle)], claims := [.region part handle], names := [.part part] } s →
        ∃ t, exec (.regionMapPin h part handle) s = .next t ∧ (getReg t key).pinned = true ∧
        ∃ v, Replied (slotOf h 0x20 s) .ok v s t) ∧
      (Accepted h { op := 0x20, fields := [(8, 1, part), (9, 1, 2), (10, 2, handle)], claims := [.region part handle], names := [.part part] } s →
        ∃ t, exec (.regionMapUnpin h part handle) s = .next t ∧ (getReg t key).pinned = (getReg s key).pinFlag ∧
        Replied (slotOf h 0x20 s) .ok 0 s t)) ∧
    (∀ (sp sh k : Nat) (g : Region), sp < 4 → sh < 65536 → sp ≠ part → (getPart s part).st = .loaded →
      Accepted h {
        op := 0x20, fields := [(8, 1, part), (9, 1, 3), (10, 2, handle), (12, 1, sp), (14, 2, sh)], claims := [.region part handle]
        names := [.part part, .part sp, .region sp sh] } s →
      (getReg s (regKey sp sh)).bound = true → resolve s sp sh = some (k, g) → (getReg s (regKey part handle)).imported = true →
      (getReg s (regKey part handle)).size ≤ (getReg s (regKey sp sh)).size →
      ∃ t, exec (.regionMapAttach h part handle sp sh) s = .next t ∧
        (getReg t (regKey part handle)).attached = some (sp, sh) ∧ Replied (slotOf h 0x20 s) .ok 0 s t)

/-- REGION_MIGRATE begins a copy to the home it names, and each unit of a copy counts (one of a pass waits for a dump that reads the
region); with the last one the region lies on its new members.
The model's choices in it: log entries 7 and 34. -/
def Obligations.MigrationCopiesUnits : Prop :=
  ∀ (s : State),
    (∀ (h : CmdHdr) (part handle tier dev : Nat) (y : List Nat × Nat), part < 4 → handle < 65536 →
      (tier = 1 ∨ tier = 2) → (dev = 0xFF ∨ (tier = 1 ∧ dev < 16) ∨ (tier = 2 ∧ 16 ≤ dev ∧ dev < 28)) →
      Accepted h {
        op := 0x21, fields := [(8, 1, part), (10, 2, handle), (12, 1, tier), (13, 1, dev)], claims := [.region part handle]
        names := [.part part] } s → (getReg s (regKey part handle)).bound = true →
      (getReg s (regKey part handle)).imported = false → movableState s (regKey part handle) = true →
      chanWrites s (regKey part handle) = false →
      migrateHome (endCopies [regKey part handle] (taken h s)) (regKey part handle) (getReg s (regKey part handle)) tier dev =
        some y →
      ∃ t, exec (.regionMigrate h part handle tier dev) s = .next t ∧ (getReg t (regKey part handle)).target = some y ∧
        (getReg t (regKey part handle)).copied = 0 ∧ Waiting (slotOf h 0x21 s) (.migrate part handle) t) ∧
    (∀ (p : Fin 4) (handle : Nat) (ms : List Nat) (st : Nat) (u : State), handle < 65536 →
      (getReg (passNext s) (regKey p handle)).target = some (ms, st) →
      (passMove (passNext s) (regKey p handle) && dumpReads (passNext s) (regKey p handle)) = false →
      copyUnit (getReg (passNext s) (regKey p handle)) ms st (getReg (passNext s) (regKey p handle)).copied (passNext s) = (true, u) →
      ((getReg (passNext s) (regKey p handle)).copied + 1 < (getReg (passNext s) (regKey p handle)).size →
        ∃ t, exec (.migrationUnitCopy p handle) s = .next t ∧
          (getReg t (regKey p handle)).copied = (getReg (passNext s) (regKey p handle)).copied + 1) ∧
      ((getReg (passNext s) (regKey p handle)).size ≤ (getReg (passNext s) (regKey p handle)).copied + 1 →
        ∃ t, exec (.migrationUnitCopy p handle) s = .next t ∧ (getReg t (regKey p handle)).members = ms ∧
          (getReg t (regKey p handle)).start = st ∧ (s.passQ = [] → (getReg t (regKey p handle)).target = none)))

/-- Memory devices: with no region on it a DIMM goes OFFLINE and a stack is retrained at once; DIMM_ONLINE takes an accepted DIMM
that passes; reads and upkeep leave the devices as they are, but for what they find, and a response for an earlier use of a stream
context is dropped and counted; a calibration falls when the refresh before it has taken its whole delay, which is the model's choice
(log entry 52); a device, a link between plinths or the I/O die that is lost is noted, and the partitions it serves are to be cast.
The model's choices in it: log entries 7, 32, 34, 46 and 52. -/
def Obligations.MemoryDevices : Prop :=
  (∀ (h : CmdHdr) (s : State),
    (∀ (c : Nat), c < 12 → (getDev s (16 + c)).st = 1 ∨ (getDev s (16 + c)).st = 2 →
      Accepted h { op := 0x90, fields := [(8, 1, c)], claims := .dimm c :: unitClaims s (16 + c) } s →
      (∀ x ∈ s.regions, onUnit x.2 (16 + c) = false) →
      ∃ t, exec (.dimmOffline h c) s = .next t ∧ (getDev t (16 + c)).st = 3 ∧ (getDev t (16 + c)).cap = 0 ∧
        Replied (slotOf h 0x90 s) .ok 3 s t) ∧
    (∀ (c : Nat) (d : DimmProbe), c < 12 → (getDev s (16 + c)).st = 3 → dimmOk d = true → d.testOk = true →
      Accepted h { op := 0x91, fields := [(8, 1, c)], claims := .dimm c :: unitClaims s (16 + c) } s →
      ∃ t, exec (.dimmOnline h c (some d)) s = .next t ∧ (getDev t (16 + c)).st = 1 ∧ (getDev t (16 + c)).cap = d.capGiB ∧
        Replied (slotOf h 0x91 s) .ok 1 s t) ∧
    (∀ (c : Nat) (found : Option DimmProbe), c < 12 → (getDev s (16 + c)).st = 2 →
      Accepted h { op := 0x91, fields := [(8, 1, c)], claims := .dimm c :: unitClaims s (16 + c) } s →
      ∃ t, exec (.dimmOnline h c found) s = .next t ∧ (getDev t (16 + c)).st = 1 ∧ Replied (slotOf h 0x91 s) .ok 1 s t) ∧
    (∀ (n : Nat), n < 16 → (getDev s n).st ∈ [1, 2, 5] →
      Accepted h { op := 0x94, fields := [(8, 1, n)], claims := .stack n :: (drainUnits n).flatMap (unitClaims s) } s →
      (∀ x ∈ s.regions, onUnit x.2 n = false) →
      (∃ t, exec (.stackRetrain h n true) s = .next t ∧ (getDev t n).st = 1 ∧ (getDev t n).cap = 36 ∧
        Replied (slotOf h 0x94 s) .ok 1 s t) ∧
      (∃ t, exec (.stackRetrain h n false) s = .next t ∧ (getDev t n).st = 5 ∧ (getDev t n).cap = 0 ∧
        Replied (slotOf h 0x94 s) .fault 5 s t))) ∧
  (∀ (s : State),
    (∀ (ag : Agent) (a : Nat) (flips : Noise), populated s a = true → (cwDecode s flips (a / 64 * 2)).2 = .clean →
      (cwDecode s flips (a / 64 * 2 + 1)).2 = .clean →
      ∃ t, exec (.memoryReadResponse (.window ag) a flips) s = .next t ∧ t.mem = s.mem ∧ t.log = s.log ∧
        Sent (match ag with
          | .host => .completion ((cwDecode s flips (a / 64 * 2)).1 ++ (cwDecode s flips (a / 64 * 2 + 1)).1)
          | .core n => .coreData n ((cwDecode s flips (a / 64 * 2)).1 ++ (cwDecode s flips (a / 64 * 2 + 1)).1)) s t) ∧
    (∀ (ctx gen a : Nat) (flips : Noise), populated s a = true →
      (gen % 65536 ≠ (getCtx s (ctx / 65536) (ctx % 65536)).gen % 65536 →
        ∃ t, exec (.memoryReadResponse (.stream ctx gen) a flips) s = .next t ∧ t.mem = s.mem ∧ t.log = s.log ∧
          (getPl t (ctx / 65536)).stale = satAdd 0xFFFFFFFF (getPl s (ctx / 65536)).stale 1) ∧
      (gen % 65536 = (getCtx s (ctx / 65536) (ctx % 65536)).gen % 65536 → (getCtx s (ctx / 65536) (ctx % 65536)).st = .running →
        (cwReads { src := 0, part := some (getCtx s (ctx / 65536) (ctx % 65536)).part, ctx := some ctx, pol := 2 } flips
          (a / 64 * 2) 2 s).2.1 = false →
        ∃ t, exec (.memoryReadResponse (.stream ctx gen) a flips) s = .next t ∧
          (getCtx t (ctx / 65536) (ctx % 65536)).st = .fault)) ∧
    (∀ (u : Fin 28) (bank : Nat), (getDev s u).st = 1 → ∃ t, exec (.refresh u bank) s = .next t ∧
      (getDev t u).refreshGtc = s.clk.gtc ∧ (getDev t u).st = 1) ∧
    (∀ (u : Fin 28) (g : Nat), (getDev s u).st = 1 → s.clk.pendingChange = false → s.fab.slew = 0 → s.clk.phase < 378 →
      g = (getDev s u).refreshGtc + (if (u : Nat) < 16 then 160 else 130) → g + 1 < 2 ^ 64 →
      (s.clk.run = .running → ∃ t, exec (.phyCalibration u) s = .next t ∧ max s.clk.gtc g ≤ t.clk.gtc ∧
        t.clk.gtc ≤ max s.clk.gtc g + 1) ∧
      (s.clk.run = .stopped → s.pwr.st ≠ .standby → s.pwr.st ≠ .aux → ∃ t, exec (.phyCalibration u) s = .next t ∧
        t.clk.gtc = max s.clk.gtc g)) ∧
    (∀ (u : Fin 28) (flips : List (Nat × Noise)), (getDev s u).st = 1 → s.clk.run ≠ .stopped →
      (getDev s u).scrubAt + 2048 < (getDev s u).cap * gib →
      ∃ t, exec (.patrolScrub u flips) s = .next t ∧ (getDev t u).scrubAt = (getDev s u).scrubAt + 2048) ∧
    (∀ (u : Fin 28) (above : Bool), ∃ t, exec (.tempHigh u above) s = .next t ∧ (getDev t u).tempHigh = above ∧
      (getDev t u).st = (getDev s u).st)) ∧
  (∀ (s : State),
    (∀ (c : Fin 12), (getDev s (16 + c)).st = 1 ∨ (getDev s (16 + c)).st = 2 →
      ∃ t, exec (.dimmRemoved c) s = .next t ∧ (getDev t (16 + c)).st = 0 ∧ (getDev t (16 + c)).cap = 0) ∧
    (∀ (u : Nat), u < 28 → ∃ t, exec (.sharedUnitFailure (.device u)) s = .next t ∧ (getDev t u).st = 5 ∧
      (getDev t u).cap = 0) ∧
    (∀ (i p : Nat), i < 6 → p ∈ crossParts s (linkEnds i).1 (linkEnds i).2 → s.clk.run ≠ .stopped →
      (getPart s p).st = .running → (getPart s p).faulted = false → (getPart s p).sfaults = [] →
      ∃ t, exec (.sharedUnitFailure (.plinthLink i)) s = .next t ∧ (getPart t p).pendCast.isSome = true ∧
        ((∃ q ∈ [0, 1, 2, 3].filter (livePart s), q ∉ crossParts s (linkEnds i).1 (linkEnds i).2) → (getPart t p).faulted = true)) ∧
    (∀ (k : Nat), k < 4 → [0, 1, 2, 3].filter (livePart s) ≠ [] →
      (∀ p ∈ [0, 1, 2, 3].filter (livePart s), p ∈ dieParts s k) →
      ∃ t, exec (.sharedUnitFailure (.ioLink k)) s = .next t ∧ t.log.modFatal = true))

/-- The Armature core and its queues: a push puts the entry behind the others with its tag, number and MCC, or stalls the
core on a full queue; a release, or a run entry, takes an entry that is old enough and bears the tag of the cycle.
The model's choices in it: log entries 6, 7 and 26. -/
def Obligations.BandQueues : Prop :=
  ∀ (t' : Nat) (b : Fin 32) (s : State),
    (∀ (n : QName) (tag : Nat) (body : QBody), ArmRuns t' b s → (getQ (getBand (advanceTo t' s) b) n).length < qDepth n →
      ∃ t, exec (.queuePush t' b n tag body) s = .next t ∧
        getQ (getBand t b) n = getQ (getBand (advanceTo t' s) b) n ++ [{
          tag := tag % 16, seq := tget 0 (getBand (advanceTo t' s) b).pushes (qCode n) % 256
          at_ := (advanceTo t' s).clk.mcc, body := body }] ∧ (getBand t b).arm = (getBand (advanceTo t' s) b).arm) ∧
    (∀ (n : QName) (tag : Nat) (body : QBody), ArmRuns t' b s → qDepth n ≤ (getQ (getBand (advanceTo t' s) b) n).length →
      ∃ t, exec (.queuePush t' b n tag body) s = .next t ∧ (getBand t b).arm.st = .stallQueue ∧
        (getBand t b).arm.queue = n ∧ getQ (getBand t b) n = getQ (getBand (advanceTo t' s) b) n) ∧
    (∀ (v : Bool) (e : QEntry) (rest : List QEntry), Live t' b s → (getBand (advanceTo t' s) b).seqState = 1 →
      getQ (getBand (advanceTo t' s) b) (if v then .vector else .array) = e :: rest →
      e.at_ + 3 ≤ (advanceTo t' s).clk.mcc → e.tag = jccAt t' b s % 16 →
      ∃ t, exec (.queueRelease t' b v) s = .next t ∧ (getBand t b).deliveries =
        (getBand (advanceTo t' s) b).deliveries ++ [{ at_ := (jccAt t' b s + 6) % 2 ^ 48, vector := v, entry := e }]) ∧
    (∀ (r : PortRun) (e : QEntry) (rest : List QEntry), Live t' b s → (getBand (advanceTo t' s) b).seqState = 1 →
      (getBand (advanceTo t' s) b).qPort = e :: rest →
      e.at_ + 3 ≤ (advanceTo t' s).clk.mcc → e.tag = jccAt t' b s % 16 → e.body = .port r →
      (r.outbound = true → (getBand (advanceTo t' s) b).outRun = none →
        ∃ t, exec (.portRunEntry t' b) s = .next t ∧ (getBand t b).outRun =
          some { stream := r.stream % 8, left := r.words, from_ := (jccAt t' b s + 2) % 2 ^ 48 }) ∧
      (r.outbound = false → tget none (getBand (advanceTo t' s) b).inRuns (r.stream % 8) = none →
        ∃ t, exec (.portRunEntry t' b) s = .next t ∧ tget none (getBand t b).inRuns (r.stream % 8) =
          some { stream := r.stream % 8, left := r.words, from_ := (jccAt t' b s + 2) % 2 ^ 48 }))

/-- A released descriptor reaches the FIFO of every cell that takes part and has room, and the delivery is over; a fifth entry
stands to the end of the cycle, since a start of the same cycle pops first.
The model's choices in it: log entries 5 (the fifth entry that stands to the end of its cycle), 6, 7 and 26. -/
def Obligations.DescriptorsReachEveryCell : Prop :=
  ∀ (t' : Nat) (b : Fin 32) (v : Bool) (d : Delivery) (s : State), Live t' b s →
    (getBand (advanceTo t' s) b).deliveries.filter (fun x => x.at_ == jccAt t' b s && x.vector == v) = [d] →
    ∃ t, exec (.cellFifoDelivery t' b v) s = .next t ∧
      (∀ x ∈ (getBand t b).deliveries, ¬ (x.at_ = jccAt t' b s ∧ x.vector = v)) ∧
      ∀ pos < 128, (advanceTo t' s).fence.contains (cellOf b pos) = false →
        (getBand (advanceTo t' s) b).idle.contains pos = false →
        (v = true → (getCell (advanceTo t' s) (cellOf b pos)).vecFifo.length < 5 →
          (getCell t (cellOf b pos)).vecFifo = (getCell (advanceTo t' s) (cellOf b pos)).vecFifo ++
            [{ d.entry with got := some (jccAt t' b s) }]) ∧
        (v = false → (getCell (advanceTo t' s) (cellOf b pos)).arrayFifo.length < 5 →
          (getCell t (cellOf b pos)).arrayFifo = (getCell (advanceTo t' s) (cellOf b pos)).arrayFifo ++
            [{ d.entry with got := some (jccAt t' b s) }])

/-- Counters, comparators, lane registers, the mode set and the seeds of a cell.
The model's choices in it: log entries 6, 7 and 25. -/
def Obligations.CellRegisters : Prop :=
  ∀ (t' : Nat) (b : Fin 32) (q : Fin 128) (pr : Option Pred) (s : State), CellLive t' b q s →
    predOk (getCell (advanceTo t' s) (cellAt t' b q s)) (jccAt t' b s) pr = true →
    (∀ (i : Fin 8) (r : Rel), (getCell (advanceTo t' s) (cellAt t' b q s)).ctrSink.contains (jccAt t' b s, (i : Nat)) = false →
      (∃ t, exec (.counterOperation t' b q i (.set r) pr) s = .next t ∧
        (tget ctDef (getCell t (cellAt t' b q s)).ct i).new = BitVec.ofNat 32 (relVal (2 ^ 32) q r)) ∧
      (∃ t, exec (.counterOperation t' b q i (.add r) pr) s = .next t ∧
        (tget ctDef (getCell t (cellAt t' b q s)).ct i).new =
          ctAt (getCell (advanceTo t' s) (cellAt t' b q s)) (jccAt t' b s) i + BitVec.ofNat 32 (relVal (2 ^ 32) q r)) ∧
      (∀ k, ∃ t, exec (.counterOperation t' b q i (.copy k) pr) s = .next t ∧
        (tget ctDef (getCell t (cellAt t' b q s)).ct i).new =
          ctAt (getCell (advanceTo t' s) (cellAt t' b q s)) (jccAt t' b s) k)) ∧
    (∀ (i : Fin 4) (g : CmpCfg), ∃ t, exec (.comparatorConfiguration t' b q i g pr) s = .next t ∧
      (tget cmpDef (getCell t (cellAt t' b q s)).cmp i).new = g ∧
      (tget cmpDef (getCell t (cellAt t' b q s)).cmp i).cyc = jccAt t' b s) ∧
    (∀ (v : Rel), (∃ t, exec (.laneRegisterWrite t' b q .cw v pr) s = .next t ∧
        (getCell t (cellAt t' b q s)).laneCw.new = relVal 8 q v ∧
        (getCell t (cellAt t' b q s)).laneCcw = (getCell (advanceTo t' s) (cellAt t' b q s)).laneCcw) ∧
      (∃ t, exec (.laneRegisterWrite t' b q .ccw v pr) s = .next t ∧
        (getCell t (cellAt t' b q s)).laneCcw.new = relVal 8 q v ∧
        (getCell t (cellAt t' b q s)).laneCw = (getCell (advanceTo t' s) (cellAt t' b q s)).laneCw)) ∧
    (∀ (w : Bool), rowOccupies (getCell (advanceTo t' s) (cellAt t' b q s)) (jccAt t' b s) = false →
      ∃ t, exec (.modeSet t' b q w pr) s = .next t ∧ (getCell t (cellAt t' b q s)).wide = w ∧
        (getCell t (cellAt t' b q s)).resident = [] ∧ (getCell t (cellAt t' b q s)).shadow = []) ∧
    (∀ (salt : W32), (getCell (advanceTo t' s) (cellAt t' b q s)).early.contains (jccAt t' b s, false) = false →
      ∃ t, exec (.seedOperation t' b q salt pr) s = .next t ∧
      ∀ a < 5, tget unseeded (getCell t (cellAt t' b q s)).gens a =
        seedGen (getPart (advanceTo t' s) (partOf (advanceTo t' s) b)).jobSeed
          ((getBand (advanceTo t' s) (cellAt t' b q s / 128)).lband * 128 + q) a salt)

/-- A bundle issues in the cycle of its slot and skew and performs its operations; one that another bundle comes before in the
same cycle, which has issued or waits to, is not performed and counts as a schedule fault.
The model's choices in it: log entries 6, 7 and 25. -/
def Obligations.BundlesIssue : Prop :=
  ∀ (t' : Nat) (b : Fin 32) (q : Fin 128) (slot : Nat) (sk : Skew) (order : Nat) (ops : List BundleOp) (s : State),
    CellLive t' b q s → (slot + skewOf q sk) % 2 ^ 48 = jccAt t' b s → (getBand (advanceTo t' s) b).perCell = false →
    (getBand (advanceTo t' s) b).seqState = 1 → bundleFits (getCell (advanceTo t' s) (cellAt t' b q s)).wide ops = true →
    (rival (advanceTo t' s) b q (jccAt t' b s) (cellAt t' b q s) slot order = false →
      exec (.bundleIssue t' b q slot sk order ops) s = .next (bundleOps (partOf (advanceTo t' s) b) (jccAt t' b s)
        (cellAt t' b q s) q ops (modCell (cellAt t' b q s) (fun c => { c with bundle := some (jccAt t' b s, slot, order) })
          (advanceTo t' s)))) ∧
    (rival (advanceTo t' s) b q (jccAt t' b s) (cellAt t' b q s) slot order = true →
      ∃ t, exec (.bundleIssue t' b q slot sk order ops) s = .next t ∧
        (getPart t (partOf (advanceTo t' s) b)).sfCount =
          satAdd 0xFFFF (getPart (advanceTo t' s) (partOf (advanceTo t' s) b)).sfCount 1 ∧
        t.cells = (advanceTo t' s).cells)

/-- The Armature cores: flags are issued, and applied one after another in later cycles; a wait stands until a value satisfies it; the core reads
MCC; sequencers and cores end, by END or by a fault of their own; a watchdog ends a wait with a cast that sets FAULT_CAST.
The model's choices in it: log entries 6, 7 and 26. -/
def Obligations.FlagsWaitsAndEnds : Prop :=
  (∀ (t' : Nat) (s : State),
    (∀ (b : Fin 32) (f : Fin 64) (v : W32), ArmRuns t' b s →
      (∃ t, exec (.flagSet t' b f v) s = .next t ∧ (getPart t (partOf (advanceTo t' s) b)).updates =
        insertUpd { band := b, at_ := (advanceTo t' s).clk.mcc, flag := f, add := false, v := v }
          (getPart (advanceTo t' s) (partOf (advanceTo t' s) b)).updates) ∧
      (∃ t, exec (.flagAdd t' b f v) s = .next t ∧ (getPart t (partOf (advanceTo t' s) b)).updates =
        insertUpd { band := b, at_ := (advanceTo t' s).clk.mcc, flag := f, add := true, v := v }
          (getPart (advanceTo t' s) (partOf (advanceTo t' s) b)).updates)) ∧
    (∀ (b : Fin 32) (f : Fin 64) (eq : Bool) (v : W32), ArmRuns t' b s →
      ∃ t, exec (.flagWait t' b f eq v) s = .next t ∧ (getBand t b).arm.st = .waitFlag ∧ (getBand t b).arm.flag = f ∧
        (getBand t b).arm.want = v ∧ (getBand t b).arm.since = jccAt t' b s ∧
        (getBand t b).arm.satisfied =
          waitHolds eq (getFlag (getPart (advanceTo t' s) (partOf (advanceTo t' s) b)) f).value v) ∧
    (∀ (p : Fin 4) (u : FlagUpd) (rest : List FlagUpd), (getPart (advanceTo t' s) p).updates = u :: rest →
      u.at_ < (advanceTo t' s).clk.mcc → (advanceTo t' s).clk.run = .running →
      ∃ t, exec (.flagUpdateApplied t' p) s = .next t ∧ (getPart t p).updates = rest ∧
        (getFlag (getPart t p) u.flag).value =
          (if u.add then (getFlag (getPart (advanceTo t' s) p) u.flag).value + u.v else u.v) ∧
        (getFlag (getPart t p) u.flag).setter = some u.band ∧
        (getFlag (getPart t p) u.flag).setGtc = (advanceTo t' s).clk.gtc) ∧
    (∀ (b : Fin 32), (getBand (advanceTo t' s) b).arm.st = .waitFlag → (getBand (advanceTo t' s) b).arm.satisfied = true →
      (advanceTo t' s).clk.run = .running → ∃ t, exec (.waitEnd t' b) s = .next t ∧ (getBand t b).arm.st = .running) ∧
    (∀ (b : Fin 32), ArmRuns t' b s →
      exec (.mccRead t' b) s = .next (emit (.mcc b (advanceTo t' s).clk.mcc) (advanceTo t' s)))) ∧
  (∀ (t' : Nat) (b : Fin 32) (s : State),
    (Live t' b s → (getBand (advanceTo t' s) b).seqState = 1 → ∃ t, exec (.sequencerEnd t' b) s = .next t ∧ (getBand t b).seqState = 2) ∧
    (ArmRuns t' b s → ∃ t, exec (.armatureEnd t' b) s = .next t ∧ (getBand t b).arm.st = .done) ∧
    (ArmRuns t' b s → ∃ t, exec (.armatureFault t' b) s = .next t ∧ (getBand t b).arm.st = .fault) ∧
    (partOf (advanceTo t' s) b < 4 → watchdogDue (advanceTo t' s) (partOf (advanceTo t' s) b) b = true →
      (getPart (advanceTo t' s) (partOf (advanceTo t' s) b)).pendCast = none →
      ∃ t c, exec (.waitWatchdog t' b) s = .next t ∧ (getPart t (partOf (advanceTo t' s) b)).pendCast = some c ∧
        c.fault = true ∧ c.wd = [(b : Nat)] ∧ c.at_ = some (faultBoundary (advanceTo t' s))))

/-- A capture delivers the lane of its slot where it is valid, its CHECK agrees, it is bound for the cells, it is old enough
and its TAG is that of the cycle; an emission whose source keeps its port puts a new lane behind the others with its fields.
With its predicate false a capture or an emission only asks for its ports.
The model's choices in it: log entries 6, 7, 20 and 25. -/
def Obligations.CaptureAndEmission : Prop :=
  ∀ (t' : Nat) (b : Fin 32) (q : Fin 128) (d : Dir) (pr : Option Pred) (s : State), CellLive t' b q s →
    (predOk (getCell (advanceTo t' s) (cellAt t' b q s)) (jccAt t' b s) pr = true →
      (∀ (dest : CapDest) (noise : Noise) (l0 l : Lane),
        laneSeen (getBand (advanceTo t' s) (cellAt t' b q s / 128)) (jccAt t' b s) (d == .ccw)
          ((if d == .ccw then (getCell (advanceTo t' s) (cellAt t' b q s)).laneCcw
            else (getCell (advanceTo t' s) (cellAt t' b q s)).laneCw).get (jccAt t' b s)) (cellAt t' b q s % 128) = some l0 →
        l0.flip (jccAt t' b s) noise = (l, true) → laneCheck l.data l.dest l.tag l.life = l.check → l.dest = 0 →
        0 ≤ l.age (jccAt t' b s) → ringTime (d == .ccw) (jccAt t' b s) q = l.tag →
        exec (.capture t' b q d dest noise pr) s = .next (deliver (partOf (advanceTo t' s) b) (jccAt t' b s)
          (cellAt t' b q s) q (d == .ccw) true dest l.data (advanceTo t' s))) ∧
      (∀ (lane dest laps : Nat) (tag : Rel) (src : EmSrc) (x : List Byte),
        laneAt (getBand (advanceTo t' s) (cellAt t' b q s / 128)) (jccAt t' b s) (d == .ccw) lane
          (cellAt t' b q s % 128) = none →
        (match src with
          | .staged => ∃ r, (getCell (advanceTo t' s) (cellAt t' b q s)).staged = x :: r
          | .sp a => portLoser (getCell (advanceTo t' s) (cellAt t' b q s)) (jccAt t' b s) false 0xF
                (b2n (d == .ccw) + 1)
                [bankOf (spAddrOf (getCell (advanceTo t' s) (cellAt t' b q s)) (jccAt t' b s) q a / 64 * 64)] = none ∧
              x = (spReadWord (partOf (advanceTo t' s) b) (jccAt t' b s) (cellAt t' b q s)
                (spAddrOf (getCell (advanceTo t' s) (cellAt t' b q s)) (jccAt t' b s) q a / 64 * 64) (advanceTo t' s)).1
          | .tile reg block ln es => passTileRead (getCell (advanceTo t' s) (cellAt t' b q s)) (jccAt t' b s) reg = false ∧
              (jccAt t' b s, reg) ∉ (getCell (advanceTo t' s) (cellAt t' b q s)).tileReads ∧
              x = tileLane (getCell (advanceTo t' s) (cellAt t' b q s)) (jccAt t' b s) reg block ln es false) →
        ∃ t l, exec (.emission t' b q d lane dest laps tag src pr) s = .next t ∧
          l ∈ (getBand t (cellAt t' b q s / 128)).lanes ∧ l.data = x ∧ l.ccw = (d == .ccw) ∧ l.origin = cellAt t' b q s % 128 ∧
          l.idx = lane ∧ l.dest = dest ∧ l.birth = jccAt t' b s ∧ l.tag = relVal 16 q tag ∧
          l.life = (if dest = 0 then 128 * laps - 1 else 127) ∧ l.check = laneCheck x dest l.tag l.life)) ∧
    (predOk (getCell (advanceTo t' s) (cellAt t' b q s)) (jccAt t' b s) pr = false →
      (∀ (dest : CapDest) (noise : Noise), ∃ t, exec (.capture t' b q d dest noise pr) s = .next t ∧
        (getBand t b).lanes = (getBand (advanceTo t' s) b).lanes) ∧
      (∀ (lane dest laps : Nat) (tag : Rel),
        exec (.emission t' b q d lane dest laps tag .staged pr) s = .next (advanceTo t' s)))

/-- A bank write of a capture that keeps its port puts the lane's 64 bytes into the scratchpad, byte by byte.
The model's choices in it: log entries 6, 7, 10 and 20. -/
def Obligations.CaptureIntoABank : Prop :=
  ∀ (p j cell q : Nat) (ccw : Bool) (a : SpAddr) (data : List Byte) (s : State), data.length = 64 →
    portLoser (getCell s cell) j true (if ccw then 0xD else 0xC) 1
      [bankOf (spAddrOf (getCell s cell) j q a / 64 * 64)] = none →
    ∀ i (h : i < data.length), readByte (getCell (deliver p j cell q ccw true (.bank a) data s) cell).sp.mem
      (spAddrOf (getCell s cell) j q a / 64 * 64 + i) = data[i]

/-- Lanes leave the ring when AGE has passed LIFE, and only then.
The model's choices in it: log entry 20. -/
def Obligations.LaneRemovalByAge : Prop :=
  ∀ (t' : Nat) (b : Fin 32) (s : State), Live t' b s →
    ∃ t, exec (.laneRemoval t' b) s = .next t ∧
      ∀ l, l ∈ (getBand t b).lanes ↔ l ∈ (getBand (advanceTo t' s) b).lanes ∧
        (l.dest = 0 → l.age (jccAt t' b s) ≤ l.life) ∧ (l.dest ≠ 0 → l.age (jccAt t' b s) ≤ 128)

/-- The head: the pop of a port word, the take of an injection, its placement on the ring, and the release of a lane to the
band port, the row engine or the seam.
The model's choices in it: log entries 6, 7 and 20. -/
def Obligations.HeadMovesWords : Prop :=
  ∀ (t' : Nat) (b : Fin 32) (s : State), Live t' b s →
    (∀ (x : Nat) (r : CurRun) (w : PortWord) (rest : List PortWord), (getBand (advanceTo t' s) b).seqState = 1 →
      (∀ n, (getBand (advanceTo t' s) b).used = some n → n.cyc ≠ jccAt t' b s) →
      tget none (getBand (advanceTo t' s) b).inRuns x = some r → 0 ≤ ageAt (jccAt t' b s) r.from_ →
      tget [] (getBand (advanceTo t' s) b).inStreams x = w :: rest → w.tag = jccAt t' b s % 16 →
      ∃ t, exec (.bandPortPop t' b [x]) s = .next t ∧ (getBand t b).popped = some (jccAt t' b s, w) ∧
        tget [] (getBand t b).inStreams x = rest ∧ tget none (getBand t b).inRuns x =
          (if r.left ≤ 1 then none else some { r with left := r.left - 1 })) ∧
    (∀ (src : InjSrc) (cw ccw : Bool) (lanes : List Nat) (laps tcw tccw : Nat),
      (getBand (advanceTo t' s) b).seqState = 1 →
      (∀ m ∈ (getBand (advanceTo t' s) b).lanes, m.emitted = true ∨ m.birth ≠ (jccAt t' b s + 129) % 2 ^ 48) →
      ∃ t new, exec (.headInjection t' b (.take src cw ccw lanes laps tcw tccw)) s = .next t ∧
        (getBand t b).lanes = (getBand (advanceTo t' s) b).lanes ++ new ∧
        new.map (fun l => (l.ccw, l.idx, l.dest, l.data)) =
          (injectData (getBand (advanceTo t' s) b) (jccAt t' b s) src cw ccw lanes laps).map
            (fun x => (x.1, x.2.1, x.2.2.2.1, x.2.2.2.2)) ∧
        ∀ l ∈ new, l.birth = (jccAt t' b s + 129) % 2 ^ 48 ∧ l.placed = false ∧ l.emitted = false) ∧
    (∀ (l : Lane), (getBand (advanceTo t' s) b).lanes.filter
        (fun x => x.places (getBand (advanceTo t' s) b).rot (jccAt t' b s)) = [l] →
      laneAt (getBand (advanceTo t' s) b) (jccAt t' b s) l.ccw l.idx (if l.ccw then 0 else 127) = none →
      ∃ t, exec (.headInjection t' b .place) s = .next t ∧ { l with placed := true } ∈ (getBand t b).lanes) ∧
    (∀ (l0 l : Lane), (getBand (advanceTo t' s) b).lanes.filter
        (fun x => x.placed && x.dest != 0 && x.age (jccAt t' b s) == 128) = [l0] → l0.idx < 8 →
      l0.flip (jccAt t' b s) [] = (l, true) → laneCheck l.data l.dest l.tag l.life = l.check →
      l.tag = jccAt t' b s % 16 →
      (l.dest = 1 → (∃ r, (getBand (advanceTo t' s) b).outRun = some r ∧ 0 ≤ ageAt (jccAt t' b s) r.from_) →
        ∃ t, exec (.headRelease t' b []) s = .next t ∧ l0 ∉ (getBand t b).lanes ∧
          (getBand t b).outAt = some (jccAt t' b s)) ∧
      (l.dest = 2 → ∃ t, exec (.headRelease t' b []) s = .next t ∧ l0 ∉ (getBand t b).lanes ∧
        (getBand t b).rowIn = [(jccAt t' b s, [(l0.idx, l.data)])]) ∧
      (l.dest = 3 → ∃ t, exec (.headRelease t' b []) s = .next t ∧ l0 ∉ (getBand t b).lanes ∧
        (getBand t b).seamOut = some (jccAt t' b s, [(l0.idx, l.data, l.check)])))

/-- The seam: a word placed on a legal track with a free stage is in flight; a word that arrives with the TAG of the cycle is
injected, or waits for the head.
The model's choices in it: log entries 6, 7 and 20. -/
def Obligations.SeamCarriesWords : Prop :=
  ∀ (t' : Nat) (b : Fin 32) (s : State), Live t' b s →
    (∀ (dst : Fin 32) (track : Fin 4) (tag : Nat) (lanes : List (Nat × List Byte × BitVec 16)),
      (getBand (advanceTo t' s) b).seqState = 1 →
      (getBand (advanceTo t' s) b).seamOut = some (jccAt t' b s, lanes) → trackOk b dst track = true →
      routeOk (advanceTo t' s) (partOf (advanceTo t' s) b) b dst = true →
      (advanceTo t' s).seam = [] →
      ∃ t, exec (.seamPlacement t' b dst track tag) s = .next t ∧ (getBand t b).seamOut = none ∧ t.seam = [{
        src := b, dst := dst, track := track, placedAt := jccAt t' b s, tag := tag % 16, lanes := lanes }]) ∧
    (∀ (w : SeamWord), (advanceTo t' s).seam.filter
        (fun x => x.dst == (b : Nat) && ageAt (jccAt t' b s) x.placedAt == (seamLatency x.src b : Int)) = [w] →
      w.tag = jccAt t' b s % 16 →
      (∃ t, exec (.seamArrival t' b true) s = .next t ∧ (getBand t b).seamGot = some (jccAt t' b s, w) ∧ w ∉ t.seam) ∧
      (∃ t, exec (.seamArrival t' b false) s = .next t ∧
        (getBand t b).seamQueue = (getBand (advanceTo t' s) b).seamQueue ++ [w] ∧ w ∉ t.seam))

/-- The matrix arrays: a pass starts with its first row three cycles on; its entry cycles count; partial sums are read and
outputs written in their cycles; a full shadow becomes resident; a weight chunk is on its way.
The model's choices in it: log entries 6, 7 and 22. -/
def Obligations.ArrayPasses : Prop :=
  ∀ (t' : Nat) (b : Fin 32) (q : Fin 128) (pr : Option Pred) (s : State), CellLive t' b q s →
    (∀ (e : QEntry) (rest : List QEntry) (d : PassDesc),
      (getCell (advanceTo t' s) (cellAt t' b q s)).arrayFifo = e :: rest → e.body = .array d →
      e.got ≠ some (jccAt t' b s) → passOk (getCell (advanceTo t' s) (cellAt t' b q s)).wide d = true →
      passBusy (getCell (advanceTo t' s) (cellAt t' b q s)) ((jccAt t' b s + 3) % 2 ^ 48) = false →
      ∃ t ps, exec (.rowPassStart t' b q e.seq pr) s = .next t ∧
        (getCell t (cellAt t' b q s)).passes = (getCell (advanceTo t' s) (cellAt t' b q s)).passes.filter (fun x =>
          !(decide (ageAt (jccAt t' b s) x.e0 ≥ 0) && decide ((ageAt (jccAt t' b s) x.e0).toNat ≥ x.cycles))) ++ [ps] ∧ ps.d = d ∧
        ps.e0 = (jccAt t' b s + 3) % 2 ^ 48 ∧
        ps.performed = predOk (getCell (advanceTo t' s) (cellAt t' b q s)) (jccAt t' b s) pr ∧
        (getCell t (cellAt t' b q s)).arrayFifo = rest) ∧
    (∀ (ps : Pass), (getCell (advanceTo t' s) (cellAt t' b q s)).passes.find? (·.due (jccAt t' b s)) = some ps →
      ∃ t, exec (.rowEntry t' b q) s = .next t ∧ ∀ x ∈ (getCell t (cellAt t' b q s)).passes, x.e0 = ps.e0 →
        x.n = (ageAt (jccAt t' b s) ps.e0).toNat + 1) ∧
    (∀ (st : Step) (a : Nat), (getCell (advanceTo t' s) (cellAt t' b q s)).steps = [st] → st.readAt = jccAt t' b s →
      st.inAddr = some a → st.performed = true →
      portLoser (getCell (advanceTo t' s) (cellAt t' b q s)) (jccAt t' b s) false st.array 0 [bankOf a] = none →
      ∃ t, exec (.partialSumRead t' b q []) s = .next t ∧ (getCell t (cellAt t' b q s)).steps = [{ st with
        psum := some (spReadWord (partOf (advanceTo t' s) b) (jccAt t' b s) (cellAt t' b q s) a (advanceTo t' s)).1 }]) ∧
    (∀ (st : Step), (getCell (advanceTo t' s) (cellAt t' b q s)).steps = [st] → st.writeAt = jccAt t' b s →
      st.ok = true → st.performed = true → st.inAddr = none →
      portLoser (getCell (advanceTo t' s) (cellAt t' b q s)) (jccAt t' b s) true st.array 0 [bankOf st.outAddr] = none →
      ∃ t, exec (.outputWrite t' b q) s = .next t ∧ (getCell t (cellAt t' b q s)).steps = [] ∧
        (getCell t (cellAt t' b q s)).sp = (getCell (advanceTo t' s) (cellAt t' b q s)).sp.puts (jccAt t' b s)
          (spread 0x80000 st.outAddr (stepWord st (zeros 64)).1)) ∧
    (∀ (a : Nat), predOk (getCell (advanceTo t' s) (cellAt t' b q s)) (jccAt t' b s) pr = true → a < 4 →
      (getCell (advanceTo t' s) (cellAt t' b q s)).early.contains (jccAt t' b s, true) = false →
      (∀ i < 4, ∃ sh, tget none (getCell (advanceTo t' s) (cellAt t' b q s)).shadow i = some sh ∧ sh.full = true) →
      ∃ t, exec (.swap t' b q 15 pr) s = .next t ∧ tget none (getCell t (cellAt t' b q s)).shadow a = none ∧
        (tget none (getCell t (cellAt t' b q s)).resident a).isSome = true) ∧
    (∀ (ar : Option Nat) (k : Nat) (tr : Bool) (f : OpFmt) (a : SpAddr),
      predOk (getCell (advanceTo t' s) (cellAt t' b q s)) (jccAt t' b s) pr = true →
      portLoser (getCell (advanceTo t' s) (cellAt t' b q s)) (jccAt t' b s) false 7 (ar.getD 0 + 1)
        [bankOf (spAddrOf (getCell (advanceTo t' s) (cellAt t' b q s)) (jccAt t' b s) q a / 64 * 64)] = none →
      ∃ t x, exec (.weightChunkWrite t' b q [.weightChunk ar k tr f (.sp a)] pr) s = .next t ∧
        x ∈ (getCell t (cellAt t' b q s)).chunkQ ∧ x.at_ = (jccAt t' b s + 2) % 2 ^ 48 ∧ x.array = ar ∧ x.chunk = k ∧
        x.transposed = tr ∧ x.fmt = f)

/-- The vector engine: a descriptor starts, issues a word a cycle, and its results and its operation status word are
written in their cycles.
The model's choices in it: log entries 2, 6, 7 and 23. -/
def Obligations.VectorDescriptors : Prop :=
  ∀ (t' : Nat) (b : Fin 32) (q : Fin 128) (pr : Option Pred) (s : State), CellLive t' b q s →
    (∀ (e : QEntry) (rest : List QEntry) (d : VecDesc),
      (getCell (advanceTo t' s) (cellAt t' b q s)).vecFifo = e :: rest → e.body = .vector d → vecOk d = true →
      e.got ≠ some (jccAt t' b s) →
      vecBusy (getCell (advanceTo t' s) (cellAt t' b q s)) (jccAt t' b s) = false →
      ∃ t v, exec (.vectorDescriptorStart t' b q e.seq pr) s = .next t ∧ (getCell t (cellAt t' b q s)).vec = some v ∧
        v.d = d ∧ v.start = jccAt t' b s ∧ v.words = vecWords d ∧
        v.performed = predOk (getCell (advanceTo t' s) (cellAt t' b q s)) (jccAt t' b s) pr ∧
        (getCell t (cellAt t' b q s)).vecFifo = rest) ∧
    (∀ (v : VecRun), (getCell (advanceTo t' s) (cellAt t' b q s)).vec = some v → v.performed = true →
      0 ≤ ageAt (jccAt t' b s) v.start → (ageAt (jccAt t' b s) v.start).toNat < v.words →
      ∃ t v', exec (.vectorWordIssue t' b q) s = .next t ∧ (getCell t (cellAt t' b q s)).vec = some v' ∧
        v'.issued = (ageAt (jccAt t' b s) v.start).toNat + 1 ∧ v'.d = v.d) ∧
    (∀ (o : VecOut), (getCell (advanceTo t' s) (cellAt t' b q s)).vecOuts = [o] → o.at_ = jccAt t' b s →
      o.performed = true → o.tile = false →
      (∀ v, (getCell (advanceTo t' s) (cellAt t' b q s)).vec = some v ∨
        (getCell (advanceTo t' s) (cellAt t' b q s)).vecOld = some v → v.held = none) →
      portLoser (getCell (advanceTo t' s) (cellAt t' b q s)) (jccAt t' b s) true 8 o.sub o.banks = none →
      ∃ t, exec (.vectorResultWrite t' b q) s = .next t ∧ (getCell t (cellAt t' b q s)).vecOuts = [] ∧
        (getCell t (cellAt t' b q s)).sp = (getCell (advanceTo t' s) (cellAt t' b q s)).sp.puts (jccAt t' b s) o.bytes ∧
        (getCell t (cellAt t' b q s)).staged = (getCell (advanceTo t' s) (cellAt t' b q s)).staged ++ o.ring) ∧
    (∀ (a : Nat) (w : W32), (getCell (advanceTo t' s) (cellAt t' b q s)).vecStatus = [(jccAt t' b s, a, some w)] →
      portLoser (getCell (advanceTo t' s) (cellAt t' b q s)) (jccAt t' b s) true 0xE 0 [bankOf a] = none →
      ∃ t, exec (.operationStatusWord t' b q) s = .next t ∧ (getCell t (cellAt t' b q s)).vecStatus = [] ∧
        (getCell t (cellAt t' b q s)).sp = (getCell (advanceTo t' s) (cellAt t' b q s)).sp.puts (jccAt t' b s)
          (spread 0x80000 a (leBytes 4 w.toNat)))

/-- The row engine: it takes a descriptor from the ROW queue, carries out a group with the lanes it needs, and drains.
The model's choices in it: log entries 1, 6, 7 and 24. -/
def Obligations.RowEngineDescriptors : Prop :=
  ∀ (t' : Nat) (b : Fin 32) (s : State), Live t' b s →
    (∀ (e : QEntry) (rest : List QEntry) (d : RowDesc), (getBand (advanceTo t' s) b).seqState = 1 →
      (getBand (advanceTo t' s) b).row = none →
      (getBand (advanceTo t' s) b).qRow = e :: rest → e.at_ + 3 ≤ (advanceTo t' s).clk.mcc →
      e.tag = jccAt t' b s % 16 → e.body = .row d → rowOk d = true →
      ∃ t r, exec (.rowDescriptorConsumption t' b) s = .next t ∧ (getBand t b).row = some r ∧ r.d = d ∧
        r.start = jccAt t' b s ∧ r.count = 0) ∧
    (∀ (r : RowRun), (getBand (advanceTo t' s) b).row = some r → r.count < rowGroups r.d →
      1 ≤ ageAt (jccAt t' b s) r.start →
      (((getBand (advanceTo t' s) b).rowIn.filter (fun x => x.1 == jccAt t' b s)).flatMap
        (fun x => x.2.map (·.2))).length = groupLanes r.d r.count →
      ∃ t r', exec (.rowGroupRelease t' b) s = .next t ∧ (getBand t b).row = some r' ∧ r'.d = r.d ∧
        r'.count = r.count + 1 ∧ r'.lastAt = jccAt t' b s ∧ (getBand t b).rowIn = []) ∧
    (∀ (r : RowRun) (d : Nat), (getBand (advanceTo t' s) b).row = some r → r.drainAt = some d →
      0 ≤ ageAt (jccAt t' b s) d →
      ∃ t, exec (.rowEngineDrain t' b) s = .next t ∧ (getBand t b).row = none ∧
        (getBand t b).rowDescs = satAdd 0xFFFF (getBand (advanceTo t' s) b).rowDescs 1)

/-- Inbound streams: an engine issues words of the next ready context; a word that arrives with the context's generation goes
to the band port and counts; one of an older generation is dropped and counted.
The model's choices in it: log entries 6, 7 and 26. -/
def Obligations.InboundStreams : Prop :=
  ∀ (k : Fin 4) (s : State), s.clk.run ≠ .stopped →
    (∀ (eng : Fin 64) (n key : Nat) (r : Region), nextReady s k eng = some n →
      resolve s (getCtx s k n).part (ctxRegion (getCtx s k n).img) = some (key, r) →
      ctxKind (getCtx s k n).img ≠ 1 →
      wordInside (boundSize s (getCtx s k n)) (getCtx s k n).img (getCtx s k n).next = true →
      ∃ t ws, exec (.streamTransferIssue k eng) s = .next t ∧ tget 0 (getPl t k).last eng = n ∧
        (getCtx t k n).flight = (getCtx s k n).flight ++ ws ∧ (getCtx t k n).next = (getCtx s k n).next + ws.length ∧
        (getReg t key).lastRead = (getPart s (key / 65536)).runs) ∧
    (∀ (n gen : Nat) (noise : Noise), gen ≠ (getCtx s k n).gen →
      ∃ t, exec (.fetchWordArrival k n gen noise) s = .next t ∧
        (getPl t k).stale = satAdd 0xFFFFFFFF (getPl s k).stale 1 ∧ t.bands = s.bands) ∧
    (∀ (n w : Nat) (rest : List Nat) (noise : Noise) (key : Nat) (r : Region) (bs : List Byte) (u : State),
      (getCtx s k n).flight = w :: rest → (getCtx s k n).st = .running → ctxKind (getCtx s k n).img = 0 →
      resolve s (getCtx s k n).part (ctxRegion (getCtx s k n).img) = some (key, r) →
      readWord { src := 0, part := some (getCtx s k n).part, ctx := some (k * 65536 + n), pol := 2 } r
        (64 * ctxOffset (getCtx s k n).img w) noise 8 s = (bs, true, u) →
      endpointStops s (getCtx s k n).part = false →
      ∃ t, exec (.fetchWordArrival k n (getCtx s k n).gen noise) s = .next t ∧ (getCtx t k n).flight = rest ∧
        (getCtx t k n).words = (getCtx s k n).words + 1 ∧
        tget [] (getBand t ((getCtx s k n).bands.headD 0)).inStreams (ctxStream (getCtx s k n).img) =
          tget [] (getBand s ((getCtx s k n).bands.headD 0)).inStreams (ctxStream (getCtx s k n).img) ++
            [{ tag := ctxTag (getCtx s k n).img w, mask := 0xFF, data := bs }]) ∧
    (∀ (n key : Nat) (r : Region), (getCtx s k n).st = .running →
      ctxWaits (getCtx s k n).img (getCtx s k n).next = true →
      resolve s (getCtx s k n).part (ctxRegion (getCtx s k n).img) = some (key, r) →
      (ucReached s (getCtx s k n) = true →
        ∃ t, exec (.updateCountReached k n) s = .next t ∧ (getCtx t k n).passed = (getCtx s k n).next + 1) ∧
      (ucReached s (getCtx s k n) = false → r.failed = true → ∃ t, exec (.updateCountReached k n) s = .next t ∧ (getCtx t k n).st = .fault))

/-- Outbound streams, multicasts and the hand-over of a shard; a store word, a grant or a shard of another generation is dropped and
counted; a multicast times out; the return of a drain token.
The model's choices in it: log entries 6, 7 and 26. -/
def Obligations.OutboundStreams : Prop :=
  ∀ (k : Fin 4) (n : Nat) (s : State), s.clk.run ≠ .stopped →
    (∀ (w : PortWord) (rest : List PortWord) (key : Nat) (r : Region), (getCtx s k n).st = .running →
      ctxKind (getCtx s k n).img = 1 → ctxState s k n = 2 → endpointStops s (getCtx s k n).part = false →
      tget [] (getBand s ((getCtx s k n).bands.headD 0)).outStreams (ctxStream (getCtx s k n).img) = w :: rest →
      resolve s (getCtx s k n).part (ctxRegion (getCtx s k n).img) = some (key, r) →
      wordInside (boundSize s (getCtx s k n)) (getCtx s k n).img (getCtx s k n).words = true → storeTurn s k n = true →
      ∃ t, exec (.storeWord k ⟨n, (getCtx s k n).gen⟩) s = .next t ∧ (getCtx t k n).words = (getCtx s k n).words + 1 ∧
        tget [] (getBand t ((getCtx s k n).bands.headD 0)).outStreams (ctxStream (getCtx s k n).img) = rest ∧
        (ctxTag (getCtx s k n).img (getCtx s k n).words ≠ w.tag → t.mem = s.mem)) ∧
    (∀ (e : Fin 8) (first : Nat) (ws : List PortWord) (g : Nat), (getCtx s k n).held = some (first, ws, g) →
      (getCtx s k n).flight = [] → (getCtx s k n).st = .running → ctxKind (getCtx s k n).img = 2 →
      (getCtx s k n).bands.contains (endpointBand k e) = true → (getCtx s k n).grants.contains (endpointBand k e) = false →
      ws.length ≤ inSpace s (endpointBand k e) (ctxStream (getCtx s k n).img) →
      (endpointStops s (getCtx s k n).part = true →
        ∃ t, exec (.mcastGrant k n ⟨(getCtx s k n).gen, e⟩) s = .next t ∧ (getCtx t k n).grants = endpointBand k e :: (getCtx s k n).grants) ∧
      (endpointStops s (getCtx s k n).part = false →
        (∀ x ∈ (getCtx s k n).bands, x = endpointBand k e ∨ x ∈ (getCtx s k n).grants) →
        ∃ t, exec (.mcastGrant k n ⟨(getCtx s k n).gen, e⟩) s = .next t ∧ (getCtx t k n).held = none ∧ (getCtx t k n).grants = [] ∧
          (getCtx t k n).words = (getCtx s k n).words + ws.length)) ∧
    (∀ (gen : Nat) (e : Fin 8), gen ≠ (getCtx s k n).gen →
      ∀ c ∈ [Instr.mcastGrant k n ⟨gen, e⟩, .storeWord k ⟨n, gen⟩, .shardHandoff k ⟨n, gen⟩],
        ∃ t, exec c s = .next t ∧ (getPl t k).stale = satAdd 0xFFFFFFFF (getPl s k).stale 1 ∧
          t.bands = s.bands ∧ t.chans = s.chans ∧ t.mem = s.mem) ∧
    (∀ (first : Nat) (ws : List PortWord) (g : Nat), (getCtx s k n).held = some (first, ws, g) →
      (getCtx s k n).flight = [] → ctxKind (getCtx s k n).img = 2 → (getCtx s k n).bands.filter (fun b => !(getCtx s k n).grants.contains b) ≠ [] →
      g + max 1 (getPl s k).mcastTo * 1000 ≤ s.clk.gtc →
      ∃ t, exec (.mcastTimeout k n) s = .next t ∧ (getCtx t k n).st = .fault ∧ (getCtx t k n).held = none) ∧
    ((getCtx s k n).st = .draining → 1 < (getCtx s k n).tokens →
      ∃ t, exec (.drainTokenReturn k n) s = .next t ∧ (getCtx t k n).tokens = (getCtx s k n).tokens - 1 ∧
        (getCtx t k n).st = .draining) ∧
    ((getCtx s k n).st = .draining → (getCtx s k n).tokens ≤ 1 →
      ∃ t, exec (.drainTokenReturn k n) s = .next t ∧ (getCtx t k n).st = .free ∧
        (getCtx t k n).gen = (getCtx s k n).gen) ∧
    (∀ (first : Nat) (ws : List PortWord) (g : Nat), (getCtx s k n).held = some (first, ws, g) →
      (getCtx s k n).flight = [] → ctxTotal (getCtx s k n).img ≤ ws.length → (getCtx s k n).st = .running →
      ctxKind (getCtx s k n).img = 3 → ctxState s k n = 2 →
      ctxShard (getCtx s k n).img = (getChan s (bits (ctxTarget (getCtx s k n).img) 0 10)).nextShard →
      ∃ t, exec (.shardHandoff k ⟨n, (getCtx s k n).gen⟩) s = .next t ∧
        (getChan t (bits (ctxTarget (getCtx s k n).img) 0 10)).st = .active ∧ (getCtx t k n).held = none ∧
        (getCtx t k n).words = (getCtx s k n).words + ctxTotal (getCtx s k n).img)

/-- The service commands of links and laser modules begin what their rules say.
The model's choices in it: log entries 7, 8, 27 and 30. -/
def Obligations.LinkAndLaserCommands : Prop :=
  ∀ (h : CmdHdr) (s : State),
    (∀ (l : Nat), l < 32 → Accepted h { op := 0x30, fields := [(8, 1, l)], claims := [.link l], modFatal := true } s → litLaser s (l / 8) = true →
      routesOver s l = false →
      ∃ t, exec (.linkTrain h l) s = .next t ∧ (getLink t l).st = .optical ∧ (getLink t l).txSeq = 0 ∧
        (getLink t l).rxSeq = 0 ∧ Waiting (slotOf h 0x30 s) (.link l false) t) ∧
    (∀ (l : Nat), l < 32 → Accepted h { op := 0x31, fields := [(8, 1, l)], claims := [.link l] } s → (getLink s l).st = .drained →
      ∃ t, exec (.linkRecal h l) s = .next t ∧ (getLink t l).st = .recal ∧ Waiting (slotOf h 0x31 s) (.link l false) t) ∧
    (∀ (l : Nat), l < 32 → Accepted h { op := 0x32, fields := [(8, 1, l)], claims := [.link l] } s → (getLink s l).st = .active →
      routesOver s l = false →
      ∃ t, exec (.linkDrain h l) s = .next t ∧ (getLink t l).drain = true ∧ (getLink t l).st = .active ∧
        (getLink t l).queue = (getLink s l).queue ++ [.msg .quiesce] ∧ Waiting (slotOf h 0x32 s) (.link l true) t) ∧
    (∀ (n : Nat), n < 4 → Accepted h { op := 0x92, fields := [(8, 1, n)], claims := .laser n :: (laserLinks n).map .link } s →
      (∀ l ∈ laserLinks n, (getLink s l).st ∈ [LinkSt.down, .drained, .failed, .noLight]) →
      ∃ t, exec (.laserOffline h n) s = .next t ∧ (getLaser t n).st = 4 ∧
        (∀ l ∈ laserLinks n, (getLink t l).st = .noLight) ∧ Replied (slotOf h 0x92 s) .ok 4 s t) ∧
    (∀ (n : Nat), n < 4 → Accepted h { op := 0x93, fields := [(8, 1, n)], claims := .laser n :: (laserLinks n).map .link } s →
      ((getLaser s n).st = 4 ∨ (getLaser s n).st = 0) →
      ∃ t, exec (.laserOnline h n true) s = .next t ∧ (getLaser t n).st = 3 ∧ Waiting (slotOf h 0x93 s) (.laserOn n) t)

/-- The retry protocol of a port: transmission of messages, data, CTRL messages and IDLE frames, acknowledgement, replay, credits
and failures; bytes that come in are a frame that failed where their CRC says so, and else what they spell.
The model's choices in it: log entries 7 and 27. -/
def Obligations.LinkRetry : Prop :=
  ∀ (l : Fin 32) (s : State), framing (getLink s l) = true →
    ((getLink s l).nakDue = false → (getLink s l).replay = [] →
      (∀ (f : Frame) (q : List Frame), readyMsg s.clk.gtc (getLink s l) = some (f, q) →
        ∃ t, exec (.frameTransmit l) s = .next t ∧ (getLink t l).queue = q ∧
          (getLink t l).unacked = (getLink s l).unacked ++ [((getLink s l).txSeq, f)] ∧
          (getLink t l).txSeq = ((getLink s l).txSeq + 1) % 4096 ∧
          t.out = .frame l (seqFrame (getLink s l).txSeq f) :: s.out) ∧
      (∀ (f : Frame) (q : List Frame), readyMsg s.clk.gtc (getLink s l) = none → readyData (getLink s l) = some (f, q) →
        ctrlDue s.clk.gtc (getLink s l) = false →
        ∃ t, exec (.frameTransmit l) s = .next t ∧ (getLink t l).queue = q ∧
          (getLink t l).unacked = (getLink s l).unacked ++ [((getLink s l).txSeq, f)] ∧
          (getLink t l).slotChan = frameChan f ∧ (getLink t l).slotOff = frameOff f + 1 ∧
          t.out = .frame l (seqFrame (getLink s l).txSeq f) :: s.out) ∧
      (readyMsg s.clk.gtc (getLink s l) = none → (getLink s l).ctrl ≠ [] →
        (readyData (getLink s l) = none ∨ ctrlDue s.clk.gtc (getLink s l) = true) →
        ∃ t, exec (.frameTransmit l) s = .next t ∧ (getLink t l).ctrl = (getLink s l).ctrl.drop 16 ∧
          (getLink t l).queue = (getLink s l).queue ∧ (getLink t l).txSeq = (getLink s l).txSeq ∧
          t.out = .frame l (ctrlFrame (((getLink s l).ctrl.take 16).flatMap (ctrlWords s l))) :: s.out) ∧
      (readyMsg s.clk.gtc (getLink s l) = none → (getLink s l).ctrl = [] → readyData (getLink s l) = none →
        ∃ t, exec (.frameTransmit l) s = .next t ∧ (getLink t l).queue = (getLink s l).queue ∧
          t.out = .frame l idleFrame :: s.out)) ∧
    (∀ (a r : Nat) (bs : List Byte),
      exec (.crcFailure l (.bytes a r bs)) s = .next (receiveFrame l (a, r) bs s) ∧
      (¬ (bs.length = 268 ∧ leNat (bs.drop 264) = (crc32c (bs.take 264)).toNat) →
        exec (.crcFailure l (.bytes a r bs)) s = exec (.crcFailure l .crc) s) ∧
      (∀ (seq c g o : Nat), bs.length = 256 → exec (.crcFailure l (.bytes a r (seqFrame seq (.red c g o bs)))) s =
        exec (.red l (seq % 4096) (c % 1024) (g % 65536) (o % 2 ^ 22) bs) s)) ∧
    (∀ (k : FrameFail), (∀ a r bs, k ≠ .bytes a r bs) → (getLink s l).nakSent = false →
      ∃ t, exec (.crcFailure l k) s = .next t ∧ (getLink t l).nakDue = true ∧ (getLink t l).nakSent = true ∧
        (getLink t l).rxSeq = (getLink s l).rxSeq ∧ (getLink t l).replays = satAdd 0xFFFFFFFF (getLink s l).replays 1 ∧
        (getLink t l).fecUe = (if k = .crc ∨ k = .reservedType then satAdd 0xFFFFFFFF (getLink s l).fecUe 1
          else (getLink s l).fecUe)) ∧
    (∀ (seq : Nat) (x : Nat × Frame) (rest : List (Nat × Frame)), fromSeq (seq % 4096) (getLink s l).unacked = x :: rest →
      ∃ t, exec (.ack l seq) s = .next t ∧ (getLink t l).unacked = rest ∧ (getLink t l).stuck = 0 ∧
        (getLink t l).row = 0) ∧
    (∀ (seq : Nat), fromSeq (seq % 4096) (getLink s l).unacked ≠ [] →
      (getLink s l).stuck < max 1 (getLink s l).retryMax →
      ∃ t, exec (.nak l seq) s = .next t ∧ (getLink t l).replay = fromSeq (seq % 4096) (getLink s l).unacked ∧
        (getLink t l).replays = satAdd 0xFFFFFFFF (getLink s l).replays 1) ∧
    (∀ (cls granted : Nat), cls < 3 → (granted + 65536 - tget 0 (getLink s l).granted cls % 65536) % 65536 < 32768 →
      ∃ t, exec (.credit l cls granted) s = .next t ∧ tget 0 (getLink t l).granted cls =
        tget 0 (getLink s l).granted cls + (granted + 65536 - tget 0 (getLink s l).granted cls % 65536) % 65536) ∧
    ((getLink s l).unacked ≠ [] → (getLink s l).progressGtc + max 1 (getLink s l).retryTo * 100 ≤ s.clk.gtc →
      (getLink s l).stuck < max 1 (getLink s l).retryMax →
      ∃ t, exec (.retryTimeout l) s = .next t ∧ (getLink t l).replay = (getLink s l).unacked) ∧
    (∃ t, exec (.ctrlUnknownKind l) s = .next t ∧ (getLink t l).viol = satAdd 0xFFFF (getLink s l).viol 1)

/-- Training of a link (Table 12.4): OPTICAL, EQUALISE, FEC_LOCK and PARAM, each with the end of the one before, lead to ACTIVE, and so
do the phases of RETRAIN, which keeps SEQ and replays, and of RECAL; a version that is not 1 leads to FAILED; so does a time limit that
passes, but that of RETRAIN, which begins again up to the third time in a row; a lost lock or a TRAIN frame on an ACTIVE link leads to
RETRAIN; the decoder's window counts.
The model's choices in it: log entries 7 and 27. -/
def Obligations.LinkTraining : Prop :=
  ∀ (l : Fin 32) (peerId peerLink seq : Nat) (credits : List Nat) (s : State),
    (∀ (v : Nat),
      ((getLink s l).st = .optical → ∃ t, exec (.trainingStateComplete l peerId peerLink v) s = .next t ∧
        (getLink t l).st = .equalise ∧ (getLink t l).phase = 2) ∧
      ((getLink s l).st = .equalise → ∃ t, exec (.trainingStateComplete l peerId peerLink v) s = .next t ∧
        (getLink t l).st = .fecLock ∧ (getLink t l).phase = 3) ∧
      ((getLink s l).st = .fecLock → ∃ t, exec (.trainingStateComplete l peerId peerLink v) s = .next t ∧
        (getLink t l).st = .param ∧ (getLink t l).phase = 4 ∧ Sent (.frame l (frameBytes (2 + 4 * 2 ^ 8)
          (Config.trainBody ([s.ident.fabId, (l : Nat), 1] ++ fullCredits ++ [(getLink s l).txSeq])))) s t) ∧
      (((getLink s l).st = .retrain ∨ (getLink s l).st = .recal) → (getLink s l).phase < 4 →
        ∃ t, exec (.trainingStateComplete l peerId peerLink v) s = .next t ∧ (getLink t l).st = (getLink s l).st ∧
          (getLink t l).phase = (getLink s l).phase + 1 ∧ (getLink t l).unacked = (getLink s l).unacked) ∧
      (((getLink s l).st = .param ∨ ((getLink s l).st = .retrain ∨ (getLink s l).st = .recal) ∧ 4 ≤ (getLink s l).phase) → v ≠ 1 →
        ∃ t, exec (.trainingStateComplete l peerId peerLink v) s = .next t ∧ (getLink t l).st = .failed ∧
          (getLink t l).unacked = [])) ∧
    (((getLink s l).st = .retrain ∨ (getLink s l).st = .recal) → 4 ≤ (getLink s l).phase →
      ∃ t, exec (.trainingStateComplete l peerId peerLink 1) s = .next t ∧ (getLink t l).st = .active ∧
        (getLink t l).calLive = true ∧ (getLink t l).rxSeq = (getLink s l).rxSeq ∧ (getLink t l).txSeq = (getLink s l).txSeq ∧
        (getLink t l).granted = (getLink s l).granted ∧ (getLink t l).replay = (getLink s l).unacked) ∧
    ((getLink s l).st = .param → ∃ t, exec (.trainingStateComplete l peerId peerLink 1) s = .next t ∧
      (getLink t l).st = .active ∧ (getLink t l).calLive = true ∧ (getLink t l).peerId = peerId % 2 ^ 48 ∧
      (getLink t l).rxSeq = (getLink s l).peerSeq % 4096 ∧
      ((getLink s l).peerCredits = [] → tget 0 (getLink t l).granted 0 = 1920 ∧ tget 0 (getLink t l).granted 1 = 1920 ∧
        tget 0 (getLink t l).granted 2 = 256) ∧
      ((getLink s l).peerCredits ≠ [] → ∀ cls < 3, tget 0 (getLink t l).granted cls = (getLink s l).peerCredits.getD cls 0)) ∧
    ((getLink s l).st = .param → 4 ≤ (getLink s l).phase →
      ∃ t, exec (.train l peerId peerLink 1 ⟨credits, seq⟩) s = .next t ∧ (getLink t l).st = .param ∧
        (getLink t l).peerCredits = credits ∧ (getLink t l).peerSeq = seq % 4096) ∧
    ((getLink s l).st ∈ [LinkSt.optical, .equalise, .fecLock, .param, .recal] →
      ∃ t, exec (.trainingStateTimeout l) s = .next t ∧ (getLink t l).st = .failed) ∧
    ((getLink s l).st = .retrain →
      ((getLink s l).row < 3 → ∃ t, exec (.trainingStateTimeout l) s = .next t ∧ (getLink t l).st = .retrain ∧
        (getLink t l).phase = 1 ∧ (getLink t l).row = (getLink s l).row + 1) ∧
      (3 ≤ (getLink s l).row → ∃ t, exec (.trainingStateTimeout l) s = .next t ∧ (getLink t l).st = .failed)) ∧
    ((getLink s l).st = .active → (getLink s l).row < 3 →
      (∃ t, exec (.lossOfLock l) s = .next t ∧ (getLink t l).st = .retrain ∧ (getLink t l).row = (getLink s l).row + 1) ∧
      (∃ t, exec (.train l peerId peerLink 1 ⟨credits, seq⟩) s = .next t ∧ (getLink t l).st = .retrain)) ∧
    ((getLink s l).st = .active → 3 ≤ (getLink s l).row →
      ∃ t, exec (.lossOfLock l) s = .next t ∧ (getLink t l).st = .failed) ∧
    ((getLink s l).st = .drained →
      ∃ t, exec (.train l peerId peerLink 1 ⟨credits, seq⟩) s = .next t ∧ (getLink t l).st = .recal) ∧
    (∀ (ue ce re : Nat), (s.pwr.st = .standby ∨ s.pwr.st = .aux → exec (.fecWindow l ue ce re) s = .next s) ∧
      (s.pwr.st ≠ .standby → s.pwr.st ≠ .aux → ∃ t, exec (.fecWindow l ue ce re) s = .next t ∧
      (getLink t l).fecUe = satAdd 0xFFFFFFFF (getLink s l).fecUe ue ∧
      (getLink t l).recalAdvise = ((getLink s l).recalAdvise || decide (re < (getLink s l).recalSer))))

/-- Fabric time: stamps are answered and taken, roots heard and advertised, and the module that hears no root becomes the
root when its priority is not 0.
The model's choices in it: log entries 7 and 28. -/
def Obligations.FabricTime : Prop :=
  ∀ (s : State),
    (∀ (l : Fin 32) (t1 t2 t3 : Nat), framing (getLink s l) = true →
      ∃ t, exec (.timeReq l t1 t2 t3) s = .next t ∧ .timeResp (stamp s t2) (t3 % 16) ∈ (getLink t l).ctrl ∧
        ∀ m ∈ (getLink s l).ctrl, m ∈ (getLink t l).ctrl) ∧
    (∀ (l : Fin 32) (t2 t3 t4 : Nat), framing (getLink s l) = true → s.fab.parent = some (l : Nat) →
      s.clk.timeState = 1 → s.fab.offsets.length < 15 →
      ∃ t, exec (.timeResp l t2 t3 t4) s = .next t ∧ t.clk = s.clk ∧ t.fab.offsets =
        (stampDiff t2 (getLink s l).t1 - stampDiff (stamp s t4) t3).fdiv 2 :: s.fab.offsets) ∧
    (∀ (l : Fin 32) (hops prio id : Nat), framing (getLink s l) = true →
      ∃ t, exec (.root l hops prio id) s = .next t ∧ (getLink t l).root = some (hops % 16, prio % 16, id % 2 ^ 48)) ∧
    (∀ (l : Nat), l < 32 → (getLink (chooseRoot s) l).st = .active →
      ∃ t, exec .rootAdvertisement s = .next t ∧
        .root ∈ (getLink t l).ctrl ∧ t.fab = (chooseRoot s).fab) ∧
    (∀ (l t1 : Nat), s.fab.parent = some l → framing (getLink s l) = true →
      ∃ t, exec (.timeExchange t1) s = .next t ∧ .timeReq (t1 % 16) ∈ (getLink t l).ctrl) ∧
    (bestHeard s = none → s.fab.rootPrio ≠ 0 → s.clk.timeState ≠ 1 → s.clk.timeState ≠ 2 →
      s.clk.timeState ≠ 3 →
      ((∀ l < 32, ∀ a, heardFar s l = some a → betterRoot a (s.fab.rootPrio, s.ident.fabId) = false) →
        ∃ t, exec .parentReselection s = .next t ∧ t.clk.timeState = 4 ∧ t.fab.hops = 0 ∧ t.fab.rootId = s.ident.fabId ∧
          t.fab.parent = none) ∧
      ((∃ l < 32, ∃ a, heardFar s l = some a ∧ betterRoot a (s.fab.rootPrio, s.ident.fabId) = true) →
        ∃ t, exec .parentReselection s = .next t ∧ t.clk.timeState = 0 ∧ t.fab.rootPrioOf = 0 ∧ t.fab.parent = none)) ∧
    (bestHeard s = none → s.fab.rootPrio ≠ 0 → s.clk.timeState = 3 →
      (∀ l < 32, ∀ a, heardFar s l = some a → betterRoot a (s.fab.rootPrio, s.ident.fabId) = false) →
      s.fab.lostGtc + s.fab.holdoverMs * 1000000 ≤ s.clk.gtc →
      ∃ t, exec .holdoverExpiry s = .next t ∧ t.clk.timeState = 4 ∧ t.fab.rootId = s.ident.fabId)

/-- Laser modules: degraded, failed, removed, locked and not locked in time; an open latch removes a module whose indicator is not lit,
and puts out the light of one whose indicator is lit.
The model's choices in it: log entries 7, 29 and 30. -/
def Obligations.LaserModuleEvents : Prop :=
  ∀ (n : Fin 4) (w : Fin 8) (pwr : BitVec 8) (s : State),
    (litLaser s n = true →
      (∃ t, exec (.laserDegraded n w pwr) s = .next t ∧ (getLaser t n).st = 2 ∧ (getLaser t n).outPwr = pwr ∧
        t.links = s.links) ∧
      (∃ t, exec (.laserFailed n w pwr) s = .next t ∧ (getLaser t n).st = 5 ∧ (getLaser t n).outPwr = pwr ∧
        ∀ l ∈ laserLinks n, (getLink t l).st = .noLight)) ∧
    (∃ t, exec (.laserRemoved n) s = .next t ∧ (getLaser t n).st = 0) ∧
    ((getLaser s n).st = 1 → ∃ t, exec (.latchOpened n) s = .next t ∧ (getLaser t n).st = 0) ∧
    ((getLaser s n).st = 2 → ∃ t, exec (.latchOpened n) s = .next t ∧ (getLaser t n).st = 5 ∧
      ∀ l ∈ laserLinks n, (getLink t l).st = .noLight) ∧
    ((getLaser s n).st = 3 → ∃ t, exec (.latchOpened n) s = .next t ∧ (getLaser t n).st = 5 ∧ t.links = s.links) ∧
    ((getLaser s n).st ∉ [1, 2, 3] → exec (.latchOpened n) s = .next s) ∧
    ((getLaser s n).st = 3 →
      (∃ t, exec (.wavelengthLock n) s = .next t ∧ (getLaser t n).st = 1) ∧
      (∃ t, exec (.wavelengthLockTimeout n true) s = .next t ∧ (getLaser t n).st = 0) ∧
      (∃ t, exec (.wavelengthLockTimeout n false) s = .next t ∧ (getLaser t n).st = 5))

/-- The management messages of a link (R244), messages that no rule knows, alone or as a later entry of a frame, reserved bits that are not 0, which are recorded and otherwise ignored, and a drain that the partner has not answered
within 1 ms: it ends, and the link stays as it was.
The model's choices in it: log entries 7 and 27. -/
def Obligations.LinkManagementMessages : Prop :=
  (∀ (l : Fin 32) (seq : Nat) (s : State), InOrder l seq 2 s → seq < 4096 →
    (routesOver s l = false → ∃ t, exec (.quiesce l seq) s = .next t ∧ (getLink t l).drain = true ∧
      (getLink t l).drainOk = true ∧ (getLink t l).rxSeq = ((getLink s l).rxSeq + 1) % 4096) ∧
    (routesOver s l = true → (getLink s l).st = .active → ∃ t, exec (.quiesce l seq) s = .next t ∧
      (getLink t l).queue = (getLink s l).queue ++ [.msg .quiesceRefuse] ∧ (getLink t l).drain = (getLink s l).drain) ∧
    ((getLink s l).drain = true → (getLink s l).st = .active → (getLink s l).unacked = [] →
      ∃ t, exec (.quiesceOk l seq) s = .next t ∧ (getLink t l).st = .drained ∧ (getLink t l).drain = false) ∧
    ((getLink s l).drain = true → ∃ t, exec (.quiesceRefuse l seq) s = .next t ∧ (getLink t l).drain = false ∧
      (getLink t l).st = (getLink s l).st) ∧
    (∀ (entry : W64), ∃ t, exec (.error l seq entry) s = .next t ∧ (getLink t l).rxSeq = ((getLink s l).rxSeq + 1) % 4096 ∧
      t.parts = s.parts ∧ t.chans = s.chans ∧ t.mem = s.mem ∧
      (t.log.head = (s.log.head + 1) % 2 ^ 32 ∨ t.log.suppressed = satAdd 0xFFFF s.log.suppressed 1)) ∧
    (∀ (chan : Nat) (bad : MsgFault), (∀ typ, bad ≠ .reserved typ) → ∃ t, exec (.msgUnknown l seq chan bad) s = .next t ∧
      (getLink t l).viol = satAdd 0xFFFF (getLink s l).viol 1 ∧ (getLink t l).violLast = 3 ∧ t.chans = s.chans)) ∧
  (∀ (l : Fin 32) (seq chan : Nat) (bad : MsgFault) (s : State), 4096 ≤ seq → framing (getLink s l) = true →
    (∀ typ, bad ≠ .reserved typ) → (getLink s l).msgSeq = some (seq % 4096) → ∃ t, exec (.msgUnknown l seq chan bad) s = .next t ∧
      (getLink t l).viol = satAdd 0xFFFF (getLink s l).viol 1 ∧ (getLink t l).rxSeq = (getLink s l).rxSeq ∧
      t.chans = s.chans) ∧
  (∀ (l : Fin 32) (seq chan typ : Nat) (s : State), framing (getLink s l) = true →
    ∃ t, exec (.msgUnknown l seq chan (.reserved typ)) s = .next t ∧ t.links = s.links ∧ t.chans = s.chans ∧
      (t.log.head = (s.log.head + 1) % 2 ^ 32 ∨ t.log.suppressed = satAdd 0xFFFF s.log.suppressed 1)) ∧
  (∀ (l : Fin 32) (s : State), (getLink s l).drain = true → (getLink s l).drainGtc + 1000000 ≤ s.clk.gtc →
    ∃ t, exec (.linkDrainTimeout l) s = .next t ∧ (getLink t l).drain = false ∧ (getLink t l).st = (getLink s l).st ∧
      ∀ x ∈ s.flights, x.kind = .link l true → Replied (refOf x) .timeout (linkCode (getLink s l).st) s t)

/-- CHANNEL_OPEN takes the generation its register holds; CHANNEL_CLOSE ends a step and waits for the drain tokens.
The model's choices in it: log entries 7, 8 and 29. -/
def Obligations.ChannelsOpenAndClose : Prop :=
  ∀ (h : CmdHdr) (c : Nat) (s : State), c < 1024 →
    (Accepted h { op := 0x40, fields := [(8, 2, c)], claims := [.channel c], modFatal := true } s → (getChan s c).st = .free →
      ((getPart s (chPart (getChan s c))).st = .bound ∨ (getPart s (chPart (getChan s c))).st = .done) →
      chanFields s (getChan s c) = true → chanBound s (getChan s c) = true →
      (∀ l, l < 32 → edgeRole (getChan s c) l ≠ 0 → (getLink s l).st = .active) →
      ∃ t, exec (.channelOpen h c) s = .next t ∧ (getChan t c).st = .open_ ∧ (getChan t c).gen = (getChan s c).nextGen ∧
        (getChan t c).fold = 0 ∧ (getChan t c).steps = 0 ∧ Replied (slotOf h 0x40 s) .ok (getChan s c).nextGen s t) ∧
    (Accepted h { op := 0x41, fields := [(8, 2, c)], claims := [.channel c] } s → Carries s c →
      (∃ k ∈ chChildren (getChan s c), (tget {} (getChan s c).edgeQ k).drained = false) →
      ∃ t, exec (.channelClose h c) s = .next t ∧ (getChan t c).st = .draining ∧ (getChan t c).localQ = [] ∧
        (getChan t c).outQ = [] ∧ Replied (slotOf h 0x41 s) .ok (getChan s c).gen s t)

/-- A channel's frames: a RED body in order counts on its edge, and waits there for its fold where its unit is still to be folded;
a PARAM body in order goes to the units to forward.
The model's choices in it: log entries 7 and 29. -/
def Obligations.ChannelFrames : Prop :=
  ∀ (l : Fin 32) (seq c gen : Nat) (body : List Byte) (s : State), c < 1024 → gen < 65536 → body.length = 256 →
    Carries s c → gen = (getChan s c).gen →
    (InOrder l seq 0 s → (edgeRole (getChan s c) l = 1 ∨ edgeRole (getChan s c) l = 2) → 0 < (getChan s c).units →
      ∃ t, exec (.red l seq c gen ((tget {} (getChan s c).edgeQ l).next % (getChan s c).units) body) s = .next t ∧
        (tget {} (getChan t c).edgeQ l).next = (tget {} (getChan s c).edgeQ l).next + 1 ∧
        (getLink t l).rxSeq = ((getLink s l).rxSeq + 1) % 4096 ∧
        ((getChan s c).fold ≤ (tget {} (getChan s c).edgeQ l).next →
          (edgeRole (getChan s c) l = 1 → (getChan s c).switched.contains (edgeRank (getChan s c) l) = false) →
          (getChan t c).st = .active ∧ (tget {} (getChan t c).edgeQ l).red = (tget {} (getChan s c).edgeQ l).red ++ [{
            offset := (tget {} (getChan s c).edgeQ l).next, body := body, gtc := s.clk.gtc }])) ∧
    (InOrder l seq 1 s → chOutput (getChan s c) = some (l : Nat) → 0 < chParams (getChan s c) →
      ∃ t, exec (.param l seq c gen ((getChan s c).paramNext % chParams (getChan s c)) body) s = .next t ∧
        (getChan t c).outQ = (getChan s c).outQ ++ [{
          offset := (getChan s c).paramNext, body := body, gtc := s.clk.gtc }] ∧
        (getChan t c).paramNext = (getChan s c).paramNext + 1 ∧
        (getLink t l).rxSeq = ((getLink s l).rxSeq + 1) % 4096)

/-- A channel's messages.
The model's choices in it: log entries 7 and 29. -/
def Obligations.ChannelMessages : Prop :=
  ∀ (l : Fin 32) (seq c gen : Nat) (s : State), c < 1024 → gen < 65536 → InOrder l seq 2 s → seq < 4096 → gen = (getChan s c).gen →
    (∀ (cause rank : Nat), Carries s c →
      (∃ t, exec (.fail l seq c gen cause rank) s = .next t ∧ (getChan t c).st = .fault ∧ (getChan t c).cause = 6) ∧
      (∃ t, exec (.stepFail l seq c gen cause rank) s = .next t ∧ (getChan t c).st = .fault ∧ (getChan t c).cause = 6)) ∧
    (∀ (v : Bool) (rank el : Nat), Carries s c → (getChan s c).repDue = [] → (tget {} (getChan s c).edgeQ l).skip = 0 →
      ∃ t, exec (.nanReport l seq c v rank el) s = .next t ∧ (tget {} (getChan t c).edgeQ l).reports =
        (tget {} (getChan s c).edgeQ l).reports ++ [(v, rank % 4096, el % 2 ^ 28)]) ∧
    ((getChan s c).st = .open_ → ∃ t, exec (.drain l seq c gen) s = .next t ∧ (getChan t c).st = .fault ∧
      (tget {} (getChan t c).edgeQ l).drained = true) ∧
    ((getChan s c).st = .draining → chOutput (getChan s c) = some (l : Nat) →
      (∀ k ∈ chChildren (getChan s c), (tget {} (getChan s c).edgeQ k).drained = true) →
      ∃ t, exec (.drainDone l seq c gen) s = .next t ∧ (getChan t c).st = .free) ∧
    (∀ (a : Nat), Carries s c → a < 2 ^ 45 → s.clk.gtc ≤ a → s.clk.gtc < 2 ^ 45 → s.castSeen.contains a = false →
      aligned s = true → (getPart s (chPart (getChan s c))).st = .running →
      (getPart s (chPart (getChan s c))).castGtc = none →
      ∃ t, exec (.castAt l seq c a) s = .next t ∧
        (getPart t (chPart (getChan s c))).castGtc = some (a, .castAt))

/-- The work of a node: folds of units, deadlines, the optimiser and the return of parameters.
The model's choices in it: log entries 7 and 29. -/
def Obligations.ChannelWork : Prop :=
  ∀ (c : Fin 1024) (s : State), (getChan s c).st = .active →
    (∀ (ps : List (Nat × Picked)), chTerms (getChan s c) ≠ [] → (getChan s c).units ≠ 0 →
      pickAll (getChan s c) s.clk.gtc (chTerms (getChan s c)) = some ps →
      ∃ t, exec (.unitFold c) s = .next t ∧ (getChan t c).fold = (getChan s c).fold + 1) ∧
    (∀ (w r : Nat), (getChan s c).waitFrom = some w → (getChan s c).deadline ≠ 0 →
      w + (getChan s c).deadline * 1000 ≤ s.clk.gtc → (r, Term.localTerm) ∈ chTerms (getChan s c) →
      pickTerm (getChan s c) s.clk.gtc (r, .localTerm) = none →
      ∃ t, exec (.deadline c) s = .next t ∧ (getChan t c).st = .fault ∧ (getChan t c).cause = 1) ∧
    (∀ (u : Nat) (sum : List W32) (km ks : Nat) (mr sr : Region) (x y : List Byte × State),
      (getChan s c).reduced = [(u, sum)] → resolve s (chPart (getChan s c)) (getChan s c).mreg = some (km, mr) →
      resolve s (chPart (getChan s c)) (getChan s c).sreg = some (ks, sr) →
      regionBytes { src := 1, part := some (chPart (getChan s c)), ctx := none, pol := 1 } mr
        ((getChan s c).mbase * 64 + u % (getChan s c).units * 256) 256 s = (x.1, true, x.2) →
      regionBytes { src := 1, part := some (chPart (getChan s c)), ctx := none, pol := 1 } sr
        ((getChan s c).sbase * 64 + u % (getChan s c).units * (if chOpt (getChan s c) = 0 then 256 else 512))
        (if chOpt (getChan s c) = 0 then 256 else 512) x.2 = (y.1, true, y.2) →
      ∃ t, exec (.optimiserStep c) s = .next t ∧ (getChan t c).updated = u + 1 ∧ (getChan t c).reduced = []) ∧
    (∀ (n : Nat), transferLen (getChan s c) = n → n ≠ 0 → lagging s (getChan s c) n = [] →
      ∃ t, exec (.paramTransfer c) s = .next t ∧ (getChan t c).outQ = (getChan s c).outQ.drop n ∧
        (getChan t c).returned =
          (if (getChan s c).returned + n = chParams (getChan s c) then 0 else (getChan s c).returned + n)) ∧
    (∀ (g : Nat), (getChan s c).outFrom = some g → transferLen (getChan s c) ≠ 0 →
      lagging s (getChan s c) (transferLen (getChan s c)) ≠ [] → g + max 1 s.redMcastTo * 1000 ≤ s.clk.gtc →
      ∃ t, exec (.paramMulticastTimeout c) s = .next t ∧ (getChan t c).st = .fault ∧ (getChan t c).cause = 3)

/-- LOAD_MAQUETTE takes an image that every check passes: the partition is LOADED with it; a maquette that is not what device memory
holds is the model's own case, and is refused (log entry 8); BIND places it, and leaves it LOADED
when a program that was loaded does not verify.
The model's choices in it: log entries 8, 13 and 31. -/
def Obligations.LoadAndBind : Prop :=
  ∀ (h : CmdHdr) (part : Nat) (s : State), part < 4 →
    (∀ (loc addr size : Nat) (img : Maquette), 1 ≤ size → locOk h loc = true → bulkOk s loc addr size = true →
      Accepted h {
        op := 0x10, fields := [(8, 1, part), (9, 1, loc), (16, 8, addr), (24, 8, size)], loc := some loc
        claims := partClaims s part, modFatal := true } s →
      (getPart s part).st ≠ .running → (getPart s part).st ≠ .paused →
      (∀ (bs : Option (List Byte)) (u : State), BulkRead loc addr size bs (taken h s) u →
        (imageIs bs img = true → u.sec.st = .operational → loadCheck u part size img = none →
          ∃ t, exec (.loadMaquette h part loc addr size img) s = .next t ∧ (getPart t part).st = .loaded ∧
            (getPart t part).maq = some img ∧ (getPart t part).runs = 0 ∧ Replied (slotOf h 0x10 s) .ok 0 s t) ∧
        (imageIs bs img = false → ∃ t, exec (.loadMaquette h part loc addr size img) s = .next t ∧ t.parts = s.parts ∧
          Replied (slotOf h 0x10 s) .badParam 0 s t)) ∧
      (loc = 1 → (spaceRead addr (size / 64 + 2) size (taken h s)).1 = none →
        ∃ t, exec (.loadMaquette h part loc addr size img) s = .next t ∧ (getPart t part).maq = (getPart s part).maq ∧
          Replied (slotOf h 0x10 s) .fault 0 s t)) ∧
    (∀ (loc : Nat) (ex : Bool) (tb tab : List (Nat × Nat)) (table : Nat) (m : Maquette) (pl : List (Nat × Nat)) (v u : State),
      locOk h loc = true → Accepted h {
        op := 0x11, fields := [(8, 1, part), (9, 1, loc), (10, 1, b2n ex), (16, 8, table), (24, 8, 0)], loc := some loc
        claims := partClaims s part, modFatal := true } s →
      (getPart s part).st = .loaded →
      (ex = false ∧ tab = tb ∧ v = taken h s ∨
        ex = true ∧ bulkOk s loc table (tableBytes s part) = true ∧
          ∃ bs, BulkRead loc table (tableBytes s part) bs (taken h s) v ∧ tab = (bs.map tableOf).getD tb) →
      (getPart v part).st = .loaded → (getPart v part).maq = some m →
      (ex = true → m.bands.length ≤ tab.length ∧ ∀ x ∈ tab, x.1 < 32 ∧ x.2 < 128) →
      (∀ x ∈ v.regions, x.1 / 65536 = part → x.2.imported = false) →
      bindChoice v part m ex tab = .ok pl → bindTo part m pl v = .ok u →
      (∃ t, exec (.bind h part loc ex tb ⟨0, false, table⟩) s = .next t ∧ (getPart t part).st = .bound ∧
        (getPart t part).binding = pl ∧ Replied (slotOf h 0x11 s) .ok (pl.foldl (fun a x => a ||| 2 ^ x.1) 0) s t) ∧
      (∃ t, exec (.bind h part loc ex tb ⟨0, true, table⟩) s = .next t ∧ (getPart t part).st = .loaded ∧ t.bands = v.bands ∧
        Replied (slotOf h 0x11 s) .fault 0 s t))

/-- The clocks: the sync pulse captures MCC and GTC; a PLL that loses lock is noted; JCC wraps to 0; a frequency change stops
the clocks at its boundary and starts them at the new level.
The model's choices in it: log entries 7, 15, 16 and 33. -/
def Obligations.ClockEvents : Prop :=
  ∀ (s : State),
    (∀ (f : MonFind), s.clk.run = .running → (advanceTo (nextPulse s) s).clk.run = .running → ∃ t, exec (.syncPulse f) s = .next t ∧
      t.clk.syncMcc = (advanceTo (nextPulse s) s).clk.mcc ∧ t.clk.syncGtc = (advanceTo (nextPulse s) s).clk.gtc ∧
      t.clk.pulse = some t.clk.syncMcc) ∧
    (∀ (r : Fin 46), regionRuns s r = true → ∃ t, exec (.pllUnlock r) s = .next t ∧ t.clk.stsUnlock = true ∧
      t.clk.stsRegion = r) ∧
    (∀ (p : Fin 4), s.clk.run = .running → s.clk.pendingChange = false → (getPart s p).islandRuns = true → (getPart s p).jcc < 2 ^ 48 →
      (getPart s p).endJcc = none → 2 ^ 48 - (getPart s p).jcc ≤ 64 - s.clk.mcc % 64 →
      ∃ t, exec (.jccWrap p) s = .next t ∧ (getPart t p).jcc = 0 ∧ (getPart t p).wrap = true) ∧
    (s.clk.pendingChange = true → s.clk.run = .running → s.clk.mcc ≤ s.clk.freqAt → s.clk.freqAt < 2 ^ 64 →
      ∃ t, exec .frequencyPause s = .next t ∧ t.clk.run = .pause ∧ t.clk.mcc = s.clk.freqAt ∧
        t.clk.curLevel = s.clk.curLevel) ∧
    (s.clk.run = .pause → s.clk.queuedTgt = none → s.clk.gtc < 2 ^ 64 →
      ∃ t, exec .frequencyRestart s = .next t ∧ t.clk.run = .running ∧ t.clk.curLevel = s.clk.tgtLevel ∧
        t.clk.pendingChange = false ∧ t.clk.pauses = satAdd 0xFFFF s.clk.pauses 1 ∧ t.clk.mcc = s.clk.mcc ∧ t.clk.gtc ≤ max s.clk.gtc (s.clk.pauseGtc + 40000) ∧
        ∀ (p : Fin 4), (getPart t p).jcc = (getPart s p).jcc ∧ (getPart t p).st = (getPart s p).st)

/-- Holds: 40 cycles before a boundary each band port tests the words and the space that its schedule needs, and asks for a hold
when they are not there; the requests decide there whether JCC stands for 64 cycles. At a boundary that no test has found covered JCC
stands too, which is the model's choice (log entry 6).
The model's choices in it: log entries 6 and 7. -/
def Obligations.HoldsAtBoundaries : Prop :=
  ∀ (t' : Nat) (p : Fin 4) (s : State), (advanceTo t' s).clk.mcc = t' → (advanceTo t' s).clk.run = .running →
    (getPart (advanceTo t' s) p).st = .running →
    (∀ (ws : List PortWindow), (t' + 40) % 64 = 0 →
      ∃ t, exec (.holdRequest t' p ws) s = .next t ∧ (getPart t p).reqFor = some (t' + 40) ∧
        (∀ w ∈ ws, partOf s w.band = p → (getBand (advanceTo t' s) w.band).bound = true →
          (∃ k ∈ w.pops, (tget [] (getBand (advanceTo t' s) w.band).inStreams k.1).length < k.2) →
          ∃ x ∈ (getPart t p).reqs, x.1 = w.band ∧ x.2.1 = true) ∧
        (∀ w ∈ ws, partOf s w.band = p → (getBand (advanceTo t' s) w.band).bound = true →
          (∃ k ∈ w.sends, (tget [] (getBand (advanceTo t' s) w.band).outStreams k.1).length + k.2 >
            tget 0 (getBand (advanceTo t' s) w.band).allocOut k.1) →
          ∃ x ∈ (getPart t p).reqs, x.1 = w.band ∧ x.2.2 = true) ∧
        (∀ x ∈ (getPart t p).reqs, ∃ w ∈ ws, x = portAsks (advanceTo t' s) w ∧ partOf s w.band = p ∧
          (x.2.1 = true ∨ x.2.2 = true))) ∧
    ((advanceTo (t' + 1) (advanceTo t' s)).clk.run = .running → (getPart (advanceTo t' s) p).decided ≠ some (t' + 1) →
      t' + 1 < 2 ^ 64 → (t' + 1) % 64 = 0 → (getPart (advanceTo t' s) p).pauseAt = none →
      castDue (advanceTo (t' + 1) (advanceTo t' s)) (getPart (advanceTo (t' + 1) (advanceTo t' s)) p) = none →
      (getPart (advanceTo (t' + 1) (advanceTo t' s)) p).endJcc ≠ some (getPart (advanceTo (t' + 1) (advanceTo t' s)) p).jcc →
      ((reqsAt (getPart (advanceTo t' s) p) (t' + 1) ≠ [] ∨ windowCovered (getPart (advanceTo t' s) p) (t' + 1) = false) →
        ∃ t, exec (.holdDecision t' p) s = .next t ∧ (getPart t p).held = true ∧
          (getPart t p).holdUnits = ((getPart (advanceTo t' s) p).holdUnits + 1) % 2 ^ 64) ∧
      (windowCovered (getPart (advanceTo t' s) p) (t' + 1) = true →
        ∃ t, exec (.holdDecision t' p) s = .next t ∧ (getPart t p).held = false ∧
          (getPart t p).holdUnits % 2 ^ 64 = (getPart (advanceTo t' s) p).holdUnits % 2 ^ 64))

/-- While a partition is held, or not RUNNING, its static island does nothing: every event of a cell, a head, a
sequencer, a seam or the row engine only lets time pass; after its END a sequencer has no operations. A predicate that is false leaves a counter operation, a
comparator configuration, a lane register write, a swap, a mode set, a seed operation and an emission of staged data without
effect.
The model's choices in it: log entries 6 and 7. -/
def Obligations.EventsThatOnlyLetTimePass : Prop :=
  (∀ (t' : Nat) (b : Fin 32) (q : Fin 128) (s : State), ¬ Live t' b s →
    (∀ sl sk o ops, exec (.bundleIssue t' b q sl sk o ops) s = .next (advanceTo t' s)) ∧
    (∀ d dest n pr, exec (.capture t' b q d dest n pr) s = .next (advanceTo t' s)) ∧
    (∀ d la de lp tg sr pr, exec (.emission t' b q d la de lp tg sr pr) s = .next (advanceTo t' s)) ∧
    (exec (.laneRemoval t' b) s = .next (advanceTo t' s)) ∧
    (∀ xs, exec (.bandPortPop t' b xs) s = .next (advanceTo t' s)) ∧
    (∀ i, exec (.headInjection t' b i) s = .next (advanceTo t' s)) ∧
    (∀ n, exec (.headRelease t' b n) s = .next (advanceTo t' s)) ∧
    (exec (.rowEntry t' b q) s = .next (advanceTo t' s)) ∧
    (exec (.outputWrite t' b q) s = .next (advanceTo t' s)) ∧
    (exec (.vectorWordIssue t' b q) s = .next (advanceTo t' s)) ∧
    (exec (.vectorResultWrite t' b q) s = .next (advanceTo t' s)) ∧
    (∀ v, exec (.queueRelease t' b v) s = .next (advanceTo t' s)) ∧
    (exec (.rowDescriptorConsumption t' b) s = .next (advanceTo t' s)) ∧
    (exec (.rowGroupRelease t' b) s = .next (advanceTo t' s)) ∧
    (exec (.sequencerEnd t' b) s = .next (advanceTo t' s)) ∧
    (∀ n pr, exec (.rowPassStart t' b q n pr) s = .next (advanceTo t' s)) ∧
    (∀ n, exec (.partialSumRead t' b q n) s = .next (advanceTo t' s)) ∧
    (∀ l pr, exec (.weightChunkWrite t' b q l pr) s = .next (advanceTo t' s)) ∧
    (∀ m pr, exec (.swap t' b q m pr) s = .next (advanceTo t' s)) ∧
    (∀ w pr, exec (.modeSet t' b q w pr) s = .next (advanceTo t' s)) ∧
    (∀ salt pr, exec (.seedOperation t' b q salt pr) s = .next (advanceTo t' s)) ∧
    (∀ i o pr, exec (.counterOperation t' b q i o pr) s = .next (advanceTo t' s)) ∧
    (∀ i g pr, exec (.comparatorConfiguration t' b q i g pr) s = .next (advanceTo t' s)) ∧
    (∀ d v pr, exec (.laneRegisterWrite t' b q d v pr) s = .next (advanceTo t' s)) ∧
    (∀ n pr, exec (.vectorDescriptorStart t' b q n pr) s = .next (advanceTo t' s)) ∧
    (exec (.operationStatusWord t' b q) s = .next (advanceTo t' s)) ∧
    (∀ dst track tag, exec (.seamPlacement t' b dst track tag) s = .next (advanceTo t' s)) ∧
    (∀ inj, exec (.seamArrival t' b inj) s = .next (advanceTo t' s)) ∧
    (∀ v, exec (.cellFifoDelivery t' b v) s = .next (advanceTo t' s)) ∧
    (exec (.portRunEntry t' b) s = .next (advanceTo t' s)) ∧
    (exec (.rowEngineDrain t' b) s = .next (advanceTo t' s)) ∧
    (∀ tap f n tag, exec (.tapOperation t' b tap f n tag) s = .next (advanceTo t' s)) ∧
    (exec (.digestRecordRelease t' b) s = .next (advanceTo t' s))) ∧
  (∀ (t' : Nat) (b : Fin 32) (q : Fin 128) (pr : Option Pred) (s : State), CellLive t' b q s →
    predOk (getCell (advanceTo t' s) (cellAt t' b q s)) (jccAt t' b s) pr = false →
    (∀ i o, exec (.counterOperation t' b q i o pr) s = .next (advanceTo t' s)) ∧
    (∀ i g, exec (.comparatorConfiguration t' b q i g pr) s = .next (advanceTo t' s)) ∧
    (∀ d v, exec (.laneRegisterWrite t' b q d v pr) s = .next (advanceTo t' s)) ∧
    (∀ m, exec (.swap t' b q m pr) s = .next (advanceTo t' s)) ∧
    (∀ w, exec (.modeSet t' b q w pr) s = .next (advanceTo t' s)) ∧
    (∀ salt, exec (.seedOperation t' b q salt pr) s = .next (advanceTo t' s)) ∧
    (∀ d lane dest laps tag, exec (.emission t' b q d lane dest laps tag .staged pr) s = .next (advanceTo t' s))) ∧
  (∀ (t' : Nat) (b : Fin 32) (s : State), (getBand (advanceTo t' s) b).seqState ≠ 1 →
    (∀ xs, exec (.bandPortPop t' b xs) s = .next (advanceTo t' s)) ∧
    (∀ src cw ccw la lp x y, exec (.headInjection t' b (.take src cw ccw la lp x y)) s = .next (advanceTo t' s)) ∧
    (∀ dst track tag, exec (.seamPlacement t' b dst track tag) s = .next (advanceTo t' s)) ∧
    (∀ v, exec (.queueRelease t' b v) s = .next (advanceTo t' s)) ∧
    (exec (.portRunEntry t' b) s = .next (advanceTo t' s)) ∧
    (∀ tap f n tag, exec (.tapOperation t' b tap f n tag) s = .next (advanceTo t' s)) ∧
    (exec (.rowDescriptorConsumption t' b) s = .next (advanceTo t' s)) ∧
    (exec (.sequencerEnd t' b) s = .next (advanceTo t' s)))

/-- Dumps, digest taps and samples: a cut object or a tensor region is copied out, behind its header, to host memory or to a tier;
taps are armed and taken away; a sample takes every live counter; a tap operation starts a tap; a released record counts. That a
sample falls at its GTC, and that time moves on to it, is the model's choice (log entry 6).
The model's choices in it: log entries 6, 7, 14, 35 and 51. -/
def Obligations.Observation : Prop :=
  ∀ (s : State),
    (∀ (h : CmdHdr) (part loc step addr len : Nat) (c : Cut) (data : List Byte) (u : State), part < 4 → step < 2 ^ 32 →
      locOk h loc = true → bulkOk s loc addr len = true → Accepted h {
        op := 0x60, fields := [(8, 1, part), (9, 1, loc), (10, 2, 0xFFFF), (12, 4, step), (16, 8, addr), (24, 8, len)], loc := some loc
        names := [.part part] } s →
      cutNames part step s = true →
      (getPart s part).st = .cast → (getPart s part).cut = some c → cutObject part step c (taken h s) = some (data, u) →
      64 + data.length ≤ len →
      ∃ t, exec (.dumpTensor h part loc 0xFFFF step addr len) s = .next t ∧
        Replied (slotOf h 0x60 s) .ok (64 + data.length) s t ∧
        ((getRing s h.ring).loc = false → BulkWritten loc addr (dumpHeader part 1 0xFFFF step c.gtc c.time c.jcc data ++ data) s u t)) ∧
    (∀ (h : CmdHdr) (part loc point step addr len key : Nat) (g : Region), part < 4 → point < 0xFFFF → step < 2 ^ 32 →
      locOk h loc = true → bulkOk s loc addr len = true → Accepted h {
        op := 0x60, fields := [(8, 1, part), (9, 1, loc), (10, 2, point), (12, 4, step), (16, 8, addr), (24, 8, len)], loc := some loc
        names := [.part part] } s →
      (getPart s part).st = .running → resolve s part point = some (key, g) →
      64 + (getReg s (regKey part point)).size * 65536 ≤ len →
      (getPart s part).runs ≤ step →
      ∃ t, exec (.dumpTensor h part loc point step addr len) s = .next t ∧
        Waiting (slotOf h 0x60 s) (.dump part) t ∧ ∃ d, (getPart t part).dump = (getPart s part).dump ++ [d] ∧
          d.handle = point ∧ d.step = step ∧ d.copying = false) ∧
    (∀ (p : Fin 4) (d : DumpJob) (key : Nat) (g : Region) (x : Flight) (data : List Byte) (ok : Bool) (u : State),
      (getPart s p).dump.find? (fun d => d.copying) = some d → resolve s p d.handle = some (key, g) → x ∈ s.flights →
      x.kind = .dump p → x.ring = d.ring → x.slot = d.slot →
      regionRead { src := 0, part := some (p : Nat), ctx := none, pol := 1 } g 0 ((getReg s (regKey p d.handle)).size * 1024)
        ((List.range (getReg s (regKey p d.handle)).size).foldl (fun s i => chargeRegion g (65536 * i) 65536 s) s) = (data, ok, u) →
      ∃ t, exec (.dumpCopyComplete p) s = .next t ∧ d ∉ (getPart t p).dump ∧
        Replied (refOf x) .ok (64 + (getReg s (regKey p d.handle)).size * 65536) s t ∧
        ((getRing s d.ring).loc = false →
          BulkWritten d.loc d.addr (dumpHeader p 0 d.handle d.step d.startGtc d.startTime d.doneJcc data ++ data) s u t)) ∧
    (∀ (h : CmdHdr) (part loc tap addr entries : Nat), part < 4 → tap ≤ 0xFFFE → locOk h loc = true →
      (getPart s part).st ≠ .empty →
      (Accepted h {
          op := 0x61, fields := [(8, 1, part), (9, 1, loc), (10, 2, tap), (12, 1, 1), (16, 8, addr), (24, 4, entries)], loc := some loc
          names := [.part part] } s →
        1 ≤ entries → entries < 2 ^ 32 → bulkOk s loc addr (64 * entries) = true →
        ∃ t, exec (.digestTapArm h part loc tap addr entries) s = .next t ∧
          (getPart t part).taps = (getPart s part).taps.filter (fun x => x.tap != tap) ++
            [{ tap := tap, loc := loc, addr := addr, entries := entries, next := 0 }] ∧
          Replied (slotOf h 0x61 s) .ok 0 s t) ∧
      (Accepted h { op := 0x61, fields := [(8, 1, part), (9, 1, loc), (10, 2, tap), (12, 1, 0)], loc := some loc, names := [.part part] } s →
        ∃ t, exec (.digestTapDisarm h part loc tap) s = .next t ∧
        (getPart t part).taps = (getPart s part).taps.filter (fun x => x.tap != tap) ∧
        Replied (slotOf h 0x61 s) .ok 0 s t)) ∧
    (∀ (g : Nat), g % 1000000 = 0 → s.clk.gtc ≤ g → g ≤ (advanceGtc g s).clk.gtc → s.pwr.st ≠ .aux →
      (s.clk.gtc < g ∨ s.patina.seq = 0 ∨ s.patina.sampleGtc ≠ g) →
      ∃ t, exec (.patinaSample g) s = .next t ∧ t.patina.sample = t.patina.live ∧ t.patina.sampleGtc = g ∧
        t.patina.live = (advanceGtc g s).patina.live ∧
        t.patina.seq = (if s.clk.gtc < g then (advanceGtc g s).patina.seq else (s.patina.seq + 1) % 2 ^ 32)) ∧
    (∀ (g : Nat), g % 1000000 = 0 → s.clk.gtc ≤ g → (advanceGtc g s).clk.gtc < g → s.pwr.st ≠ .aux →
      exec (.patinaSample g) s = .next (advanceGtc g s)) ∧
    (∀ (d k : Nat), s.pwr.st ≠ .aux → s.clk.gtc < k * 1000000 → k * 1000000 ≤ (tickAll d s).clk.gtc →
      (tickAll d s).clk.gtc < (k + 1) * 1000000 → (k - 1) * 1000000 ≤ s.clk.gtc →
      (tickAll d s).patina.sampleGtc = k * 1000000 ∧ (tickAll d s).patina.seq = (s.patina.seq + 1) % 2 ^ 32 ∧
        (tickAll d s).patina.sample = liveAfter s (min d (cyclesTo s (k * 1000000)))) ∧
    (∀ (t' : Nat) (b : Fin 32) (tap k n tag : Nat) (fmt : Elem), Live t' b s → tag % 16 = jccAt t' b s % 16 →
      (getBand (advanceTo t' s) b).seqState = 1 →
      (getBand (advanceTo t' s) b).tap = none → tapFmt fmt = some k → 0 < n → n ≤ 16777216 → tap < 0xFFFF →
      ∃ t, exec (.tapOperation t' b tap fmt n tag) s = .next t ∧ ∃ x, (getBand t b).tap = some x ∧ x.tap = tap ∧ x.fmt = fmt ∧
        x.left = n ∧ x.count = 0 ∧ x.doneAt = none) ∧
    (∀ (t' : Nat) (b : Fin 32) (x : Tap) (d : Nat) (r : CurRun), Live t' b s → (getBand (advanceTo t' s) b).tap = some x →
      x.doneAt = some d → ageAt (jccAt t' b s) d = (digLat (advanceTo t' s) b : Int) →
      (getBand (advanceTo t' s) b).outAt ≠ some (jccAt t' b s) → (getBand (advanceTo t' s) b).outRun = some r →
      0 ≤ ageAt (jccAt t' b s) r.from_ →
      ∃ t, exec (.digestRecordRelease t' b) s = .next t ∧
        tget 0 (getBand t b).tapSeq x.tap = (tget 0 (getBand (advanceTo t' s) b).tapSeq x.tap + 1) % 2 ^ 32 ∧
        ∃ w, tget [] (getBand t b).outStreams r.stream =
          tget [] (getBand (advanceTo t' s) b).outStreams r.stream ++ [w] ∧ w.tag = jccAt t' b s % 16 ∧ w.mask = 1) ∧
    (∀ (t' : Nat) (b : Fin 32) (x : Tap) (d : Nat) (r : CurRun) (a : ArmedTap), Live t' b s → (getBand (advanceTo t' s) b).tap = some x →
      x.doneAt = some d → ageAt (jccAt t' b s) d = (digLat (advanceTo t' s) b : Int) →
      (getBand (advanceTo t' s) b).outAt ≠ some (jccAt t' b s) → (getBand (advanceTo t' s) b).outRun = some r →
      0 ≤ ageAt (jccAt t' b s) r.from_ →
      (getPart (advanceTo t' s) (partOf (advanceTo t' s) b)).taps.find? (fun y => y.tap == x.tap) = some a →
      (getPl (advanceTo t' s) (plinthOf b)).copies.length < 256 →
      ∃ t, exec (.digestRecordRelease t' b) s = .next t ∧
        ∃ c ∈ (getPl t (plinthOf b)).copies, c.loc = a.loc ∧ c.addr = a.addr + 64 * a.next ∧ c.data.length = 64)

/-- The power commands and the power manager: SET_POWER_STATE between the states of Table 16.2, SET_FREQ_LEVEL, and the
power manager's steps of one level.
The model's choices in it: log entries 7, 8 and 36. -/
def Obligations.PowerCommands : Prop :=
  ∀ (s : State),
    (∀ (h : CmdHdr) (n : Nat) (f : StartupFind), Accepted h { op := 0x02, fields := [(8, 1, n)], active := false, claims := [.module] } s →
      (s.pwr.st = .active → n = 0 → ∃ t, exec (.setPowerState h ⟨n, f⟩) s = .next t ∧ t.pwr.st = .active ∧
        t.pwr.warmAt = some (s.clk.gtc + 1000000) ∧ Replied (slotOf h 0x02 s) .ok 0 s t) ∧
      (s.pwr.st = .active → n = 1 → powerCheck s true = none →
        ∃ t, exec (.setPowerState h ⟨n, f⟩) s = .next t ∧ t.pwr.st = .idle ∧ t.clk.run = .stopped ∧ t.clk.mcc = s.clk.mcc ∧
          Replied (slotOf h 0x02 s) .ok 1 s t) ∧
      (s.pwr.st = .active → n = 2 → powerCheck s false = none →
        ∃ t, exec (.setPowerState h ⟨n, f⟩) s = .next t ∧ t.pwr.st = .standby ∧ t.clk.run = .stopped ∧ t.clk.mcc = 0 ∧
          t.cells = [] ∧ (∀ u, u < 16 → (getDev t u).st = 0) ∧ Replied (slotOf h 0x02 s) .ok 2 s t) ∧
      (s.pwr.st = .active → n = 3 → powerCheck s false = none →
        ∃ t, exec (.setPowerState h ⟨n, f⟩) s = .next t ∧ t.pwr.st = .aux ∧ t.pwr.ready = false ∧ t.mem = [] ∧ t.cells = [] ∧
          Replied (slotOf h 0x02 s) .ok 3 s t) ∧
      (s.pwr.st = .active → (n = 2 ∨ n = 3) → ∀ st kind k, powerCheck s false = some (st, kind, k) →
        ∃ t, exec (.setPowerState h ⟨n, f⟩) s = .next t ∧ t.pwr.st = .active ∧ Replied (slotOf h 0x02 s) st 0 s t) ∧
      (s.pwr.st = .idle → n = 0 → ∃ t, exec (.setPowerState h ⟨n, f⟩) s = .next t ∧ t.pwr.st = .active ∧ t.clk.run = .running ∧
        Replied (slotOf h 0x02 s) .ok 0 s t) ∧
      (s.pwr.st = .standby → n < 4 → n ≠ 2 → ∃ t, exec (.setPowerState h ⟨n, f⟩) s = .next t ∧
        t.pwr.st = .active ∧ t.pwr.ready = false ∧ Waiting (slotOf h 0x02 s) (.setPower n) t) ∧
      (s.pwr.st = .aux → s.pwr.mainOk = true → s.pwr.mainEnLow = true → s.pwr.auxWhy = .held → n < 3 →
        ∃ t, exec (.setPowerState h ⟨n, f⟩) s = .next t ∧ t.pwr.stage = .rails ∧
          Waiting (slotOf h 0x02 s) (.setPower n) t)) ∧
    (∀ (h : CmdHdr) (level : Nat), level ≤ 5 → Accepted h { op := 0x03, fields := [(8, 1, level)], claims := [.module] } s →
      (level ≤ s.clk.curLevel → ∃ t, exec (.setFreqLevel h level) s = .next t ∧ t.pwr.cap = level ∧
        Replied (slotOf h 0x03 s) .ok s.clk.curLevel s t) ∧
      (s.clk.curLevel < level → s.clk.run = .running → s.clk.pendingChange = false →
        ∃ t, exec (.setFreqLevel h level) s = .next t ∧ t.pwr.cap = level ∧ t.clk.tgtLevel = max level s.pwr.pmLevel ∧
          t.clk.pendingChange = true ∧ t.clk.freqAt = roundUp (s.clk.mcc + 8192) 4096 ∧
          t.clk.curLevel = s.clk.curLevel ∧ Waiting (slotOf h 0x03 s) .setFreq t)) ∧
    (∀ (meanW hottest auxW : Nat), s.pwr.st = .active → s.clk.run ≠ .stopped →
      (3400 < meanW ∨ 100 ≤ hottest → max s.pwr.cap s.pwr.pmLevel < 5 →
        ∃ t, exec (.powerManagerWindow meanW hottest auxW) s = .next t ∧
          t.pwr.pmLevel = max s.pwr.cap s.pwr.pmLevel + 1 ∧ t.pwr.stepsDown = satAdd 0xFFFF s.pwr.stepsDown 1 ∧
          t.pwr.mainW = meanW % 65536 ∧ t.pwr.auxW = min 255 auxW) ∧
      (meanW < 3060 → hottest < 95 → 49 ≤ s.pwr.coolWindows → s.pwr.cap < s.pwr.pmLevel →
        ∃ t, exec (.powerManagerWindow meanW hottest auxW) s = .next t ∧ t.pwr.pmLevel = s.pwr.pmLevel - 1 ∧
          t.pwr.coolWindows = 0))

/-- Resets: what FLR, a warm reset, PERST and POR leave. That the clocks run at once when PERST ends (log entry 16), and that the ROM
loader goes on through PERST and what a failing test leaves (log entry 36), are the model's choices.
The model's choices in it: log entries 11, 12, 16, 36 and 37. -/
def Obligations.Resets : Prop :=
  ∀ (s : State),
    (s.pwr.st ≠ .aux → perstHolds s = false → ∃ t, exec .flr s = .next t ∧ t.partMap = [0, 0, 0, 0, 0, 0, 0, 0] ∧
      (∀ p, p < 4 → (getPart t p).st = .empty) ∧ (∀ n, n < 16 → (getRing t n).enable = false) ∧
      (∀ c, (getChan t c).st = .free) ∧ t.pcie.apBase = 0 ∧ t.msix = {} ∧ t.pwr.ready = s.pwr.ready ∧
      t.pwr.armed = s.pwr.armed ∧ t.log.modFatal = s.log.modFatal ∧ t.clk.mcc = s.clk.mcc ∧ t.mbox = s.mbox ∧
      t.clk.gtc ≤ t.pcie.flrUntil ∧ t.pcie.flrUntil < t.clk.gtc + 100000000) ∧
    (∀ (g : Nat), s.pwr.warmAt = some g → s.pwr.st = .active → ∃ t, exec (.warmReset none) s = .next t ∧ t.pwr.ready = false ∧
      t.pwr.warmAt = none ∧ t.pwr.armed = false ∧ t.log.modFatal = false ∧ t.partMap = [0, 0, 0, 0, 0, 0, 0, 0] ∧
      (∀ p, p < 4 → (getPart t p).st = .empty) ∧ t.rings = [] ∧ t.mgmt = [] ∧ t.flights = [] ∧
      t.pcie.apBase = s.pcie.apBase ∧ t.mbox = s.mbox ∧
      (s.pwr.armed = false → t.sec.running = s.sec.running ∧ t.pwr.stage = .flomorInit) ∧
      (∀ i, s.pwr.armed = true → s.sec.st = .operational → s.flash.image = some i → fwCheck s true i = 0 →
        t.sec.running = fwIdOf s.sec.imgKey i ∧ t.pwr.stage = .flomorInit)) ∧
    (s.pwr.st ≠ .aux → ∃ t, exec .perstAsserted s = .next t ∧ t.pcie.perst = true ∧ t.pwr.ready = false ∧
      t.clk.run = .stopped ∧ t.clk.mcc = 0 ∧ t.clk.curLevel = 5 ∧ t.pwr.cap = 0 ∧ t.pcie.apBase = 0 ∧ t.mbox = [] ∧
      t.log.modFatal = false ∧ t.pwr.armed = s.pwr.armed ∧ t.pwr.st = s.pwr.st) ∧
    (s.pwr.st = .aux → exec .perstAsserted s = .next { s with pcie := { s.pcie with perst := true } }) ∧
    (s.pwr.st ≠ .aux → ∃ t, exec .dlDown s = .next t ∧ t.pcie.down = true ∧ t.pwr.ready = false ∧ t.clk.run = .stopped ∧
      t.clk.mcc = 0 ∧ t.pwr.cap = 0) ∧
    (∀ (found : StartupFind), perstHolds s = true → s.pwr.st = .active → s.pwr.flomorUp = true →
      ∃ t, exec (.perstDeasserted found none) s = .next t ∧ perstHolds t = false ∧ t.clk.run = .running ∧ t.clk.mcc = 0 ∧ t.clk.curLevel = 5 ∧ t.pwr.stage = .flomorInit ∧
      t.pcie.rate = found.pcieRate ∧ t.pcie.width = found.pcieWidth ∧ t.pcie.refclk = found.refclk ∧
      t.pcie.flit = (found.pcieFlit || decide (5 ≤ found.pcieRate))) ∧
    (∀ (found : StartupFind), perstHolds s = true → s.pwr.st = .active → s.pwr.flomorUp = false → s.pwr.stage = .recovery →
      ∃ t, exec (.perstDeasserted found none) s = .next t ∧ perstHolds t = false ∧ t.pwr.stage = .recovery ∧ t.clk = s.clk) ∧
    (∀ (found : StartupFind) (row : Nat), perstHolds s = true → s.pwr.st = .active → ∃ t,
      exec (.perstDeasserted found (some row)) s = .next t ∧ perstHolds t = false ∧ t.sec.st = .error ∧ t.sec.approved = false ∧
        t.log.modFatal = true) ∧
    (∃ t, exec (.por false none) s = .next t ∧ t.pwr.st = .aux ∧ t.pwr.stage = .auxWait ∧ t.pwr.ready = false ∧
      t.pwr.deferred = [] ∧ t.log = {} ∧ t.clk = {} ∧ t.rings = [] ∧ t.parts = [] ∧ t.mem = [] ∧ t.flash = s.flash ∧
      t.ident = s.ident ∧ t.sec.minSvn = s.sec.minSvn ∧ t.sec.custHash = s.sec.custHash ∧ t.sec.st = .operational) ∧
    (∀ (row : Nat), ∃ t, exec (.por false (some row)) s = .next t ∧ t.sec.st = .error ∧ t.log.modFatal = true ∧
      Recorded 0 0x0A01 t)

/-- Start-up, the losses of power, and tampering. That the clocks run at once when the rails have come up (log entry 16), that a
malformed recovery message is a failed attempt, and that the recovered image waits to be committed (log entry 40), are the model's
choices.
The model's choices in it: log entries 7, 15, 16, 36 and 40. -/
def Obligations.StartUpAndLosses : Prop :=
  ∀ (s : State),
    (∀ (found : StartupFind) (i : FlomorImage), railsAllowed s = true → s.pwr.stage = .rails → s.sec.st = .operational →
      s.pwr.warmStart = false → s.flash.image = some i → fwCheck s true i = 0 →
      (found.keyFails = false → ∃ t, exec (.mainRailsPowerUp found) s = .next t ∧ t.pwr.st = .active ∧ t.pwr.stage = .flomorInit ∧
        t.sec.running = fwIdOf s.sec.imgKey i ∧ t.pwr.flomorUp = true ∧ t.mem = [] ∧ t.cells = [] ∧
        (s.pcie.perst = false → t.clk.run = .running ∧ t.clk.mcc = 0)) ∧
      (found.keyFails = true → derives s = true → ∃ t, exec (.mainRailsPowerUp found) s = .next t ∧ t.sec.st = .error ∧
        t.sec.approved = false ∧ t.log.modFatal = true ∧ t.pwr.stage = .recovery)) ∧
    (∀ (found : StartupFind), railsAllowed s = true → s.pwr.stage = .rails → s.sec.st = .operational →
      s.flash.image = none → ∃ t, exec (.mainRailsPowerUp found) s = .next t ∧ t.pwr.stage = .recovery ∧
        t.sec.rejImages = satAdd 0xFFFF s.sec.rejImages 1 ∧ Recorded s.log.head 0x0A04 t) ∧
    (s.pwr.stage = .flomorInit → perstHolds s = false → s.sec.waitingImage = none →
      (∀ x ∈ s.flights, ∀ n, x.kind = .setPower n → n = 0) →
      ∃ t, exec .ready s = .next t ∧ t.pwr.ready = true ∧ t.pwr.stage = .ready ∧ t.pwr.coldStart = false ∧
        ∀ x ∈ s.flights, x.kind = .setPower 0 → (∀ y ∈ s.flights, y.kind ≠ .setFreq) → Replied (refOf x) .ok 0 s t) ∧
    (∀ (found : StartupFind) (i : FlomorImage), s.pwr.stage = .backoff → s.sec.st = .operational → s.flash.image = some i →
      fwCheck s true i = 0 → found.keyFails = false → ∃ t, exec (.backoffExpiry found) s = .next t ∧ t.pwr.stage = .flomorInit ∧
        t.sec.running = fwIdOf s.sec.imgKey i ∧ t.pwr.backoff = 0) ∧
    (∀ (found : StartupFind) (img : FlomorImage), s.pwr.stage = .recovery → (getMb s 63).full = true → quiet s = false →
      recoveryMsg s = none → ∃ t, exec (.recoveryMessage img found) s = .next t ∧ (getMb t 63).full = false ∧
        t.pwr.attempts = min 0xFFFF (s.pwr.attempts + 1) ∧ t.pwr.stage = .backoff) ∧
    (∀ (found : StartupFind) (img im : FlomorImage) (addr n : Nat), s.pwr.stage = .recovery → s.sec.st = .operational →
      (getMb s 63).full = true → quiet s = false → recoveryMsg s = some (addr, n) → im = imageOf n (img.hdr ++ img.cipher) →
      (fwCheck s false im = 0 → found.keyFails = false → ∃ t, exec (.recoveryMessage img found) s = .next t ∧ t.pwr.recovered = true ∧
        t.pwr.stage = .flomorInit ∧ t.sec.running = fwIdOf s.sec.imgKey im ∧ t.sec.waitingImage = some im ∧
        (getMb t 63).full = false) ∧
      (fwCheck s false im ≠ 0 → ∃ t, exec (.recoveryMessage img found) s = .next t ∧
        t.pwr.attempts = min 0xFFFF (s.pwr.attempts + 1) ∧ t.pwr.stage = .backoff)) ∧
    (s.pwr.stage = .recovery → ∃ t, exec .recoveryTimeout s = .next t ∧ t.pwr.attempts = min 0xFFFF (s.pwr.attempts + 1) ∧
      t.pwr.stage = .backoff ∧ t.pwr.backoff = min (2 ^ s.pwr.attempts) 60) ∧
    (∀ (volts : Nat), s.pwr.st ≠ .aux → ∃ t, exec (.mainInputLost volts) s = .next t ∧ t.pwr.st = .aux ∧
      t.pwr.auxWhy = .mainLost ∧ t.pwr.mainOk = false ∧ t.mem = [] ∧ t.cells = [] ∧ t.clk.run = .stopped) ∧
    (∃ t, exec .mainInputRestored s = .next t ∧ t.pwr.mainOk = true ∧
      (s.pwr.st = .aux → s.board.prsntLow = true → s.pwr.mainEnLow = true → s.pwr.stage = .auxWait → s.pwr.auxWhy ≠ .held →
        t.pwr.stage = .rails)) ∧
    (∀ (die tenthC : Nat), s.pwr.st ≠ .aux → ∃ t, exec (.thermalTrip die tenthC) s = .next t ∧ t.pwr.st = .aux ∧
      t.pwr.auxWhy = .held ∧ t.pwr.cause.getLsbD 8 = true ∧ t.mem = []) ∧
    (s.pwr.st ≠ .aux → ∃ t, exec (.mainEn true) s = .next t ∧ t.pwr.st = .aux ∧ t.pwr.auxWhy = .mainLost ∧
      t.pwr.mainEnLow = false) ∧
    (exec (.mainEn false) s = .next { s with pwr := { s.pwr with mainEnLow := true } }) ∧
    (∃ t, exec .coverOpening s = .next t ∧ t.sec.st = .zeroised ∧ t.sec.tamper = true ∧ t.sec.sessions = [] ∧
      t.sec.cdi = [] ∧ t.sec.aliasKey = [] ∧ t.sec.privMem = [] ∧
      t.flash.certs = [] ∧ t.pwr.st = .aux)

/-- The hold-up bank and what is committed to flash.
The model's choices in it: log entries 7 and 38. -/
def Obligations.HoldupAndCommits : Prop :=
  ∀ (s : State),
    (testDue s = true → exec .holdupTest s = .next { s with pwr := { s.pwr with testing := true } }) ∧
    (testDue s = false → exec .holdupTest s = .next s) ∧
    (∀ (milliA dropMv fullMv : Nat), s.pwr.testing = true → 0 < dropMv →
      ∃ t, exec (.holdupTestComplete milliA dropMv fullMv) s = .next t ∧ t.pwr.testing = false ∧ t.pwr.valid = true ∧
        t.pwr.energy = min 0xFFFF (9 * milliA * (fullMv * fullMv - 64000000) / (20 * dropMv * 1000000)) ∧
        t.pwr.testGtc = some s.clk.gtc ∧ t.pwr.waiting = []) ∧
    (∀ (c : Commit) (rest : List Commit), s.pwr.ready = true →
      takeFirst (fun c => mayCommit s (commitNeed c)) s.pwr.deferred = some (c, rest) →
      ∃ t, exec .flashCommitComplete s = .next t ∧ t.pwr.deferred = rest ∧ t.flash = (applyCommit c s).flash) ∧
    (activeTime s < hourNs → exec .lifetimeCounterCommit s = .next s) ∧
    (s.pwr.st = .active → s.pwr.ready = true → hourNs ≤ activeTime s → ∃ t, exec .lifetimeCounterCommit s = .next t ∧
      t.patina.live.hours = cnt s.patina.live.hours 1 ∧ t.patina.base.mem = s.patina.live.mem ∧
      t.patina.base.link = s.patina.live.link) ∧
    (∀ (e : Bool), ∃ t, exec (.auxInputLost e) s = .next t ∧ t.pwr.onBank = true ∧
      t.pwr.deferred = if e then [] else s.pwr.deferred) ∧
    (∀ (need : Nat), s.pwr.onBank = true → mayCommit s need = false)

/-- The SPDM exchange: version, capabilities, algorithms, and then the requests that need them, in the suite that was negotiated; a
request before that is answered with ERROR and counted; entropy whose continuous test fails ends the services; a message of a session
that does not decrypt is answered as malformed. The order in which the inputs of the HKDF and of the signatures are joined, and what
FINISH proves, are the model's choices (log entry 13), and so is a SET_CERTIFICATE that waits (log entry 38).
The model's choices in it: log entries 13, 38 and 39. -/
def Obligations.SpdmExchange : Prop :=
  ∀ (tr : Transport) (s : State), spdmReach s tr = true →
    (∃ t, exec (.getVersion tr) s = .next t ∧ spdmPhase t tr = .version ∧ Sent (.spdm tr (.version [0x12, 0x13])) s t) ∧
    (spdmPhase s tr = .version → ∃ t, exec (.getCapabilities tr) s = .next t ∧ spdmPhase t tr = .capabilities ∧
      Sent (.spdm tr (.capabilities true false false)) s t) ∧
    (∀ (offered : List Nat), spdmPhase s tr = .capabilities → (1 ∈ offered ∨ 2 ∈ offered) →
      ∃ t, exec (.negotiateAlgorithms tr offered) s = .next t ∧ spdmPhase t tr = .negotiated ∧
        suiteOf t tr = (if offered.contains 2 then 2 else 1) ∧
        Sent (.spdm tr (.algorithms (if offered.contains 2 then 2 else 1) "AES-256-GCM" "secp384r1")) s t) ∧
    (spdmPhase s tr ≠ .negotiated → ∃ t, exec (.getDigests tr) s = .next t ∧ Sent (.spdm tr .errUnexpected) s t ∧
      t.sec.rejSpdm = satAdd 0xFFFF s.sec.rejSpdm 1) ∧
    (Negotiated tr s →
      (∃ t, exec (.getDigests tr) s = .next t ∧ Sent (.spdm tr (.digests ((List.range 8).filterMap (fun n =>
        (slotChain s n).map (fun c => (n, if suiteOf s tr = 1 then Config.sha256 c else Config.sha384 c)))))) s t) ∧
      (∀ (slot : Nat) (c nonce : List Byte), slotChain s slot = some c →
        (∃ t, exec (.getCertificate tr slot) s = .next t ∧ Sent (.spdm tr (.certificate slot c)) s t) ∧
        (∃ t, exec (.challenge tr slot ⟨nonce, none⟩) s = .next t ∧
          Sent (.spdm tr (.challengeAuth slot (drbgBytes 32 s).1 (aliasSign s tr (nonce ++ (drbgBytes 32 s).1 ++ c)))) s t) ∧
        (∀ row, ∃ t, exec (.challenge tr slot ⟨nonce, some row⟩) s = .next t ∧ t.sec.st = .error ∧ t.log.modFatal = true ∧
          Sent (.spdm tr .errUnexpected) s t)) ∧
      (∀ (index : Nat) (nonce m : List Byte), index ≠ 0 → index ≠ 0xFF → measurement s index = some m →
        (∃ t, exec (.getMeasurements tr index ⟨nonce, none⟩) s = .next t ∧
          Sent (.spdm tr (.measurements [(index, m)] (drbgBytes 32 s).1 (aliasSign s tr (nonce ++ (drbgBytes 32 s).1 ++ m)))) s t) ∧
        (∀ row, ∃ t, exec (.getMeasurements tr index ⟨nonce, some row⟩) s = .next t ∧ t.sec.st = .error ∧ t.log.modFatal = true ∧
          Sent (.spdm tr .errUnexpected) s t)) ∧
      (∀ (x : KeyShare), (sessionsOf s tr).length < 4 →
        (x.failing = none → ∃ t key point, exec (.keyExchange tr x) s = .next t ∧ key = Config.p384Key (drbgBytes 48 s).1 ∧
          point = Config.p384Public key ∧ t.sec.sessions = s.sec.sessions ++ [{
            tr := seat tr, id := freeSession (sessionsOf s tr) 0 4, peerKey := x.peer
            secret := Config.hkdf (Config.ecdh key x.point) (x.point ++ point), established := false, updates := 0 }] ∧
          Sent (.spdm tr (.keyExchangeRsp (freeSession (sessionsOf s tr) 0 4) point (aliasSign s tr (x.point ++ point)))) s t) ∧
        (∀ row, x.failing = some row → ∃ t, exec (.keyExchange tr x) s = .next t ∧ t.sec.st = .error ∧ t.log.modFatal = true ∧
          t.sec.sessions = s.sec.sessions ∧ Sent (.spdm tr .errUnexpected) s t)) ∧
      (∀ (m : FinishMsg) (x : Session), findSession s tr m.id = some x → x.established = false →
        (finishProves s tr x m = true → ∃ t, exec (.finish tr m) s = .next t ∧
          findSession t tr m.id = some { x with established := true } ∧ Sent (.spdm tr .finishRsp) s t) ∧
        (finishProves s tr x m = false → ∃ t, exec (.finish tr m) s = .next t ∧ t.sec.sessions = s.sec.sessions ∧
          Sent (.spdm tr .errInvalid) s t)) ∧
      (∀ (slot : Nat) (chain : List Byte) (k : List Byte), (k = s.sec.aliasPub ∨ k = s.sec.devicePub) → 1 ≤ slot → slot < 8 →
        (mayCommit s 40 = true →
          ∃ t, exec (.setCertificate tr slot chain ⟨true, k⟩) s = .next t ∧ tget [] t.flash.certs slot = wrapBytes s chain ∧
            Sent (.spdm tr .setCertificateRsp) s t) ∧
        (bankUnknown s = false → mayCommit s 40 = false →
          ∃ t, exec (.setCertificate tr slot chain ⟨true, k⟩) s = .next t ∧ t.flash = s.flash ∧
            t.pwr.deferredCount = satAdd 0xFFFF s.pwr.deferredCount 1) ∧
        (bankUnknown s = true →
          ∃ t, exec (.setCertificate tr slot chain ⟨true, k⟩) s = .next t ∧ t.flash = s.flash ∧ t.out = s.out ∧
            t.pwr.waiting = s.pwr.waiting ++ [.keys tr slot (wrapBytes s chain)])) ∧
      (∀ (slot : Nat) (chain : List Byte) (leaf : CertLeaf), leaf.key ≠ s.sec.aliasPub → leaf.key ≠ s.sec.devicePub →
        ∃ t, exec (.setCertificate tr slot chain leaf) s = .next t ∧ t.flash = s.flash ∧ Sent (.spdm tr .errInvalid) s t) ∧
      (∀ (m : SessionMsg) (x : Session), findSession s tr m.id = some x → x.established = true →
        (sealOk x heartbeatCode m = false → ∃ t, exec (.heartbeat tr m) s = .next t ∧ t.sec.sessions = s.sec.sessions ∧
          Sent (.spdm tr .errInvalid) s t) ∧
        (sealOk x keyUpdateCode m = false → ∃ t, exec (.keyUpdate tr m) s = .next t ∧ t.sec.sessions = s.sec.sessions ∧
          Sent (.spdm tr .errInvalid) s t) ∧
        (sealOk x endSessionCode m = false → ∃ t, exec (.endSession tr m) s = .next t ∧ t.sec.sessions = s.sec.sessions ∧
          Sent (.spdm tr .errInvalid) s t))) ∧
    (∀ (m : SessionMsg) (x : Session),
      (InSession tr heartbeatCode m x s → ∃ t, exec (.heartbeat tr m) s = .next t ∧
        findSession t tr m.id = some { x with received := x.received + 1 } ∧ Sent (.spdm tr .heartbeatAck) s t) ∧
      (InSession tr keyUpdateCode m x s → ∃ t, exec (.keyUpdate tr m) s = .next t ∧
        findSession t tr m.id = some { x with
          secret := Config.hkdf x.secret (labelBytes "traffic upd"), updates := x.updates + 1, received := 0 } ∧
        Sent (.spdm tr .keyUpdateAck) s t) ∧
      (InSession tr endSessionCode m x s → ∃ t, exec (.endSession tr m) s = .next t ∧ findSession t tr m.id = none ∧
        Sent (.spdm tr .endSessionAck) s t))

/-- The vendor requests inside a session: while the security block is not OPERATIONAL all four are refused, of which Table 17.7 asks it
of SELF_TEST only (the model's choice for the other three, log entry 36); else they are carried out or refused as Table 17.7 says.
The model's choices in it: log entries 13, 36 and 39. -/
def Obligations.VendorRequests : Prop :=
  (∀ (tr : Transport) (m : SessionMsg) (x : Session) (s : State), spdmReach s tr = true → spdmPhase s tr = .negotiated →
    findSession s tr m.id = some x → x.established = true → sealOk x vendorCode m = true → s.sec.st ≠ .operational →
    ∀ (f : Option Nat) (keyHash : List Byte) (suite reqMaq reqApp ok : Bool),
      ∀ c ∈ [Instr.selfTest tr m f, .provision tr m keyHash suite reqMaq reqApp ok, .zeroise tr m, .decommission tr m],
        ∃ t, exec c s = .next t ∧ t.sec = (received tr m.id s).sec ∧ t.flash = s.flash ∧ Sent (.spdm tr (.vendor 1)) s t) ∧
  ∀ (tr : Transport) (m : SessionMsg) (x : Session) (s : State), InSession tr vendorCode m x s →
    (∃ t, exec (.selfTest tr m none) s = .next t ∧ t.sec = (received tr m.id s).sec ∧ Sent (.spdm tr (.vendor 0)) s t) ∧
    (∀ (row : Nat), ∃ t, exec (.selfTest tr m (some row)) s = .next t ∧ t.sec.st = .error ∧ t.sec.approved = false ∧
      t.log.modFatal = true ∧ Recorded s.log.head 0x0A01 t ∧ Sent (.spdm tr (.vendor 2)) s t) ∧
    (∀ (keyHash : List Byte) (suite reqMaq reqApp ok : Bool),
      (s.sec.provisioned = false → ok = true → ∃ t, exec (.provision tr m keyHash suite reqMaq reqApp ok) s = .next t ∧
        t.sec.provisioned = true ∧ t.sec.custHash = fit 48 keyHash ∧ t.sec.custSuite = suite ∧ t.sec.reqMaq = reqMaq ∧
        t.sec.reqApp = reqApp ∧ Sent (.spdm tr (.vendor 0)) s t) ∧
      (s.sec.provisioned = true → ∃ t, exec (.provision tr m keyHash suite reqMaq reqApp ok) s = .next t ∧
        t.sec = (received tr m.id s).sec ∧ Sent (.spdm tr (.vendor 1)) s t)) ∧
    (mayZeroise s x = true →
      (∃ t, exec (.zeroise tr m) s = .next t ∧ t.sec.st = .zeroised ∧ t.sec.zeroised = true ∧ t.sec.sessions = [] ∧
        t.flash.certs = [] ∧ t.sec.cdi = [] ∧ t.sec.deviceKey = [] ∧ t.sec.aliasKey = [] ∧ t.sec.drbg = [] ∧ t.sec.privMem = [] ∧
        t.sec.decommissioned = s.sec.decommissioned ∧ Sent (.spdm tr (.vendor 0)) s t) ∧
      (∃ t, exec (.decommission tr m) s = .next t ∧ t.sec.st = .zeroised ∧ t.sec.decommissioned = true ∧
        t.flash.certs = [] ∧ Sent (.spdm tr (.vendor 0)) s t)) ∧
    (mayZeroise s x = false →
      (∃ t, exec (.zeroise tr m) s = .next t ∧ t.sec = (received tr m.id s).sec ∧ t.flash = s.flash ∧
        Sent (.spdm tr (.vendor 1)) s t) ∧
      (∃ t, exec (.decommission tr m) s = .next t ∧ t.sec = (received tr m.id s).sec ∧ t.flash = s.flash ∧
        Sent (.spdm tr (.vendor 1)) s t))

/-- Firmware: an image that passes every check of Table 17.5 is committed, one that fails a check is refused, one that the
bank cannot carry is deferred, and one waits while the bank is not known; a committed newer image takes over, or is armed for the next warm reset.
The model's choices in it: log entries 13 and 40. -/
def Obligations.FirmwareImages : Prop :=
  ∀ (s : State), s.sec.st = .operational →
    (∀ (h : CmdHdr) (loc addr size : Nat) (img im : FlomorImage) (bs : Option (List Byte)) (u : State), 1 ≤ size → locOk h loc = true →
      bulkOk s loc addr size = true → Accepted h {
        op := 0x50, fields := [(9, 1, loc), (16, 8, addr), (24, 8, size)], loc := some loc, claims := [.firmware] } s →
      BulkRead loc addr size bs (taken h s) u → u.sec.st = .operational →
      im = imageOf size (bs.getD (img.hdr ++ img.cipher)) →
      (fwCheck u false im = 0 → bankUnknown u = true → ∀ ok, ∃ t, exec (.fwUpdate h loc addr size img ok) s = .next t ∧
        t.flash = u.flash ∧ Commit.image im ok ∈ t.pwr.waiting ∧
        Waiting (slotOf h 0x50 s) (.flash (.image im ok) (fwVersion im)) t) ∧
      (fwCheck u false im = 0 → bankUnknown u = false →
        (mayCommit u 800 = true →
          (∃ t, exec (.fwUpdate h loc addr size img true) s = .next t ∧ t.flash.image = some im ∧
            t.flash.journal = journalOf im true ∧ t.pwr.armed = false ∧ Replied (slotOf h 0x50 s) .ok (fwVersion im) s t) ∧
          (∃ t, exec (.fwUpdate h loc addr size img false) s = .next t ∧ t.flash.journal = journalOf im false ∧
            t.pwr.armed = u.pwr.armed ∧ Replied (slotOf h 0x50 s) .fault 0 s t)) ∧
        (mayCommit u 800 = false → ∃ t, exec (.fwUpdate h loc addr size img true) s = .next t ∧ t.flash = u.flash ∧
          Commit.image im true ∈ t.pwr.deferred ∧ Replied (slotOf h 0x50 s) .holdupLow (fwVersion im) s t)) ∧
      (fwCheck u false im ≠ 0 → ∀ ok, ∃ t, exec (.fwUpdate h loc addr size img ok) s = .next t ∧ t.flash = u.flash ∧
        t.sec.rejImages = satAdd 0xFFFF u.sec.rejImages 1 ∧ Replied (slotOf h 0x50 s) .signatureRejected 0 s t)) ∧
    (∀ (h : CmdHdr) (i : FlomorImage), newerImage s = some i → othersRun s = false →
      (Accepted h { op := 0x51, fields := [(8, 1, 0)], claims := [.firmware, .module] } s → fwCheck s true i = 0 →
        (∃ t, exec (.fwActivateLiveHandover h true) s = .next t ∧ t.sec.running = fwIdOf s.sec.imgKey i ∧
          Replied (slotOf h 0x51 s) .ok (fwVersion i) s t) ∧
        (∃ t, exec (.fwActivateLiveHandover h false) s = .next t ∧ t.sec.running = s.sec.running ∧
          Replied (slotOf h 0x51 s) .fault 0 s t)) ∧
      (Accepted h { op := 0x51, fields := [(8, 1, 1)], claims := [.firmware, .module] } s →
        ∃ t, exec (.fwActivateAtWarmReset h) s = .next t ∧ t.pwr.armed = true ∧
        Replied (slotOf h 0x51 s) .ok s.sec.running.version s t)) ∧
    (∀ (h : CmdHdr), Accepted h { op := 0x51, fields := [(8, 1, 1)], claims := [.firmware, .module] } s → newerImage s = none →
      ∃ t, exec (.fwActivateAtWarmReset h) s = .next t ∧ t.pwr.armed = s.pwr.armed ∧
        Replied (slotOf h 0x51 s) .noResource 0 s t) ∧
    (∀ (img : FlomorImage) (bus : MctpBus), busUp s bus = true → s.pwr.ready = true → s.pwr.st = .active →
      (∀ x ∈ s.flights, Claim.firmware ∉ x.claims) → fwCheck s false img = 0 → bankUnknown s = false →
      mayCommit s 800 = true → ∃ t, exec (.pldmFirmwareUpdate img ⟨true, bus⟩) s = .next t ∧ t.flash.image = some img ∧
        Sent (.pldmStatus true false) s t) ∧
    (∀ (i : FlomorImage) (bus : MctpBus), busUp s bus = true → s.pwr.ready = true → s.pwr.st = .active → newerImage s = some i → othersRun s = false →
      fwCheck s true i = 0 → ∃ t, exec (.activateFirmware ⟨true, bus⟩) s = .next t ∧ t.sec.running = fwIdOf s.sec.imgKey i ∧
        Sent (.pldmStatus true false) s t)

/-- Command rings and mailboxes: a doorbell within the ring moves TAIL, another sets OVERRUN; CR_CFG enables a ring from its
start; a mailbox is configured, filled, committed and released; cores boot; QUERY_INFO answers. Every command row runs through one
function: it does nothing until its command is due; one whose slot cannot be read ends with FAULT; one that is turned away ends in
the order BAD_OPCODE, BAD_PARAM, NO_RESOURCE, BUSY, FAULT of MOD_FATAL, and leaves the partitions alone; any other has the effect of its opcode.
The model's choices in it: log entries 8, 41 and 50. -/
def Obligations.RingsAndMailboxes : Prop :=
  ∀ (a : Agent) (s : State),
    (∀ (n : Fin 16) (v : W32), CanAccess a s →
      ((getRing s n).enable = true → (v.toNat % 65536 + 65536 - (getRing s n).head) % 65536 ≤ 2 ^ (getRing s n).log2 →
        ∃ t, exec (.crDb a n v) s = .next t ∧ (getRing t n).tail = v.toNat % 65536 ∧
          (getRing t n).overrun = (getRing s n).overrun) ∧
      ((getRing s n).enable = false ∨
          2 ^ (getRing s n).log2 < (v.toNat % 65536 + 65536 - (getRing s n).head) % 65536 →
        ∃ t, exec (.crDb a n v) s = .next t ∧ (getRing t n).tail = (getRing s n).tail ∧ (getRing t n).overrun = true)) ∧
    (∀ (n : Fin 16) (v : W32), CanAccess .host s → (getRing s n).enable = false → bitOf v.toNat 0 = true →
      ∃ t, exec (.crCfg .host n v) s = .next t ∧ (getRing t n).enable = true ∧ (getRing t n).head = 0 ∧
        (getRing t n).tail = 0 ∧ (getRing t n).done = 0 ∧ (getRing t n).phase = true ∧ (getRing t n).loc = bitOf v.toNat 1 ∧
        (getRing t n).log2 = max 4 (min 12 (v.toNat / 2 ^ 4 % 16)) ∧ (getRing t n).base = (getRing s n).base) ∧
    (∀ (m : Fin 64) (v : W32), CanAccess .host s → (getMb s m).full = false → ∃ t, exec (.mbCfg .host m v) s = .next t ∧
      (getMb t m).sender = agentCode (v.toNat % 64) ∧ (getMb t m).receiver = agentCode (v.toNat / 2 ^ 8 % 64)) ∧
    (∀ (m : Fin 64) (off : Nat) (bs : List Byte), CanAccess a s → mbInUse s m = true → codeIs (mbSender s m) a = true →
      (getMb s m).full = false → 1 ≤ bs.length → bs.length ≤ 8 → off + bs.length ≤ 256 →
      ∃ t, exec (.mbSlotWrite a m off bs) s = .next t ∧
        (∀ i (h : i < bs.length), tget 0 (getMb t m).slot (off + i) = bs[i]) ∧
        (∀ x, (x < off ∨ off + bs.length ≤ x) → tget 0 (getMb t m).slot x = tget 0 (getMb s m).slot x) ∧
        (getMb t m).full = false ∧ (getMb t m).seq = (getMb s m).seq) ∧
    (∀ (m : Fin 64), CanAccess a s → mbInUse s m = true → codeIs (mbSender s m) a = true → (getMb s m).full = false →
      ∃ t, exec (.mbCommit a m) s = .next t ∧ (getMb t m).full = true ∧ (getMb t m).arrived = true ∧
        (getMb t m).seq = ((getMb s m).seq + 1) % 256 ∧ (getMb t m).slot = (getMb s m).slot) ∧
    (∀ (m : Fin 64) (v : W32), CanAccess a s → mbInUse s m = true → codeIs (mbReceiver s m) a = true →
      (getMb s m).full = true → bitOf v.toNat 0 = true →
      ∃ t, exec (.mbRelease a m v) s = .next t ∧ (getMb t m).full = false ∧ (getMb t m).emptied = true ∧
        (getMb t m).slot = []) ∧
    (∀ (h : CmdHdr) (kind : Nat), kind ≤ 1 → Accepted h { op := 0x01, fields := [(8, 1, kind)], active := false } s →
      ∃ t, exec (.queryInfo h kind) s = .next t ∧ Replied (slotOf h 0x01 s) .ok (queryResult s kind) s t) ∧
    (∀ (h : CmdHdr) (addr size entry mask : Nat) (bs : List Byte) (u : State), 1 ≤ mask → mask < 2 ^ 32 → 1 ≤ size →
      addr + size ≤ 0x200000000000 → bulkOk s 1 addr size = true →
      Accepted h {
        op := 0x80, fields := [(16, 8, addr), (24, 4, size), (28, 4, entry), (32, 4, mask)], modFatal := true
        claims := (coresIn mask).map .core } s →
      (∀ n ∈ coresIn mask, coreUp s n = false) → s.sec.st = .operational → s.sec.reqApp = false →
      spaceRead addr (size / 64 + 2) size (taken h s) = (some bs, u) → (size < 208 ∨ field (bs.drop (size - 208)) 0 4 ≠ 0x4749535A) →
      ∃ t, exec (.appCoresBoot h addr size entry mask 0) s = .next t ∧
        (∀ n ∈ coresIn mask, (getCore t n).st = 1 ∧ (getCore t n).priv = .machine ∧
          (getCore t n).pc = BitVec.ofNat 64 (addr + entry) ∧ coreX (getCore t n) 10 = BitVec.ofNat 64 n ∧
          coreX (getCore t n) 11 = 0x380800000000) ∧
        t.sec.appDigest = Config.sha384 bs ∧ Replied (slotOf h 0x80 s) .ok (maskBy 32 (coreUp t)) s t) ∧
    (∀ (i : Instr) (h : CmdHdr) (op : Nat), commandRow i = some (h, op) →
      ∃ c f, c.op = op ∧ exec i s = .next (command h c f s)) ∧
    (∀ (h : CmdHdr) (c : CmdSpec) (f : CmdRef → State → State),
      (cmdDue h c s = false → command h c f s = s) ∧
      (cmdDue h c s = true → slotBad h.ring s = true → (getRing (command h c f s) h.ring).fetchErr = true ∧
        (getRing (command h c f s) h.ring).head = ((getRing s h.ring).head + 1) % 65536 ∧ (command h c f s).parts = s.parts ∧
        ∃ q : StatusPkt, Sent (.status q) s (command h c f s) ∧ q.status = .fault ∧ q.ring = h.ring) ∧
      (cmdDue h c s = true → slotBad h.ring s = false →
        (∀ (o : Nat), h.badOp = some o → (command h c f s).parts = s.parts ∧
          Replied { slotOf h c.op s with opcode := o } .badOpcode 0 s (command h c f s)) ∧
        (h.badOp = none → (h.reserved = true ∨ (if c.fabric then 4 else 2) ≤ h.flags ∨ c.params = false) →
          (command h c f s).parts = s.parts ∧ Replied (slotOf h c.op s) .badParam 0 s (command h c f s)) ∧
        (h.badOp = none → h.reserved = false → h.flags < (if c.fabric then 4 else 2) → c.params = true →
          (c.active = true → s.pwr.st ≠ .active → (command h c f s).parts = s.parts ∧
            Replied (slotOf h c.op s) .noResource 0 s (command h c f s)) ∧
          ((c.active = true → s.pwr.st = .active) →
            (∀ x ∈ s.flights, ∀ k ∈ x.claims, k ∈ c.claims ++ c.names → (command h c f s).parts = s.parts ∧
              Replied (slotOf h c.op s) .busy 0 s (command h c f s)) ∧
            ((∀ x ∈ s.flights, ∀ k ∈ x.claims, k ∉ c.claims ++ c.names) → c.modFatal = true → s.log.modFatal = true →
              (command h c f s).parts = s.parts ∧ ∃ p : StatusPkt, p.status = .fault ∧ p.opcode = c.op ∧ p.tag = h.tag ∧
                p.ring = h.ring ∧ p.record = s.log.modRec ∧ (Sent (.status p) s (command h c f s) ∨
                  (quiet s = true ∧ .status p ∈ (command h c f s).pcie.held)))))) ∧
      (Accepted h c s → c.params = true → command h c f s = announce s (f (slotOf h c.op s) (taken h s))))

/-- R26: GLB_PART_MAP. It reads as Table 1.3 lays it out; a write of it assigns the groups; a write that would change the
partition of a group whose current or new partition is not EMPTY, LOADED or DONE is discarded in full, with a deferred
record, or one counted as suppressed by R387. -/
def Obligations.PartitionMapWrites : Prop :=
  ∀ (v : W32) (s : State),
    (PartMapOk s → ∃ r, reg32 s 0x40 = some r ∧ r < 2 ^ 24 ∧ ∀ g, g < 8 → bits r (3 * g) 3 = s.partMap.getD g 4) ∧
    (CanAccess .host s →
      ((∀ g p, g < 8 → p < 4 → s.partMap.getD g 4 ≠ min 4 (bits v.toNat (3 * g) 3) →
          (p = s.partMap.getD g 4 ∨ p = min 4 (bits v.toNat (3 * g) 3)) →
          ((getPart s p).st = .empty ∨ (getPart s p).st = .loaded ∨ (getPart s p).st = .done)) →
        ∃ t, exec (.glbPartMap .host v) s = .next t ∧
          ∀ g, g < 8 → t.partMap.getD g 4 = min 4 (bits v.toNat (3 * g) 3)) ∧
      (∀ g p, g < 8 → p < 4 → s.partMap.getD g 4 ≠ min 4 (bits v.toNat (3 * g) 3) →
        (p = s.partMap.getD g 4 ∨ p = min 4 (bits v.toNat (3 * g) 3)) →
        (getPart s p).st ≠ .empty → (getPart s p).st ≠ .loaded → (getPart s p).st ≠ .done →
        ∃ t, exec (.glbPartMap .host v) s = .next t ∧ t.partMap = s.partMap ∧ t.parts = s.parts ∧ t.bands = s.bands ∧
          ((Recorded s.log.head 0x0803 t ∧ (tget {} t.log.slots (s.log.head % 4096)).sev = .deferred) ∨
            t.log.suppressed = satAdd 0xFFFF s.log.suppressed 1)))

/-- R282: the aperture. BAR2 offset x is the device physical address AP + x, AP what GLB_AP_BASE reads, a multiple of 1 GiB;
addresses from 2^48 on are unpopulated; the tiers and the scratchpad windows are reached, the register space is not. -/
def Obligations.Aperture : Prop :=
  ∀ (off : Nat) (s : State),
    (∃ ap, reg64 s 0x100 = some ap ∧ apAddr s off = ap + off ∧ ap % 2 ^ 30 = 0) ∧
    (∀ x, 2 ^ 48 ≤ x → populated s x = false ∧ inWindow x = false) ∧
    (CanAccess .host s →
      (∀ (n : Nat) (bs : List Byte) (u : State), off < 0x1000000000 → off + n ≤ 0x1000000000 →
        spaceRead (apAddr s off) (n / 64 + 2) n s = (some bs, u) →
        ∃ t, exec (.bar2Read off n) s = .next t ∧ Sent (.completion bs) s t) ∧
      (∀ (bs : List Byte), off + bs.length ≤ 0x1000000000 → NoErrors s → AllPopulated s (apAddr s off) bs.length →
        apAddr s off % 64 + bs.length ≤ 64 →
        ∃ t, exec (.bar2Write off bs) s = .next t ∧ ∀ x, readByte t.mem x =
          if apAddr s off ≤ x ∧ x < apAddr s off + bs.length then bs.getD (x - apAddr s off) 0 else readByte s.mem x) ∧
      (∀ (n : Nat) (b0 b1 : List Byte), 0 < n → off + n ≤ 0x1000000000 → inWindow (apAddr s off) = true →
        windowRule s ((apAddr s off - 0x200000000000) / 0x80000) false = 0 →
        (apAddr s off - 0x200000000000) % 64 + n ≤ 64 →
        (∀ h bs, (h = 0 ∧ bs = b0 ∨ h = 1 ∧ bs = b1) →
          spDecode (spNow (getCell s ((apAddr s off - 0x200000000000) / 0x80000)))
            (jccOf s (partOf s ((apAddr s off - 0x200000000000) / 0x80000 / 128)))
            ((apAddr s off - 0x200000000000) % 0x80000 / 64) h = (bs, .clean)) →
        ∃ t, exec (.bar2Read off n) s = .next t ∧
          Sent (.completion (((b0 ++ b1).drop ((apAddr s off - 0x200000000000) % 64)).take n)) s t) ∧
      (∀ (n : Nat), 0 < n → off + n ≤ 0x1000000000 → 0x300000000000 ≤ apAddr s off →
        (∃ t, exec (.bar2Read off n) s = .next t ∧ Sent .completerAbort s t ∧
          t.pcie.refused = satAdd 0xFFFF s.pcie.refused 1) ∧
        (∀ (bs : List Byte), bs.length = n → ∃ t, exec (.bar2Write off bs) s = .next t ∧ t.mem = s.mem ∧
          t.cells = s.cells ∧ t.rings = s.rings ∧ t.partMap = s.partMap ∧
          t.pcie.refused = satAdd 0xFFFF s.pcie.refused 1)))

/-- Registers: the host reads in BAR0 what a register holds, and writes it; application cores write those that they may; a core's write
of another register is an access fault that changes none of them.
The model's choices in it: log entries 43 and 47. -/
def Obligations.RegisterWrites : Prop :=
  ∀ (a : Agent) (s : State),
    (∀ (v : W32), CanAccess a s → ∃ t, exec (.glbAppCtl a v) s = .next t ∧
      ∀ n, n < 32 → bitOf v.toNat n = true → tget {} t.app.cores n = {}) ∧
    (∀ (v : W32), CanAccess a s → 0x80 ≤ v.toNat % 256 → s.msix.enable = true → s.msix.fnMask = false → quiet s = false →
      (tget {} s.msix.vecs (v.toNat % 256)).masked = false → (tget {} s.msix.vecs (v.toNat % 256)).last = none →
      ∃ t, exec (.glbAppIrq a v) s = .next t ∧ Sent (.msix (v.toNat % 256)) s t) ∧
    (CanAccess .host s →
      (∀ (off w : Nat), off < 0x4000000 →
        (reg32 s off = some w → off % 4 = 0 → ∃ t, exec (.bar2Read (0x1000000000 + off) 4) s = .next t ∧
          Sent (.completion (leBytes 4 w)) s t) ∧
        (reg64 s off = some w → off % 8 = 0 → ∃ t, exec (.bar2Read (0x1000000000 + off) 8) s = .next t ∧
          Sent (.completion (leBytes 8 w)) s t)) ∧
      (∀ (v : W64), ∃ t, exec (.glbApBase .host v) s = .next t ∧ t.pcie.apBase = v.toNat / 2 ^ 30 % 2 ^ 18) ∧
      (∀ (p : Fin 4) (f : Fin 64) (v : W32),
        ((getPart s p).st ≠ .running → (getPart s p).st ≠ .paused → ∃ t, exec (.glbFlag .host p f v) s = .next t ∧
          (tget {} (getPart t p).flags f).value = v ∧ (tget {} (getPart t p).flags f).setter = some 32 ∧
          ∀ x, x ≠ (f : Nat) → tget {} (getPart t p).flags x = tget {} (getPart s p).flags x) ∧
        ((getPart s p).st = .running ∨ (getPart s p).st = .paused → ∃ t, exec (.glbFlag .host p f v) s = .next t ∧
          t.parts = s.parts)) ∧
      (∀ (v : W32), bitOf v.toNat 1 = true → bitOf v.toNat 2 = true → ∃ t, exec (.errSts .host v) s = .next t ∧
        t.log.overflow = false ∧ t.log.firstValid = false ∧ t.log.first = 0xFFFFFFFF ∧ t.log.modFatal = s.log.modFatal ∧
        t.log.head = s.log.head ∧ t.log.slots = s.log.slots) ∧
      (∀ (b : Fin 32) (pos : Fin 128) (v : W32), ∃ t, exec (.arrNum .host b pos v) s = .next t ∧
        (getCell t (cellOf b pos)).arrNum.toNat % 2 ^ 16 =
          (getCell s (cellOf b pos)).arrNum.toNat % 2 ^ 16 &&& (0xFFFF - v.toNat % 2 ^ 16)) ∧
      (∀ (v : W64), ∃ t, exec (.registerWrite .host 0x3C00004 4 v) s = .next t ∧ t.log.ack = v.toNat % 2 ^ 32) ∧
      (∀ (p : Fin 4) (v : W64), ∃ t, exec (.registerWrite .host (0x50 + 4 * p) 4 v) s = .next t ∧
        tget 0x01000000 t.wdog p = max 0x1000 (v.toNat % 2 ^ 32)) ∧
      (∀ (v : W64), ∃ t, exec (.registerWrite .host 0 4 v) s = .next t ∧ t.ident = s.ident ∧ t.parts = s.parts ∧
        t.rings = s.rings ∧ t.mem = s.mem) ∧
      (∀ (n : Fin 16) (v : W64), (getRing s n).enable = false →
        ∃ t, exec (.registerWrite .host (0x400000 + 0x20 * n) 8 v) s = .next t ∧
          (getRing t n).base.toNat = v.toNat / 64 * 64 ∧ (getRing t n).enable = false) ∧
      (∀ (v : W64), ∃ t, exec (.registerWrite .host 0x200000010 4 v) s = .next t ∧
        cfgWord t 0x10 = v.toNat % 2 ^ 32 / 2 ^ 26 * 2 ^ 26 + 4)) ∧
    (∀ (n : Fin 32) (off : Nat) (v : W64), a = .core n → coreRuns s n = true → off < 0x4000000 → off % 4 = 0 →
      coreMayWrite off = false → ∃ t, exec (.registerWrite (.core n) off 4 v) s = .next t ∧ Sent (.coreFault n true) s t ∧
        t.parts = s.parts ∧ t.partMap = s.partMap ∧ t.rings = s.rings ∧ t.mem = s.mem ∧ t.pcie = s.pcie)

/-- What the endpoint and the application cores meet: violations of the host are noted, a failed read ends the command that
made it, configuration space reads as Table 14.2 has it, what waits in D3hot goes out in D0, after an FLR the function is not ready
for a time, messages go out when a mask clears or their time has come; a core's loads, fetches, stores, LR and AMOs, with what an AMO makes of the
old value, reach the tiers, and so does an SC whose reservation holds, and no other; its other instructions write its own registers.
The model's choices in it: log entries 7, 41, 47 and 49. -/
def Obligations.EndpointAndCores : Prop :=
  ∀ (s : State),
    (endpointUp s = true →
      (∀ (req addr : Nat), ∃ t, exec (.unsupportedRequest req addr) s = .next t ∧ Sent .unsupported s t ∧ bitOf t.pcie.aerSts 20 = true) ∧
      (∀ (req addr : Nat), ∃ t, exec (.malformedTlp req addr) s = .next t ∧ bitOf t.pcie.aerSts 18 = true ∧ t.mem = s.mem) ∧
      (∀ (req bar addr : Nat) (v : W32), ∃ t, exec (.poisonedWrite req bar addr v) s = .next t ∧
        bitOf t.pcie.aerSts 12 = true ∧ t.mem = s.mem ∧ t.mbox = s.mbox ∧ t.rings = s.rings) ∧
      (∀ (req : Nat), ∃ t, exec (.unexpectedCompletion req) s = .next t ∧ bitOf t.pcie.aerSts 16 = true) ∧
      (∀ (e : Fin 8) (rd : DmaRead) (addr : Nat) (x : Flight), s.flights.find? (fun x => x.ring == rd.ring) = some x →
        (∃ t, exec (.dmaError e rd addr) s = .next t ∧ Replied (refOf x) .fault 0 s t) ∧
        (∃ t, exec (.completionTimeout e rd addr) s = .next t ∧ Replied (refOf x) .timeout 0 s t ∧
          bitOf t.pcie.aerSts 14 = true)) ∧
      (∀ (e : Fin 8) (n addr : Nat) (c : BulkCmd), (∀ x ∈ s.flights, x.ring ≠ n) → s.pwr.ready = true → n < 16 →
        (getRing s n).enable = true → (getRing s n).busy = false → (getRing s n).head ≠ (getRing s n).tail →
        ∃ t, exec (.completionTimeout e ⟨n, some c⟩ addr) s = .next t ∧ (getRing t n).head = ((getRing s n).head + 1) % 65536 ∧
          Replied { ring := n, slot := (getRing s n).head % ringEntries n (getRing s n), opcode := c.opcode, tag := c.tag, irq := c.irq }
            .timeout 0 s t) ∧
      (∀ (typ index len : Nat), fnReady s = true → typ ≤ 2 → len ≤ 65536 →
        (∃ t, exec (.doeObject ⟨typ, index⟩ len false) s = .next t ∧ Sent (.doe typ) s t ∧ t.pcie.doeReady = true ∧
          t.pcie.doeOut = if typ = 0 then doeAnswer index else []) ∧
        (∃ t, exec (.doeObject ⟨typ, index⟩ len true) s = .next t ∧ t.pcie.doeError = true)) ∧
      (∀ (v : Fin 256), (tget {} s.msix.vecs v).pendingBit = true → s.msix.enable = true → s.msix.fnMask = false →
        memoryOn s = true → quiet s = false → ∃ t, exec (.msixUnmask (some v)) s = .next t ∧ (tget {} t.msix.vecs v).masked = false ∧
          (tget {} t.msix.vecs v).pendingBit = false ∧ Sent (.msix v) s t) ∧
      (fnReady s = true →
        (∃ t, exec (.bar2Read 0x3000000000 4) s = .next t ∧ Sent (.completion (leBytes 4 0x5A041F5D)) s t) ∧
        (∃ t, exec (.bar2Read 0x3000000008 4) s = .next t ∧ Sent (.completion (leBytes 4 (0x12000000 + b2n s.ident.b0))) s t)) ∧
      (fnReady s = false →
        (∃ t, exec (.bar2Read 0x3000000000 4) s = .next t ∧ Sent .retryStatus s t) ∧
        (∀ (off n : Nat), off < 0x3000000000 → ∃ t, exec (.bar2Read off n) s = .next t ∧ Sent .unsupported s t ∧ t.mem = s.mem)) ∧
      (∃ t, exec (.d3hot true) s = .next t ∧ t.pcie.d3hot = true ∧ t.out = s.out) ∧
      (bitOf s.pcie.cmd 2 = true → ∃ t, exec (.d3hot false) s = .next t ∧ t.pcie.d3hot = false ∧ t.pcie.held = [] ∧
        ∀ x ∈ s.pcie.held, Sent (hostOutOf x) s t) ∧
      (∀ (rate width : Nat) (flit : Bool), rate ≤ 6 → width ∈ [1, 2, 4, 8] →
        ∃ t, exec (.pcieLinkRetrain rate width flit) s = .next t ∧
        t.pcie.rate = rate ∧ t.pcie.width = width ∧ t.pcie.flit = (flit || decide (rate ≥ 5)) ∧
        t.pcie.retrains = satAdd 0xFFFF s.pcie.retrains 1)) ∧
    (∀ (v : Fin 256) (g : Nat), (tget {} s.msix.vecs v).merge = true → (tget {} s.msix.vecs v).last = some g →
      (tget {} s.msix.vecs v).masked = false → s.msix.enable = true → s.msix.fnMask = false → quiet s = false →
      ∃ t, exec (.mergedMessage v) s = .next t ∧ (tget {} t.msix.vecs v).merge = false ∧ Sent (.msix v) s t) ∧
    (∀ (n : Fin 32) (addr : Nat), coreRuns s n = true →
      (∀ (bs : List Byte), 0 < bs.length → NoErrors s → AllPopulated s addr bs.length → addr % 64 + bs.length ≤ 64 →
        ∃ t, exec (.applicationCoreAccess n addr (.store bs)) s = .next t ∧ ∀ x, readByte t.mem x =
          if addr ≤ x ∧ x < addr + bs.length then bs.getD (x - addr) 0 else readByte s.mem x) ∧
      (∀ (size : Nat) (bs : List Byte) (u : State), 0 < size → addr < 0x300000000000 →
        spaceRead addr (size / 64 + 2) size (wakeCore n s) = (some bs, u) →
        (∃ t, exec (.applicationCoreAccess n addr (.load size)) s = .next t ∧ Sent (.coreData n bs) s t) ∧
        (∃ t, exec (.applicationCoreAccess n addr (.fetch size)) s = .next t ∧ Sent (.coreData n bs) s t)) ∧
      (∀ (op : AmoOp) (size : Nat) (v : W64) (bs : List Byte) (u : State), size = 4 ∨ size = 8 → addr % size = 0 →
        addr < 0x200000000000 → populated s addr = true → spaceRead addr 2 size (wakeCore n s) = (some bs, u) →
        (∃ t, exec (.applicationCoreAccess n addr (.amo op size v)) s = .next t ∧ Sent (.coreData n bs) s t ∧
          (NoErrors s → AllPopulated s addr size → ∀ x, readByte t.mem x =
            if addr ≤ x ∧ x < addr + size then
              (leBytes size (amoValue op size (BitVec.ofNat 64 (leNat bs)) v).toNat).getD (x - addr) 0
            else readByte s.mem x)) ∧
        (∃ t, exec (.applicationCoreAccess n addr (.lr size)) s = .next t ∧ Sent (.coreData n bs) s t ∧
          (getCore t n).reserve = some (addr / 64))) ∧
      (∀ (bs : List Byte) (ok : Bool), bs.length = 4 ∨ bs.length = 8 → addr % bs.length = 0 → addr < 0x200000000000 →
        populated s addr = true → ((getCore s n).reserve ≠ some (addr / 64) ∨ ok = false) →
        ∃ t, exec (.applicationCoreAccess n addr (.sc bs ok)) s = .next t ∧ Sent (.coreData n [1]) s t ∧ t.mem = s.mem ∧
          (getCore t n).reserve = none) ∧
      (∀ (bs : List Byte), bs.length = 4 ∨ bs.length = 8 → addr % bs.length = 0 → addr < 0x200000000000 → NoErrors s →
        AllPopulated s addr bs.length → (getCore s n).reserve = some (addr / 64) →
        ∃ t, exec (.applicationCoreAccess n addr (.sc bs true)) s = .next t ∧ Sent (.coreData n [0]) s t ∧
          (getCore t n).reserve = none ∧ ∀ x, readByte t.mem x =
            if addr ≤ x ∧ x < addr + bs.length then bs.getD (x - addr) 0 else readByte s.mem x) ∧
      (∀ (w : CoreStep), ∃ t, exec (.applicationCoreAccess n addr (.retire w)) s = .next t ∧ (getCore t n).pc = w.pc ∧
        (getCore t n).priv = w.priv ∧ t.mem = s.mem ∧ coreX (getCore t n) 0 = 0) ∧
      (coreWoken s n = false → ∃ t, exec (.applicationCoreAccess n addr .wfi) s = .next t ∧ (getCore t n).st = 3) ∧
      (corePending s n &&& coreCsr (getCore s n) 0x304 = 0 →
        ∃ t, exec (.applicationCoreAccess n addr .interrupt) s = .next t ∧ (getCore t n).pc = (getCore s n).pc))

/-- The management controller and the board: MCTP control, command packets and register reads over MCTP, PLDM monitoring,
the identify indicator, and the TAP; over a bus that is not up nothing arrives.
The model's choices in it: log entries 15, 42 and 50. -/
def Obligations.ManagementAndBoard : Prop :=
  ∀ (s : State),
    (∀ (bus : MctpBus) (eid : Nat), busUp s bus = true → 1 ≤ eid → eid < 0xFF →
      ∃ t, exec (.mctpControl 1 ⟨eid, bus⟩) s = .next t ∧ t.board.eid = eid ∧
        Sent (.mctpAnswer 1 true [0, BitVec.ofNat 8 eid, 0]) s t) ∧
    (∀ (bus : MctpBus) (c eid : Nat), busUp s bus = true →
      (2 ≤ c ∧ c ≤ 5 → ∃ t bs, exec (.mctpControl c ⟨eid, bus⟩) s = .next t ∧ Sent (.mctpAnswer c true bs) s t) ∧
      (c = 0 ∨ 5 < c → ∃ t, exec (.mctpControl c ⟨eid, bus⟩) s = .next t ∧ Sent (.mctpAnswer c false []) s t ∧
        t.log.peerMctp = satAdd 0xFFFF s.log.peerMctp 1)) ∧
    (∀ (bus : MctpBus) (a b c : Nat) (on : Bool) (x : Sensor) (img : FlomorImage), busUp s bus = false →
      ∀ i ∈ [Instr.mctpControl a ⟨b, bus⟩, .vdmCommandPacket a b ⟨c, bus⟩, .vdmBar0Read a ⟨b, bus⟩, .pldmMonitoring ⟨x, bus⟩,
        .pldmFirmwareUpdate img ⟨on, bus⟩, .activateFirmware ⟨on, bus⟩, .pldmIdentify ⟨on, bus⟩], exec i s = .next s) ∧
    (∃ t, exec .mctpBadPacket s = .next t ∧ t.log.peerMctp = satAdd 0xFFFF s.log.peerMctp 1 ∧ t.out = s.out) ∧
    (∀ (bus : MctpBus), busUp s bus = true →
      (∀ (op loc tag : Nat),
        (s.mgmt.length < 4 → ∃ t, exec (.vdmCommandPacket op loc ⟨tag, bus⟩) s = .next t ∧
          t.mgmt = s.mgmt ++ [{ opcode := op, loc := loc, tag := tag }]) ∧
        (4 ≤ s.mgmt.length → ∃ t, exec (.vdmCommandPacket op loc ⟨tag, bus⟩) s = .next t ∧ t.mgmt = s.mgmt ∧
          Sent (.status {
            opcode := op, status := .busy, tag := tag, phase := (getRing s 16).phase, ring := 16, slot := 0, gtc := s.clk.gtc
            result := 0, record := noRec }) s t)) ∧
      (∀ (off width : Nat) (bs : List Byte) (u : State), s.pwr.st ≠ .aux → bar0Read off width s = (some bs, u) →
        ∃ t, exec (.vdmBar0Read off ⟨width, bus⟩) s = .next t ∧ Sent (.vdmData (BitVec.ofNat 64 (leNat bs))) s t) ∧
      (∃ t, exec (.pldmMonitoring ⟨.power, bus⟩) s = .next t ∧ Sent (.pldmValue (powerCode s.pwr.st)) s t) ∧
      (∃ t, exec (.pldmMonitoring ⟨.numeric 3, bus⟩) s = .next t ∧ Sent (.pldmValue s.pwr.mainW) s t) ∧
      (∀ p, p < 4 → ∃ t, exec (.pldmMonitoring ⟨.partition p, bus⟩) s = .next t ∧
        Sent (.pldmValue (partCode (getPart s p).st)) s t) ∧
      (∀ v, ∃ t, exec (.pldmMonitoring ⟨.base 1 v, bus⟩) s = .next t ∧ t.board.tid = v % 256) ∧
      (∀ on, exec (.pldmIdentify ⟨on, bus⟩) s = .next { s with board := { s.board with identify := on } })) ∧
    (exec .ident s = .next { s with board := { s.board with identify := !s.board.identify } }) ∧
    (∀ i, ∃ t, exec (.boundaryScanInstruction i) s = .next t ∧ t.board.jtag = tapLoads s i ∧
      (s.pcie.perst = false → i = .extest → t.board.jtag = .bypass) ∧ ∃ bits, Sent (.boundary (tapLoads s i) bits) s t ∧
      (tapLoads s i = .idcode → bits = (List.range 32).map (bitOf (idcode s))) ∧ (tapLoads s i = .bypass → bits = [false]) ∧
      (tapLoads s i = .samplePreload ∨ tapLoads s i = .extest → bits.length = 40 ∧ bits[34]? = some (!s.pcie.perst)))

/-- R180: a write and a read of a scratchpad bank in one cycle take no port from each other; the read returns the contents
from before the write, whatever was written before in that cycle and after it; from the next cycle on every read returns what was
written, of a byte that no later write has changed; and the rest of the scratchpad reads as it did. -/
def Obligations.ReadAndWriteOfOneBank : Prop :=
  ∀ (c : Cell) (j a : Nat) (bs : List Byte), a + bs.length ≤ 0x80000 →
    (∀ k, 1 ≤ k → k ≤ 2 ^ 47 - 8 → (spWrite j (spread 0x80000 a bs) c).sp.read (j + k) a bs.length = bs) ∧
    ((∀ e ∈ c.sp.old, 0 ≤ ageAt j e.1) →
      (spWrite j (spread 0x80000 a bs) c).sp.read j a bs.length = c.sp.read j a bs.length ∧
      ((∀ e ∈ c.sp.old, a ≤ e.2.1 → e.2.1 < a + bs.length → 0 < ageAt j e.1) →
        c.sp.read j a bs.length = (List.range bs.length).map (fun i => readByte c.sp.mem (a + i))) ∧
      (∀ k x, k ≤ 2 ^ 47 - 8 → (x < a ∨ a + bs.length ≤ x) →
        (spWrite j (spread 0x80000 a bs) c).sp.at (j + k) x = c.sp.at (j + k) x)) ∧
    (∀ (code code' order order' bank : Nat) (banks : List Nat) (w : Bool),
      portLoser (addReq j (!w) code' order' bank c) j w code order banks = portLoser c j w code order banks)

/-- FRAME. An event of a static island or of an Armature core leaves the rim alone: tier memory, regions and devices, links
and channels, rings and mailboxes, flash and security, power, and the partition and fence maps.
The model's choices in it: log entry 7. -/
def Obligations.IslandEventsLeaveTheRimAlone : Prop :=
  ∀ (c : Instr) (s t : State), islandEvent c = true → exec c s = .next t →
    t.mem = s.mem ∧ t.memErr = s.memErr ∧ t.poison = s.poison ∧ t.regions = s.regions ∧ t.devs = s.devs ∧
    t.plinths = s.plinths ∧ t.links = s.links ∧ t.lasers = s.lasers ∧ t.chans = s.chans ∧ t.rings = s.rings ∧
    t.mbox = s.mbox ∧ t.flights = s.flights ∧ t.flash = s.flash ∧ t.sec = s.sec ∧ t.pwr = s.pwr ∧ t.app = s.app ∧
    t.partMap = s.partMap ∧ t.fence = s.fence ∧ t.pending = s.pending
end

