-- ==== Sys2Proof/Laws/Table.lean ====
section
/-! SUPPORT. Laws of the sparse tables: a read after a write, and the canonical form that every write keeps. -/

namespace Sys2Proof.Machine

variable {α : Type}

theorem tget_terase_same (d : α) (t : Tbl α) (i : Nat) : tget d (terase i t) i = d := by
  induction t with
  | nil => rfl
  | cons x r ih =>
    obtain ⟨k, v⟩ := x
    by_cases h : k = i <;> simp [terase, tget, h, ih]

theorem tget_terase_other (d : α) (t : Tbl α) {i j : Nat} (h : i ≠ j) : tget d (terase i t) j = tget d t j := by
  induction t with
  | nil => rfl
  | cons x r ih =>
    obtain ⟨k, v⟩ := x
    by_cases hk : k = i
    · subst hk; simp [terase, tget, ih, h]
    · simp [terase, tget, hk, ih]

theorem tget_tins_other (d : α) (v : α) (t : Tbl α) {i j : Nat} (h : i ≠ j) : tget d (tins i v t) j = tget d t j := by
  induction t with
  | nil => simp [tins, tget, h]
  | cons x r ih =>
    obtain ⟨k, w⟩ := x
    by_cases hk : i < k <;> simp [tins, tget, hk, ih, h]

/-- No entry of a table has an index. -/
def Absent (i : Nat) (t : Tbl α) : Prop := ∀ x ∈ t, x.1 ≠ i

theorem absent_terase (i : Nat) (t : Tbl α) : Absent i (terase i t) := by
  induction t with
  | nil => intro x hx; cases hx
  | cons x r ih =>
    obtain ⟨k, v⟩ := x
    by_cases h : k = i
    · simpa [terase, h] using ih
    · intro y hy
      simp only [terase, h, if_false, List.mem_cons] at hy
      rcases hy with rfl | hy
      · exact h
      · exact ih y hy

theorem tget_tins_same (d : α) (v : α) (t : Tbl α) (i : Nat) (h : Absent i t) : tget d (tins i v t) i = v := by
  induction t with
  | nil => simp [tins, tget]
  | cons x r ih =>
    obtain ⟨k, w⟩ := x
    have hk : k ≠ i := h (k, w) (by simp)
    by_cases hl : i < k
    · simp [tins, tget, hl]
    · simpa [tins, tget, hl, hk] using ih (fun y hy => h y (by simp [hy]))

theorem terase_eq (i : Nat) (t : Tbl α) : terase i t = t.filter (fun x => !decide (x.1 = i)) := by
  induction t with
  | nil => rfl
  | cons x r ih =>
    obtain ⟨k, v⟩ := x
    by_cases h : k = i <;> simp [terase, h, ih]

theorem mem_tins {i : Nat} {v : α} {t : Tbl α} {x : Nat × α} (h : x ∈ tins i v t) : x = (i, v) ∨ x ∈ t := by
  induction t with
  | nil => left; simpa [tins] using h
  | cons y r ih =>
    obtain ⟨k, w⟩ := y
    by_cases hk : i < k
    · simpa [tins, hk] using h
    · simp only [tins, hk, if_false, List.mem_cons] at h
      rcases h with rfl | h
      · right; simp
      · rcases ih h with h | h
        · exact .inl h
        · right; simp [h]

variable [DecidableEq α]

/-- A read after a write to the same index gives the value written. -/
@[simp] theorem tget_tset_same (d : α) (t : Tbl α) (i : Nat) (v : α) : tget d (tset d t i v) i = v := by
  unfold tset
  split
  · next h => rw [tget_terase_same, h]
  · exact tget_tins_same d v _ i (absent_terase i t)

/-- A write leaves every other index alone. -/
theorem tget_tset_other (d : α) (t : Tbl α) {i j : Nat} (v : α) (h : i ≠ j) : tget d (tset d t i v) j = tget d t j := by
  unfold tset
  split
  · exact tget_terase_other d t h
  · rw [tget_tins_other d v _ h, tget_terase_other d t h]

@[simp] theorem tget_tmod_same (d : α) (t : Tbl α) (i : Nat) (f : α → α) : tget d (tmod d t i f) i = f (tget d t i) := by
  simp [tmod]

theorem tget_tmod_other (d : α) (t : Tbl α) {i j : Nat} (f : α → α) (h : i ≠ j) :
    tget d (tmod d t i f) j = tget d t j := tget_tset_other d t _ h

/-- The canonical form, as a list property: no entry is the default, and the indices rise strictly. -/
theorem twf_iff (d : α) (t : Tbl α) : twf d t = true ↔ (∀ x ∈ t, x.2 ≠ d) ∧ t.Pairwise (fun x y => x.1 < y.1) := by
  induction t with
  | nil => simp [twf]
  | cons x r ih =>
    obtain ⟨k, v⟩ := x
    cases r with
    | nil => simp [twf]
    | cons y r =>
      obtain ⟨k', v'⟩ := y
      simp only [twf, Bool.and_eq_true, decide_eq_true_eq, ih, List.pairwise_cons, List.forall_mem_cons]
      constructor
      · rintro ⟨⟨hv, hk⟩, ⟨h1, h2⟩, h3, h4⟩
        exact ⟨⟨hv, h1, h2⟩, ⟨hk, fun z hz => lt_trans hk (h3 z hz)⟩, h3, h4⟩
      · rintro ⟨⟨hv, h1, h2⟩, ⟨hk, _⟩, h3, h4⟩
        exact ⟨⟨hv, hk⟩, ⟨h1, h2⟩, h3, h4⟩

/-- Taking entries out keeps the canonical form. -/
theorem twf_filter (d : α) (t : Tbl α) (p : Nat × α → Bool) (h : twf d t = true) : twf d (t.filter p) = true := by
  rw [twf_iff] at *
  exact ⟨fun x hx => h.1 x (List.mem_filter.mp hx).1, h.2.filter p⟩

theorem twf_tins (d : α) (i : Nat) (v : α) (t : Tbl α) (hv : v ≠ d) (ha : Absent i t) (h : twf d t = true) :
    twf d (tins i v t) = true := by
  rw [twf_iff] at *
  refine ⟨fun x hx => ?_, ?_⟩
  · rcases mem_tins hx with rfl | hx
    · exact hv
    · exact h.1 x hx
  · obtain ⟨-, hp⟩ := h
    induction t with
    | nil => simp [tins]
    | cons y r ih =>
      obtain ⟨k, w⟩ := y
      have hk : k ≠ i := ha (k, w) (by simp)
      rw [List.pairwise_cons] at hp
      by_cases hl : i < k
      · simp only [tins, hl, if_true, List.pairwise_cons, List.forall_mem_cons]
        exact ⟨⟨trivial, fun z hz => lt_trans hl (hp.1 z hz)⟩, hp⟩
      · simp only [tins, hl, if_false, List.pairwise_cons]
        refine ⟨fun z hz => ?_, ih (fun y hy => ha y (by simp [hy])) hp.2⟩
        rcases mem_tins hz with rfl | hz
        · show k < i; omega
        · exact hp.1 z hz

/-- A write keeps the canonical form. -/
theorem twf_tset (d : α) (t : Tbl α) (i : Nat) (v : α) (h : twf d t = true) : twf d (tset d t i v) = true := by
  have he : twf d (terase i t) = true := by rw [terase_eq]; exact twf_filter d t _ h
  unfold tset
  split
  · exact he
  · next hv => exact twf_tins d i v _ hv (absent_terase i t) he

end Sys2Proof.Machine
end

