-- ==== Sys2Proof/Laws/State.lean ====
section
/-! SUPPORT. What each update of State leaves alone, field by field, and what the tables of State read after one. -/

namespace Sys2Proof.Machine

@[simp] theorem emit_pending (o : Out) (s : State) : (emit o s).pending = s.pending := rfl
@[simp] theorem emit_free (o : Out) (s : State) : (emit o s).free = s.free := rfl
@[simp] theorem emit_ident (o : Out) (s : State) : (emit o s).ident = s.ident := rfl
@[simp] theorem emit_clk (o : Out) (s : State) : (emit o s).clk = s.clk := rfl
@[simp] theorem emit_log (o : Out) (s : State) : (emit o s).log = s.log := rfl
@[simp] theorem emit_rings (o : Out) (s : State) : (emit o s).rings = s.rings := rfl
@[simp] theorem emit_mgmt (o : Out) (s : State) : (emit o s).mgmt = s.mgmt := rfl
@[simp] theorem emit_flights (o : Out) (s : State) : (emit o s).flights = s.flights := rfl
@[simp] theorem emit_mbox (o : Out) (s : State) : (emit o s).mbox = s.mbox := rfl
@[simp] theorem emit_msix (o : Out) (s : State) : (emit o s).msix = s.msix := rfl
@[simp] theorem emit_pcie (o : Out) (s : State) : (emit o s).pcie = s.pcie := rfl
@[simp] theorem emit_app (o : Out) (s : State) : (emit o s).app = s.app := rfl
@[simp] theorem emit_pwr (o : Out) (s : State) : (emit o s).pwr = s.pwr := rfl
@[simp] theorem emit_flash (o : Out) (s : State) : (emit o s).flash = s.flash := rfl
@[simp] theorem emit_sec (o : Out) (s : State) : (emit o s).sec = s.sec := rfl
@[simp] theorem emit_board (o : Out) (s : State) : (emit o s).board = s.board := rfl
@[simp] theorem emit_partMap (o : Out) (s : State) : (emit o s).partMap = s.partMap := rfl
@[simp] theorem emit_parts (o : Out) (s : State) : (emit o s).parts = s.parts := rfl
@[simp] theorem emit_wdog (o : Out) (s : State) : (emit o s).wdog = s.wdog := rfl
@[simp] theorem emit_bands (o : Out) (s : State) : (emit o s).bands = s.bands := rfl
@[simp] theorem emit_cells (o : Out) (s : State) : (emit o s).cells = s.cells := rfl
@[simp] theorem emit_seam (o : Out) (s : State) : (emit o s).seam = s.seam := rfl
@[simp] theorem emit_fence (o : Out) (s : State) : (emit o s).fence = s.fence := rfl
@[simp] theorem emit_patina (o : Out) (s : State) : (emit o s).patina = s.patina := rfl
@[simp] theorem emit_mem (o : Out) (s : State) : (emit o s).mem = s.mem := rfl
@[simp] theorem emit_memErr (o : Out) (s : State) : (emit o s).memErr = s.memErr := rfl
@[simp] theorem emit_poison (o : Out) (s : State) : (emit o s).poison = s.poison := rfl
@[simp] theorem emit_devs (o : Out) (s : State) : (emit o s).devs = s.devs := rfl
@[simp] theorem emit_plinths (o : Out) (s : State) : (emit o s).plinths = s.plinths := rfl
@[simp] theorem emit_regions (o : Out) (s : State) : (emit o s).regions = s.regions := rfl
@[simp] theorem emit_links (o : Out) (s : State) : (emit o s).links = s.links := rfl
@[simp] theorem emit_lasers (o : Out) (s : State) : (emit o s).lasers = s.lasers := rfl
@[simp] theorem emit_fab (o : Out) (s : State) : (emit o s).fab = s.fab := rfl
@[simp] theorem emit_chans (o : Out) (s : State) : (emit o s).chans = s.chans := rfl
@[simp] theorem emit_redMcastTo (o : Out) (s : State) : (emit o s).redMcastTo = s.redMcastTo := rfl
@[simp] theorem emit_castSeen (o : Out) (s : State) : (emit o s).castSeen = s.castSeen := rfl
@[simp] theorem emit_passQ (o : Out) (s : State) : (emit o s).passQ = s.passQ := rfl

@[simp] theorem setPart_pending (p : Nat) (v : Part) (s : State) : (setPart p v s).pending = s.pending := rfl
@[simp] theorem setPart_out (p : Nat) (v : Part) (s : State) : (setPart p v s).out = s.out := rfl
@[simp] theorem setPart_free (p : Nat) (v : Part) (s : State) : (setPart p v s).free = s.free := rfl
@[simp] theorem setPart_ident (p : Nat) (v : Part) (s : State) : (setPart p v s).ident = s.ident := rfl
@[simp] theorem setPart_clk (p : Nat) (v : Part) (s : State) : (setPart p v s).clk = s.clk := rfl
@[simp] theorem setPart_log (p : Nat) (v : Part) (s : State) : (setPart p v s).log = s.log := rfl
@[simp] theorem setPart_rings (p : Nat) (v : Part) (s : State) : (setPart p v s).rings = s.rings := rfl
@[simp] theorem setPart_mgmt (p : Nat) (v : Part) (s : State) : (setPart p v s).mgmt = s.mgmt := rfl
@[simp] theorem setPart_flights (p : Nat) (v : Part) (s : State) : (setPart p v s).flights = s.flights := rfl
@[simp] theorem setPart_mbox (p : Nat) (v : Part) (s : State) : (setPart p v s).mbox = s.mbox := rfl
@[simp] theorem setPart_msix (p : Nat) (v : Part) (s : State) : (setPart p v s).msix = s.msix := rfl
@[simp] theorem setPart_pcie (p : Nat) (v : Part) (s : State) : (setPart p v s).pcie = s.pcie := rfl
@[simp] theorem setPart_app (p : Nat) (v : Part) (s : State) : (setPart p v s).app = s.app := rfl
@[simp] theorem setPart_pwr (p : Nat) (v : Part) (s : State) : (setPart p v s).pwr = s.pwr := rfl
@[simp] theorem setPart_flash (p : Nat) (v : Part) (s : State) : (setPart p v s).flash = s.flash := rfl
@[simp] theorem setPart_sec (p : Nat) (v : Part) (s : State) : (setPart p v s).sec = s.sec := rfl
@[simp] theorem setPart_board (p : Nat) (v : Part) (s : State) : (setPart p v s).board = s.board := rfl
@[simp] theorem setPart_partMap (p : Nat) (v : Part) (s : State) : (setPart p v s).partMap = s.partMap := rfl
@[simp] theorem setPart_wdog (p : Nat) (v : Part) (s : State) : (setPart p v s).wdog = s.wdog := rfl
@[simp] theorem setPart_bands (p : Nat) (v : Part) (s : State) : (setPart p v s).bands = s.bands := rfl
@[simp] theorem setPart_cells (p : Nat) (v : Part) (s : State) : (setPart p v s).cells = s.cells := rfl
@[simp] theorem setPart_seam (p : Nat) (v : Part) (s : State) : (setPart p v s).seam = s.seam := rfl
@[simp] theorem setPart_fence (p : Nat) (v : Part) (s : State) : (setPart p v s).fence = s.fence := rfl
@[simp] theorem setPart_patina (p : Nat) (v : Part) (s : State) : (setPart p v s).patina = s.patina := rfl
@[simp] theorem setPart_mem (p : Nat) (v : Part) (s : State) : (setPart p v s).mem = s.mem := rfl
@[simp] theorem setPart_memErr (p : Nat) (v : Part) (s : State) : (setPart p v s).memErr = s.memErr := rfl
@[simp] theorem setPart_poison (p : Nat) (v : Part) (s : State) : (setPart p v s).poison = s.poison := rfl
@[simp] theorem setPart_devs (p : Nat) (v : Part) (s : State) : (setPart p v s).devs = s.devs := rfl
@[simp] theorem setPart_plinths (p : Nat) (v : Part) (s : State) : (setPart p v s).plinths = s.plinths := rfl
@[simp] theorem setPart_regions (p : Nat) (v : Part) (s : State) : (setPart p v s).regions = s.regions := rfl
@[simp] theorem setPart_links (p : Nat) (v : Part) (s : State) : (setPart p v s).links = s.links := rfl
@[simp] theorem setPart_lasers (p : Nat) (v : Part) (s : State) : (setPart p v s).lasers = s.lasers := rfl
@[simp] theorem setPart_fab (p : Nat) (v : Part) (s : State) : (setPart p v s).fab = s.fab := rfl
@[simp] theorem setPart_chans (p : Nat) (v : Part) (s : State) : (setPart p v s).chans = s.chans := rfl
@[simp] theorem setPart_redMcastTo (p : Nat) (v : Part) (s : State) : (setPart p v s).redMcastTo = s.redMcastTo := rfl
@[simp] theorem setPart_castSeen (p : Nat) (v : Part) (s : State) : (setPart p v s).castSeen = s.castSeen := rfl
@[simp] theorem setPart_passQ (p : Nat) (v : Part) (s : State) : (setPart p v s).passQ = s.passQ := rfl

@[simp] theorem modPart_pending (p : Nat) (f : Part → Part) (s : State) : (modPart p f s).pending = s.pending := rfl
@[simp] theorem modPart_out (p : Nat) (f : Part → Part) (s : State) : (modPart p f s).out = s.out := rfl
@[simp] theorem modPart_free (p : Nat) (f : Part → Part) (s : State) : (modPart p f s).free = s.free := rfl
@[simp] theorem modPart_ident (p : Nat) (f : Part → Part) (s : State) : (modPart p f s).ident = s.ident := rfl
@[simp] theorem modPart_clk (p : Nat) (f : Part → Part) (s : State) : (modPart p f s).clk = s.clk := rfl
@[simp] theorem modPart_log (p : Nat) (f : Part → Part) (s : State) : (modPart p f s).log = s.log := rfl
@[simp] theorem modPart_rings (p : Nat) (f : Part → Part) (s : State) : (modPart p f s).rings = s.rings := rfl
@[simp] theorem modPart_mgmt (p : Nat) (f : Part → Part) (s : State) : (modPart p f s).mgmt = s.mgmt := rfl
@[simp] theorem modPart_flights (p : Nat) (f : Part → Part) (s : State) : (modPart p f s).flights = s.flights := rfl
@[simp] theorem modPart_mbox (p : Nat) (f : Part → Part) (s : State) : (modPart p f s).mbox = s.mbox := rfl
@[simp] theorem modPart_msix (p : Nat) (f : Part → Part) (s : State) : (modPart p f s).msix = s.msix := rfl
@[simp] theorem modPart_pcie (p : Nat) (f : Part → Part) (s : State) : (modPart p f s).pcie = s.pcie := rfl
@[simp] theorem modPart_app (p : Nat) (f : Part → Part) (s : State) : (modPart p f s).app = s.app := rfl
@[simp] theorem modPart_pwr (p : Nat) (f : Part → Part) (s : State) : (modPart p f s).pwr = s.pwr := rfl
@[simp] theorem modPart_flash (p : Nat) (f : Part → Part) (s : State) : (modPart p f s).flash = s.flash := rfl
@[simp] theorem modPart_sec (p : Nat) (f : Part → Part) (s : State) : (modPart p f s).sec = s.sec := rfl
@[simp] theorem modPart_board (p : Nat) (f : Part → Part) (s : State) : (modPart p f s).board = s.board := rfl
@[simp] theorem modPart_partMap (p : Nat) (f : Part → Part) (s : State) : (modPart p f s).partMap = s.partMap := rfl
@[simp] theorem modPart_wdog (p : Nat) (f : Part → Part) (s : State) : (modPart p f s).wdog = s.wdog := rfl
@[simp] theorem modPart_bands (p : Nat) (f : Part → Part) (s : State) : (modPart p f s).bands = s.bands := rfl
@[simp] theorem modPart_cells (p : Nat) (f : Part → Part) (s : State) : (modPart p f s).cells = s.cells := rfl
@[simp] theorem modPart_seam (p : Nat) (f : Part → Part) (s : State) : (modPart p f s).seam = s.seam := rfl
@[simp] theorem modPart_fence (p : Nat) (f : Part → Part) (s : State) : (modPart p f s).fence = s.fence := rfl
@[simp] theorem modPart_patina (p : Nat) (f : Part → Part) (s : State) : (modPart p f s).patina = s.patina := rfl
@[simp] theorem modPart_mem (p : Nat) (f : Part → Part) (s : State) : (modPart p f s).mem = s.mem := rfl
@[simp] theorem modPart_memErr (p : Nat) (f : Part → Part) (s : State) : (modPart p f s).memErr = s.memErr := rfl
@[simp] theorem modPart_poison (p : Nat) (f : Part → Part) (s : State) : (modPart p f s).poison = s.poison := rfl
@[simp] theorem modPart_devs (p : Nat) (f : Part → Part) (s : State) : (modPart p f s).devs = s.devs := rfl
@[simp] theorem modPart_plinths (p : Nat) (f : Part → Part) (s : State) : (modPart p f s).plinths = s.plinths := rfl
@[simp] theorem modPart_regions (p : Nat) (f : Part → Part) (s : State) : (modPart p f s).regions = s.regions := rfl
@[simp] theorem modPart_links (p : Nat) (f : Part → Part) (s : State) : (modPart p f s).links = s.links := rfl
@[simp] theorem modPart_lasers (p : Nat) (f : Part → Part) (s : State) : (modPart p f s).lasers = s.lasers := rfl
@[simp] theorem modPart_fab (p : Nat) (f : Part → Part) (s : State) : (modPart p f s).fab = s.fab := rfl
@[simp] theorem modPart_chans (p : Nat) (f : Part → Part) (s : State) : (modPart p f s).chans = s.chans := rfl
@[simp] theorem modPart_redMcastTo (p : Nat) (f : Part → Part) (s : State) : (modPart p f s).redMcastTo = s.redMcastTo := rfl
@[simp] theorem modPart_castSeen (p : Nat) (f : Part → Part) (s : State) : (modPart p f s).castSeen = s.castSeen := rfl
@[simp] theorem modPart_passQ (p : Nat) (f : Part → Part) (s : State) : (modPart p f s).passQ = s.passQ := rfl

@[simp] theorem setBand_pending (b : Nat) (v : Band) (s : State) : (setBand b v s).pending = s.pending := rfl
@[simp] theorem setBand_out (b : Nat) (v : Band) (s : State) : (setBand b v s).out = s.out := rfl
@[simp] theorem setBand_free (b : Nat) (v : Band) (s : State) : (setBand b v s).free = s.free := rfl
@[simp] theorem setBand_ident (b : Nat) (v : Band) (s : State) : (setBand b v s).ident = s.ident := rfl
@[simp] theorem setBand_clk (b : Nat) (v : Band) (s : State) : (setBand b v s).clk = s.clk := rfl
@[simp] theorem setBand_log (b : Nat) (v : Band) (s : State) : (setBand b v s).log = s.log := rfl
@[simp] theorem setBand_rings (b : Nat) (v : Band) (s : State) : (setBand b v s).rings = s.rings := rfl
@[simp] theorem setBand_mgmt (b : Nat) (v : Band) (s : State) : (setBand b v s).mgmt = s.mgmt := rfl
@[simp] theorem setBand_flights (b : Nat) (v : Band) (s : State) : (setBand b v s).flights = s.flights := rfl
@[simp] theorem setBand_mbox (b : Nat) (v : Band) (s : State) : (setBand b v s).mbox = s.mbox := rfl
@[simp] theorem setBand_msix (b : Nat) (v : Band) (s : State) : (setBand b v s).msix = s.msix := rfl
@[simp] theorem setBand_pcie (b : Nat) (v : Band) (s : State) : (setBand b v s).pcie = s.pcie := rfl
@[simp] theorem setBand_app (b : Nat) (v : Band) (s : State) : (setBand b v s).app = s.app := rfl
@[simp] theorem setBand_pwr (b : Nat) (v : Band) (s : State) : (setBand b v s).pwr = s.pwr := rfl
@[simp] theorem setBand_flash (b : Nat) (v : Band) (s : State) : (setBand b v s).flash = s.flash := rfl
@[simp] theorem setBand_sec (b : Nat) (v : Band) (s : State) : (setBand b v s).sec = s.sec := rfl
@[simp] theorem setBand_board (b : Nat) (v : Band) (s : State) : (setBand b v s).board = s.board := rfl
@[simp] theorem setBand_partMap (b : Nat) (v : Band) (s : State) : (setBand b v s).partMap = s.partMap := rfl
@[simp] theorem setBand_parts (b : Nat) (v : Band) (s : State) : (setBand b v s).parts = s.parts := rfl
@[simp] theorem setBand_wdog (b : Nat) (v : Band) (s : State) : (setBand b v s).wdog = s.wdog := rfl
@[simp] theorem setBand_cells (b : Nat) (v : Band) (s : State) : (setBand b v s).cells = s.cells := rfl
@[simp] theorem setBand_seam (b : Nat) (v : Band) (s : State) : (setBand b v s).seam = s.seam := rfl
@[simp] theorem setBand_fence (b : Nat) (v : Band) (s : State) : (setBand b v s).fence = s.fence := rfl
@[simp] theorem setBand_patina (b : Nat) (v : Band) (s : State) : (setBand b v s).patina = s.patina := rfl
@[simp] theorem setBand_mem (b : Nat) (v : Band) (s : State) : (setBand b v s).mem = s.mem := rfl
@[simp] theorem setBand_memErr (b : Nat) (v : Band) (s : State) : (setBand b v s).memErr = s.memErr := rfl
@[simp] theorem setBand_poison (b : Nat) (v : Band) (s : State) : (setBand b v s).poison = s.poison := rfl
@[simp] theorem setBand_devs (b : Nat) (v : Band) (s : State) : (setBand b v s).devs = s.devs := rfl
@[simp] theorem setBand_plinths (b : Nat) (v : Band) (s : State) : (setBand b v s).plinths = s.plinths := rfl
@[simp] theorem setBand_regions (b : Nat) (v : Band) (s : State) : (setBand b v s).regions = s.regions := rfl
@[simp] theorem setBand_links (b : Nat) (v : Band) (s : State) : (setBand b v s).links = s.links := rfl
@[simp] theorem setBand_lasers (b : Nat) (v : Band) (s : State) : (setBand b v s).lasers = s.lasers := rfl
@[simp] theorem setBand_fab (b : Nat) (v : Band) (s : State) : (setBand b v s).fab = s.fab := rfl
@[simp] theorem setBand_chans (b : Nat) (v : Band) (s : State) : (setBand b v s).chans = s.chans := rfl
@[simp] theorem setBand_redMcastTo (b : Nat) (v : Band) (s : State) : (setBand b v s).redMcastTo = s.redMcastTo := rfl
@[simp] theorem setBand_castSeen (b : Nat) (v : Band) (s : State) : (setBand b v s).castSeen = s.castSeen := rfl
@[simp] theorem setBand_passQ (b : Nat) (v : Band) (s : State) : (setBand b v s).passQ = s.passQ := rfl

@[simp] theorem modBand_pending (b : Nat) (f : Band → Band) (s : State) : (modBand b f s).pending = s.pending := rfl
@[simp] theorem modBand_out (b : Nat) (f : Band → Band) (s : State) : (modBand b f s).out = s.out := rfl
@[simp] theorem modBand_free (b : Nat) (f : Band → Band) (s : State) : (modBand b f s).free = s.free := rfl
@[simp] theorem modBand_ident (b : Nat) (f : Band → Band) (s : State) : (modBand b f s).ident = s.ident := rfl
@[simp] theorem modBand_clk (b : Nat) (f : Band → Band) (s : State) : (modBand b f s).clk = s.clk := rfl
@[simp] theorem modBand_log (b : Nat) (f : Band → Band) (s : State) : (modBand b f s).log = s.log := rfl
@[simp] theorem modBand_rings (b : Nat) (f : Band → Band) (s : State) : (modBand b f s).rings = s.rings := rfl
@[simp] theorem modBand_mgmt (b : Nat) (f : Band → Band) (s : State) : (modBand b f s).mgmt = s.mgmt := rfl
@[simp] theorem modBand_flights (b : Nat) (f : Band → Band) (s : State) : (modBand b f s).flights = s.flights := rfl
@[simp] theorem modBand_mbox (b : Nat) (f : Band → Band) (s : State) : (modBand b f s).mbox = s.mbox := rfl
@[simp] theorem modBand_msix (b : Nat) (f : Band → Band) (s : State) : (modBand b f s).msix = s.msix := rfl
@[simp] theorem modBand_pcie (b : Nat) (f : Band → Band) (s : State) : (modBand b f s).pcie = s.pcie := rfl
@[simp] theorem modBand_app (b : Nat) (f : Band → Band) (s : State) : (modBand b f s).app = s.app := rfl
@[simp] theorem modBand_pwr (b : Nat) (f : Band → Band) (s : State) : (modBand b f s).pwr = s.pwr := rfl
@[simp] theorem modBand_flash (b : Nat) (f : Band → Band) (s : State) : (modBand b f s).flash = s.flash := rfl
@[simp] theorem modBand_sec (b : Nat) (f : Band → Band) (s : State) : (modBand b f s).sec = s.sec := rfl
@[simp] theorem modBand_board (b : Nat) (f : Band → Band) (s : State) : (modBand b f s).board = s.board := rfl
@[simp] theorem modBand_partMap (b : Nat) (f : Band → Band) (s : State) : (modBand b f s).partMap = s.partMap := rfl
@[simp] theorem modBand_parts (b : Nat) (f : Band → Band) (s : State) : (modBand b f s).parts = s.parts := rfl
@[simp] theorem modBand_wdog (b : Nat) (f : Band → Band) (s : State) : (modBand b f s).wdog = s.wdog := rfl
@[simp] theorem modBand_cells (b : Nat) (f : Band → Band) (s : State) : (modBand b f s).cells = s.cells := rfl
@[simp] theorem modBand_seam (b : Nat) (f : Band → Band) (s : State) : (modBand b f s).seam = s.seam := rfl
@[simp] theorem modBand_fence (b : Nat) (f : Band → Band) (s : State) : (modBand b f s).fence = s.fence := rfl
@[simp] theorem modBand_patina (b : Nat) (f : Band → Band) (s : State) : (modBand b f s).patina = s.patina := rfl
@[simp] theorem modBand_mem (b : Nat) (f : Band → Band) (s : State) : (modBand b f s).mem = s.mem := rfl
@[simp] theorem modBand_memErr (b : Nat) (f : Band → Band) (s : State) : (modBand b f s).memErr = s.memErr := rfl
@[simp] theorem modBand_poison (b : Nat) (f : Band → Band) (s : State) : (modBand b f s).poison = s.poison := rfl
@[simp] theorem modBand_devs (b : Nat) (f : Band → Band) (s : State) : (modBand b f s).devs = s.devs := rfl
@[simp] theorem modBand_plinths (b : Nat) (f : Band → Band) (s : State) : (modBand b f s).plinths = s.plinths := rfl
@[simp] theorem modBand_regions (b : Nat) (f : Band → Band) (s : State) : (modBand b f s).regions = s.regions := rfl
@[simp] theorem modBand_links (b : Nat) (f : Band → Band) (s : State) : (modBand b f s).links = s.links := rfl
@[simp] theorem modBand_lasers (b : Nat) (f : Band → Band) (s : State) : (modBand b f s).lasers = s.lasers := rfl
@[simp] theorem modBand_fab (b : Nat) (f : Band → Band) (s : State) : (modBand b f s).fab = s.fab := rfl
@[simp] theorem modBand_chans (b : Nat) (f : Band → Band) (s : State) : (modBand b f s).chans = s.chans := rfl
@[simp] theorem modBand_redMcastTo (b : Nat) (f : Band → Band) (s : State) : (modBand b f s).redMcastTo = s.redMcastTo := rfl
@[simp] theorem modBand_castSeen (b : Nat) (f : Band → Band) (s : State) : (modBand b f s).castSeen = s.castSeen := rfl
@[simp] theorem modBand_passQ (b : Nat) (f : Band → Band) (s : State) : (modBand b f s).passQ = s.passQ := rfl

@[simp] theorem setCell_pending (c : Nat) (v : Cell) (s : State) : (setCell c v s).pending = s.pending := rfl
@[simp] theorem setCell_out (c : Nat) (v : Cell) (s : State) : (setCell c v s).out = s.out := rfl
@[simp] theorem setCell_free (c : Nat) (v : Cell) (s : State) : (setCell c v s).free = s.free := rfl
@[simp] theorem setCell_ident (c : Nat) (v : Cell) (s : State) : (setCell c v s).ident = s.ident := rfl
@[simp] theorem setCell_clk (c : Nat) (v : Cell) (s : State) : (setCell c v s).clk = s.clk := rfl
@[simp] theorem setCell_log (c : Nat) (v : Cell) (s : State) : (setCell c v s).log = s.log := rfl
@[simp] theorem setCell_rings (c : Nat) (v : Cell) (s : State) : (setCell c v s).rings = s.rings := rfl
@[simp] theorem setCell_mgmt (c : Nat) (v : Cell) (s : State) : (setCell c v s).mgmt = s.mgmt := rfl
@[simp] theorem setCell_flights (c : Nat) (v : Cell) (s : State) : (setCell c v s).flights = s.flights := rfl
@[simp] theorem setCell_mbox (c : Nat) (v : Cell) (s : State) : (setCell c v s).mbox = s.mbox := rfl
@[simp] theorem setCell_msix (c : Nat) (v : Cell) (s : State) : (setCell c v s).msix = s.msix := rfl
@[simp] theorem setCell_pcie (c : Nat) (v : Cell) (s : State) : (setCell c v s).pcie = s.pcie := rfl
@[simp] theorem setCell_app (c : Nat) (v : Cell) (s : State) : (setCell c v s).app = s.app := rfl
@[simp] theorem setCell_pwr (c : Nat) (v : Cell) (s : State) : (setCell c v s).pwr = s.pwr := rfl
@[simp] theorem setCell_flash (c : Nat) (v : Cell) (s : State) : (setCell c v s).flash = s.flash := rfl
@[simp] theorem setCell_sec (c : Nat) (v : Cell) (s : State) : (setCell c v s).sec = s.sec := rfl
@[simp] theorem setCell_board (c : Nat) (v : Cell) (s : State) : (setCell c v s).board = s.board := rfl
@[simp] theorem setCell_partMap (c : Nat) (v : Cell) (s : State) : (setCell c v s).partMap = s.partMap := rfl
@[simp] theorem setCell_parts (c : Nat) (v : Cell) (s : State) : (setCell c v s).parts = s.parts := rfl
@[simp] theorem setCell_wdog (c : Nat) (v : Cell) (s : State) : (setCell c v s).wdog = s.wdog := rfl
@[simp] theorem setCell_bands (c : Nat) (v : Cell) (s : State) : (setCell c v s).bands = s.bands := rfl
@[simp] theorem setCell_seam (c : Nat) (v : Cell) (s : State) : (setCell c v s).seam = s.seam := rfl
@[simp] theorem setCell_fence (c : Nat) (v : Cell) (s : State) : (setCell c v s).fence = s.fence := rfl
@[simp] theorem setCell_patina (c : Nat) (v : Cell) (s : State) : (setCell c v s).patina = s.patina := rfl
@[simp] theorem setCell_mem (c : Nat) (v : Cell) (s : State) : (setCell c v s).mem = s.mem := rfl
@[simp] theorem setCell_memErr (c : Nat) (v : Cell) (s : State) : (setCell c v s).memErr = s.memErr := rfl
@[simp] theorem setCell_poison (c : Nat) (v : Cell) (s : State) : (setCell c v s).poison = s.poison := rfl
@[simp] theorem setCell_devs (c : Nat) (v : Cell) (s : State) : (setCell c v s).devs = s.devs := rfl
@[simp] theorem setCell_plinths (c : Nat) (v : Cell) (s : State) : (setCell c v s).plinths = s.plinths := rfl
@[simp] theorem setCell_regions (c : Nat) (v : Cell) (s : State) : (setCell c v s).regions = s.regions := rfl
@[simp] theorem setCell_links (c : Nat) (v : Cell) (s : State) : (setCell c v s).links = s.links := rfl
@[simp] theorem setCell_lasers (c : Nat) (v : Cell) (s : State) : (setCell c v s).lasers = s.lasers := rfl
@[simp] theorem setCell_fab (c : Nat) (v : Cell) (s : State) : (setCell c v s).fab = s.fab := rfl
@[simp] theorem setCell_chans (c : Nat) (v : Cell) (s : State) : (setCell c v s).chans = s.chans := rfl
@[simp] theorem setCell_redMcastTo (c : Nat) (v : Cell) (s : State) : (setCell c v s).redMcastTo = s.redMcastTo := rfl
@[simp] theorem setCell_castSeen (c : Nat) (v : Cell) (s : State) : (setCell c v s).castSeen = s.castSeen := rfl
@[simp] theorem setCell_passQ (c : Nat) (v : Cell) (s : State) : (setCell c v s).passQ = s.passQ := rfl

@[simp] theorem modCell_pending (c : Nat) (f : Cell → Cell) (s : State) : (modCell c f s).pending = s.pending := rfl
@[simp] theorem modCell_out (c : Nat) (f : Cell → Cell) (s : State) : (modCell c f s).out = s.out := rfl
@[simp] theorem modCell_free (c : Nat) (f : Cell → Cell) (s : State) : (modCell c f s).free = s.free := rfl
@[simp] theorem modCell_ident (c : Nat) (f : Cell → Cell) (s : State) : (modCell c f s).ident = s.ident := rfl
@[simp] theorem modCell_clk (c : Nat) (f : Cell → Cell) (s : State) : (modCell c f s).clk = s.clk := rfl
@[simp] theorem modCell_log (c : Nat) (f : Cell → Cell) (s : State) : (modCell c f s).log = s.log := rfl
@[simp] theorem modCell_rings (c : Nat) (f : Cell → Cell) (s : State) : (modCell c f s).rings = s.rings := rfl
@[simp] theorem modCell_mgmt (c : Nat) (f : Cell → Cell) (s : State) : (modCell c f s).mgmt = s.mgmt := rfl
@[simp] theorem modCell_flights (c : Nat) (f : Cell → Cell) (s : State) : (modCell c f s).flights = s.flights := rfl
@[simp] theorem modCell_mbox (c : Nat) (f : Cell → Cell) (s : State) : (modCell c f s).mbox = s.mbox := rfl
@[simp] theorem modCell_msix (c : Nat) (f : Cell → Cell) (s : State) : (modCell c f s).msix = s.msix := rfl
@[simp] theorem modCell_pcie (c : Nat) (f : Cell → Cell) (s : State) : (modCell c f s).pcie = s.pcie := rfl
@[simp] theorem modCell_app (c : Nat) (f : Cell → Cell) (s : State) : (modCell c f s).app = s.app := rfl
@[simp] theorem modCell_pwr (c : Nat) (f : Cell → Cell) (s : State) : (modCell c f s).pwr = s.pwr := rfl
@[simp] theorem modCell_flash (c : Nat) (f : Cell → Cell) (s : State) : (modCell c f s).flash = s.flash := rfl
@[simp] theorem modCell_sec (c : Nat) (f : Cell → Cell) (s : State) : (modCell c f s).sec = s.sec := rfl
@[simp] theorem modCell_board (c : Nat) (f : Cell → Cell) (s : State) : (modCell c f s).board = s.board := rfl
@[simp] theorem modCell_partMap (c : Nat) (f : Cell → Cell) (s : State) : (modCell c f s).partMap = s.partMap := rfl
@[simp] theorem modCell_parts (c : Nat) (f : Cell → Cell) (s : State) : (modCell c f s).parts = s.parts := rfl
@[simp] theorem modCell_wdog (c : Nat) (f : Cell → Cell) (s : State) : (modCell c f s).wdog = s.wdog := rfl
@[simp] theorem modCell_bands (c : Nat) (f : Cell → Cell) (s : State) : (modCell c f s).bands = s.bands := rfl
@[simp] theorem modCell_seam (c : Nat) (f : Cell → Cell) (s : State) : (modCell c f s).seam = s.seam := rfl
@[simp] theorem modCell_fence (c : Nat) (f : Cell → Cell) (s : State) : (modCell c f s).fence = s.fence := rfl
@[simp] theorem modCell_patina (c : Nat) (f : Cell → Cell) (s : State) : (modCell c f s).patina = s.patina := rfl
@[simp] theorem modCell_mem (c : Nat) (f : Cell → Cell) (s : State) : (modCell c f s).mem = s.mem := rfl
@[simp] theorem modCell_memErr (c : Nat) (f : Cell → Cell) (s : State) : (modCell c f s).memErr = s.memErr := rfl
@[simp] theorem modCell_poison (c : Nat) (f : Cell → Cell) (s : State) : (modCell c f s).poison = s.poison := rfl
@[simp] theorem modCell_devs (c : Nat) (f : Cell → Cell) (s : State) : (modCell c f s).devs = s.devs := rfl
@[simp] theorem modCell_plinths (c : Nat) (f : Cell → Cell) (s : State) : (modCell c f s).plinths = s.plinths := rfl
@[simp] theorem modCell_regions (c : Nat) (f : Cell → Cell) (s : State) : (modCell c f s).regions = s.regions := rfl
@[simp] theorem modCell_links (c : Nat) (f : Cell → Cell) (s : State) : (modCell c f s).links = s.links := rfl
@[simp] theorem modCell_lasers (c : Nat) (f : Cell → Cell) (s : State) : (modCell c f s).lasers = s.lasers := rfl
@[simp] theorem modCell_fab (c : Nat) (f : Cell → Cell) (s : State) : (modCell c f s).fab = s.fab := rfl
@[simp] theorem modCell_chans (c : Nat) (f : Cell → Cell) (s : State) : (modCell c f s).chans = s.chans := rfl
@[simp] theorem modCell_redMcastTo (c : Nat) (f : Cell → Cell) (s : State) : (modCell c f s).redMcastTo = s.redMcastTo := rfl
@[simp] theorem modCell_castSeen (c : Nat) (f : Cell → Cell) (s : State) : (modCell c f s).castSeen = s.castSeen := rfl
@[simp] theorem modCell_passQ (c : Nat) (f : Cell → Cell) (s : State) : (modCell c f s).passQ = s.passQ := rfl

@[simp] theorem modRing_pending (n : Nat) (f : CmdRing → CmdRing) (s : State) : (modRing n f s).pending = s.pending := rfl
@[simp] theorem modRing_out (n : Nat) (f : CmdRing → CmdRing) (s : State) : (modRing n f s).out = s.out := rfl
@[simp] theorem modRing_free (n : Nat) (f : CmdRing → CmdRing) (s : State) : (modRing n f s).free = s.free := rfl
@[simp] theorem modRing_ident (n : Nat) (f : CmdRing → CmdRing) (s : State) : (modRing n f s).ident = s.ident := rfl
@[simp] theorem modRing_clk (n : Nat) (f : CmdRing → CmdRing) (s : State) : (modRing n f s).clk = s.clk := rfl
@[simp] theorem modRing_log (n : Nat) (f : CmdRing → CmdRing) (s : State) : (modRing n f s).log = s.log := rfl
@[simp] theorem modRing_mgmt (n : Nat) (f : CmdRing → CmdRing) (s : State) : (modRing n f s).mgmt = s.mgmt := rfl
@[simp] theorem modRing_flights (n : Nat) (f : CmdRing → CmdRing) (s : State) : (modRing n f s).flights = s.flights := rfl
@[simp] theorem modRing_mbox (n : Nat) (f : CmdRing → CmdRing) (s : State) : (modRing n f s).mbox = s.mbox := rfl
@[simp] theorem modRing_msix (n : Nat) (f : CmdRing → CmdRing) (s : State) : (modRing n f s).msix = s.msix := rfl
@[simp] theorem modRing_pcie (n : Nat) (f : CmdRing → CmdRing) (s : State) : (modRing n f s).pcie = s.pcie := rfl
@[simp] theorem modRing_app (n : Nat) (f : CmdRing → CmdRing) (s : State) : (modRing n f s).app = s.app := rfl
@[simp] theorem modRing_pwr (n : Nat) (f : CmdRing → CmdRing) (s : State) : (modRing n f s).pwr = s.pwr := rfl
@[simp] theorem modRing_flash (n : Nat) (f : CmdRing → CmdRing) (s : State) : (modRing n f s).flash = s.flash := rfl
@[simp] theorem modRing_sec (n : Nat) (f : CmdRing → CmdRing) (s : State) : (modRing n f s).sec = s.sec := rfl
@[simp] theorem modRing_board (n : Nat) (f : CmdRing → CmdRing) (s : State) : (modRing n f s).board = s.board := rfl
@[simp] theorem modRing_partMap (n : Nat) (f : CmdRing → CmdRing) (s : State) : (modRing n f s).partMap = s.partMap := rfl
@[simp] theorem modRing_parts (n : Nat) (f : CmdRing → CmdRing) (s : State) : (modRing n f s).parts = s.parts := rfl
@[simp] theorem modRing_wdog (n : Nat) (f : CmdRing → CmdRing) (s : State) : (modRing n f s).wdog = s.wdog := rfl
@[simp] theorem modRing_bands (n : Nat) (f : CmdRing → CmdRing) (s : State) : (modRing n f s).bands = s.bands := rfl
@[simp] theorem modRing_cells (n : Nat) (f : CmdRing → CmdRing) (s : State) : (modRing n f s).cells = s.cells := rfl
@[simp] theorem modRing_seam (n : Nat) (f : CmdRing → CmdRing) (s : State) : (modRing n f s).seam = s.seam := rfl
@[simp] theorem modRing_fence (n : Nat) (f : CmdRing → CmdRing) (s : State) : (modRing n f s).fence = s.fence := rfl
@[simp] theorem modRing_patina (n : Nat) (f : CmdRing → CmdRing) (s : State) : (modRing n f s).patina = s.patina := rfl
@[simp] theorem modRing_mem (n : Nat) (f : CmdRing → CmdRing) (s : State) : (modRing n f s).mem = s.mem := rfl
@[simp] theorem modRing_memErr (n : Nat) (f : CmdRing → CmdRing) (s : State) : (modRing n f s).memErr = s.memErr := rfl
@[simp] theorem modRing_poison (n : Nat) (f : CmdRing → CmdRing) (s : State) : (modRing n f s).poison = s.poison := rfl
@[simp] theorem modRing_devs (n : Nat) (f : CmdRing → CmdRing) (s : State) : (modRing n f s).devs = s.devs := rfl
@[simp] theorem modRing_plinths (n : Nat) (f : CmdRing → CmdRing) (s : State) : (modRing n f s).plinths = s.plinths := rfl
@[simp] theorem modRing_regions (n : Nat) (f : CmdRing → CmdRing) (s : State) : (modRing n f s).regions = s.regions := rfl
@[simp] theorem modRing_links (n : Nat) (f : CmdRing → CmdRing) (s : State) : (modRing n f s).links = s.links := rfl
@[simp] theorem modRing_lasers (n : Nat) (f : CmdRing → CmdRing) (s : State) : (modRing n f s).lasers = s.lasers := rfl
@[simp] theorem modRing_fab (n : Nat) (f : CmdRing → CmdRing) (s : State) : (modRing n f s).fab = s.fab := rfl
@[simp] theorem modRing_chans (n : Nat) (f : CmdRing → CmdRing) (s : State) : (modRing n f s).chans = s.chans := rfl
@[simp] theorem modRing_redMcastTo (n : Nat) (f : CmdRing → CmdRing) (s : State) : (modRing n f s).redMcastTo = s.redMcastTo := rfl
@[simp] theorem modRing_castSeen (n : Nat) (f : CmdRing → CmdRing) (s : State) : (modRing n f s).castSeen = s.castSeen := rfl
@[simp] theorem modRing_passQ (n : Nat) (f : CmdRing → CmdRing) (s : State) : (modRing n f s).passQ = s.passQ := rfl

@[simp] theorem modDev_pending (u : Nat) (f : MemDev → MemDev) (s : State) : (modDev u f s).pending = s.pending := rfl
@[simp] theorem modDev_out (u : Nat) (f : MemDev → MemDev) (s : State) : (modDev u f s).out = s.out := rfl
@[simp] theorem modDev_free (u : Nat) (f : MemDev → MemDev) (s : State) : (modDev u f s).free = s.free := rfl
@[simp] theorem modDev_ident (u : Nat) (f : MemDev → MemDev) (s : State) : (modDev u f s).ident = s.ident := rfl
@[simp] theorem modDev_clk (u : Nat) (f : MemDev → MemDev) (s : State) : (modDev u f s).clk = s.clk := rfl
@[simp] theorem modDev_log (u : Nat) (f : MemDev → MemDev) (s : State) : (modDev u f s).log = s.log := rfl
@[simp] theorem modDev_rings (u : Nat) (f : MemDev → MemDev) (s : State) : (modDev u f s).rings = s.rings := rfl
@[simp] theorem modDev_mgmt (u : Nat) (f : MemDev → MemDev) (s : State) : (modDev u f s).mgmt = s.mgmt := rfl
@[simp] theorem modDev_flights (u : Nat) (f : MemDev → MemDev) (s : State) : (modDev u f s).flights = s.flights := rfl
@[simp] theorem modDev_mbox (u : Nat) (f : MemDev → MemDev) (s : State) : (modDev u f s).mbox = s.mbox := rfl
@[simp] theorem modDev_msix (u : Nat) (f : MemDev → MemDev) (s : State) : (modDev u f s).msix = s.msix := rfl
@[simp] theorem modDev_pcie (u : Nat) (f : MemDev → MemDev) (s : State) : (modDev u f s).pcie = s.pcie := rfl
@[simp] theorem modDev_app (u : Nat) (f : MemDev → MemDev) (s : State) : (modDev u f s).app = s.app := rfl
@[simp] theorem modDev_pwr (u : Nat) (f : MemDev → MemDev) (s : State) : (modDev u f s).pwr = s.pwr := rfl
@[simp] theorem modDev_flash (u : Nat) (f : MemDev → MemDev) (s : State) : (modDev u f s).flash = s.flash := rfl
@[simp] theorem modDev_sec (u : Nat) (f : MemDev → MemDev) (s : State) : (modDev u f s).sec = s.sec := rfl
@[simp] theorem modDev_board (u : Nat) (f : MemDev → MemDev) (s : State) : (modDev u f s).board = s.board := rfl
@[simp] theorem modDev_partMap (u : Nat) (f : MemDev → MemDev) (s : State) : (modDev u f s).partMap = s.partMap := rfl
@[simp] theorem modDev_parts (u : Nat) (f : MemDev → MemDev) (s : State) : (modDev u f s).parts = s.parts := rfl
@[simp] theorem modDev_wdog (u : Nat) (f : MemDev → MemDev) (s : State) : (modDev u f s).wdog = s.wdog := rfl
@[simp] theorem modDev_bands (u : Nat) (f : MemDev → MemDev) (s : State) : (modDev u f s).bands = s.bands := rfl
@[simp] theorem modDev_cells (u : Nat) (f : MemDev → MemDev) (s : State) : (modDev u f s).cells = s.cells := rfl
@[simp] theorem modDev_seam (u : Nat) (f : MemDev → MemDev) (s : State) : (modDev u f s).seam = s.seam := rfl
@[simp] theorem modDev_fence (u : Nat) (f : MemDev → MemDev) (s : State) : (modDev u f s).fence = s.fence := rfl
@[simp] theorem modDev_patina (u : Nat) (f : MemDev → MemDev) (s : State) : (modDev u f s).patina = s.patina := rfl
@[simp] theorem modDev_mem (u : Nat) (f : MemDev → MemDev) (s : State) : (modDev u f s).mem = s.mem := rfl
@[simp] theorem modDev_memErr (u : Nat) (f : MemDev → MemDev) (s : State) : (modDev u f s).memErr = s.memErr := rfl
@[simp] theorem modDev_poison (u : Nat) (f : MemDev → MemDev) (s : State) : (modDev u f s).poison = s.poison := rfl
@[simp] theorem modDev_plinths (u : Nat) (f : MemDev → MemDev) (s : State) : (modDev u f s).plinths = s.plinths := rfl
@[simp] theorem modDev_regions (u : Nat) (f : MemDev → MemDev) (s : State) : (modDev u f s).regions = s.regions := rfl
@[simp] theorem modDev_links (u : Nat) (f : MemDev → MemDev) (s : State) : (modDev u f s).links = s.links := rfl
@[simp] theorem modDev_lasers (u : Nat) (f : MemDev → MemDev) (s : State) : (modDev u f s).lasers = s.lasers := rfl
@[simp] theorem modDev_fab (u : Nat) (f : MemDev → MemDev) (s : State) : (modDev u f s).fab = s.fab := rfl
@[simp] theorem modDev_chans (u : Nat) (f : MemDev → MemDev) (s : State) : (modDev u f s).chans = s.chans := rfl
@[simp] theorem modDev_redMcastTo (u : Nat) (f : MemDev → MemDev) (s : State) : (modDev u f s).redMcastTo = s.redMcastTo := rfl
@[simp] theorem modDev_castSeen (u : Nat) (f : MemDev → MemDev) (s : State) : (modDev u f s).castSeen = s.castSeen := rfl
@[simp] theorem modDev_passQ (u : Nat) (f : MemDev → MemDev) (s : State) : (modDev u f s).passQ = s.passQ := rfl

@[simp] theorem modPl_pending (k : Nat) (f : Plinth → Plinth) (s : State) : (modPl k f s).pending = s.pending := rfl
@[simp] theorem modPl_out (k : Nat) (f : Plinth → Plinth) (s : State) : (modPl k f s).out = s.out := rfl
@[simp] theorem modPl_free (k : Nat) (f : Plinth → Plinth) (s : State) : (modPl k f s).free = s.free := rfl
@[simp] theorem modPl_ident (k : Nat) (f : Plinth → Plinth) (s : State) : (modPl k f s).ident = s.ident := rfl
@[simp] theorem modPl_clk (k : Nat) (f : Plinth → Plinth) (s : State) : (modPl k f s).clk = s.clk := rfl
@[simp] theorem modPl_log (k : Nat) (f : Plinth → Plinth) (s : State) : (modPl k f s).log = s.log := rfl
@[simp] theorem modPl_rings (k : Nat) (f : Plinth → Plinth) (s : State) : (modPl k f s).rings = s.rings := rfl
@[simp] theorem modPl_mgmt (k : Nat) (f : Plinth → Plinth) (s : State) : (modPl k f s).mgmt = s.mgmt := rfl
@[simp] theorem modPl_flights (k : Nat) (f : Plinth → Plinth) (s : State) : (modPl k f s).flights = s.flights := rfl
@[simp] theorem modPl_mbox (k : Nat) (f : Plinth → Plinth) (s : State) : (modPl k f s).mbox = s.mbox := rfl
@[simp] theorem modPl_msix (k : Nat) (f : Plinth → Plinth) (s : State) : (modPl k f s).msix = s.msix := rfl
@[simp] theorem modPl_pcie (k : Nat) (f : Plinth → Plinth) (s : State) : (modPl k f s).pcie = s.pcie := rfl
@[simp] theorem modPl_app (k : Nat) (f : Plinth → Plinth) (s : State) : (modPl k f s).app = s.app := rfl
@[simp] theorem modPl_pwr (k : Nat) (f : Plinth → Plinth) (s : State) : (modPl k f s).pwr = s.pwr := rfl
@[simp] theorem modPl_flash (k : Nat) (f : Plinth → Plinth) (s : State) : (modPl k f s).flash = s.flash := rfl
@[simp] theorem modPl_sec (k : Nat) (f : Plinth → Plinth) (s : State) : (modPl k f s).sec = s.sec := rfl
@[simp] theorem modPl_board (k : Nat) (f : Plinth → Plinth) (s : State) : (modPl k f s).board = s.board := rfl
@[simp] theorem modPl_partMap (k : Nat) (f : Plinth → Plinth) (s : State) : (modPl k f s).partMap = s.partMap := rfl
@[simp] theorem modPl_parts (k : Nat) (f : Plinth → Plinth) (s : State) : (modPl k f s).parts = s.parts := rfl
@[simp] theorem modPl_wdog (k : Nat) (f : Plinth → Plinth) (s : State) : (modPl k f s).wdog = s.wdog := rfl
@[simp] theorem modPl_bands (k : Nat) (f : Plinth → Plinth) (s : State) : (modPl k f s).bands = s.bands := rfl
@[simp] theorem modPl_cells (k : Nat) (f : Plinth → Plinth) (s : State) : (modPl k f s).cells = s.cells := rfl
@[simp] theorem modPl_seam (k : Nat) (f : Plinth → Plinth) (s : State) : (modPl k f s).seam = s.seam := rfl
@[simp] theorem modPl_fence (k : Nat) (f : Plinth → Plinth) (s : State) : (modPl k f s).fence = s.fence := rfl
@[simp] theorem modPl_patina (k : Nat) (f : Plinth → Plinth) (s : State) : (modPl k f s).patina = s.patina := rfl
@[simp] theorem modPl_mem (k : Nat) (f : Plinth → Plinth) (s : State) : (modPl k f s).mem = s.mem := rfl
@[simp] theorem modPl_memErr (k : Nat) (f : Plinth → Plinth) (s : State) : (modPl k f s).memErr = s.memErr := rfl
@[simp] theorem modPl_poison (k : Nat) (f : Plinth → Plinth) (s : State) : (modPl k f s).poison = s.poison := rfl
@[simp] theorem modPl_devs (k : Nat) (f : Plinth → Plinth) (s : State) : (modPl k f s).devs = s.devs := rfl
@[simp] theorem modPl_regions (k : Nat) (f : Plinth → Plinth) (s : State) : (modPl k f s).regions = s.regions := rfl
@[simp] theorem modPl_links (k : Nat) (f : Plinth → Plinth) (s : State) : (modPl k f s).links = s.links := rfl
@[simp] theorem modPl_lasers (k : Nat) (f : Plinth → Plinth) (s : State) : (modPl k f s).lasers = s.lasers := rfl
@[simp] theorem modPl_fab (k : Nat) (f : Plinth → Plinth) (s : State) : (modPl k f s).fab = s.fab := rfl
@[simp] theorem modPl_chans (k : Nat) (f : Plinth → Plinth) (s : State) : (modPl k f s).chans = s.chans := rfl
@[simp] theorem modPl_redMcastTo (k : Nat) (f : Plinth → Plinth) (s : State) : (modPl k f s).redMcastTo = s.redMcastTo := rfl
@[simp] theorem modPl_castSeen (k : Nat) (f : Plinth → Plinth) (s : State) : (modPl k f s).castSeen = s.castSeen := rfl
@[simp] theorem modPl_passQ (k : Nat) (f : Plinth → Plinth) (s : State) : (modPl k f s).passQ = s.passQ := rfl

@[simp] theorem modReg_pending (k : Nat) (f : Region → Region) (s : State) : (modReg k f s).pending = s.pending := rfl
@[simp] theorem modReg_out (k : Nat) (f : Region → Region) (s : State) : (modReg k f s).out = s.out := rfl
@[simp] theorem modReg_free (k : Nat) (f : Region → Region) (s : State) : (modReg k f s).free = s.free := rfl
@[simp] theorem modReg_ident (k : Nat) (f : Region → Region) (s : State) : (modReg k f s).ident = s.ident := rfl
@[simp] theorem modReg_clk (k : Nat) (f : Region → Region) (s : State) : (modReg k f s).clk = s.clk := rfl
@[simp] theorem modReg_log (k : Nat) (f : Region → Region) (s : State) : (modReg k f s).log = s.log := rfl
@[simp] theorem modReg_rings (k : Nat) (f : Region → Region) (s : State) : (modReg k f s).rings = s.rings := rfl
@[simp] theorem modReg_mgmt (k : Nat) (f : Region → Region) (s : State) : (modReg k f s).mgmt = s.mgmt := rfl
@[simp] theorem modReg_flights (k : Nat) (f : Region → Region) (s : State) : (modReg k f s).flights = s.flights := rfl
@[simp] theorem modReg_mbox (k : Nat) (f : Region → Region) (s : State) : (modReg k f s).mbox = s.mbox := rfl
@[simp] theorem modReg_msix (k : Nat) (f : Region → Region) (s : State) : (modReg k f s).msix = s.msix := rfl
@[simp] theorem modReg_pcie (k : Nat) (f : Region → Region) (s : State) : (modReg k f s).pcie = s.pcie := rfl
@[simp] theorem modReg_app (k : Nat) (f : Region → Region) (s : State) : (modReg k f s).app = s.app := rfl
@[simp] theorem modReg_pwr (k : Nat) (f : Region → Region) (s : State) : (modReg k f s).pwr = s.pwr := rfl
@[simp] theorem modReg_flash (k : Nat) (f : Region → Region) (s : State) : (modReg k f s).flash = s.flash := rfl
@[simp] theorem modReg_sec (k : Nat) (f : Region → Region) (s : State) : (modReg k f s).sec = s.sec := rfl
@[simp] theorem modReg_board (k : Nat) (f : Region → Region) (s : State) : (modReg k f s).board = s.board := rfl
@[simp] theorem modReg_partMap (k : Nat) (f : Region → Region) (s : State) : (modReg k f s).partMap = s.partMap := rfl
@[simp] theorem modReg_parts (k : Nat) (f : Region → Region) (s : State) : (modReg k f s).parts = s.parts := rfl
@[simp] theorem modReg_wdog (k : Nat) (f : Region → Region) (s : State) : (modReg k f s).wdog = s.wdog := rfl
@[simp] theorem modReg_bands (k : Nat) (f : Region → Region) (s : State) : (modReg k f s).bands = s.bands := rfl
@[simp] theorem modReg_cells (k : Nat) (f : Region → Region) (s : State) : (modReg k f s).cells = s.cells := rfl
@[simp] theorem modReg_seam (k : Nat) (f : Region → Region) (s : State) : (modReg k f s).seam = s.seam := rfl
@[simp] theorem modReg_fence (k : Nat) (f : Region → Region) (s : State) : (modReg k f s).fence = s.fence := rfl
@[simp] theorem modReg_patina (k : Nat) (f : Region → Region) (s : State) : (modReg k f s).patina = s.patina := rfl
@[simp] theorem modReg_mem (k : Nat) (f : Region → Region) (s : State) : (modReg k f s).mem = s.mem := rfl
@[simp] theorem modReg_memErr (k : Nat) (f : Region → Region) (s : State) : (modReg k f s).memErr = s.memErr := rfl
@[simp] theorem modReg_poison (k : Nat) (f : Region → Region) (s : State) : (modReg k f s).poison = s.poison := rfl
@[simp] theorem modReg_devs (k : Nat) (f : Region → Region) (s : State) : (modReg k f s).devs = s.devs := rfl
@[simp] theorem modReg_plinths (k : Nat) (f : Region → Region) (s : State) : (modReg k f s).plinths = s.plinths := rfl
@[simp] theorem modReg_links (k : Nat) (f : Region → Region) (s : State) : (modReg k f s).links = s.links := rfl
@[simp] theorem modReg_lasers (k : Nat) (f : Region → Region) (s : State) : (modReg k f s).lasers = s.lasers := rfl
@[simp] theorem modReg_fab (k : Nat) (f : Region → Region) (s : State) : (modReg k f s).fab = s.fab := rfl
@[simp] theorem modReg_chans (k : Nat) (f : Region → Region) (s : State) : (modReg k f s).chans = s.chans := rfl
@[simp] theorem modReg_redMcastTo (k : Nat) (f : Region → Region) (s : State) : (modReg k f s).redMcastTo = s.redMcastTo := rfl
@[simp] theorem modReg_castSeen (k : Nat) (f : Region → Region) (s : State) : (modReg k f s).castSeen = s.castSeen := rfl
@[simp] theorem modReg_passQ (k : Nat) (f : Region → Region) (s : State) : (modReg k f s).passQ = s.passQ := rfl

@[simp] theorem modLink_pending (l : Nat) (f : Link → Link) (s : State) : (modLink l f s).pending = s.pending := rfl
@[simp] theorem modLink_out (l : Nat) (f : Link → Link) (s : State) : (modLink l f s).out = s.out := rfl
@[simp] theorem modLink_free (l : Nat) (f : Link → Link) (s : State) : (modLink l f s).free = s.free := rfl
@[simp] theorem modLink_ident (l : Nat) (f : Link → Link) (s : State) : (modLink l f s).ident = s.ident := rfl
@[simp] theorem modLink_clk (l : Nat) (f : Link → Link) (s : State) : (modLink l f s).clk = s.clk := rfl
@[simp] theorem modLink_log (l : Nat) (f : Link → Link) (s : State) : (modLink l f s).log = s.log := rfl
@[simp] theorem modLink_rings (l : Nat) (f : Link → Link) (s : State) : (modLink l f s).rings = s.rings := rfl
@[simp] theorem modLink_mgmt (l : Nat) (f : Link → Link) (s : State) : (modLink l f s).mgmt = s.mgmt := rfl
@[simp] theorem modLink_flights (l : Nat) (f : Link → Link) (s : State) : (modLink l f s).flights = s.flights := rfl
@[simp] theorem modLink_mbox (l : Nat) (f : Link → Link) (s : State) : (modLink l f s).mbox = s.mbox := rfl
@[simp] theorem modLink_msix (l : Nat) (f : Link → Link) (s : State) : (modLink l f s).msix = s.msix := rfl
@[simp] theorem modLink_pcie (l : Nat) (f : Link → Link) (s : State) : (modLink l f s).pcie = s.pcie := rfl
@[simp] theorem modLink_app (l : Nat) (f : Link → Link) (s : State) : (modLink l f s).app = s.app := rfl
@[simp] theorem modLink_pwr (l : Nat) (f : Link → Link) (s : State) : (modLink l f s).pwr = s.pwr := rfl
@[simp] theorem modLink_flash (l : Nat) (f : Link → Link) (s : State) : (modLink l f s).flash = s.flash := rfl
@[simp] theorem modLink_sec (l : Nat) (f : Link → Link) (s : State) : (modLink l f s).sec = s.sec := rfl
@[simp] theorem modLink_board (l : Nat) (f : Link → Link) (s : State) : (modLink l f s).board = s.board := rfl
@[simp] theorem modLink_partMap (l : Nat) (f : Link → Link) (s : State) : (modLink l f s).partMap = s.partMap := rfl
@[simp] theorem modLink_parts (l : Nat) (f : Link → Link) (s : State) : (modLink l f s).parts = s.parts := rfl
@[simp] theorem modLink_wdog (l : Nat) (f : Link → Link) (s : State) : (modLink l f s).wdog = s.wdog := rfl
@[simp] theorem modLink_bands (l : Nat) (f : Link → Link) (s : State) : (modLink l f s).bands = s.bands := rfl
@[simp] theorem modLink_cells (l : Nat) (f : Link → Link) (s : State) : (modLink l f s).cells = s.cells := rfl
@[simp] theorem modLink_seam (l : Nat) (f : Link → Link) (s : State) : (modLink l f s).seam = s.seam := rfl
@[simp] theorem modLink_fence (l : Nat) (f : Link → Link) (s : State) : (modLink l f s).fence = s.fence := rfl
@[simp] theorem modLink_patina (l : Nat) (f : Link → Link) (s : State) : (modLink l f s).patina = s.patina := rfl
@[simp] theorem modLink_mem (l : Nat) (f : Link → Link) (s : State) : (modLink l f s).mem = s.mem := rfl
@[simp] theorem modLink_memErr (l : Nat) (f : Link → Link) (s : State) : (modLink l f s).memErr = s.memErr := rfl
@[simp] theorem modLink_poison (l : Nat) (f : Link → Link) (s : State) : (modLink l f s).poison = s.poison := rfl
@[simp] theorem modLink_devs (l : Nat) (f : Link → Link) (s : State) : (modLink l f s).devs = s.devs := rfl
@[simp] theorem modLink_plinths (l : Nat) (f : Link → Link) (s : State) : (modLink l f s).plinths = s.plinths := rfl
@[simp] theorem modLink_regions (l : Nat) (f : Link → Link) (s : State) : (modLink l f s).regions = s.regions := rfl
@[simp] theorem modLink_lasers (l : Nat) (f : Link → Link) (s : State) : (modLink l f s).lasers = s.lasers := rfl
@[simp] theorem modLink_fab (l : Nat) (f : Link → Link) (s : State) : (modLink l f s).fab = s.fab := rfl
@[simp] theorem modLink_chans (l : Nat) (f : Link → Link) (s : State) : (modLink l f s).chans = s.chans := rfl
@[simp] theorem modLink_redMcastTo (l : Nat) (f : Link → Link) (s : State) : (modLink l f s).redMcastTo = s.redMcastTo := rfl
@[simp] theorem modLink_castSeen (l : Nat) (f : Link → Link) (s : State) : (modLink l f s).castSeen = s.castSeen := rfl
@[simp] theorem modLink_passQ (l : Nat) (f : Link → Link) (s : State) : (modLink l f s).passQ = s.passQ := rfl

@[simp] theorem modChan_pending (c : Nat) (f : Chan → Chan) (s : State) : (modChan c f s).pending = s.pending := rfl
@[simp] theorem modChan_out (c : Nat) (f : Chan → Chan) (s : State) : (modChan c f s).out = s.out := rfl
@[simp] theorem modChan_free (c : Nat) (f : Chan → Chan) (s : State) : (modChan c f s).free = s.free := rfl
@[simp] theorem modChan_ident (c : Nat) (f : Chan → Chan) (s : State) : (modChan c f s).ident = s.ident := rfl
@[simp] theorem modChan_clk (c : Nat) (f : Chan → Chan) (s : State) : (modChan c f s).clk = s.clk := rfl
@[simp] theorem modChan_log (c : Nat) (f : Chan → Chan) (s : State) : (modChan c f s).log = s.log := rfl
@[simp] theorem modChan_rings (c : Nat) (f : Chan → Chan) (s : State) : (modChan c f s).rings = s.rings := rfl
@[simp] theorem modChan_mgmt (c : Nat) (f : Chan → Chan) (s : State) : (modChan c f s).mgmt = s.mgmt := rfl
@[simp] theorem modChan_flights (c : Nat) (f : Chan → Chan) (s : State) : (modChan c f s).flights = s.flights := rfl
@[simp] theorem modChan_mbox (c : Nat) (f : Chan → Chan) (s : State) : (modChan c f s).mbox = s.mbox := rfl
@[simp] theorem modChan_msix (c : Nat) (f : Chan → Chan) (s : State) : (modChan c f s).msix = s.msix := rfl
@[simp] theorem modChan_pcie (c : Nat) (f : Chan → Chan) (s : State) : (modChan c f s).pcie = s.pcie := rfl
@[simp] theorem modChan_app (c : Nat) (f : Chan → Chan) (s : State) : (modChan c f s).app = s.app := rfl
@[simp] theorem modChan_pwr (c : Nat) (f : Chan → Chan) (s : State) : (modChan c f s).pwr = s.pwr := rfl
@[simp] theorem modChan_flash (c : Nat) (f : Chan → Chan) (s : State) : (modChan c f s).flash = s.flash := rfl
@[simp] theorem modChan_sec (c : Nat) (f : Chan → Chan) (s : State) : (modChan c f s).sec = s.sec := rfl
@[simp] theorem modChan_board (c : Nat) (f : Chan → Chan) (s : State) : (modChan c f s).board = s.board := rfl
@[simp] theorem modChan_partMap (c : Nat) (f : Chan → Chan) (s : State) : (modChan c f s).partMap = s.partMap := rfl
@[simp] theorem modChan_parts (c : Nat) (f : Chan → Chan) (s : State) : (modChan c f s).parts = s.parts := rfl
@[simp] theorem modChan_wdog (c : Nat) (f : Chan → Chan) (s : State) : (modChan c f s).wdog = s.wdog := rfl
@[simp] theorem modChan_bands (c : Nat) (f : Chan → Chan) (s : State) : (modChan c f s).bands = s.bands := rfl
@[simp] theorem modChan_cells (c : Nat) (f : Chan → Chan) (s : State) : (modChan c f s).cells = s.cells := rfl
@[simp] theorem modChan_seam (c : Nat) (f : Chan → Chan) (s : State) : (modChan c f s).seam = s.seam := rfl
@[simp] theorem modChan_fence (c : Nat) (f : Chan → Chan) (s : State) : (modChan c f s).fence = s.fence := rfl
@[simp] theorem modChan_patina (c : Nat) (f : Chan → Chan) (s : State) : (modChan c f s).patina = s.patina := rfl
@[simp] theorem modChan_mem (c : Nat) (f : Chan → Chan) (s : State) : (modChan c f s).mem = s.mem := rfl
@[simp] theorem modChan_memErr (c : Nat) (f : Chan → Chan) (s : State) : (modChan c f s).memErr = s.memErr := rfl
@[simp] theorem modChan_poison (c : Nat) (f : Chan → Chan) (s : State) : (modChan c f s).poison = s.poison := rfl
@[simp] theorem modChan_devs (c : Nat) (f : Chan → Chan) (s : State) : (modChan c f s).devs = s.devs := rfl
@[simp] theorem modChan_plinths (c : Nat) (f : Chan → Chan) (s : State) : (modChan c f s).plinths = s.plinths := rfl
@[simp] theorem modChan_regions (c : Nat) (f : Chan → Chan) (s : State) : (modChan c f s).regions = s.regions := rfl
@[simp] theorem modChan_links (c : Nat) (f : Chan → Chan) (s : State) : (modChan c f s).links = s.links := rfl
@[simp] theorem modChan_lasers (c : Nat) (f : Chan → Chan) (s : State) : (modChan c f s).lasers = s.lasers := rfl
@[simp] theorem modChan_fab (c : Nat) (f : Chan → Chan) (s : State) : (modChan c f s).fab = s.fab := rfl
@[simp] theorem modChan_redMcastTo (c : Nat) (f : Chan → Chan) (s : State) : (modChan c f s).redMcastTo = s.redMcastTo := rfl
@[simp] theorem modChan_castSeen (c : Nat) (f : Chan → Chan) (s : State) : (modChan c f s).castSeen = s.castSeen := rfl
@[simp] theorem modChan_passQ (c : Nat) (f : Chan → Chan) (s : State) : (modChan c f s).passQ = s.passQ := rfl

@[simp] theorem launch_pending (r : CmdRef) (cl : List Claim) (k : FlightKind) (s : State) : (launch r cl k s).pending = s.pending := rfl
@[simp] theorem launch_out (r : CmdRef) (cl : List Claim) (k : FlightKind) (s : State) : (launch r cl k s).out = s.out := rfl
@[simp] theorem launch_free (r : CmdRef) (cl : List Claim) (k : FlightKind) (s : State) : (launch r cl k s).free = s.free := rfl
@[simp] theorem launch_ident (r : CmdRef) (cl : List Claim) (k : FlightKind) (s : State) : (launch r cl k s).ident = s.ident := rfl
@[simp] theorem launch_clk (r : CmdRef) (cl : List Claim) (k : FlightKind) (s : State) : (launch r cl k s).clk = s.clk := rfl
@[simp] theorem launch_log (r : CmdRef) (cl : List Claim) (k : FlightKind) (s : State) : (launch r cl k s).log = s.log := rfl
@[simp] theorem launch_rings (r : CmdRef) (cl : List Claim) (k : FlightKind) (s : State) : (launch r cl k s).rings = s.rings := rfl
@[simp] theorem launch_mgmt (r : CmdRef) (cl : List Claim) (k : FlightKind) (s : State) : (launch r cl k s).mgmt = s.mgmt := rfl
@[simp] theorem launch_mbox (r : CmdRef) (cl : List Claim) (k : FlightKind) (s : State) : (launch r cl k s).mbox = s.mbox := rfl
@[simp] theorem launch_msix (r : CmdRef) (cl : List Claim) (k : FlightKind) (s : State) : (launch r cl k s).msix = s.msix := rfl
@[simp] theorem launch_pcie (r : CmdRef) (cl : List Claim) (k : FlightKind) (s : State) : (launch r cl k s).pcie = s.pcie := rfl
@[simp] theorem launch_app (r : CmdRef) (cl : List Claim) (k : FlightKind) (s : State) : (launch r cl k s).app = s.app := rfl
@[simp] theorem launch_pwr (r : CmdRef) (cl : List Claim) (k : FlightKind) (s : State) : (launch r cl k s).pwr = s.pwr := rfl
@[simp] theorem launch_flash (r : CmdRef) (cl : List Claim) (k : FlightKind) (s : State) : (launch r cl k s).flash = s.flash := rfl
@[simp] theorem launch_sec (r : CmdRef) (cl : List Claim) (k : FlightKind) (s : State) : (launch r cl k s).sec = s.sec := rfl
@[simp] theorem launch_board (r : CmdRef) (cl : List Claim) (k : FlightKind) (s : State) : (launch r cl k s).board = s.board := rfl
@[simp] theorem launch_partMap (r : CmdRef) (cl : List Claim) (k : FlightKind) (s : State) : (launch r cl k s).partMap = s.partMap := rfl
@[simp] theorem launch_parts (r : CmdRef) (cl : List Claim) (k : FlightKind) (s : State) : (launch r cl k s).parts = s.parts := rfl
@[simp] theorem launch_wdog (r : CmdRef) (cl : List Claim) (k : FlightKind) (s : State) : (launch r cl k s).wdog = s.wdog := rfl
@[simp] theorem launch_bands (r : CmdRef) (cl : List Claim) (k : FlightKind) (s : State) : (launch r cl k s).bands = s.bands := rfl
@[simp] theorem launch_cells (r : CmdRef) (cl : List Claim) (k : FlightKind) (s : State) : (launch r cl k s).cells = s.cells := rfl
@[simp] theorem launch_seam (r : CmdRef) (cl : List Claim) (k : FlightKind) (s : State) : (launch r cl k s).seam = s.seam := rfl
@[simp] theorem launch_fence (r : CmdRef) (cl : List Claim) (k : FlightKind) (s : State) : (launch r cl k s).fence = s.fence := rfl
@[simp] theorem launch_patina (r : CmdRef) (cl : List Claim) (k : FlightKind) (s : State) : (launch r cl k s).patina = s.patina := rfl
@[simp] theorem launch_mem (r : CmdRef) (cl : List Claim) (k : FlightKind) (s : State) : (launch r cl k s).mem = s.mem := rfl
@[simp] theorem launch_memErr (r : CmdRef) (cl : List Claim) (k : FlightKind) (s : State) : (launch r cl k s).memErr = s.memErr := rfl
@[simp] theorem launch_poison (r : CmdRef) (cl : List Claim) (k : FlightKind) (s : State) : (launch r cl k s).poison = s.poison := rfl
@[simp] theorem launch_devs (r : CmdRef) (cl : List Claim) (k : FlightKind) (s : State) : (launch r cl k s).devs = s.devs := rfl
@[simp] theorem launch_plinths (r : CmdRef) (cl : List Claim) (k : FlightKind) (s : State) : (launch r cl k s).plinths = s.plinths := rfl
@[simp] theorem launch_regions (r : CmdRef) (cl : List Claim) (k : FlightKind) (s : State) : (launch r cl k s).regions = s.regions := rfl
@[simp] theorem launch_links (r : CmdRef) (cl : List Claim) (k : FlightKind) (s : State) : (launch r cl k s).links = s.links := rfl
@[simp] theorem launch_lasers (r : CmdRef) (cl : List Claim) (k : FlightKind) (s : State) : (launch r cl k s).lasers = s.lasers := rfl
@[simp] theorem launch_fab (r : CmdRef) (cl : List Claim) (k : FlightKind) (s : State) : (launch r cl k s).fab = s.fab := rfl
@[simp] theorem launch_chans (r : CmdRef) (cl : List Claim) (k : FlightKind) (s : State) : (launch r cl k s).chans = s.chans := rfl
@[simp] theorem launch_redMcastTo (r : CmdRef) (cl : List Claim) (k : FlightKind) (s : State) : (launch r cl k s).redMcastTo = s.redMcastTo := rfl
@[simp] theorem launch_castSeen (r : CmdRef) (cl : List Claim) (k : FlightKind) (s : State) : (launch r cl k s).castSeen = s.castSeen := rfl
@[simp] theorem launch_passQ (r : CmdRef) (cl : List Claim) (k : FlightKind) (s : State) : (launch r cl k s).passQ = s.passQ := rfl

/-- A request to the host goes out, or waits while the function may send none (R277, R292). -/
theorem emitHost_shape (x : HostSend) (s : State) :
    (quiet s = false ∧ emitHost x s = { s with out := hostOutOf x :: s.out }) ∨
    (quiet s = true ∧ emitHost x s = { s with pcie := { s.pcie with held := s.pcie.held ++ [x] } }) := by
  unfold emitHost
  cases h : quiet s
  · exact .inl ⟨rfl, if_neg Bool.false_ne_true⟩
  · exact .inr ⟨rfl, if_pos rfl⟩

/-- What reads of host memory change: the engine whose turn it is, what waits for D0, and what goes out (R287, R292). -/
theorem hostReads_shape (l : List (Nat × Nat)) (e : Nat × Nat → Nat) (s : State) : ∃ hd o,
    l.foldl (fun t x => emitHost (.read (e x) x.1 x.2) t) s =
      { s with pcie := { s.pcie with held := s.pcie.held ++ hd }, out := o ++ s.out } := by
  induction l generalizing s with
  | nil => exact ⟨[], [], by simp⟩
  | cons x l ih =>
    obtain ⟨hd, o, h⟩ := ih (emitHost (.read (e x) x.1 x.2) s)
    rw [List.foldl_cons, h]
    rcases emitHost_shape (.read (e x) x.1 x.2) s with ⟨-, hs⟩ | ⟨-, hs⟩
    · exact ⟨hd, o ++ [hostOutOf (.read (e x) x.1 x.2)], by simp [hs]⟩
    · exact ⟨HostSend.read (e x) x.1 x.2 :: hd, o, by simp [hs]⟩

theorem hostIn_shape (addr n : Nat) (s : State) : ∃ en hd o, hostIn addr n s =
    { s with pcie := { s.pcie with engine := en, held := s.pcie.held ++ hd }, out := o ++ s.out } := by
  obtain ⟨hd, o, h⟩ := hostReads_shape (hostSplit (maxRead s) n addr n) (fun x => engineOf s addr x.1) s
  refine ⟨(engineOf s addr (addr + n - 1) + 1) % 8, hd, o, ?_⟩
  unfold hostIn nextEngine
  rw [h]
  rfl

@[simp] theorem cwWrite_pending (c : Nat) (bs : List Byte) (s : State) : (cwWrite c bs s).pending = s.pending := rfl
@[simp] theorem cwWrite_out (c : Nat) (bs : List Byte) (s : State) : (cwWrite c bs s).out = s.out := rfl
@[simp] theorem cwWrite_free (c : Nat) (bs : List Byte) (s : State) : (cwWrite c bs s).free = s.free := rfl
@[simp] theorem cwWrite_ident (c : Nat) (bs : List Byte) (s : State) : (cwWrite c bs s).ident = s.ident := rfl
@[simp] theorem cwWrite_clk (c : Nat) (bs : List Byte) (s : State) : (cwWrite c bs s).clk = s.clk := rfl
@[simp] theorem cwWrite_log (c : Nat) (bs : List Byte) (s : State) : (cwWrite c bs s).log = s.log := rfl
@[simp] theorem cwWrite_rings (c : Nat) (bs : List Byte) (s : State) : (cwWrite c bs s).rings = s.rings := rfl
@[simp] theorem cwWrite_mgmt (c : Nat) (bs : List Byte) (s : State) : (cwWrite c bs s).mgmt = s.mgmt := rfl
@[simp] theorem cwWrite_flights (c : Nat) (bs : List Byte) (s : State) : (cwWrite c bs s).flights = s.flights := rfl
@[simp] theorem cwWrite_mbox (c : Nat) (bs : List Byte) (s : State) : (cwWrite c bs s).mbox = s.mbox := rfl
@[simp] theorem cwWrite_msix (c : Nat) (bs : List Byte) (s : State) : (cwWrite c bs s).msix = s.msix := rfl
@[simp] theorem cwWrite_pcie (c : Nat) (bs : List Byte) (s : State) : (cwWrite c bs s).pcie = s.pcie := rfl
@[simp] theorem cwWrite_app (c : Nat) (bs : List Byte) (s : State) : (cwWrite c bs s).app = s.app := rfl
@[simp] theorem cwWrite_pwr (c : Nat) (bs : List Byte) (s : State) : (cwWrite c bs s).pwr = s.pwr := rfl
@[simp] theorem cwWrite_flash (c : Nat) (bs : List Byte) (s : State) : (cwWrite c bs s).flash = s.flash := rfl
@[simp] theorem cwWrite_sec (c : Nat) (bs : List Byte) (s : State) : (cwWrite c bs s).sec = s.sec := rfl
@[simp] theorem cwWrite_board (c : Nat) (bs : List Byte) (s : State) : (cwWrite c bs s).board = s.board := rfl
@[simp] theorem cwWrite_partMap (c : Nat) (bs : List Byte) (s : State) : (cwWrite c bs s).partMap = s.partMap := rfl
@[simp] theorem cwWrite_parts (c : Nat) (bs : List Byte) (s : State) : (cwWrite c bs s).parts = s.parts := rfl
@[simp] theorem cwWrite_wdog (c : Nat) (bs : List Byte) (s : State) : (cwWrite c bs s).wdog = s.wdog := rfl
@[simp] theorem cwWrite_bands (c : Nat) (bs : List Byte) (s : State) : (cwWrite c bs s).bands = s.bands := rfl
@[simp] theorem cwWrite_cells (c : Nat) (bs : List Byte) (s : State) : (cwWrite c bs s).cells = s.cells := rfl
@[simp] theorem cwWrite_seam (c : Nat) (bs : List Byte) (s : State) : (cwWrite c bs s).seam = s.seam := rfl
@[simp] theorem cwWrite_fence (c : Nat) (bs : List Byte) (s : State) : (cwWrite c bs s).fence = s.fence := rfl
@[simp] theorem cwWrite_patina (c : Nat) (bs : List Byte) (s : State) : (cwWrite c bs s).patina = s.patina := rfl
@[simp] theorem cwWrite_devs (c : Nat) (bs : List Byte) (s : State) : (cwWrite c bs s).devs = s.devs := rfl
@[simp] theorem cwWrite_plinths (c : Nat) (bs : List Byte) (s : State) : (cwWrite c bs s).plinths = s.plinths := rfl
@[simp] theorem cwWrite_regions (c : Nat) (bs : List Byte) (s : State) : (cwWrite c bs s).regions = s.regions := rfl
@[simp] theorem cwWrite_links (c : Nat) (bs : List Byte) (s : State) : (cwWrite c bs s).links = s.links := rfl
@[simp] theorem cwWrite_lasers (c : Nat) (bs : List Byte) (s : State) : (cwWrite c bs s).lasers = s.lasers := rfl
@[simp] theorem cwWrite_fab (c : Nat) (bs : List Byte) (s : State) : (cwWrite c bs s).fab = s.fab := rfl
@[simp] theorem cwWrite_chans (c : Nat) (bs : List Byte) (s : State) : (cwWrite c bs s).chans = s.chans := rfl
@[simp] theorem cwWrite_redMcastTo (c : Nat) (bs : List Byte) (s : State) : (cwWrite c bs s).redMcastTo = s.redMcastTo := rfl
@[simp] theorem cwWrite_castSeen (c : Nat) (bs : List Byte) (s : State) : (cwWrite c bs s).castSeen = s.castSeen := rfl
@[simp] theorem cwWrite_passQ (c : Nat) (bs : List Byte) (s : State) : (cwWrite c bs s).passQ = s.passQ := rfl

@[simp] theorem emit_out (o : Out) (s : State) : (emit o s).out = o :: s.out := rfl

@[simp] theorem getPart_modPart (i : Nat) (f : Part → Part) (s : State) : getPart (modPart i f s) i = f (getPart s i) := by
  simp [getPart, modPart, setPart, getPart]
theorem getPart_modPart_other {i j : Nat} (f : Part → Part) (s : State) (h : i ≠ j) : getPart (modPart i f s) j = getPart s j :=
  tget_tmod_other _ _ f h
@[simp] theorem getBand_modBand (i : Nat) (f : Band → Band) (s : State) : getBand (modBand i f s) i = f (getBand s i) := by
  simp [getBand, modBand, setBand, getBand]
theorem getBand_modBand_other {i j : Nat} (f : Band → Band) (s : State) (h : i ≠ j) : getBand (modBand i f s) j = getBand s j :=
  tget_tmod_other _ _ f h
@[simp] theorem getCell_modCell (i : Nat) (f : Cell → Cell) (s : State) : getCell (modCell i f s) i = f (getCell s i) := by
  simp [getCell, modCell, setCell, getCell]
theorem getCell_modCell_other {i j : Nat} (f : Cell → Cell) (s : State) (h : i ≠ j) : getCell (modCell i f s) j = getCell s j :=
  tget_tmod_other _ _ f h
@[simp] theorem getRing_modRing (i : Nat) (f : CmdRing → CmdRing) (s : State) : getRing (modRing i f s) i = f (getRing s i) := by
  simp [getRing, modRing]
theorem getRing_modRing_other {i j : Nat} (f : CmdRing → CmdRing) (s : State) (h : i ≠ j) : getRing (modRing i f s) j = getRing s j :=
  tget_tmod_other _ _ f h
@[simp] theorem getDev_modDev (i : Nat) (f : MemDev → MemDev) (s : State) : getDev (modDev i f s) i = f (getDev s i) := by
  simp [getDev, modDev]
theorem getDev_modDev_other {i j : Nat} (f : MemDev → MemDev) (s : State) (h : i ≠ j) : getDev (modDev i f s) j = getDev s j :=
  tget_tmod_other _ _ f h
@[simp] theorem getPl_modPl (i : Nat) (f : Plinth → Plinth) (s : State) : getPl (modPl i f s) i = f (getPl s i) := by
  simp [getPl, modPl]
theorem getPl_modPl_other {i j : Nat} (f : Plinth → Plinth) (s : State) (h : i ≠ j) : getPl (modPl i f s) j = getPl s j :=
  tget_tmod_other _ _ f h
@[simp] theorem getReg_modReg (i : Nat) (f : Region → Region) (s : State) : getReg (modReg i f s) i = f (getReg s i) := by
  simp [getReg, modReg]
theorem getReg_modReg_other {i j : Nat} (f : Region → Region) (s : State) (h : i ≠ j) : getReg (modReg i f s) j = getReg s j :=
  tget_tmod_other _ _ f h
@[simp] theorem getLink_modLink (i : Nat) (f : Link → Link) (s : State) : getLink (modLink i f s) i = f (getLink s i) := by
  simp [getLink, modLink]
theorem getLink_modLink_other {i j : Nat} (f : Link → Link) (s : State) (h : i ≠ j) : getLink (modLink i f s) j = getLink s j :=
  tget_tmod_other _ _ f h
@[simp] theorem getChan_modChan (i : Nat) (f : Chan → Chan) (s : State) : getChan (modChan i f s) i = f (getChan s i) := by
  simp [getChan, modChan]
theorem getChan_modChan_other {i j : Nat} (f : Chan → Chan) (s : State) (h : i ≠ j) : getChan (modChan i f s) j = getChan s j :=
  tget_tmod_other _ _ f h
@[simp] theorem getPart_setPart (i : Nat) (v : Part) (s : State) : getPart (setPart i v s) i = v := by simp [getPart, setPart]
@[simp] theorem getBand_setBand (i : Nat) (v : Band) (s : State) : getBand (setBand i v s) i = v := by simp [getBand, setBand]
@[simp] theorem getCell_setCell (i : Nat) (v : Cell) (s : State) : getCell (setCell i v s) i = v := by simp [getCell, setCell]
@[simp] theorem getPart_emit (o : Out) (s : State) (i : Nat) : getPart (emit o s) i = getPart s i := rfl
@[simp] theorem getPart_setBand (b : Nat) (v : Band) (s : State) (i : Nat) : getPart (setBand b v s) i = getPart s i := rfl
@[simp] theorem getPart_modBand (b : Nat) (f : Band → Band) (s : State) (i : Nat) : getPart (modBand b f s) i = getPart s i := rfl
@[simp] theorem getPart_setCell (c : Nat) (v : Cell) (s : State) (i : Nat) : getPart (setCell c v s) i = getPart s i := rfl
@[simp] theorem getPart_modCell (c : Nat) (f : Cell → Cell) (s : State) (i : Nat) : getPart (modCell c f s) i = getPart s i := rfl
@[simp] theorem getPart_modRing (n : Nat) (f : CmdRing → CmdRing) (s : State) (i : Nat) : getPart (modRing n f s) i = getPart s i := rfl
@[simp] theorem getPart_modDev (u : Nat) (f : MemDev → MemDev) (s : State) (i : Nat) : getPart (modDev u f s) i = getPart s i := rfl
@[simp] theorem getPart_modPl (k : Nat) (f : Plinth → Plinth) (s : State) (i : Nat) : getPart (modPl k f s) i = getPart s i := rfl
@[simp] theorem getPart_modReg (k : Nat) (f : Region → Region) (s : State) (i : Nat) : getPart (modReg k f s) i = getPart s i := rfl
@[simp] theorem getPart_modLink (l : Nat) (f : Link → Link) (s : State) (i : Nat) : getPart (modLink l f s) i = getPart s i := rfl
@[simp] theorem getPart_modChan (c : Nat) (f : Chan → Chan) (s : State) (i : Nat) : getPart (modChan c f s) i = getPart s i := rfl
@[simp] theorem getPart_launch (r : CmdRef) (cl : List Claim) (k : FlightKind) (s : State) (i : Nat) : getPart (launch r cl k s) i = getPart s i := rfl
@[simp] theorem getPart_cwWrite (c : Nat) (bs : List Byte) (s : State) (i : Nat) : getPart (cwWrite c bs s) i = getPart s i := rfl
@[simp] theorem getBand_emit (o : Out) (s : State) (i : Nat) : getBand (emit o s) i = getBand s i := rfl
@[simp] theorem getBand_setPart (p : Nat) (v : Part) (s : State) (i : Nat) : getBand (setPart p v s) i = getBand s i := rfl
@[simp] theorem getBand_modPart (p : Nat) (f : Part → Part) (s : State) (i : Nat) : getBand (modPart p f s) i = getBand s i := rfl
@[simp] theorem getBand_setCell (c : Nat) (v : Cell) (s : State) (i : Nat) : getBand (setCell c v s) i = getBand s i := rfl
@[simp] theorem getBand_modCell (c : Nat) (f : Cell → Cell) (s : State) (i : Nat) : getBand (modCell c f s) i = getBand s i := rfl
@[simp] theorem getBand_modRing (n : Nat) (f : CmdRing → CmdRing) (s : State) (i : Nat) : getBand (modRing n f s) i = getBand s i := rfl
@[simp] theorem getBand_modDev (u : Nat) (f : MemDev → MemDev) (s : State) (i : Nat) : getBand (modDev u f s) i = getBand s i := rfl
@[simp] theorem getBand_modPl (k : Nat) (f : Plinth → Plinth) (s : State) (i : Nat) : getBand (modPl k f s) i = getBand s i := rfl
@[simp] theorem getBand_modReg (k : Nat) (f : Region → Region) (s : State) (i : Nat) : getBand (modReg k f s) i = getBand s i := rfl
@[simp] theorem getBand_modLink (l : Nat) (f : Link → Link) (s : State) (i : Nat) : getBand (modLink l f s) i = getBand s i := rfl
@[simp] theorem getBand_modChan (c : Nat) (f : Chan → Chan) (s : State) (i : Nat) : getBand (modChan c f s) i = getBand s i := rfl
@[simp] theorem getBand_launch (r : CmdRef) (cl : List Claim) (k : FlightKind) (s : State) (i : Nat) : getBand (launch r cl k s) i = getBand s i := rfl
@[simp] theorem getBand_cwWrite (c : Nat) (bs : List Byte) (s : State) (i : Nat) : getBand (cwWrite c bs s) i = getBand s i := rfl
@[simp] theorem getCell_emit (o : Out) (s : State) (i : Nat) : getCell (emit o s) i = getCell s i := rfl
@[simp] theorem getCell_setPart (p : Nat) (v : Part) (s : State) (i : Nat) : getCell (setPart p v s) i = getCell s i := rfl
@[simp] theorem getCell_modPart (p : Nat) (f : Part → Part) (s : State) (i : Nat) : getCell (modPart p f s) i = getCell s i := rfl
@[simp] theorem getCell_setBand (b : Nat) (v : Band) (s : State) (i : Nat) : getCell (setBand b v s) i = getCell s i := rfl
@[simp] theorem getCell_modBand (b : Nat) (f : Band → Band) (s : State) (i : Nat) : getCell (modBand b f s) i = getCell s i := rfl
@[simp] theorem getCell_modRing (n : Nat) (f : CmdRing → CmdRing) (s : State) (i : Nat) : getCell (modRing n f s) i = getCell s i := rfl
@[simp] theorem getCell_modDev (u : Nat) (f : MemDev → MemDev) (s : State) (i : Nat) : getCell (modDev u f s) i = getCell s i := rfl
@[simp] theorem getCell_modPl (k : Nat) (f : Plinth → Plinth) (s : State) (i : Nat) : getCell (modPl k f s) i = getCell s i := rfl
@[simp] theorem getCell_modReg (k : Nat) (f : Region → Region) (s : State) (i : Nat) : getCell (modReg k f s) i = getCell s i := rfl
@[simp] theorem getCell_modLink (l : Nat) (f : Link → Link) (s : State) (i : Nat) : getCell (modLink l f s) i = getCell s i := rfl
@[simp] theorem getCell_modChan (c : Nat) (f : Chan → Chan) (s : State) (i : Nat) : getCell (modChan c f s) i = getCell s i := rfl
@[simp] theorem getCell_launch (r : CmdRef) (cl : List Claim) (k : FlightKind) (s : State) (i : Nat) : getCell (launch r cl k s) i = getCell s i := rfl
@[simp] theorem getCell_cwWrite (c : Nat) (bs : List Byte) (s : State) (i : Nat) : getCell (cwWrite c bs s) i = getCell s i := rfl
@[simp] theorem getRing_emit (o : Out) (s : State) (i : Nat) : getRing (emit o s) i = getRing s i := rfl
@[simp] theorem getRing_setPart (p : Nat) (v : Part) (s : State) (i : Nat) : getRing (setPart p v s) i = getRing s i := rfl
@[simp] theorem getRing_modPart (p : Nat) (f : Part → Part) (s : State) (i : Nat) : getRing (modPart p f s) i = getRing s i := rfl
@[simp] theorem getRing_setBand (b : Nat) (v : Band) (s : State) (i : Nat) : getRing (setBand b v s) i = getRing s i := rfl
@[simp] theorem getRing_modBand (b : Nat) (f : Band → Band) (s : State) (i : Nat) : getRing (modBand b f s) i = getRing s i := rfl
@[simp] theorem getRing_setCell (c : Nat) (v : Cell) (s : State) (i : Nat) : getRing (setCell c v s) i = getRing s i := rfl
@[simp] theorem getRing_modCell (c : Nat) (f : Cell → Cell) (s : State) (i : Nat) : getRing (modCell c f s) i = getRing s i := rfl
@[simp] theorem getRing_modDev (u : Nat) (f : MemDev → MemDev) (s : State) (i : Nat) : getRing (modDev u f s) i = getRing s i := rfl
@[simp] theorem getRing_modPl (k : Nat) (f : Plinth → Plinth) (s : State) (i : Nat) : getRing (modPl k f s) i = getRing s i := rfl
@[simp] theorem getRing_modReg (k : Nat) (f : Region → Region) (s : State) (i : Nat) : getRing (modReg k f s) i = getRing s i := rfl
@[simp] theorem getRing_modLink (l : Nat) (f : Link → Link) (s : State) (i : Nat) : getRing (modLink l f s) i = getRing s i := rfl
@[simp] theorem getRing_modChan (c : Nat) (f : Chan → Chan) (s : State) (i : Nat) : getRing (modChan c f s) i = getRing s i := rfl
@[simp] theorem getRing_launch (r : CmdRef) (cl : List Claim) (k : FlightKind) (s : State) (i : Nat) : getRing (launch r cl k s) i = getRing s i := rfl
@[simp] theorem getRing_cwWrite (c : Nat) (bs : List Byte) (s : State) (i : Nat) : getRing (cwWrite c bs s) i = getRing s i := rfl
@[simp] theorem getDev_emit (o : Out) (s : State) (i : Nat) : getDev (emit o s) i = getDev s i := rfl
@[simp] theorem getDev_setPart (p : Nat) (v : Part) (s : State) (i : Nat) : getDev (setPart p v s) i = getDev s i := rfl
@[simp] theorem getDev_modPart (p : Nat) (f : Part → Part) (s : State) (i : Nat) : getDev (modPart p f s) i = getDev s i := rfl
@[simp] theorem getDev_setBand (b : Nat) (v : Band) (s : State) (i : Nat) : getDev (setBand b v s) i = getDev s i := rfl
@[simp] theorem getDev_modBand (b : Nat) (f : Band → Band) (s : State) (i : Nat) : getDev (modBand b f s) i = getDev s i := rfl
@[simp] theorem getDev_setCell (c : Nat) (v : Cell) (s : State) (i : Nat) : getDev (setCell c v s) i = getDev s i := rfl
@[simp] theorem getDev_modCell (c : Nat) (f : Cell → Cell) (s : State) (i : Nat) : getDev (modCell c f s) i = getDev s i := rfl
@[simp] theorem getDev_modRing (n : Nat) (f : CmdRing → CmdRing) (s : State) (i : Nat) : getDev (modRing n f s) i = getDev s i := rfl
@[simp] theorem getDev_modPl (k : Nat) (f : Plinth → Plinth) (s : State) (i : Nat) : getDev (modPl k f s) i = getDev s i := rfl
@[simp] theorem getDev_modReg (k : Nat) (f : Region → Region) (s : State) (i : Nat) : getDev (modReg k f s) i = getDev s i := rfl
@[simp] theorem getDev_modLink (l : Nat) (f : Link → Link) (s : State) (i : Nat) : getDev (modLink l f s) i = getDev s i := rfl
@[simp] theorem getDev_modChan (c : Nat) (f : Chan → Chan) (s : State) (i : Nat) : getDev (modChan c f s) i = getDev s i := rfl
@[simp] theorem getDev_launch (r : CmdRef) (cl : List Claim) (k : FlightKind) (s : State) (i : Nat) : getDev (launch r cl k s) i = getDev s i := rfl
@[simp] theorem getDev_cwWrite (c : Nat) (bs : List Byte) (s : State) (i : Nat) : getDev (cwWrite c bs s) i = getDev s i := rfl
@[simp] theorem getPl_emit (o : Out) (s : State) (i : Nat) : getPl (emit o s) i = getPl s i := rfl
@[simp] theorem getPl_setPart (p : Nat) (v : Part) (s : State) (i : Nat) : getPl (setPart p v s) i = getPl s i := rfl
@[simp] theorem getPl_modPart (p : Nat) (f : Part → Part) (s : State) (i : Nat) : getPl (modPart p f s) i = getPl s i := rfl
@[simp] theorem getPl_setBand (b : Nat) (v : Band) (s : State) (i : Nat) : getPl (setBand b v s) i = getPl s i := rfl
@[simp] theorem getPl_modBand (b : Nat) (f : Band → Band) (s : State) (i : Nat) : getPl (modBand b f s) i = getPl s i := rfl
@[simp] theorem getPl_setCell (c : Nat) (v : Cell) (s : State) (i : Nat) : getPl (setCell c v s) i = getPl s i := rfl
@[simp] theorem getPl_modCell (c : Nat) (f : Cell → Cell) (s : State) (i : Nat) : getPl (modCell c f s) i = getPl s i := rfl
@[simp] theorem getPl_modRing (n : Nat) (f : CmdRing → CmdRing) (s : State) (i : Nat) : getPl (modRing n f s) i = getPl s i := rfl
@[simp] theorem getPl_modDev (u : Nat) (f : MemDev → MemDev) (s : State) (i : Nat) : getPl (modDev u f s) i = getPl s i := rfl
@[simp] theorem getPl_modReg (k : Nat) (f : Region → Region) (s : State) (i : Nat) : getPl (modReg k f s) i = getPl s i := rfl
@[simp] theorem getPl_modLink (l : Nat) (f : Link → Link) (s : State) (i : Nat) : getPl (modLink l f s) i = getPl s i := rfl
@[simp] theorem getPl_modChan (c : Nat) (f : Chan → Chan) (s : State) (i : Nat) : getPl (modChan c f s) i = getPl s i := rfl
@[simp] theorem getPl_launch (r : CmdRef) (cl : List Claim) (k : FlightKind) (s : State) (i : Nat) : getPl (launch r cl k s) i = getPl s i := rfl
@[simp] theorem getPl_cwWrite (c : Nat) (bs : List Byte) (s : State) (i : Nat) : getPl (cwWrite c bs s) i = getPl s i := rfl
@[simp] theorem getReg_emit (o : Out) (s : State) (i : Nat) : getReg (emit o s) i = getReg s i := rfl
@[simp] theorem getReg_setPart (p : Nat) (v : Part) (s : State) (i : Nat) : getReg (setPart p v s) i = getReg s i := rfl
@[simp] theorem getReg_modPart (p : Nat) (f : Part → Part) (s : State) (i : Nat) : getReg (modPart p f s) i = getReg s i := rfl
@[simp] theorem getReg_setBand (b : Nat) (v : Band) (s : State) (i : Nat) : getReg (setBand b v s) i = getReg s i := rfl
@[simp] theorem getReg_modBand (b : Nat) (f : Band → Band) (s : State) (i : Nat) : getReg (modBand b f s) i = getReg s i := rfl
@[simp] theorem getReg_setCell (c : Nat) (v : Cell) (s : State) (i : Nat) : getReg (setCell c v s) i = getReg s i := rfl
@[simp] theorem getReg_modCell (c : Nat) (f : Cell → Cell) (s : State) (i : Nat) : getReg (modCell c f s) i = getReg s i := rfl
@[simp] theorem getReg_modRing (n : Nat) (f : CmdRing → CmdRing) (s : State) (i : Nat) : getReg (modRing n f s) i = getReg s i := rfl
@[simp] theorem getReg_modDev (u : Nat) (f : MemDev → MemDev) (s : State) (i : Nat) : getReg (modDev u f s) i = getReg s i := rfl
@[simp] theorem getReg_modPl (k : Nat) (f : Plinth → Plinth) (s : State) (i : Nat) : getReg (modPl k f s) i = getReg s i := rfl
@[simp] theorem getReg_modLink (l : Nat) (f : Link → Link) (s : State) (i : Nat) : getReg (modLink l f s) i = getReg s i := rfl
@[simp] theorem getReg_modChan (c : Nat) (f : Chan → Chan) (s : State) (i : Nat) : getReg (modChan c f s) i = getReg s i := rfl
@[simp] theorem getReg_launch (r : CmdRef) (cl : List Claim) (k : FlightKind) (s : State) (i : Nat) : getReg (launch r cl k s) i = getReg s i := rfl
@[simp] theorem getReg_cwWrite (c : Nat) (bs : List Byte) (s : State) (i : Nat) : getReg (cwWrite c bs s) i = getReg s i := rfl
@[simp] theorem getLink_emit (o : Out) (s : State) (i : Nat) : getLink (emit o s) i = getLink s i := rfl
@[simp] theorem getLink_setPart (p : Nat) (v : Part) (s : State) (i : Nat) : getLink (setPart p v s) i = getLink s i := rfl
@[simp] theorem getLink_modPart (p : Nat) (f : Part → Part) (s : State) (i : Nat) : getLink (modPart p f s) i = getLink s i := rfl
@[simp] theorem getLink_setBand (b : Nat) (v : Band) (s : State) (i : Nat) : getLink (setBand b v s) i = getLink s i := rfl
@[simp] theorem getLink_modBand (b : Nat) (f : Band → Band) (s : State) (i : Nat) : getLink (modBand b f s) i = getLink s i := rfl
@[simp] theorem getLink_setCell (c : Nat) (v : Cell) (s : State) (i : Nat) : getLink (setCell c v s) i = getLink s i := rfl
@[simp] theorem getLink_modCell (c : Nat) (f : Cell → Cell) (s : State) (i : Nat) : getLink (modCell c f s) i = getLink s i := rfl
@[simp] theorem getLink_modRing (n : Nat) (f : CmdRing → CmdRing) (s : State) (i : Nat) : getLink (modRing n f s) i = getLink s i := rfl
@[simp] theorem getLink_modDev (u : Nat) (f : MemDev → MemDev) (s : State) (i : Nat) : getLink (modDev u f s) i = getLink s i := rfl
@[simp] theorem getLink_modPl (k : Nat) (f : Plinth → Plinth) (s : State) (i : Nat) : getLink (modPl k f s) i = getLink s i := rfl
@[simp] theorem getLink_modReg (k : Nat) (f : Region → Region) (s : State) (i : Nat) : getLink (modReg k f s) i = getLink s i := rfl
@[simp] theorem getLink_modChan (c : Nat) (f : Chan → Chan) (s : State) (i : Nat) : getLink (modChan c f s) i = getLink s i := rfl
@[simp] theorem getLink_launch (r : CmdRef) (cl : List Claim) (k : FlightKind) (s : State) (i : Nat) : getLink (launch r cl k s) i = getLink s i := rfl
@[simp] theorem getLink_cwWrite (c : Nat) (bs : List Byte) (s : State) (i : Nat) : getLink (cwWrite c bs s) i = getLink s i := rfl
@[simp] theorem getChan_emit (o : Out) (s : State) (i : Nat) : getChan (emit o s) i = getChan s i := rfl
@[simp] theorem getChan_setPart (p : Nat) (v : Part) (s : State) (i : Nat) : getChan (setPart p v s) i = getChan s i := rfl
@[simp] theorem getChan_modPart (p : Nat) (f : Part → Part) (s : State) (i : Nat) : getChan (modPart p f s) i = getChan s i := rfl
@[simp] theorem getChan_setBand (b : Nat) (v : Band) (s : State) (i : Nat) : getChan (setBand b v s) i = getChan s i := rfl
@[simp] theorem getChan_modBand (b : Nat) (f : Band → Band) (s : State) (i : Nat) : getChan (modBand b f s) i = getChan s i := rfl
@[simp] theorem getChan_setCell (c : Nat) (v : Cell) (s : State) (i : Nat) : getChan (setCell c v s) i = getChan s i := rfl
@[simp] theorem getChan_modCell (c : Nat) (f : Cell → Cell) (s : State) (i : Nat) : getChan (modCell c f s) i = getChan s i := rfl
@[simp] theorem getChan_modRing (n : Nat) (f : CmdRing → CmdRing) (s : State) (i : Nat) : getChan (modRing n f s) i = getChan s i := rfl
@[simp] theorem getChan_modDev (u : Nat) (f : MemDev → MemDev) (s : State) (i : Nat) : getChan (modDev u f s) i = getChan s i := rfl
@[simp] theorem getChan_modPl (k : Nat) (f : Plinth → Plinth) (s : State) (i : Nat) : getChan (modPl k f s) i = getChan s i := rfl
@[simp] theorem getChan_modReg (k : Nat) (f : Region → Region) (s : State) (i : Nat) : getChan (modReg k f s) i = getChan s i := rfl
@[simp] theorem getChan_modLink (l : Nat) (f : Link → Link) (s : State) (i : Nat) : getChan (modLink l f s) i = getChan s i := rfl
@[simp] theorem getChan_launch (r : CmdRef) (cl : List Claim) (k : FlightKind) (s : State) (i : Nat) : getChan (launch r cl k s) i = getChan s i := rfl
@[simp] theorem getChan_cwWrite (c : Nat) (bs : List Byte) (s : State) (i : Nat) : getChan (cwWrite c bs s) i = getChan s i := rfl

end Sys2Proof.Machine
end

