-- ==== Sys2Proof/Laws/Memory.lean ====
section
/-! SUPPORT. Tier memory: a byte written reads back, other bytes stand, and every memory operation keeps the canonical
form. -/

namespace Sys2Proof.Machine

@[simp] theorem readByte_writeByte (m : List Host.Cell) (a : Nat) (v : Byte) : readByte (writeByte m a v) a = v :=
  tget_tset_same 0 m a v

theorem readByte_writeByte_other (m : List Host.Cell) {a b : Nat} (v : Byte) (h : a ≠ b) :
    readByte (writeByte m a v) b = readByte m b := tget_tset_other 0 m v h

/-- A write of bytes leaves every byte outside them alone. -/
theorem readByte_writeBytes_outside (bs : List Byte) : ∀ (m : List Host.Cell) (a x : Nat), (x < a ∨ a + bs.length ≤ x) →
    readByte (writeBytes m a bs) x = readByte m x := by
  induction bs with
  | nil => intro m a x _; rfl
  | cons v r ih =>
    intro m a x h
    simp only [List.length_cons] at h
    rw [writeBytes, ih _ _ _ (by omega), readByte_writeByte_other _ _ (by omega)]

/-- And each byte written reads back. -/
theorem readByte_writeBytes_inside (bs : List Byte) : ∀ (m : List Host.Cell) (a i : Nat) (h : i < bs.length),
    readByte (writeBytes m a bs) (a + i) = bs[i] := by
  induction bs with
  | nil => intro m a i h; cases h
  | cons v r ih =>
    intro m a i h
    cases i with
    | zero => rw [writeBytes, readByte_writeBytes_outside _ _ _ _ (by omega)]; simp
    | succ n =>
      have := ih (writeByte m a v) (a + 1) n (by simpa using h)
      rw [writeBytes]
      simpa [Nat.add_assoc, Nat.add_comm 1 n] using this

theorem memory_wf_writeByte (m : List Host.Cell) (a : Nat) (v : Byte) (h : Memory.wf m) : Memory.wf (writeByte m a v) :=
  twf_tset 0 m a v h

theorem memory_wf_writeBytes (bs : List Byte) : ∀ (m : List Host.Cell) (a : Nat), Memory.wf m → Memory.wf (writeBytes m a bs) := by
  induction bs with
  | nil => intro m a h; exact h
  | cons v r ih => intro m a h; exact ih _ _ (memory_wf_writeByte m a v h)

theorem memory_wf_filter (m : List Host.Cell) (p : Host.Cell → Bool) (h : Memory.wf m) : Memory.wf (m.filter p) :=
  twf_filter 0 m p h

theorem memory_wf_cwWrite (c : Nat) (bs : List Byte) (s : State) (h : Memory.wf s.mem) : Memory.wf (cwWrite c bs s).mem :=
  memory_wf_writeBytes bs s.mem (c * 32) h

/-- Memory after power-on reset is in canonical form. -/
theorem memory_wf_reset : Memory.wf State.reset.mem := by decide

end Sys2Proof.Machine
end

