-- ==== Sys2Proof/Laws/Shared.lean ====
section
/-! SUPPORT. What the shared operations can do: interrupts, error records, job-fatal errors, writes to the tiers and the
completion of a command. Each has one law that says all of it, and from it what it leaves alone. -/

namespace Sys2Proof.Machine

theorem sendMsix_shape (v : Nat) (s : State) : ∃ m o, sendMsix v s = { s with msix := m, out := o ++ s.out } :=
  ⟨_, [.msix v], rfl⟩

/-- An event on a vector changes the MSI-X state, and sends at most messages. -/
theorem signal_shape (v : Nat) (s : State) : ∃ m o, signal v s = { s with msix := m, out := o ++ s.out } := by
  by_cases hv : v ≤ 90 <;> simp only [signal, hv, if_true, if_false] <;> split
  · exact ⟨_, [], rfl⟩
  · split
    · split
      · exact ⟨_, [], rfl⟩
      · exact ⟨_, [.msix v], rfl⟩
    · exact ⟨_, [.msix v], rfl⟩
  · exact ⟨_, [], rfl⟩
  · split
    · split
      · exact ⟨_, [], rfl⟩
      · exact ⟨_, [.msix v], rfl⟩
    · exact ⟨_, [.msix v], rfl⟩

/-- Two such changes in a row are one. -/
theorem msix_chain {f g : State → State} (hf : ∀ s, ∃ m o, f s = { s with msix := m, out := o ++ s.out })
    (hg : ∀ s, ∃ m o, g s = { s with msix := m, out := o ++ s.out }) (s : State) :
    ∃ m o, g (f s) = { s with msix := m, out := o ++ s.out } := by
  obtain ⟨m, o, h⟩ := hf s
  obtain ⟨m', o', h'⟩ := hg (f s)
  rw [h', h]
  exact ⟨m', o' ++ o, by simp⟩

theorem ifSignal_shape (c : Prop) [Decidable c] (v : Nat) (s : State) :
    ∃ m o, (if c then s else signal v s) = { s with msix := m, out := o ++ s.out } := by
  split
  · exact ⟨s.msix, [], rfl⟩
  · exact signal_shape v s

/-- The interrupts of a change of state change the MSI-X state only, and send at most messages. -/
theorem announce_shape (s t : State) : ∃ m o, announce s t = { t with msix := m, out := o ++ t.out } := by
  have hl : ∀ (l : List Nat) (r : State), ∃ m o,
      l.foldl (fun r p => if (getPart s p).st = (getPart t p).st then r else signal (80 + p) r) r =
        { r with msix := m, out := o ++ r.out } := by
    intro l
    induction l with
    | nil => intro r; exact ⟨r.msix, [], rfl⟩
    | cons p l ih => intro r; exact msix_chain (fun r => ifSignal_shape _ (80 + p) r) ih r
  unfold announce
  exact msix_chain (msix_chain (msix_chain (msix_chain (hl _) (fun r => ifSignal_shape _ 86 r))
    (fun r => ifSignal_shape _ 87 r)) (fun r => ifSignal_shape _ 88 r)) (fun r => ifSignal_shape _ 89 r) t

/-- A record changes the log and the MSI-X state (R386, R379). -/
theorem writeRec_shape (r : ErrRec) (s : State) : ∃ g m o, writeRec r s = { s with log := g, msix := m, out := o ++ s.out } := by
  have h : ∀ (c d : Prop) [Decidable c] [Decidable d] (u : State), ∃ m o,
      (if d then signal 85 (if c then u else signal 84 u) else (if c then u else signal 84 u)) =
        { u with msix := m, out := o ++ u.out } := by
    intro c d _ _ u
    by_cases hd : d
    · simp only [hd, if_true]
      exact msix_chain (fun r => ifSignal_shape c 84 r) (signal_shape 85) u
    · simp only [hd, if_false]
      exact ifSignal_shape c 84 u
  unfold writeRec
  obtain ⟨m, o, e⟩ := h (r.sev = .corrected) (r.sev = .moduleFatal) { s with log := _ }
  exact ⟨_, m, o, e⟩

theorem logRec_shape (r : ErrRec) (s : State) : ∃ g m o, (logRec r s).1 = { s with log := g, msix := m, out := o ++ s.out } := by
  unfold logRec
  split
  · exact ⟨_, s.msix, [], rfl⟩
  · exact writeRec_shape r s

theorem logDeferred_shape (code : Nat) (unit part : Option Nat) (ctx : List (Nat × Nat)) (s : State) :
    ∃ g m o, logDeferred code unit part ctx s = { s with log := g, msix := m, out := o ++ s.out } := logRec_shape _ s

theorem logCorrected_shape (code : Nat) (unit part : Option Nat) (ctx : List (Nat × Nat)) (s : State) :
    ∃ g m o, logCorrected code unit part ctx s = { s with log := g, msix := m, out := o ++ s.out } := logRec_shape _ s

/-- A job-fatal error changes its partition's entry, the log and the MSI-X state (R380, R381). -/
theorem jobFatal_shape (p code : Nat) (unit : Option Nat) (ctx : List (Nat × Nat)) (cause : CastCause) (wd : Option Nat)
    (s : State) : ∃ ps g m o, jobFatal p code unit ctx cause wd s =
      { s with parts := ps, log := g, msix := m, out := o ++ s.out } := by
  have hw : ∀ (r : ErrRec), ∃ ps g m o, (logRec r s).1 = { s with parts := ps, log := g, msix := m, out := o ++ s.out } := by
    intro r
    obtain ⟨g, m, o, h⟩ := logRec_shape r s
    exact ⟨s.parts, g, m, o, h⟩
  unfold jobFatal
  simp only []
  split
  · split
    · exact hw _
    · obtain ⟨g, m, o, h⟩ := writeRec_shape (mkRec s .jobFatal code unit (some p) ctx) s
      rw [h]; exact ⟨_, g, m, o, rfl⟩
  · split
    · exact hw _
    · obtain ⟨g, m, o, h⟩ := writeRec_shape (mkRec s .jobFatal code unit (some p) ctx) s
      rw [h]; exact ⟨_, g, m, o, rfl⟩
  · exact hw _
  · exact hw _

/-- What a write to the tiers can change (R219, R230, Table 11.3). -/
def MemChange (s t : State) : Prop := ∃ me er po pa de g m o,
  t = { s with mem := me, memErr := er, poison := po, patina := pa, devs := de, log := g, msix := m, out := o ++ s.out } ∧
    (Memory.wf s.mem → Memory.wf me)

theorem memChange_refl (s : State) : MemChange s s :=
  ⟨s.mem, s.memErr, s.poison, s.patina, s.devs, s.log, s.msix, [], rfl, id⟩

theorem memChange_trans {s t u : State} (h : MemChange s t) (h' : MemChange t u) : MemChange s u := by
  obtain ⟨me, er, po, pa, de, g, m, o, rfl, w⟩ := h
  obtain ⟨me', er', po', pa', de', g', m', o', rfl, w'⟩ := h'
  exact ⟨me', er', po', pa', de', g', m', o' ++ o, by simp, fun h => w' (w h)⟩

theorem memChange_log {s t : State} (h : ∃ g m o, t = { s with log := g, msix := m, out := o ++ s.out }) : MemChange s t := by
  obtain ⟨g, m, o, rfl⟩ := h
  exact ⟨s.mem, s.memErr, s.poison, s.patina, s.devs, g, m, o, rfl, id⟩

theorem memChange_cwWrite (c : Nat) (bs : List Byte) (s : State) : MemChange s (cwWrite c bs s) :=
  ⟨_, _, _, s.patina, s.devs, s.log, s.msix, [], rfl, memory_wf_cwWrite c bs s⟩

theorem memChange_patina (pa : Patina) (s : State) : MemChange s { s with patina := pa } :=
  ⟨s.mem, s.memErr, s.poison, pa, s.devs, s.log, s.msix, [], rfl, id⟩

theorem memChange_modDev (u : Nat) (f : MemDev → MemDev) (s : State) : MemChange s (modDev u f s) :=
  ⟨s.mem, s.memErr, s.poison, s.patina, _, s.log, s.msix, [], rfl, id⟩

theorem memChange_noteCe (w : MemWho) (a sym : Nat) (s : State) : MemChange s (noteCe w a sym s) := by
  unfold noteCe
  split
  · exact memChange_refl s
  · simp only []
    refine memChange_trans ?_ (memChange_modDev _ _ _)
    split
    · refine memChange_trans ?_ (memChange_log (logDeferred_shape ..))
      split
      · exact memChange_patina _ s
      · refine memChange_trans ?_ (memChange_log (logCorrected_shape ..))
        exact memChange_patina _ s
    · split
      · exact memChange_patina _ s
      · refine memChange_trans ?_ (memChange_log (logCorrected_shape ..))
        exact memChange_patina _ s

/-- An uncorrectable codeword that brings no job-fatal error. -/
theorem memChange_noteUe (w : MemWho) (a sym : Nat) (s : State) (hw : w.pol ≠ 2) : MemChange s (noteUe w a sym s) := by
  unfold noteUe
  split
  · exact memChange_refl s
  · simp only []
    split
    · next h _ => exact absurd h hw
    · exact memChange_patina _ s
    · refine memChange_trans ?_ (memChange_log (logDeferred_shape ..))
      exact memChange_patina _ s

theorem memChange_mergeRead (w : MemWho) (c : Nat) (s : State) : MemChange s (mergeRead w c s).2.2 := by
  unfold mergeRead
  split
  · refine memChange_noteUe { w with src := 5, pol := 1 } _ _ s ?_
    show (1 : Nat) ≠ 2
    decide
  · exact memChange_noteCe ..
  · exact memChange_refl s

/-- A merge changes what its reads and writes change. -/
theorem memChange_mergeWrite {get : Nat → State → List Byte × Bool × State} {put : Nat → List Byte → State → State} {lo : Nat}
    {bs : List Byte} (hg : ∀ h s, MemChange s (get h s).2.2) (hp : ∀ h x s, MemChange s (put h x s)) (s : State) :
    MemChange s (mergeWrite get put lo bs s).2 := by
  have hget : ∀ (c : Bool) (h : Nat) (s : State), MemChange s (getIf c get h s).2.2 := by
    intro c h s
    unfold getIf
    split
    · exact hg h s
    · exact memChange_refl s
  have hput : ∀ (c : Bool) (h : Nat) (x : List Byte) (s : State), MemChange s (putIf c put h x s) := by
    intro c h x s
    unfold putIf
    split
    · exact hp h x s
    · exact memChange_refl s
  unfold mergeWrite
  simp only []
  split
  · exact memChange_trans (hget ..) (memChange_trans (hget ..) (memChange_trans (hput ..) (hput ..)))
  · exact memChange_trans (hget ..) (hget ..)

/-- A write to a line changes no more than that (R219). -/
theorem memChange_lineWrite (w : MemWho) (a : Nat) (bs : List Byte) (s : State) : MemChange s (lineWrite w a bs s).2 := by
  unfold lineWrite
  split
  · exact memChange_mergeWrite (fun _ _ => memChange_mergeRead ..) (fun _ _ _ => memChange_cwWrite ..) s
  · exact memChange_log (logDeferred_shape ..)

theorem memChange_memWriteAux (w : MemWho) (n : Nat) : ∀ (a : Nat) (bs : List Byte) (s : State),
    MemChange s (memWriteAux w a n bs s).2 := by
  induction n with
  | zero => intro a bs s; exact memChange_refl s
  | succ n ih =>
    intro a bs s
    unfold memWriteAux
    split
    · exact memChange_refl s
    · exact memChange_trans (memChange_lineWrite ..) (ih _ _ _)

theorem memChange_fixChk (a n : Nat) (s : State) : MemChange s (fixChk a n s) :=
  ⟨s.mem, _, s.poison, s.patina, s.devs, s.log, s.msix, [], rfl, id⟩

/-- A write to the tiers changes no more than that (R219). -/
theorem memChange_memWrite (w : MemWho) (a : Nat) (bs : List Byte) (s : State) : MemChange s (memWrite w a bs s).2 :=
  memChange_trans (memChange_fixChk ..) (memChange_memWriteAux ..)

/-- A record of an error that is not module-fatal leaves MOD_FATAL. -/
theorem writeRec_modFatal (r : ErrRec) (s : State) (h : r.sev ≠ .moduleFatal) :
    (writeRec r s).log.modFatal = s.log.modFatal := by
  have hs : ∀ v (u : State), (signal v u).log = u.log := fun v u => by obtain ⟨_, _, e⟩ := signal_shape v u; rw [e]
  unfold writeRec
  simp only [h, if_false, decide_false, Bool.or_false]
  split
  · rfl
  · rw [hs]

theorem logRec_modFatal (r : ErrRec) (s : State) (h : r.sev ≠ .moduleFatal) :
    (logRec r s).1.log.modFatal = s.log.modFatal := by
  unfold logRec
  split
  · rfl
  · exact writeRec_modFatal r s h

theorem noteCe_modFatal (w : MemWho) (a sym : Nat) (s : State) : (noteCe w a sym s).log.modFatal = s.log.modFatal := by
  have hl : ∀ code u p ctx (s : State), (logDeferred code u p ctx s).log.modFatal = s.log.modFatal :=
    fun code u p ctx s => logRec_modFatal _ s (by simp [mkRec])
  unfold noteCe
  split
  · rfl
  · simp only [modDev_log]
    split <;> (try rw [hl]) <;> split <;> first | rfl | exact logRec_modFatal _ _ (by simp [mkRec])

theorem noteUe_modFatal (w : MemWho) (a sym : Nat) (s : State) (hw : w.pol ≠ 2) :
    (noteUe w a sym s).log.modFatal = s.log.modFatal := by
  unfold noteUe
  split
  · rfl
  · simp only []
    split
    · next h _ => exact absurd h hw
    · rfl
    · exact logRec_modFatal _ _ (by simp [mkRec])

/-- Reads of the tiers by an agent whose errors are not job-fatal change what Table 11.3 gives and leave MOD_FATAL. -/
def ReadChange (s t : State) : Prop := MemChange s t ∧ t.log.modFatal = s.log.modFatal

theorem readChange_trans {s t u : State} (h : ReadChange s t) (h' : ReadChange t u) : ReadChange s u :=
  ⟨memChange_trans h.1 h'.1, h'.2.trans h.2⟩

theorem readChange_cwRead (w : MemWho) (fl : Noise) (c : Nat) (s : State) (hw : w.pol ≠ 2) :
    ReadChange s (cwRead w fl c s).2.2 := by
  unfold cwRead
  split
  · exact ⟨memChange_refl s, rfl⟩
  · exact ⟨memChange_trans (memChange_noteCe ..) (memChange_cwWrite ..), noteCe_modFatal ..⟩
  · exact ⟨memChange_noteUe _ _ _ _ hw, noteUe_modFatal _ _ _ _ hw⟩

theorem readChange_cwReadsFrom (w : MemWho) (fl : Noise) (hw : w.pol ≠ 2) (n : Nat) : ∀ (c : Nat) (seen : Bool) (s : State),
    ReadChange s (cwReadsFrom w fl c seen n s).2.2 := by
  induction n with
  | zero => intro c seen s; exact ⟨memChange_refl s, rfl⟩
  | succ n ih =>
    intro c seen s
    unfold cwReadsFrom
    refine readChange_trans (readChange_cwRead _ fl c s ?_) (ih ..)
    split
    · exact (by decide : (0 : Nat) ≠ 2)
    · exact hw

theorem readChange_lineRead (w : MemWho) (fl : Noise) (l : Nat) (s : State) (hw : w.pol ≠ 2) :
    ReadChange s (lineRead w fl l s).2.2 := by
  unfold lineRead
  split
  · exact readChange_cwReadsFrom w fl hw ..
  · exact ⟨memChange_refl s, rfl⟩

theorem readChange_memRead (w : MemWho) (a n : Nat) (s : State) (hw : w.pol ≠ 2) : ReadChange s (memRead w a n s).2.2 := by
  have h : ∀ (k l : Nat) (s : State), ReadChange s (linesRead w l k s).2.2 := by
    intro k
    induction k with
    | zero => intro l s; exact ⟨memChange_refl s, rfl⟩
    | succ k ih =>
      intro l s
      unfold linesRead
      exact readChange_trans (readChange_lineRead w [] l s hw) (ih ..)
  exact h ..

theorem memChange_moveMem (a n : Nat) (s : State) : MemChange s (moveMem a n s) := by
  unfold moveMem
  split
  · exact memChange_refl s
  · exact memChange_patina _ s

theorem moveMem_log (a n : Nat) (s : State) : (moveMem a n s).log = s.log := by
  unfold moveMem
  split <;> rfl

/-- What the read of a command's packet can change: the engines and what waits (R287, R292), or the tiers (Table 11.3). -/
def Takes (s t : State) : Prop := ∃ ri en hd me er po pa de g m o,
  t = { s with
    rings := ri, pcie := { s.pcie with engine := en, held := s.pcie.held ++ hd }, mem := me, memErr := er, poison := po
    patina := pa, devs := de, log := g, msix := m, out := o ++ s.out } ∧
    (Memory.wf s.mem → Memory.wf me) ∧ g.modFatal = s.log.modFatal

theorem packetRead_takes (ring : Nat) (s : State) : Takes s (packetRead ring s) := by
  unfold packetRead
  split
  · exact ⟨s.rings, s.pcie.engine, [], s.mem, s.memErr, s.poison, s.patina, s.devs, s.log, s.msix, [], by simp, id, rfl⟩
  · split
    · obtain ⟨h, e⟩ := readChange_memRead windowWho (slotAddr ring s) 64 (moveMem (slotAddr ring s) 64 s) (by decide)
      obtain ⟨me, er, po, pa, de, g, m, o, h, w⟩ := memChange_trans (memChange_moveMem ..) h
      rw [moveMem_log] at e
      rw [h] at e ⊢
      exact ⟨s.rings, s.pcie.engine, [], me, er, po, pa, de, g, m, o, by simp, w, e⟩
    · obtain ⟨en, hd, o, h⟩ := hostIn_shape (slotAddr ring s) 64 s
      rw [h]
      exact ⟨s.rings, en, hd, s.mem, s.memErr, s.poison, s.patina, s.devs, s.log, s.msix, o, rfl, id, rfl⟩

/-- A command that is taken has moved its ring on and read its packet (R306). -/
theorem taken_takes (h : CmdHdr) (s : State) : Takes s (taken h s) := by
  obtain ⟨ri, en, hd, me, er, po, pa, de, g, m, o, e, w, f⟩ := packetRead_takes h.ring s
  exact ⟨tmod {} (packetRead h.ring s).rings h.ring _, en, hd, me, er, po, pa, de, g, m, o,
    by rw [taken, modRing, e], w, f⟩

theorem packetRead_rings (ring : Nat) (s : State) : (packetRead ring s).rings = s.rings := by
  unfold packetRead
  split
  · rfl
  · split
    · obtain ⟨me, er, po, pa, de, g, m, o, h, -⟩ :=
        memChange_trans (memChange_moveMem ..) (readChange_memRead windowWho (slotAddr ring s) 64 (moveMem (slotAddr ring s) 64 s) (by decide)).1
      rw [h]
    · obtain ⟨en, hd, o, h⟩ := hostIn_shape (slotAddr ring s) 64 s
      rw [h]

theorem taken_rings (h : CmdHdr) (s : State) :
    (taken h s).rings = tmod {} s.rings h.ring (fun g => { g with head := (g.head + 1) % 65536, busy := true }) := by
  rw [taken, modRing, packetRead_rings]

@[simp] theorem taken_quiet (h : CmdHdr) (s : State) : quiet (taken h s) = quiet s := by
  obtain ⟨_, _, _, _, _, _, _, _, _, _, _, e, -⟩ := taken_takes h s; rw [e]; rfl
@[simp] theorem taken_modFatal (h : CmdHdr) (s : State) : (taken h s).log.modFatal = s.log.modFatal := by
  obtain ⟨_, _, _, _, _, _, _, _, _, _, _, e, -, f⟩ := taken_takes h s; rw [e]; exact f
@[simp] theorem taken_pending (h : CmdHdr) (s : State) : (taken h s).pending = s.pending := by
  obtain ⟨_, _, _, _, _, _, _, _, _, _, _, e, -⟩ := taken_takes h s; rw [e]
@[simp] theorem taken_free (h : CmdHdr) (s : State) : (taken h s).free = s.free := by
  obtain ⟨_, _, _, _, _, _, _, _, _, _, _, e, -⟩ := taken_takes h s; rw [e]
@[simp] theorem taken_ident (h : CmdHdr) (s : State) : (taken h s).ident = s.ident := by
  obtain ⟨_, _, _, _, _, _, _, _, _, _, _, e, -⟩ := taken_takes h s; rw [e]
@[simp] theorem taken_clk (h : CmdHdr) (s : State) : (taken h s).clk = s.clk := by
  obtain ⟨_, _, _, _, _, _, _, _, _, _, _, e, -⟩ := taken_takes h s; rw [e]
@[simp] theorem taken_mgmt (h : CmdHdr) (s : State) : (taken h s).mgmt = s.mgmt := by
  obtain ⟨_, _, _, _, _, _, _, _, _, _, _, e, -⟩ := taken_takes h s; rw [e]
@[simp] theorem taken_flights (h : CmdHdr) (s : State) : (taken h s).flights = s.flights := by
  obtain ⟨_, _, _, _, _, _, _, _, _, _, _, e, -⟩ := taken_takes h s; rw [e]
@[simp] theorem taken_mbox (h : CmdHdr) (s : State) : (taken h s).mbox = s.mbox := by
  obtain ⟨_, _, _, _, _, _, _, _, _, _, _, e, -⟩ := taken_takes h s; rw [e]
@[simp] theorem taken_app (h : CmdHdr) (s : State) : (taken h s).app = s.app := by
  obtain ⟨_, _, _, _, _, _, _, _, _, _, _, e, -⟩ := taken_takes h s; rw [e]
@[simp] theorem taken_pwr (h : CmdHdr) (s : State) : (taken h s).pwr = s.pwr := by
  obtain ⟨_, _, _, _, _, _, _, _, _, _, _, e, -⟩ := taken_takes h s; rw [e]
@[simp] theorem taken_flash (h : CmdHdr) (s : State) : (taken h s).flash = s.flash := by
  obtain ⟨_, _, _, _, _, _, _, _, _, _, _, e, -⟩ := taken_takes h s; rw [e]
@[simp] theorem taken_sec (h : CmdHdr) (s : State) : (taken h s).sec = s.sec := by
  obtain ⟨_, _, _, _, _, _, _, _, _, _, _, e, -⟩ := taken_takes h s; rw [e]
@[simp] theorem taken_board (h : CmdHdr) (s : State) : (taken h s).board = s.board := by
  obtain ⟨_, _, _, _, _, _, _, _, _, _, _, e, -⟩ := taken_takes h s; rw [e]
@[simp] theorem taken_partMap (h : CmdHdr) (s : State) : (taken h s).partMap = s.partMap := by
  obtain ⟨_, _, _, _, _, _, _, _, _, _, _, e, -⟩ := taken_takes h s; rw [e]
@[simp] theorem taken_parts (h : CmdHdr) (s : State) : (taken h s).parts = s.parts := by
  obtain ⟨_, _, _, _, _, _, _, _, _, _, _, e, -⟩ := taken_takes h s; rw [e]
@[simp] theorem taken_wdog (h : CmdHdr) (s : State) : (taken h s).wdog = s.wdog := by
  obtain ⟨_, _, _, _, _, _, _, _, _, _, _, e, -⟩ := taken_takes h s; rw [e]
@[simp] theorem taken_bands (h : CmdHdr) (s : State) : (taken h s).bands = s.bands := by
  obtain ⟨_, _, _, _, _, _, _, _, _, _, _, e, -⟩ := taken_takes h s; rw [e]
@[simp] theorem taken_cells (h : CmdHdr) (s : State) : (taken h s).cells = s.cells := by
  obtain ⟨_, _, _, _, _, _, _, _, _, _, _, e, -⟩ := taken_takes h s; rw [e]
@[simp] theorem taken_seam (h : CmdHdr) (s : State) : (taken h s).seam = s.seam := by
  obtain ⟨_, _, _, _, _, _, _, _, _, _, _, e, -⟩ := taken_takes h s; rw [e]
@[simp] theorem taken_fence (h : CmdHdr) (s : State) : (taken h s).fence = s.fence := by
  obtain ⟨_, _, _, _, _, _, _, _, _, _, _, e, -⟩ := taken_takes h s; rw [e]
@[simp] theorem taken_plinths (h : CmdHdr) (s : State) : (taken h s).plinths = s.plinths := by
  obtain ⟨_, _, _, _, _, _, _, _, _, _, _, e, -⟩ := taken_takes h s; rw [e]
@[simp] theorem taken_regions (h : CmdHdr) (s : State) : (taken h s).regions = s.regions := by
  obtain ⟨_, _, _, _, _, _, _, _, _, _, _, e, -⟩ := taken_takes h s; rw [e]
@[simp] theorem taken_passQ (h : CmdHdr) (s : State) : (taken h s).passQ = s.passQ := by
  obtain ⟨_, _, _, _, _, _, _, _, _, _, _, e, -⟩ := taken_takes h s; rw [e]
@[simp] theorem taken_links (h : CmdHdr) (s : State) : (taken h s).links = s.links := by
  obtain ⟨_, _, _, _, _, _, _, _, _, _, _, e, -⟩ := taken_takes h s; rw [e]
@[simp] theorem taken_lasers (h : CmdHdr) (s : State) : (taken h s).lasers = s.lasers := by
  obtain ⟨_, _, _, _, _, _, _, _, _, _, _, e, -⟩ := taken_takes h s; rw [e]
@[simp] theorem taken_fab (h : CmdHdr) (s : State) : (taken h s).fab = s.fab := by
  obtain ⟨_, _, _, _, _, _, _, _, _, _, _, e, -⟩ := taken_takes h s; rw [e]
@[simp] theorem taken_chans (h : CmdHdr) (s : State) : (taken h s).chans = s.chans := by
  obtain ⟨_, _, _, _, _, _, _, _, _, _, _, e, -⟩ := taken_takes h s; rw [e]
@[simp] theorem taken_redMcastTo (h : CmdHdr) (s : State) : (taken h s).redMcastTo = s.redMcastTo := by
  obtain ⟨_, _, _, _, _, _, _, _, _, _, _, e, -⟩ := taken_takes h s; rw [e]
@[simp] theorem taken_castSeen (h : CmdHdr) (s : State) : (taken h s).castSeen = s.castSeen := by
  obtain ⟨_, _, _, _, _, _, _, _, _, _, _, e, -⟩ := taken_takes h s; rw [e]
@[simp] theorem getPart_taken (h : CmdHdr) (s : State) (i : Nat) : getPart (taken h s) i = getPart s i := by
  rw [getPart, taken_parts, getPart]
@[simp] theorem getBand_taken (h : CmdHdr) (s : State) (i : Nat) : getBand (taken h s) i = getBand s i := by
  rw [getBand, taken_bands, getBand]
@[simp] theorem getCell_taken (h : CmdHdr) (s : State) (i : Nat) : getCell (taken h s) i = getCell s i := by
  rw [getCell, taken_cells, getCell]
@[simp] theorem getPl_taken (h : CmdHdr) (s : State) (i : Nat) : getPl (taken h s) i = getPl s i := by
  rw [getPl, taken_plinths, getPl]
@[simp] theorem getReg_taken (h : CmdHdr) (s : State) (i : Nat) : getReg (taken h s) i = getReg s i := by
  rw [getReg, taken_regions, getReg]
@[simp] theorem getLink_taken (h : CmdHdr) (s : State) (i : Nat) : getLink (taken h s) i = getLink s i := by
  rw [getLink, taken_links, getLink]
@[simp] theorem getChan_taken (h : CmdHdr) (s : State) (i : Nat) : getChan (taken h s) i = getChan s i := by
  rw [getChan, taken_chans, getChan]

/-- What the completion of a command can change: its ring, the commands in progress, the management queue, what waits for D0,
and what the store of a status packet in device memory changes (R292, R309). -/
def Completes (s t : State) : Prop := ∃ ri fl mg hd me er po pa de g m o,
  t = { s with
    rings := ri, flights := fl, mgmt := mg, pcie := { s.pcie with held := s.pcie.held ++ hd }, mem := me, memErr := er, poison := po
    patina := pa, devs := de, log := g, msix := m, out := o ++ s.out } ∧ (Memory.wf s.mem → Memory.wf me)

theorem completes_refl (s : State) : Completes s s :=
  ⟨s.rings, s.flights, s.mgmt, [], s.mem, s.memErr, s.poison, s.patina, s.devs, s.log, s.msix, [], by simp, id⟩

theorem completes_trans {s t u : State} (h : Completes s t) (h' : Completes t u) : Completes s u := by
  obtain ⟨ri, fl, mg, hd, me, er, po, pa, de, g, m, o, rfl, w⟩ := h
  obtain ⟨ri', fl', mg', hd', me', er', po', pa', de', g', m', o', rfl, w'⟩ := h'
  exact ⟨ri', fl', mg', hd ++ hd', me', er', po', pa', de', g', m', o' ++ o, by simp, fun h => w' (w h)⟩

theorem completes_mem {s t : State} (h : MemChange s t) : Completes s t := by
  obtain ⟨me, er, po, pa, de, g, m, o, rfl, w⟩ := h
  exact ⟨s.rings, s.flights, s.mgmt, [], me, er, po, pa, de, g, m, o, by simp, w⟩

theorem completes_rings (ri : Tbl CmdRing) (s : State) : Completes s { s with rings := ri } :=
  ⟨ri, s.flights, s.mgmt, [], s.mem, s.memErr, s.poison, s.patina, s.devs, s.log, s.msix, [], by simp, id⟩

theorem completes_storeStatus (g : CmdRing) (p : StatusPkt) (s : State) : Completes s (storeStatus g p s) := by
  unfold storeStatus
  simp only []
  split
  · exact completes_mem (memChange_trans (memChange_moveMem ..) (memChange_memWrite ..))
  · exact completes_trans (completes_rings _ s) (completes_mem (memChange_log (logRec_shape ..)))

theorem completes_signal (v : Nat) (s : State) : Completes s (signal v s) := by
  obtain ⟨m, o, h⟩ := signal_shape v s
  exact completes_mem (memChange_log ⟨s.log, m, o, h⟩)

theorem completes_tail (c d : Bool) (v : Nat) (g : CmdRing) (p : StatusPkt) (u : State) :
    Completes u (if d then signal v (if c then storeStatus g p u else u) else (if c then storeStatus g p u else u)) := by
  cases c <;> cases d
  · exact completes_refl u
  · exact completes_signal v u
  · exact completes_storeStatus g p u
  · exact completes_trans (completes_storeStatus g p u) (completes_signal v _)

/-- The status packet of a completion is sent, or waits for D0. -/
theorem status_goes (c : Bool) (p : StatusPkt) (s : State) : ∃ hd o,
    (if c then emitHost (.status p) s else emit (.status p) s) =
      { s with pcie := { s.pcie with held := s.pcie.held ++ hd }, out := o ++ s.out } ∧
    (o = [.status p] ∨ (quiet s = true ∧ hd = [.status p])) := by
  cases c
  · exact ⟨[], [.status p], by simp [emit], .inl rfl⟩
  · rcases emitHost_shape (.status p) s with ⟨-, h⟩ | ⟨hd, h⟩
    · exact ⟨[], [.status p], by simp [h, hostOutOf], .inl rfl⟩
    · exact ⟨[.status p], [], by simp [h], .inr ⟨hd, rfl⟩⟩

/-- The state once the packet of a completion has gone out, before it is stored and signalled. -/
theorem finish_steps (r : CmdRef) (st : Status) (v rec : Nat) (s : State) : ∃ ri fl mg hd o p u,
    u = { s with rings := ri, flights := fl, mgmt := mg, pcie := { s.pcie with held := s.pcie.held ++ hd }, out := o ++ s.out } ∧
    Completes u (finish r st v rec s) ∧ (o = [.status p] ∨ (quiet s = true ∧ hd = [.status p])) ∧
    p.opcode = r.opcode ∧ p.status = st ∧ p.tag = r.tag ∧ p.ring = r.ring ∧ p.slot = r.slot ∧ p.result = v ∧ p.record = rec ∧
    fl = s.flights.filter (fun f => f.ring != r.ring) := by
  unfold finish
  have hc : (r.ring < 16 ∧ (getRing s r.ring).loc = false) = ((decide (r.ring < 16) && !(getRing s r.ring).loc) = true) := by
    simp
  simp only [hc]
  obtain ⟨hd, o, h, ho⟩ := status_goes (decide (r.ring < 16) && !(getRing s r.ring).loc)
    { opcode := r.opcode, status := st, tag := r.tag, phase := (getRing s r.ring).phase, ring := r.ring, slot := r.slot
      gtc := s.clk.gtc, result := v, record := rec }
    { modRing r.ring (fun g => { g with
      done := (g.done + 1) % 65536
      phase := if decide ((r.slot + 1) % ringEntries r.ring (getRing s r.ring) = 0) then !g.phase else g.phase, busy := false }) s with
      flights := s.flights.filter (fun f => f.ring != r.ring), mgmt := if r.ring = 16 then s.mgmt.tail else s.mgmt }
  refine ⟨tmod {} s.rings r.ring (fun g => { g with
      done := (g.done + 1) % 65536
      phase := if decide ((r.slot + 1) % ringEntries r.ring (getRing s r.ring) = 0) then !g.phase else g.phase
      busy := false }),
    s.flights.filter (fun f => f.ring != r.ring), if r.ring = 16 then s.mgmt.tail else s.mgmt, hd, o,
    { opcode := r.opcode, status := st, tag := r.tag, phase := (getRing s r.ring).phase, ring := r.ring, slot := r.slot
      gtc := s.clk.gtc, result := v, record := rec },
    _, rfl, ?_, ho, rfl, rfl, rfl, rfl, rfl, rfl, rfl, rfl⟩
  exact h ▸ completes_tail _ _ _ _ _ _

/-- A completion changes no more than that. -/
theorem finish_completes (r : CmdRef) (st : Status) (v rec : Nat) (s : State) : Completes s (finish r st v rec s) := by
  obtain ⟨ri, fl, mg, hd, o, p, u, rfl, h, -⟩ := finish_steps r st v rec s
  exact completes_trans (t := { s with
      rings := ri, flights := fl, mgmt := mg, pcie := { s.pcie with held := s.pcie.held ++ hd }, out := o ++ s.out })
    ⟨ri, fl, mg, hd, s.mem, s.memErr, s.poison, s.patina, s.devs, s.log, s.msix, o, rfl, id⟩ h

/-- A completion sends its status packet, or has it wait for D0 (R292, R309). -/
theorem finish_replied (r : CmdRef) (st : Status) (v rec : Nat) (s : State) : Replied r st v s (finish r st v rec s) := by
  obtain ⟨ri, fl, mg, hd, o, p, u, rfl, h, ho, h1, h2, h3, h4, h5, h6, -⟩ := finish_steps r st v rec s
  obtain ⟨_, _, _, hd', _, _, _, _, _, _, _, o', e, -⟩ := h
  refine ⟨p, ?_, h1, h2, h3, h4, h5, h6⟩
  rcases ho with rfl | ⟨hd3, rfl⟩
  · exact .inl ⟨o', [], by rw [e]; simp⟩
  · exact .inr ⟨hd3, by rw [e]; simp⟩

theorem finishErr_completes (r : CmdRef) (st : Status) (k o d : Nat) (s : State) : Completes s (finishErr r st k o d s) :=
  completes_trans (completes_mem (memChange_log (writeRec_shape _ s))) (finish_completes ..)

/-- A command that nothing turns away has its opcode's effect (R306, R310). -/
theorem command_accepted (h : CmdHdr) (c : CmdSpec) (f : CmdRef → State → State) (s : State) (ha : Accepted h c s)
    (hp : c.params = true) : command h c f s = announce s (f (slotOf h c.op s) (taken h s)) := by
  obtain ⟨hd, hr, hf, hx, hc, hm, hs⟩ := ha
  simp only [Bool.and_eq_true, Bool.not_eq_true', Option.isNone_iff_eq_none] at hs
  have hc' : ((taken h s).flights.any (fun x => x.claims.any (fun k => (c.claims ++ c.names).contains k))) = false := by
    simp only [taken_flights]
    rw [List.all_eq_true] at hc
    rw [List.any_eq_false]
    intro x hx
    have := hc x hx
    rw [List.all_eq_true] at this
    simp only [Bool.not_eq_true, List.any_eq_false]
    intro k hk
    simpa using this k hk
  have hx' : (c.active && (taken h s).pwr.st != .active) = false := by
    cases hb : c.active
    · rfl
    · simp [hx hb]
  have hm' : (c.modFatal && (taken h s).log.modFatal) = false := by
    cases hb : c.modFatal
    · rfl
    · simp [hm hb]
  unfold command
  rw [if_pos hd]
  have hnf : ¬ (h.flags ≥ (if c.fabric then 4 else 2)) := by omega
  simp only [hr, hp, hs.1, hs.2, Option.isSome_none, decide_eq_false hnf, Bool.not_true, Bool.or_false, if_false, Bool.false_eq_true]
  show announce s (if (c.active && (taken h s).pwr.st != .active) = true then _ else
    if ((taken h s).flights.any (fun x => x.claims.any (fun k => (c.claims ++ c.names).contains k))) = true then _ else
    if (c.modFatal && (taken h s).log.modFatal) = true then _ else f (slotOf h c.op s) (taken h s)) = _
  rw [hx', hc', hm']
  simp

@[simp] theorem signal_pending (v : Nat) (s : State) : (signal v s).pending = s.pending := by
  obtain ⟨_, _, h⟩ := signal_shape v s; rw [h]
@[simp] theorem signal_free (v : Nat) (s : State) : (signal v s).free = s.free := by
  obtain ⟨_, _, h⟩ := signal_shape v s; rw [h]
@[simp] theorem signal_ident (v : Nat) (s : State) : (signal v s).ident = s.ident := by
  obtain ⟨_, _, h⟩ := signal_shape v s; rw [h]
@[simp] theorem signal_clk (v : Nat) (s : State) : (signal v s).clk = s.clk := by
  obtain ⟨_, _, h⟩ := signal_shape v s; rw [h]
@[simp] theorem signal_log (v : Nat) (s : State) : (signal v s).log = s.log := by
  obtain ⟨_, _, h⟩ := signal_shape v s; rw [h]
@[simp] theorem signal_rings (v : Nat) (s : State) : (signal v s).rings = s.rings := by
  obtain ⟨_, _, h⟩ := signal_shape v s; rw [h]
@[simp] theorem signal_mgmt (v : Nat) (s : State) : (signal v s).mgmt = s.mgmt := by
  obtain ⟨_, _, h⟩ := signal_shape v s; rw [h]
@[simp] theorem signal_flights (v : Nat) (s : State) : (signal v s).flights = s.flights := by
  obtain ⟨_, _, h⟩ := signal_shape v s; rw [h]
@[simp] theorem signal_mbox (v : Nat) (s : State) : (signal v s).mbox = s.mbox := by
  obtain ⟨_, _, h⟩ := signal_shape v s; rw [h]
@[simp] theorem signal_pcie (v : Nat) (s : State) : (signal v s).pcie = s.pcie := by
  obtain ⟨_, _, h⟩ := signal_shape v s; rw [h]
@[simp] theorem signal_app (v : Nat) (s : State) : (signal v s).app = s.app := by
  obtain ⟨_, _, h⟩ := signal_shape v s; rw [h]
@[simp] theorem signal_pwr (v : Nat) (s : State) : (signal v s).pwr = s.pwr := by
  obtain ⟨_, _, h⟩ := signal_shape v s; rw [h]
@[simp] theorem signal_flash (v : Nat) (s : State) : (signal v s).flash = s.flash := by
  obtain ⟨_, _, h⟩ := signal_shape v s; rw [h]
@[simp] theorem signal_sec (v : Nat) (s : State) : (signal v s).sec = s.sec := by
  obtain ⟨_, _, h⟩ := signal_shape v s; rw [h]
@[simp] theorem signal_board (v : Nat) (s : State) : (signal v s).board = s.board := by
  obtain ⟨_, _, h⟩ := signal_shape v s; rw [h]
@[simp] theorem signal_partMap (v : Nat) (s : State) : (signal v s).partMap = s.partMap := by
  obtain ⟨_, _, h⟩ := signal_shape v s; rw [h]
@[simp] theorem signal_parts (v : Nat) (s : State) : (signal v s).parts = s.parts := by
  obtain ⟨_, _, h⟩ := signal_shape v s; rw [h]
@[simp] theorem signal_wdog (v : Nat) (s : State) : (signal v s).wdog = s.wdog := by
  obtain ⟨_, _, h⟩ := signal_shape v s; rw [h]
@[simp] theorem signal_bands (v : Nat) (s : State) : (signal v s).bands = s.bands := by
  obtain ⟨_, _, h⟩ := signal_shape v s; rw [h]
@[simp] theorem signal_cells (v : Nat) (s : State) : (signal v s).cells = s.cells := by
  obtain ⟨_, _, h⟩ := signal_shape v s; rw [h]
@[simp] theorem signal_seam (v : Nat) (s : State) : (signal v s).seam = s.seam := by
  obtain ⟨_, _, h⟩ := signal_shape v s; rw [h]
@[simp] theorem signal_fence (v : Nat) (s : State) : (signal v s).fence = s.fence := by
  obtain ⟨_, _, h⟩ := signal_shape v s; rw [h]
@[simp] theorem signal_patina (v : Nat) (s : State) : (signal v s).patina = s.patina := by
  obtain ⟨_, _, h⟩ := signal_shape v s; rw [h]
@[simp] theorem signal_mem (v : Nat) (s : State) : (signal v s).mem = s.mem := by
  obtain ⟨_, _, h⟩ := signal_shape v s; rw [h]
@[simp] theorem signal_memErr (v : Nat) (s : State) : (signal v s).memErr = s.memErr := by
  obtain ⟨_, _, h⟩ := signal_shape v s; rw [h]
@[simp] theorem signal_poison (v : Nat) (s : State) : (signal v s).poison = s.poison := by
  obtain ⟨_, _, h⟩ := signal_shape v s; rw [h]
@[simp] theorem signal_devs (v : Nat) (s : State) : (signal v s).devs = s.devs := by
  obtain ⟨_, _, h⟩ := signal_shape v s; rw [h]
@[simp] theorem signal_plinths (v : Nat) (s : State) : (signal v s).plinths = s.plinths := by
  obtain ⟨_, _, h⟩ := signal_shape v s; rw [h]
@[simp] theorem signal_regions (v : Nat) (s : State) : (signal v s).regions = s.regions := by
  obtain ⟨_, _, h⟩ := signal_shape v s; rw [h]
@[simp] theorem signal_links (v : Nat) (s : State) : (signal v s).links = s.links := by
  obtain ⟨_, _, h⟩ := signal_shape v s; rw [h]
@[simp] theorem signal_lasers (v : Nat) (s : State) : (signal v s).lasers = s.lasers := by
  obtain ⟨_, _, h⟩ := signal_shape v s; rw [h]
@[simp] theorem signal_fab (v : Nat) (s : State) : (signal v s).fab = s.fab := by
  obtain ⟨_, _, h⟩ := signal_shape v s; rw [h]
@[simp] theorem signal_chans (v : Nat) (s : State) : (signal v s).chans = s.chans := by
  obtain ⟨_, _, h⟩ := signal_shape v s; rw [h]
@[simp] theorem signal_redMcastTo (v : Nat) (s : State) : (signal v s).redMcastTo = s.redMcastTo := by
  obtain ⟨_, _, h⟩ := signal_shape v s; rw [h]
@[simp] theorem signal_castSeen (v : Nat) (s : State) : (signal v s).castSeen = s.castSeen := by
  obtain ⟨_, _, h⟩ := signal_shape v s; rw [h]
@[simp] theorem signal_passQ (v : Nat) (s : State) : (signal v s).passQ = s.passQ := by
  obtain ⟨_, _, h⟩ := signal_shape v s; rw [h]

@[simp] theorem announce_pending (t s : State) : (announce t s).pending = s.pending := by
  obtain ⟨_, _, h⟩ := announce_shape t s; rw [h]
@[simp] theorem announce_free (t s : State) : (announce t s).free = s.free := by
  obtain ⟨_, _, h⟩ := announce_shape t s; rw [h]
@[simp] theorem announce_ident (t s : State) : (announce t s).ident = s.ident := by
  obtain ⟨_, _, h⟩ := announce_shape t s; rw [h]
@[simp] theorem announce_clk (t s : State) : (announce t s).clk = s.clk := by
  obtain ⟨_, _, h⟩ := announce_shape t s; rw [h]
@[simp] theorem announce_log (t s : State) : (announce t s).log = s.log := by
  obtain ⟨_, _, h⟩ := announce_shape t s; rw [h]
@[simp] theorem announce_rings (t s : State) : (announce t s).rings = s.rings := by
  obtain ⟨_, _, h⟩ := announce_shape t s; rw [h]
@[simp] theorem announce_mgmt (t s : State) : (announce t s).mgmt = s.mgmt := by
  obtain ⟨_, _, h⟩ := announce_shape t s; rw [h]
@[simp] theorem announce_flights (t s : State) : (announce t s).flights = s.flights := by
  obtain ⟨_, _, h⟩ := announce_shape t s; rw [h]
@[simp] theorem announce_mbox (t s : State) : (announce t s).mbox = s.mbox := by
  obtain ⟨_, _, h⟩ := announce_shape t s; rw [h]
@[simp] theorem announce_pcie (t s : State) : (announce t s).pcie = s.pcie := by
  obtain ⟨_, _, h⟩ := announce_shape t s; rw [h]
@[simp] theorem announce_app (t s : State) : (announce t s).app = s.app := by
  obtain ⟨_, _, h⟩ := announce_shape t s; rw [h]
@[simp] theorem announce_pwr (t s : State) : (announce t s).pwr = s.pwr := by
  obtain ⟨_, _, h⟩ := announce_shape t s; rw [h]
@[simp] theorem announce_flash (t s : State) : (announce t s).flash = s.flash := by
  obtain ⟨_, _, h⟩ := announce_shape t s; rw [h]
@[simp] theorem announce_sec (t s : State) : (announce t s).sec = s.sec := by
  obtain ⟨_, _, h⟩ := announce_shape t s; rw [h]
@[simp] theorem announce_board (t s : State) : (announce t s).board = s.board := by
  obtain ⟨_, _, h⟩ := announce_shape t s; rw [h]
@[simp] theorem announce_partMap (t s : State) : (announce t s).partMap = s.partMap := by
  obtain ⟨_, _, h⟩ := announce_shape t s; rw [h]
@[simp] theorem announce_parts (t s : State) : (announce t s).parts = s.parts := by
  obtain ⟨_, _, h⟩ := announce_shape t s; rw [h]
@[simp] theorem announce_wdog (t s : State) : (announce t s).wdog = s.wdog := by
  obtain ⟨_, _, h⟩ := announce_shape t s; rw [h]
@[simp] theorem announce_bands (t s : State) : (announce t s).bands = s.bands := by
  obtain ⟨_, _, h⟩ := announce_shape t s; rw [h]
@[simp] theorem announce_cells (t s : State) : (announce t s).cells = s.cells := by
  obtain ⟨_, _, h⟩ := announce_shape t s; rw [h]
@[simp] theorem announce_seam (t s : State) : (announce t s).seam = s.seam := by
  obtain ⟨_, _, h⟩ := announce_shape t s; rw [h]
@[simp] theorem announce_fence (t s : State) : (announce t s).fence = s.fence := by
  obtain ⟨_, _, h⟩ := announce_shape t s; rw [h]
@[simp] theorem announce_patina (t s : State) : (announce t s).patina = s.patina := by
  obtain ⟨_, _, h⟩ := announce_shape t s; rw [h]
@[simp] theorem announce_mem (t s : State) : (announce t s).mem = s.mem := by
  obtain ⟨_, _, h⟩ := announce_shape t s; rw [h]
@[simp] theorem announce_memErr (t s : State) : (announce t s).memErr = s.memErr := by
  obtain ⟨_, _, h⟩ := announce_shape t s; rw [h]
@[simp] theorem announce_poison (t s : State) : (announce t s).poison = s.poison := by
  obtain ⟨_, _, h⟩ := announce_shape t s; rw [h]
@[simp] theorem announce_devs (t s : State) : (announce t s).devs = s.devs := by
  obtain ⟨_, _, h⟩ := announce_shape t s; rw [h]
@[simp] theorem announce_plinths (t s : State) : (announce t s).plinths = s.plinths := by
  obtain ⟨_, _, h⟩ := announce_shape t s; rw [h]
@[simp] theorem announce_regions (t s : State) : (announce t s).regions = s.regions := by
  obtain ⟨_, _, h⟩ := announce_shape t s; rw [h]
@[simp] theorem announce_links (t s : State) : (announce t s).links = s.links := by
  obtain ⟨_, _, h⟩ := announce_shape t s; rw [h]
@[simp] theorem announce_lasers (t s : State) : (announce t s).lasers = s.lasers := by
  obtain ⟨_, _, h⟩ := announce_shape t s; rw [h]
@[simp] theorem announce_fab (t s : State) : (announce t s).fab = s.fab := by
  obtain ⟨_, _, h⟩ := announce_shape t s; rw [h]
@[simp] theorem announce_chans (t s : State) : (announce t s).chans = s.chans := by
  obtain ⟨_, _, h⟩ := announce_shape t s; rw [h]
@[simp] theorem announce_redMcastTo (t s : State) : (announce t s).redMcastTo = s.redMcastTo := by
  obtain ⟨_, _, h⟩ := announce_shape t s; rw [h]
@[simp] theorem announce_castSeen (t s : State) : (announce t s).castSeen = s.castSeen := by
  obtain ⟨_, _, h⟩ := announce_shape t s; rw [h]
@[simp] theorem announce_passQ (t s : State) : (announce t s).passQ = s.passQ := by
  obtain ⟨_, _, h⟩ := announce_shape t s; rw [h]

@[simp] theorem writeRec_pending (r : ErrRec) (s : State) : (writeRec r s).pending = s.pending := by
  obtain ⟨_, _, _, h⟩ := writeRec_shape r s; rw [h]
@[simp] theorem writeRec_free (r : ErrRec) (s : State) : (writeRec r s).free = s.free := by
  obtain ⟨_, _, _, h⟩ := writeRec_shape r s; rw [h]
@[simp] theorem writeRec_ident (r : ErrRec) (s : State) : (writeRec r s).ident = s.ident := by
  obtain ⟨_, _, _, h⟩ := writeRec_shape r s; rw [h]
@[simp] theorem writeRec_clk (r : ErrRec) (s : State) : (writeRec r s).clk = s.clk := by
  obtain ⟨_, _, _, h⟩ := writeRec_shape r s; rw [h]
@[simp] theorem writeRec_rings (r : ErrRec) (s : State) : (writeRec r s).rings = s.rings := by
  obtain ⟨_, _, _, h⟩ := writeRec_shape r s; rw [h]
@[simp] theorem writeRec_mgmt (r : ErrRec) (s : State) : (writeRec r s).mgmt = s.mgmt := by
  obtain ⟨_, _, _, h⟩ := writeRec_shape r s; rw [h]
@[simp] theorem writeRec_flights (r : ErrRec) (s : State) : (writeRec r s).flights = s.flights := by
  obtain ⟨_, _, _, h⟩ := writeRec_shape r s; rw [h]
@[simp] theorem writeRec_mbox (r : ErrRec) (s : State) : (writeRec r s).mbox = s.mbox := by
  obtain ⟨_, _, _, h⟩ := writeRec_shape r s; rw [h]
@[simp] theorem writeRec_pcie (r : ErrRec) (s : State) : (writeRec r s).pcie = s.pcie := by
  obtain ⟨_, _, _, h⟩ := writeRec_shape r s; rw [h]
@[simp] theorem writeRec_app (r : ErrRec) (s : State) : (writeRec r s).app = s.app := by
  obtain ⟨_, _, _, h⟩ := writeRec_shape r s; rw [h]
@[simp] theorem writeRec_pwr (r : ErrRec) (s : State) : (writeRec r s).pwr = s.pwr := by
  obtain ⟨_, _, _, h⟩ := writeRec_shape r s; rw [h]
@[simp] theorem writeRec_flash (r : ErrRec) (s : State) : (writeRec r s).flash = s.flash := by
  obtain ⟨_, _, _, h⟩ := writeRec_shape r s; rw [h]
@[simp] theorem writeRec_sec (r : ErrRec) (s : State) : (writeRec r s).sec = s.sec := by
  obtain ⟨_, _, _, h⟩ := writeRec_shape r s; rw [h]
@[simp] theorem writeRec_board (r : ErrRec) (s : State) : (writeRec r s).board = s.board := by
  obtain ⟨_, _, _, h⟩ := writeRec_shape r s; rw [h]
@[simp] theorem writeRec_partMap (r : ErrRec) (s : State) : (writeRec r s).partMap = s.partMap := by
  obtain ⟨_, _, _, h⟩ := writeRec_shape r s; rw [h]
@[simp] theorem writeRec_parts (r : ErrRec) (s : State) : (writeRec r s).parts = s.parts := by
  obtain ⟨_, _, _, h⟩ := writeRec_shape r s; rw [h]
@[simp] theorem writeRec_wdog (r : ErrRec) (s : State) : (writeRec r s).wdog = s.wdog := by
  obtain ⟨_, _, _, h⟩ := writeRec_shape r s; rw [h]
@[simp] theorem writeRec_bands (r : ErrRec) (s : State) : (writeRec r s).bands = s.bands := by
  obtain ⟨_, _, _, h⟩ := writeRec_shape r s; rw [h]
@[simp] theorem writeRec_cells (r : ErrRec) (s : State) : (writeRec r s).cells = s.cells := by
  obtain ⟨_, _, _, h⟩ := writeRec_shape r s; rw [h]
@[simp] theorem writeRec_seam (r : ErrRec) (s : State) : (writeRec r s).seam = s.seam := by
  obtain ⟨_, _, _, h⟩ := writeRec_shape r s; rw [h]
@[simp] theorem writeRec_fence (r : ErrRec) (s : State) : (writeRec r s).fence = s.fence := by
  obtain ⟨_, _, _, h⟩ := writeRec_shape r s; rw [h]
@[simp] theorem writeRec_patina (r : ErrRec) (s : State) : (writeRec r s).patina = s.patina := by
  obtain ⟨_, _, _, h⟩ := writeRec_shape r s; rw [h]
@[simp] theorem writeRec_mem (r : ErrRec) (s : State) : (writeRec r s).mem = s.mem := by
  obtain ⟨_, _, _, h⟩ := writeRec_shape r s; rw [h]
@[simp] theorem writeRec_memErr (r : ErrRec) (s : State) : (writeRec r s).memErr = s.memErr := by
  obtain ⟨_, _, _, h⟩ := writeRec_shape r s; rw [h]
@[simp] theorem writeRec_poison (r : ErrRec) (s : State) : (writeRec r s).poison = s.poison := by
  obtain ⟨_, _, _, h⟩ := writeRec_shape r s; rw [h]
@[simp] theorem writeRec_devs (r : ErrRec) (s : State) : (writeRec r s).devs = s.devs := by
  obtain ⟨_, _, _, h⟩ := writeRec_shape r s; rw [h]
@[simp] theorem writeRec_plinths (r : ErrRec) (s : State) : (writeRec r s).plinths = s.plinths := by
  obtain ⟨_, _, _, h⟩ := writeRec_shape r s; rw [h]
@[simp] theorem writeRec_regions (r : ErrRec) (s : State) : (writeRec r s).regions = s.regions := by
  obtain ⟨_, _, _, h⟩ := writeRec_shape r s; rw [h]
@[simp] theorem writeRec_links (r : ErrRec) (s : State) : (writeRec r s).links = s.links := by
  obtain ⟨_, _, _, h⟩ := writeRec_shape r s; rw [h]
@[simp] theorem writeRec_lasers (r : ErrRec) (s : State) : (writeRec r s).lasers = s.lasers := by
  obtain ⟨_, _, _, h⟩ := writeRec_shape r s; rw [h]
@[simp] theorem writeRec_fab (r : ErrRec) (s : State) : (writeRec r s).fab = s.fab := by
  obtain ⟨_, _, _, h⟩ := writeRec_shape r s; rw [h]
@[simp] theorem writeRec_chans (r : ErrRec) (s : State) : (writeRec r s).chans = s.chans := by
  obtain ⟨_, _, _, h⟩ := writeRec_shape r s; rw [h]
@[simp] theorem writeRec_redMcastTo (r : ErrRec) (s : State) : (writeRec r s).redMcastTo = s.redMcastTo := by
  obtain ⟨_, _, _, h⟩ := writeRec_shape r s; rw [h]
@[simp] theorem writeRec_castSeen (r : ErrRec) (s : State) : (writeRec r s).castSeen = s.castSeen := by
  obtain ⟨_, _, _, h⟩ := writeRec_shape r s; rw [h]
@[simp] theorem writeRec_passQ (r : ErrRec) (s : State) : (writeRec r s).passQ = s.passQ := by
  obtain ⟨_, _, _, h⟩ := writeRec_shape r s; rw [h]

@[simp] theorem logDeferred_pending (code : Nat) (unit part : Option Nat) (ctx : List (Nat × Nat)) (s : State) : (logDeferred code unit part ctx s).pending = s.pending := by
  obtain ⟨_, _, _, h⟩ := logDeferred_shape code unit part ctx s; rw [h]
@[simp] theorem logDeferred_free (code : Nat) (unit part : Option Nat) (ctx : List (Nat × Nat)) (s : State) : (logDeferred code unit part ctx s).free = s.free := by
  obtain ⟨_, _, _, h⟩ := logDeferred_shape code unit part ctx s; rw [h]
@[simp] theorem logDeferred_ident (code : Nat) (unit part : Option Nat) (ctx : List (Nat × Nat)) (s : State) : (logDeferred code unit part ctx s).ident = s.ident := by
  obtain ⟨_, _, _, h⟩ := logDeferred_shape code unit part ctx s; rw [h]
@[simp] theorem logDeferred_clk (code : Nat) (unit part : Option Nat) (ctx : List (Nat × Nat)) (s : State) : (logDeferred code unit part ctx s).clk = s.clk := by
  obtain ⟨_, _, _, h⟩ := logDeferred_shape code unit part ctx s; rw [h]
@[simp] theorem logDeferred_rings (code : Nat) (unit part : Option Nat) (ctx : List (Nat × Nat)) (s : State) : (logDeferred code unit part ctx s).rings = s.rings := by
  obtain ⟨_, _, _, h⟩ := logDeferred_shape code unit part ctx s; rw [h]
@[simp] theorem logDeferred_mgmt (code : Nat) (unit part : Option Nat) (ctx : List (Nat × Nat)) (s : State) : (logDeferred code unit part ctx s).mgmt = s.mgmt := by
  obtain ⟨_, _, _, h⟩ := logDeferred_shape code unit part ctx s; rw [h]
@[simp] theorem logDeferred_flights (code : Nat) (unit part : Option Nat) (ctx : List (Nat × Nat)) (s : State) : (logDeferred code unit part ctx s).flights = s.flights := by
  obtain ⟨_, _, _, h⟩ := logDeferred_shape code unit part ctx s; rw [h]
@[simp] theorem logDeferred_mbox (code : Nat) (unit part : Option Nat) (ctx : List (Nat × Nat)) (s : State) : (logDeferred code unit part ctx s).mbox = s.mbox := by
  obtain ⟨_, _, _, h⟩ := logDeferred_shape code unit part ctx s; rw [h]
@[simp] theorem logDeferred_pcie (code : Nat) (unit part : Option Nat) (ctx : List (Nat × Nat)) (s : State) : (logDeferred code unit part ctx s).pcie = s.pcie := by
  obtain ⟨_, _, _, h⟩ := logDeferred_shape code unit part ctx s; rw [h]
@[simp] theorem logDeferred_app (code : Nat) (unit part : Option Nat) (ctx : List (Nat × Nat)) (s : State) : (logDeferred code unit part ctx s).app = s.app := by
  obtain ⟨_, _, _, h⟩ := logDeferred_shape code unit part ctx s; rw [h]
@[simp] theorem logDeferred_pwr (code : Nat) (unit part : Option Nat) (ctx : List (Nat × Nat)) (s : State) : (logDeferred code unit part ctx s).pwr = s.pwr := by
  obtain ⟨_, _, _, h⟩ := logDeferred_shape code unit part ctx s; rw [h]
@[simp] theorem logDeferred_flash (code : Nat) (unit part : Option Nat) (ctx : List (Nat × Nat)) (s : State) : (logDeferred code unit part ctx s).flash = s.flash := by
  obtain ⟨_, _, _, h⟩ := logDeferred_shape code unit part ctx s; rw [h]
@[simp] theorem logDeferred_sec (code : Nat) (unit part : Option Nat) (ctx : List (Nat × Nat)) (s : State) : (logDeferred code unit part ctx s).sec = s.sec := by
  obtain ⟨_, _, _, h⟩ := logDeferred_shape code unit part ctx s; rw [h]
@[simp] theorem logDeferred_board (code : Nat) (unit part : Option Nat) (ctx : List (Nat × Nat)) (s : State) : (logDeferred code unit part ctx s).board = s.board := by
  obtain ⟨_, _, _, h⟩ := logDeferred_shape code unit part ctx s; rw [h]
@[simp] theorem logDeferred_partMap (code : Nat) (unit part : Option Nat) (ctx : List (Nat × Nat)) (s : State) : (logDeferred code unit part ctx s).partMap = s.partMap := by
  obtain ⟨_, _, _, h⟩ := logDeferred_shape code unit part ctx s; rw [h]
@[simp] theorem logDeferred_parts (code : Nat) (unit part : Option Nat) (ctx : List (Nat × Nat)) (s : State) : (logDeferred code unit part ctx s).parts = s.parts := by
  obtain ⟨_, _, _, h⟩ := logDeferred_shape code unit part ctx s; rw [h]
@[simp] theorem logDeferred_wdog (code : Nat) (unit part : Option Nat) (ctx : List (Nat × Nat)) (s : State) : (logDeferred code unit part ctx s).wdog = s.wdog := by
  obtain ⟨_, _, _, h⟩ := logDeferred_shape code unit part ctx s; rw [h]
@[simp] theorem logDeferred_bands (code : Nat) (unit part : Option Nat) (ctx : List (Nat × Nat)) (s : State) : (logDeferred code unit part ctx s).bands = s.bands := by
  obtain ⟨_, _, _, h⟩ := logDeferred_shape code unit part ctx s; rw [h]
@[simp] theorem logDeferred_cells (code : Nat) (unit part : Option Nat) (ctx : List (Nat × Nat)) (s : State) : (logDeferred code unit part ctx s).cells = s.cells := by
  obtain ⟨_, _, _, h⟩ := logDeferred_shape code unit part ctx s; rw [h]
@[simp] theorem logDeferred_seam (code : Nat) (unit part : Option Nat) (ctx : List (Nat × Nat)) (s : State) : (logDeferred code unit part ctx s).seam = s.seam := by
  obtain ⟨_, _, _, h⟩ := logDeferred_shape code unit part ctx s; rw [h]
@[simp] theorem logDeferred_fence (code : Nat) (unit part : Option Nat) (ctx : List (Nat × Nat)) (s : State) : (logDeferred code unit part ctx s).fence = s.fence := by
  obtain ⟨_, _, _, h⟩ := logDeferred_shape code unit part ctx s; rw [h]
@[simp] theorem logDeferred_patina (code : Nat) (unit part : Option Nat) (ctx : List (Nat × Nat)) (s : State) : (logDeferred code unit part ctx s).patina = s.patina := by
  obtain ⟨_, _, _, h⟩ := logDeferred_shape code unit part ctx s; rw [h]
@[simp] theorem logDeferred_mem (code : Nat) (unit part : Option Nat) (ctx : List (Nat × Nat)) (s : State) : (logDeferred code unit part ctx s).mem = s.mem := by
  obtain ⟨_, _, _, h⟩ := logDeferred_shape code unit part ctx s; rw [h]
@[simp] theorem logDeferred_memErr (code : Nat) (unit part : Option Nat) (ctx : List (Nat × Nat)) (s : State) : (logDeferred code unit part ctx s).memErr = s.memErr := by
  obtain ⟨_, _, _, h⟩ := logDeferred_shape code unit part ctx s; rw [h]
@[simp] theorem logDeferred_poison (code : Nat) (unit part : Option Nat) (ctx : List (Nat × Nat)) (s : State) : (logDeferred code unit part ctx s).poison = s.poison := by
  obtain ⟨_, _, _, h⟩ := logDeferred_shape code unit part ctx s; rw [h]
@[simp] theorem logDeferred_devs (code : Nat) (unit part : Option Nat) (ctx : List (Nat × Nat)) (s : State) : (logDeferred code unit part ctx s).devs = s.devs := by
  obtain ⟨_, _, _, h⟩ := logDeferred_shape code unit part ctx s; rw [h]
@[simp] theorem logDeferred_plinths (code : Nat) (unit part : Option Nat) (ctx : List (Nat × Nat)) (s : State) : (logDeferred code unit part ctx s).plinths = s.plinths := by
  obtain ⟨_, _, _, h⟩ := logDeferred_shape code unit part ctx s; rw [h]
@[simp] theorem logDeferred_regions (code : Nat) (unit part : Option Nat) (ctx : List (Nat × Nat)) (s : State) : (logDeferred code unit part ctx s).regions = s.regions := by
  obtain ⟨_, _, _, h⟩ := logDeferred_shape code unit part ctx s; rw [h]
@[simp] theorem logDeferred_links (code : Nat) (unit part : Option Nat) (ctx : List (Nat × Nat)) (s : State) : (logDeferred code unit part ctx s).links = s.links := by
  obtain ⟨_, _, _, h⟩ := logDeferred_shape code unit part ctx s; rw [h]
@[simp] theorem logDeferred_lasers (code : Nat) (unit part : Option Nat) (ctx : List (Nat × Nat)) (s : State) : (logDeferred code unit part ctx s).lasers = s.lasers := by
  obtain ⟨_, _, _, h⟩ := logDeferred_shape code unit part ctx s; rw [h]
@[simp] theorem logDeferred_fab (code : Nat) (unit part : Option Nat) (ctx : List (Nat × Nat)) (s : State) : (logDeferred code unit part ctx s).fab = s.fab := by
  obtain ⟨_, _, _, h⟩ := logDeferred_shape code unit part ctx s; rw [h]
@[simp] theorem logDeferred_chans (code : Nat) (unit part : Option Nat) (ctx : List (Nat × Nat)) (s : State) : (logDeferred code unit part ctx s).chans = s.chans := by
  obtain ⟨_, _, _, h⟩ := logDeferred_shape code unit part ctx s; rw [h]
@[simp] theorem logDeferred_redMcastTo (code : Nat) (unit part : Option Nat) (ctx : List (Nat × Nat)) (s : State) : (logDeferred code unit part ctx s).redMcastTo = s.redMcastTo := by
  obtain ⟨_, _, _, h⟩ := logDeferred_shape code unit part ctx s; rw [h]
@[simp] theorem logDeferred_castSeen (code : Nat) (unit part : Option Nat) (ctx : List (Nat × Nat)) (s : State) : (logDeferred code unit part ctx s).castSeen = s.castSeen := by
  obtain ⟨_, _, _, h⟩ := logDeferred_shape code unit part ctx s; rw [h]
@[simp] theorem logDeferred_passQ (code : Nat) (unit part : Option Nat) (ctx : List (Nat × Nat)) (s : State) : (logDeferred code unit part ctx s).passQ = s.passQ := by
  obtain ⟨_, _, _, h⟩ := logDeferred_shape code unit part ctx s; rw [h]

@[simp] theorem jobFatal_pending (p code : Nat) (unit : Option Nat) (ctx : List (Nat × Nat)) (cause : CastCause) (wd : Option Nat) (s : State) : (jobFatal p code unit ctx cause wd s).pending = s.pending := by
  obtain ⟨_, _, _, _, h⟩ := jobFatal_shape p code unit ctx cause wd s; rw [h]
@[simp] theorem jobFatal_free (p code : Nat) (unit : Option Nat) (ctx : List (Nat × Nat)) (cause : CastCause) (wd : Option Nat) (s : State) : (jobFatal p code unit ctx cause wd s).free = s.free := by
  obtain ⟨_, _, _, _, h⟩ := jobFatal_shape p code unit ctx cause wd s; rw [h]
@[simp] theorem jobFatal_ident (p code : Nat) (unit : Option Nat) (ctx : List (Nat × Nat)) (cause : CastCause) (wd : Option Nat) (s : State) : (jobFatal p code unit ctx cause wd s).ident = s.ident := by
  obtain ⟨_, _, _, _, h⟩ := jobFatal_shape p code unit ctx cause wd s; rw [h]
@[simp] theorem jobFatal_clk (p code : Nat) (unit : Option Nat) (ctx : List (Nat × Nat)) (cause : CastCause) (wd : Option Nat) (s : State) : (jobFatal p code unit ctx cause wd s).clk = s.clk := by
  obtain ⟨_, _, _, _, h⟩ := jobFatal_shape p code unit ctx cause wd s; rw [h]
@[simp] theorem jobFatal_rings (p code : Nat) (unit : Option Nat) (ctx : List (Nat × Nat)) (cause : CastCause) (wd : Option Nat) (s : State) : (jobFatal p code unit ctx cause wd s).rings = s.rings := by
  obtain ⟨_, _, _, _, h⟩ := jobFatal_shape p code unit ctx cause wd s; rw [h]
@[simp] theorem jobFatal_mgmt (p code : Nat) (unit : Option Nat) (ctx : List (Nat × Nat)) (cause : CastCause) (wd : Option Nat) (s : State) : (jobFatal p code unit ctx cause wd s).mgmt = s.mgmt := by
  obtain ⟨_, _, _, _, h⟩ := jobFatal_shape p code unit ctx cause wd s; rw [h]
@[simp] theorem jobFatal_flights (p code : Nat) (unit : Option Nat) (ctx : List (Nat × Nat)) (cause : CastCause) (wd : Option Nat) (s : State) : (jobFatal p code unit ctx cause wd s).flights = s.flights := by
  obtain ⟨_, _, _, _, h⟩ := jobFatal_shape p code unit ctx cause wd s; rw [h]
@[simp] theorem jobFatal_mbox (p code : Nat) (unit : Option Nat) (ctx : List (Nat × Nat)) (cause : CastCause) (wd : Option Nat) (s : State) : (jobFatal p code unit ctx cause wd s).mbox = s.mbox := by
  obtain ⟨_, _, _, _, h⟩ := jobFatal_shape p code unit ctx cause wd s; rw [h]
@[simp] theorem jobFatal_pcie (p code : Nat) (unit : Option Nat) (ctx : List (Nat × Nat)) (cause : CastCause) (wd : Option Nat) (s : State) : (jobFatal p code unit ctx cause wd s).pcie = s.pcie := by
  obtain ⟨_, _, _, _, h⟩ := jobFatal_shape p code unit ctx cause wd s; rw [h]
@[simp] theorem jobFatal_app (p code : Nat) (unit : Option Nat) (ctx : List (Nat × Nat)) (cause : CastCause) (wd : Option Nat) (s : State) : (jobFatal p code unit ctx cause wd s).app = s.app := by
  obtain ⟨_, _, _, _, h⟩ := jobFatal_shape p code unit ctx cause wd s; rw [h]
@[simp] theorem jobFatal_pwr (p code : Nat) (unit : Option Nat) (ctx : List (Nat × Nat)) (cause : CastCause) (wd : Option Nat) (s : State) : (jobFatal p code unit ctx cause wd s).pwr = s.pwr := by
  obtain ⟨_, _, _, _, h⟩ := jobFatal_shape p code unit ctx cause wd s; rw [h]
@[simp] theorem jobFatal_flash (p code : Nat) (unit : Option Nat) (ctx : List (Nat × Nat)) (cause : CastCause) (wd : Option Nat) (s : State) : (jobFatal p code unit ctx cause wd s).flash = s.flash := by
  obtain ⟨_, _, _, _, h⟩ := jobFatal_shape p code unit ctx cause wd s; rw [h]
@[simp] theorem jobFatal_sec (p code : Nat) (unit : Option Nat) (ctx : List (Nat × Nat)) (cause : CastCause) (wd : Option Nat) (s : State) : (jobFatal p code unit ctx cause wd s).sec = s.sec := by
  obtain ⟨_, _, _, _, h⟩ := jobFatal_shape p code unit ctx cause wd s; rw [h]
@[simp] theorem jobFatal_board (p code : Nat) (unit : Option Nat) (ctx : List (Nat × Nat)) (cause : CastCause) (wd : Option Nat) (s : State) : (jobFatal p code unit ctx cause wd s).board = s.board := by
  obtain ⟨_, _, _, _, h⟩ := jobFatal_shape p code unit ctx cause wd s; rw [h]
@[simp] theorem jobFatal_partMap (p code : Nat) (unit : Option Nat) (ctx : List (Nat × Nat)) (cause : CastCause) (wd : Option Nat) (s : State) : (jobFatal p code unit ctx cause wd s).partMap = s.partMap := by
  obtain ⟨_, _, _, _, h⟩ := jobFatal_shape p code unit ctx cause wd s; rw [h]
@[simp] theorem jobFatal_wdog (p code : Nat) (unit : Option Nat) (ctx : List (Nat × Nat)) (cause : CastCause) (wd : Option Nat) (s : State) : (jobFatal p code unit ctx cause wd s).wdog = s.wdog := by
  obtain ⟨_, _, _, _, h⟩ := jobFatal_shape p code unit ctx cause wd s; rw [h]
@[simp] theorem jobFatal_bands (p code : Nat) (unit : Option Nat) (ctx : List (Nat × Nat)) (cause : CastCause) (wd : Option Nat) (s : State) : (jobFatal p code unit ctx cause wd s).bands = s.bands := by
  obtain ⟨_, _, _, _, h⟩ := jobFatal_shape p code unit ctx cause wd s; rw [h]
@[simp] theorem jobFatal_cells (p code : Nat) (unit : Option Nat) (ctx : List (Nat × Nat)) (cause : CastCause) (wd : Option Nat) (s : State) : (jobFatal p code unit ctx cause wd s).cells = s.cells := by
  obtain ⟨_, _, _, _, h⟩ := jobFatal_shape p code unit ctx cause wd s; rw [h]
@[simp] theorem jobFatal_seam (p code : Nat) (unit : Option Nat) (ctx : List (Nat × Nat)) (cause : CastCause) (wd : Option Nat) (s : State) : (jobFatal p code unit ctx cause wd s).seam = s.seam := by
  obtain ⟨_, _, _, _, h⟩ := jobFatal_shape p code unit ctx cause wd s; rw [h]
@[simp] theorem jobFatal_fence (p code : Nat) (unit : Option Nat) (ctx : List (Nat × Nat)) (cause : CastCause) (wd : Option Nat) (s : State) : (jobFatal p code unit ctx cause wd s).fence = s.fence := by
  obtain ⟨_, _, _, _, h⟩ := jobFatal_shape p code unit ctx cause wd s; rw [h]
@[simp] theorem jobFatal_patina (p code : Nat) (unit : Option Nat) (ctx : List (Nat × Nat)) (cause : CastCause) (wd : Option Nat) (s : State) : (jobFatal p code unit ctx cause wd s).patina = s.patina := by
  obtain ⟨_, _, _, _, h⟩ := jobFatal_shape p code unit ctx cause wd s; rw [h]
@[simp] theorem jobFatal_mem (p code : Nat) (unit : Option Nat) (ctx : List (Nat × Nat)) (cause : CastCause) (wd : Option Nat) (s : State) : (jobFatal p code unit ctx cause wd s).mem = s.mem := by
  obtain ⟨_, _, _, _, h⟩ := jobFatal_shape p code unit ctx cause wd s; rw [h]
@[simp] theorem jobFatal_memErr (p code : Nat) (unit : Option Nat) (ctx : List (Nat × Nat)) (cause : CastCause) (wd : Option Nat) (s : State) : (jobFatal p code unit ctx cause wd s).memErr = s.memErr := by
  obtain ⟨_, _, _, _, h⟩ := jobFatal_shape p code unit ctx cause wd s; rw [h]
@[simp] theorem jobFatal_poison (p code : Nat) (unit : Option Nat) (ctx : List (Nat × Nat)) (cause : CastCause) (wd : Option Nat) (s : State) : (jobFatal p code unit ctx cause wd s).poison = s.poison := by
  obtain ⟨_, _, _, _, h⟩ := jobFatal_shape p code unit ctx cause wd s; rw [h]
@[simp] theorem jobFatal_devs (p code : Nat) (unit : Option Nat) (ctx : List (Nat × Nat)) (cause : CastCause) (wd : Option Nat) (s : State) : (jobFatal p code unit ctx cause wd s).devs = s.devs := by
  obtain ⟨_, _, _, _, h⟩ := jobFatal_shape p code unit ctx cause wd s; rw [h]
@[simp] theorem jobFatal_plinths (p code : Nat) (unit : Option Nat) (ctx : List (Nat × Nat)) (cause : CastCause) (wd : Option Nat) (s : State) : (jobFatal p code unit ctx cause wd s).plinths = s.plinths := by
  obtain ⟨_, _, _, _, h⟩ := jobFatal_shape p code unit ctx cause wd s; rw [h]
@[simp] theorem jobFatal_regions (p code : Nat) (unit : Option Nat) (ctx : List (Nat × Nat)) (cause : CastCause) (wd : Option Nat) (s : State) : (jobFatal p code unit ctx cause wd s).regions = s.regions := by
  obtain ⟨_, _, _, _, h⟩ := jobFatal_shape p code unit ctx cause wd s; rw [h]
@[simp] theorem jobFatal_links (p code : Nat) (unit : Option Nat) (ctx : List (Nat × Nat)) (cause : CastCause) (wd : Option Nat) (s : State) : (jobFatal p code unit ctx cause wd s).links = s.links := by
  obtain ⟨_, _, _, _, h⟩ := jobFatal_shape p code unit ctx cause wd s; rw [h]
@[simp] theorem jobFatal_lasers (p code : Nat) (unit : Option Nat) (ctx : List (Nat × Nat)) (cause : CastCause) (wd : Option Nat) (s : State) : (jobFatal p code unit ctx cause wd s).lasers = s.lasers := by
  obtain ⟨_, _, _, _, h⟩ := jobFatal_shape p code unit ctx cause wd s; rw [h]
@[simp] theorem jobFatal_fab (p code : Nat) (unit : Option Nat) (ctx : List (Nat × Nat)) (cause : CastCause) (wd : Option Nat) (s : State) : (jobFatal p code unit ctx cause wd s).fab = s.fab := by
  obtain ⟨_, _, _, _, h⟩ := jobFatal_shape p code unit ctx cause wd s; rw [h]
@[simp] theorem jobFatal_chans (p code : Nat) (unit : Option Nat) (ctx : List (Nat × Nat)) (cause : CastCause) (wd : Option Nat) (s : State) : (jobFatal p code unit ctx cause wd s).chans = s.chans := by
  obtain ⟨_, _, _, _, h⟩ := jobFatal_shape p code unit ctx cause wd s; rw [h]
@[simp] theorem jobFatal_redMcastTo (p code : Nat) (unit : Option Nat) (ctx : List (Nat × Nat)) (cause : CastCause) (wd : Option Nat) (s : State) : (jobFatal p code unit ctx cause wd s).redMcastTo = s.redMcastTo := by
  obtain ⟨_, _, _, _, h⟩ := jobFatal_shape p code unit ctx cause wd s; rw [h]
@[simp] theorem jobFatal_castSeen (p code : Nat) (unit : Option Nat) (ctx : List (Nat × Nat)) (cause : CastCause) (wd : Option Nat) (s : State) : (jobFatal p code unit ctx cause wd s).castSeen = s.castSeen := by
  obtain ⟨_, _, _, _, h⟩ := jobFatal_shape p code unit ctx cause wd s; rw [h]
@[simp] theorem jobFatal_passQ (p code : Nat) (unit : Option Nat) (ctx : List (Nat × Nat)) (cause : CastCause) (wd : Option Nat) (s : State) : (jobFatal p code unit ctx cause wd s).passQ = s.passQ := by
  obtain ⟨_, _, _, _, h⟩ := jobFatal_shape p code unit ctx cause wd s; rw [h]

@[simp] theorem finish_pending (r : CmdRef) (st : Status) (v rec : Nat) (s : State) : (finish r st v rec s).pending = s.pending := by
  obtain ⟨_, _, _, _, _, _, _, _, _, _, _, _, h, -⟩ := finish_completes r st v rec s; rw [h]
@[simp] theorem finish_free (r : CmdRef) (st : Status) (v rec : Nat) (s : State) : (finish r st v rec s).free = s.free := by
  obtain ⟨_, _, _, _, _, _, _, _, _, _, _, _, h, -⟩ := finish_completes r st v rec s; rw [h]
@[simp] theorem finish_ident (r : CmdRef) (st : Status) (v rec : Nat) (s : State) : (finish r st v rec s).ident = s.ident := by
  obtain ⟨_, _, _, _, _, _, _, _, _, _, _, _, h, -⟩ := finish_completes r st v rec s; rw [h]
@[simp] theorem finish_clk (r : CmdRef) (st : Status) (v rec : Nat) (s : State) : (finish r st v rec s).clk = s.clk := by
  obtain ⟨_, _, _, _, _, _, _, _, _, _, _, _, h, -⟩ := finish_completes r st v rec s; rw [h]
@[simp] theorem finish_mbox (r : CmdRef) (st : Status) (v rec : Nat) (s : State) : (finish r st v rec s).mbox = s.mbox := by
  obtain ⟨_, _, _, _, _, _, _, _, _, _, _, _, h, -⟩ := finish_completes r st v rec s; rw [h]
@[simp] theorem finish_d3hot (r : CmdRef) (st : Status) (v rec : Nat) (s : State) : (finish r st v rec s).pcie.d3hot = s.pcie.d3hot := by
  obtain ⟨_, _, _, _, _, _, _, _, _, _, _, _, h, -⟩ := finish_completes r st v rec s; rw [h]
@[simp] theorem finish_app (r : CmdRef) (st : Status) (v rec : Nat) (s : State) : (finish r st v rec s).app = s.app := by
  obtain ⟨_, _, _, _, _, _, _, _, _, _, _, _, h, -⟩ := finish_completes r st v rec s; rw [h]
@[simp] theorem finish_pwr (r : CmdRef) (st : Status) (v rec : Nat) (s : State) : (finish r st v rec s).pwr = s.pwr := by
  obtain ⟨_, _, _, _, _, _, _, _, _, _, _, _, h, -⟩ := finish_completes r st v rec s; rw [h]
@[simp] theorem finish_flash (r : CmdRef) (st : Status) (v rec : Nat) (s : State) : (finish r st v rec s).flash = s.flash := by
  obtain ⟨_, _, _, _, _, _, _, _, _, _, _, _, h, -⟩ := finish_completes r st v rec s; rw [h]
@[simp] theorem finish_sec (r : CmdRef) (st : Status) (v rec : Nat) (s : State) : (finish r st v rec s).sec = s.sec := by
  obtain ⟨_, _, _, _, _, _, _, _, _, _, _, _, h, -⟩ := finish_completes r st v rec s; rw [h]
@[simp] theorem finish_board (r : CmdRef) (st : Status) (v rec : Nat) (s : State) : (finish r st v rec s).board = s.board := by
  obtain ⟨_, _, _, _, _, _, _, _, _, _, _, _, h, -⟩ := finish_completes r st v rec s; rw [h]
@[simp] theorem finish_partMap (r : CmdRef) (st : Status) (v rec : Nat) (s : State) : (finish r st v rec s).partMap = s.partMap := by
  obtain ⟨_, _, _, _, _, _, _, _, _, _, _, _, h, -⟩ := finish_completes r st v rec s; rw [h]
@[simp] theorem finish_parts (r : CmdRef) (st : Status) (v rec : Nat) (s : State) : (finish r st v rec s).parts = s.parts := by
  obtain ⟨_, _, _, _, _, _, _, _, _, _, _, _, h, -⟩ := finish_completes r st v rec s; rw [h]
@[simp] theorem finish_wdog (r : CmdRef) (st : Status) (v rec : Nat) (s : State) : (finish r st v rec s).wdog = s.wdog := by
  obtain ⟨_, _, _, _, _, _, _, _, _, _, _, _, h, -⟩ := finish_completes r st v rec s; rw [h]
@[simp] theorem finish_bands (r : CmdRef) (st : Status) (v rec : Nat) (s : State) : (finish r st v rec s).bands = s.bands := by
  obtain ⟨_, _, _, _, _, _, _, _, _, _, _, _, h, -⟩ := finish_completes r st v rec s; rw [h]
@[simp] theorem finish_cells (r : CmdRef) (st : Status) (v rec : Nat) (s : State) : (finish r st v rec s).cells = s.cells := by
  obtain ⟨_, _, _, _, _, _, _, _, _, _, _, _, h, -⟩ := finish_completes r st v rec s; rw [h]
@[simp] theorem finish_seam (r : CmdRef) (st : Status) (v rec : Nat) (s : State) : (finish r st v rec s).seam = s.seam := by
  obtain ⟨_, _, _, _, _, _, _, _, _, _, _, _, h, -⟩ := finish_completes r st v rec s; rw [h]
@[simp] theorem finish_fence (r : CmdRef) (st : Status) (v rec : Nat) (s : State) : (finish r st v rec s).fence = s.fence := by
  obtain ⟨_, _, _, _, _, _, _, _, _, _, _, _, h, -⟩ := finish_completes r st v rec s; rw [h]
@[simp] theorem finish_plinths (r : CmdRef) (st : Status) (v rec : Nat) (s : State) : (finish r st v rec s).plinths = s.plinths := by
  obtain ⟨_, _, _, _, _, _, _, _, _, _, _, _, h, -⟩ := finish_completes r st v rec s; rw [h]
@[simp] theorem finish_regions (r : CmdRef) (st : Status) (v rec : Nat) (s : State) : (finish r st v rec s).regions = s.regions := by
  obtain ⟨_, _, _, _, _, _, _, _, _, _, _, _, h, -⟩ := finish_completes r st v rec s; rw [h]
@[simp] theorem finish_links (r : CmdRef) (st : Status) (v rec : Nat) (s : State) : (finish r st v rec s).links = s.links := by
  obtain ⟨_, _, _, _, _, _, _, _, _, _, _, _, h, -⟩ := finish_completes r st v rec s; rw [h]
@[simp] theorem finish_lasers (r : CmdRef) (st : Status) (v rec : Nat) (s : State) : (finish r st v rec s).lasers = s.lasers := by
  obtain ⟨_, _, _, _, _, _, _, _, _, _, _, _, h, -⟩ := finish_completes r st v rec s; rw [h]
@[simp] theorem finish_fab (r : CmdRef) (st : Status) (v rec : Nat) (s : State) : (finish r st v rec s).fab = s.fab := by
  obtain ⟨_, _, _, _, _, _, _, _, _, _, _, _, h, -⟩ := finish_completes r st v rec s; rw [h]
@[simp] theorem finish_chans (r : CmdRef) (st : Status) (v rec : Nat) (s : State) : (finish r st v rec s).chans = s.chans := by
  obtain ⟨_, _, _, _, _, _, _, _, _, _, _, _, h, -⟩ := finish_completes r st v rec s; rw [h]
@[simp] theorem finish_redMcastTo (r : CmdRef) (st : Status) (v rec : Nat) (s : State) : (finish r st v rec s).redMcastTo = s.redMcastTo := by
  obtain ⟨_, _, _, _, _, _, _, _, _, _, _, _, h, -⟩ := finish_completes r st v rec s; rw [h]
@[simp] theorem finish_castSeen (r : CmdRef) (st : Status) (v rec : Nat) (s : State) : (finish r st v rec s).castSeen = s.castSeen := by
  obtain ⟨_, _, _, _, _, _, _, _, _, _, _, _, h, -⟩ := finish_completes r st v rec s; rw [h]
@[simp] theorem finish_passQ (r : CmdRef) (st : Status) (v rec : Nat) (s : State) : (finish r st v rec s).passQ = s.passQ := by
  obtain ⟨_, _, _, _, _, _, _, _, _, _, _, _, h, -⟩ := finish_completes r st v rec s; rw [h]

@[simp] theorem finishErr_pending (r : CmdRef) (st : Status) (k o d : Nat) (s : State) : (finishErr r st k o d s).pending = s.pending := by
  obtain ⟨_, _, _, _, _, _, _, _, _, _, _, _, h, -⟩ := finishErr_completes r st k o d s; rw [h]
@[simp] theorem finishErr_free (r : CmdRef) (st : Status) (k o d : Nat) (s : State) : (finishErr r st k o d s).free = s.free := by
  obtain ⟨_, _, _, _, _, _, _, _, _, _, _, _, h, -⟩ := finishErr_completes r st k o d s; rw [h]
@[simp] theorem finishErr_ident (r : CmdRef) (st : Status) (k o d : Nat) (s : State) : (finishErr r st k o d s).ident = s.ident := by
  obtain ⟨_, _, _, _, _, _, _, _, _, _, _, _, h, -⟩ := finishErr_completes r st k o d s; rw [h]
@[simp] theorem finishErr_clk (r : CmdRef) (st : Status) (k o d : Nat) (s : State) : (finishErr r st k o d s).clk = s.clk := by
  obtain ⟨_, _, _, _, _, _, _, _, _, _, _, _, h, -⟩ := finishErr_completes r st k o d s; rw [h]
@[simp] theorem finishErr_mbox (r : CmdRef) (st : Status) (k o d : Nat) (s : State) : (finishErr r st k o d s).mbox = s.mbox := by
  obtain ⟨_, _, _, _, _, _, _, _, _, _, _, _, h, -⟩ := finishErr_completes r st k o d s; rw [h]
@[simp] theorem finishErr_d3hot (r : CmdRef) (st : Status) (k o d : Nat) (s : State) : (finishErr r st k o d s).pcie.d3hot = s.pcie.d3hot := by
  obtain ⟨_, _, _, _, _, _, _, _, _, _, _, _, h, -⟩ := finishErr_completes r st k o d s; rw [h]
@[simp] theorem finishErr_app (r : CmdRef) (st : Status) (k o d : Nat) (s : State) : (finishErr r st k o d s).app = s.app := by
  obtain ⟨_, _, _, _, _, _, _, _, _, _, _, _, h, -⟩ := finishErr_completes r st k o d s; rw [h]
@[simp] theorem finishErr_pwr (r : CmdRef) (st : Status) (k o d : Nat) (s : State) : (finishErr r st k o d s).pwr = s.pwr := by
  obtain ⟨_, _, _, _, _, _, _, _, _, _, _, _, h, -⟩ := finishErr_completes r st k o d s; rw [h]
@[simp] theorem finishErr_flash (r : CmdRef) (st : Status) (k o d : Nat) (s : State) : (finishErr r st k o d s).flash = s.flash := by
  obtain ⟨_, _, _, _, _, _, _, _, _, _, _, _, h, -⟩ := finishErr_completes r st k o d s; rw [h]
@[simp] theorem finishErr_sec (r : CmdRef) (st : Status) (k o d : Nat) (s : State) : (finishErr r st k o d s).sec = s.sec := by
  obtain ⟨_, _, _, _, _, _, _, _, _, _, _, _, h, -⟩ := finishErr_completes r st k o d s; rw [h]
@[simp] theorem finishErr_board (r : CmdRef) (st : Status) (k o d : Nat) (s : State) : (finishErr r st k o d s).board = s.board := by
  obtain ⟨_, _, _, _, _, _, _, _, _, _, _, _, h, -⟩ := finishErr_completes r st k o d s; rw [h]
@[simp] theorem finishErr_partMap (r : CmdRef) (st : Status) (k o d : Nat) (s : State) : (finishErr r st k o d s).partMap = s.partMap := by
  obtain ⟨_, _, _, _, _, _, _, _, _, _, _, _, h, -⟩ := finishErr_completes r st k o d s; rw [h]
@[simp] theorem finishErr_parts (r : CmdRef) (st : Status) (k o d : Nat) (s : State) : (finishErr r st k o d s).parts = s.parts := by
  obtain ⟨_, _, _, _, _, _, _, _, _, _, _, _, h, -⟩ := finishErr_completes r st k o d s; rw [h]
@[simp] theorem finishErr_wdog (r : CmdRef) (st : Status) (k o d : Nat) (s : State) : (finishErr r st k o d s).wdog = s.wdog := by
  obtain ⟨_, _, _, _, _, _, _, _, _, _, _, _, h, -⟩ := finishErr_completes r st k o d s; rw [h]
@[simp] theorem finishErr_bands (r : CmdRef) (st : Status) (k o d : Nat) (s : State) : (finishErr r st k o d s).bands = s.bands := by
  obtain ⟨_, _, _, _, _, _, _, _, _, _, _, _, h, -⟩ := finishErr_completes r st k o d s; rw [h]
@[simp] theorem finishErr_cells (r : CmdRef) (st : Status) (k o d : Nat) (s : State) : (finishErr r st k o d s).cells = s.cells := by
  obtain ⟨_, _, _, _, _, _, _, _, _, _, _, _, h, -⟩ := finishErr_completes r st k o d s; rw [h]
@[simp] theorem finishErr_seam (r : CmdRef) (st : Status) (k o d : Nat) (s : State) : (finishErr r st k o d s).seam = s.seam := by
  obtain ⟨_, _, _, _, _, _, _, _, _, _, _, _, h, -⟩ := finishErr_completes r st k o d s; rw [h]
@[simp] theorem finishErr_fence (r : CmdRef) (st : Status) (k o d : Nat) (s : State) : (finishErr r st k o d s).fence = s.fence := by
  obtain ⟨_, _, _, _, _, _, _, _, _, _, _, _, h, -⟩ := finishErr_completes r st k o d s; rw [h]
@[simp] theorem finishErr_plinths (r : CmdRef) (st : Status) (k o d : Nat) (s : State) : (finishErr r st k o d s).plinths = s.plinths := by
  obtain ⟨_, _, _, _, _, _, _, _, _, _, _, _, h, -⟩ := finishErr_completes r st k o d s; rw [h]
@[simp] theorem finishErr_regions (r : CmdRef) (st : Status) (k o d : Nat) (s : State) : (finishErr r st k o d s).regions = s.regions := by
  obtain ⟨_, _, _, _, _, _, _, _, _, _, _, _, h, -⟩ := finishErr_completes r st k o d s; rw [h]
@[simp] theorem finishErr_links (r : CmdRef) (st : Status) (k o d : Nat) (s : State) : (finishErr r st k o d s).links = s.links := by
  obtain ⟨_, _, _, _, _, _, _, _, _, _, _, _, h, -⟩ := finishErr_completes r st k o d s; rw [h]
@[simp] theorem finishErr_lasers (r : CmdRef) (st : Status) (k o d : Nat) (s : State) : (finishErr r st k o d s).lasers = s.lasers := by
  obtain ⟨_, _, _, _, _, _, _, _, _, _, _, _, h, -⟩ := finishErr_completes r st k o d s; rw [h]
@[simp] theorem finishErr_fab (r : CmdRef) (st : Status) (k o d : Nat) (s : State) : (finishErr r st k o d s).fab = s.fab := by
  obtain ⟨_, _, _, _, _, _, _, _, _, _, _, _, h, -⟩ := finishErr_completes r st k o d s; rw [h]
@[simp] theorem finishErr_chans (r : CmdRef) (st : Status) (k o d : Nat) (s : State) : (finishErr r st k o d s).chans = s.chans := by
  obtain ⟨_, _, _, _, _, _, _, _, _, _, _, _, h, -⟩ := finishErr_completes r st k o d s; rw [h]
@[simp] theorem finishErr_redMcastTo (r : CmdRef) (st : Status) (k o d : Nat) (s : State) : (finishErr r st k o d s).redMcastTo = s.redMcastTo := by
  obtain ⟨_, _, _, _, _, _, _, _, _, _, _, _, h, -⟩ := finishErr_completes r st k o d s; rw [h]
@[simp] theorem finishErr_castSeen (r : CmdRef) (st : Status) (k o d : Nat) (s : State) : (finishErr r st k o d s).castSeen = s.castSeen := by
  obtain ⟨_, _, _, _, _, _, _, _, _, _, _, _, h, -⟩ := finishErr_completes r st k o d s; rw [h]
@[simp] theorem finishErr_passQ (r : CmdRef) (st : Status) (k o d : Nat) (s : State) : (finishErr r st k o d s).passQ = s.passQ := by
  obtain ⟨_, _, _, _, _, _, _, _, _, _, _, _, h, -⟩ := finishErr_completes r st k o d s; rw [h]

/-- Tables read through the interrupts of a change. -/
@[simp] theorem getPart_announce (t s : State) (p : Nat) : getPart (announce t s) p = getPart s p := by simp [getPart]
@[simp] theorem getBand_announce (t s : State) (b : Nat) : getBand (announce t s) b = getBand s b := by simp [getBand]
@[simp] theorem getCell_announce (t s : State) (c : Nat) : getCell (announce t s) c = getCell s c := by simp [getCell]
@[simp] theorem getDev_announce (t s : State) (u : Nat) : getDev (announce t s) u = getDev s u := by simp [getDev]
@[simp] theorem getReg_announce (t s : State) (k : Nat) : getReg (announce t s) k = getReg s k := by simp [getReg]
@[simp] theorem getLink_announce (t s : State) (l : Nat) : getLink (announce t s) l = getLink s l := by simp [getLink]
@[simp] theorem getChan_announce (t s : State) (c : Nat) : getChan (announce t s) c = getChan s c := by simp [getChan]
@[simp] theorem getRing_announce (t s : State) (n : Nat) : getRing (announce t s) n = getRing s n := by simp [getRing]

/-- What went out before the interrupts of a change went out. -/
theorem sent_announce {o : Out} {s t u : State} (h : Sent o s t) : Sent o s (announce u t) := by
  obtain ⟨a, b, e⟩ := h
  obtain ⟨m, o', e'⟩ := announce_shape u t
  exact ⟨o' ++ a, b, by rw [e', e]; simp⟩

theorem replied_announce {r : CmdRef} {st : Status} {v : Nat} {s t u : State} (h : Replied r st v s t) :
    Replied r st v s (announce u t) := by
  obtain ⟨p, hp, h⟩ := h
  exact ⟨p, hp.imp sent_announce (fun x => ⟨x.1, by rw [announce_pcie]; exact x.2⟩), h⟩

end Sys2Proof.Machine
end

