-- ==== Sys2Proof/Laws/Accesses.lean ====
section
/-! SUPPORT. What an event of the island, and an access of a register, come to where nothing stands in their way. -/

namespace Sys2Proof.Machine

/-- An event of a live island takes place (R18, R49). -/
theorem island_live {t b : Nat} {s : State} (h : Live t b s) (f : Nat → Nat → State → State) :
    island t b f s = f (partOf (advanceTo t s) b) (jccAt t b s) (advanceTo t s) := by
  obtain ⟨h1, h2, h3, h4⟩ := h
  simp only [island, h1, h2, h4, beq_self_eq_true, Bool.and_true, Bool.true_and, decide_eq_true_eq, h3, if_true, jccAt]

/-- An operation of a sequencer that runs takes place (R157). -/
theorem sequencer_live {t b : Nat} {s : State} (h : Live t b s) (hs : (getBand (advanceTo t s) b).seqState = 1)
    (f : Nat → Nat → State → State) :
    sequencer t b f s = f (partOf (advanceTo t s) b) (jccAt t b s) (advanceTo t s) := by
  rw [sequencer, island_live h, if_pos hs]

/-- An event of a live cell takes place (R72, R73). -/
theorem cellEvent_live {t b q : Nat} {s : State} (h : CellLive t b q s) (f : Nat → Nat → Nat → State → State) :
    cellEvent t b q f s = f (partOf (advanceTo t s) b) (jccAt t b s) (cellAt t b q s) (advanceTo t s) := by
  obtain ⟨hl, hf, hi⟩ := h
  rw [cellAt] at hf
  rw [cellEvent, island_live hl]
  simp only [hf, hi, Bool.or_self, Bool.false_eq_true, if_false, cellAt]

/-- A request of an agent that has access is served. -/
theorem agentRequest_access {a : Agent} {s : State} (h : CanAccess a s) (q : HostReq) (f : State → State) :
    agentRequest a q f s = f (awake a s) := by
  obtain ⟨h1, h2, -⟩ := h
  cases a with
  | host =>
    have h1 : (endpointUp s && fnReady s) = true := h1
    rw [Bool.and_eq_true] at h1
    simp only [agentRequest, hostRequest, h1.1, h1.2, h2 rfl, Bool.not_true, Bool.or_self, Bool.false_eq_true, if_false, awake]
  | core n =>
    have h1 : coreRuns s n = true := h1
    simp only [agentRequest, h1, if_true, awake]

/-- An aligned write by an agent that has access, of a register that it may write. -/
theorem bar0Write_access {a : Agent} {s : State} (h : CanAccess a s) {off size : Nat} (v : Nat)
    (ho : (size = 4 ∨ size = 8) ∧ off % size = 0) (hc : a = .host ∨ coreMayWrite off = true) :
    bar0Write a off size v s = writeReg a off size v s := by
  have hs : ((size == 4 || size == 8) && off % size == 0) = true := by
    rcases ho with ⟨rfl | rfl, ho⟩ <;> simp [ho]
  unfold bar0Write
  rw [hs, Bool.not_true, if_neg Bool.false_ne_true]
  cases a with
  | host => simp only [h.2.2, Bool.false_eq_true, if_false]
  | core n => rcases hc with hc | hc <;> [cases hc; simp only [hc, if_true]]

/-- An access fault traps the core and is known to it. -/
theorem coreFaults_shape (n cause addr : Nat) (s : State) : ∃ ap, coreFaults n cause addr s =
    { s with app := ap, out := .coreFault n (cause == 7) :: s.out } := ⟨_, rfl⟩

/-- A write that a core may not make is an access fault, which traps the core, and changes no register. -/
theorem bar0Write_denied {n : Fin 32} {off size : Nat} (v : Nat) (s : State) (hc : coreMayWrite off = false) :
    ∃ g m ap, ∃ o, bar0Write (.core n) off size v s =
      { s with log := g, msix := m, app := ap, out := .coreFault n true :: o ++ s.out } := by
  have key : ∀ addr (u : State), (∃ g m o, u = { s with log := g, msix := m, out := o ++ s.out }) →
      ∃ g m ap o, coreFaults n 7 addr u = { s with log := g, msix := m, app := ap, out := .coreFault n true :: o ++ s.out } := by
    rintro addr u ⟨g, m, o, rfl⟩
    obtain ⟨ap, h⟩ := coreFaults_shape n 7 addr { s with log := g, msix := m, out := o ++ s.out }
    exact ⟨g, m, ap, o, by rw [h]; rfl⟩
  unfold bar0Write
  split
  · exact key _ _ (logDeferred_shape _ _ _ _ _)
  · simp only [hc, Bool.false_eq_true, if_false]
    split
    · exact key _ _ (logDeferred_shape _ _ _ _ _)
    · exact key _ _ ⟨_, s.msix, [], rfl⟩

/-- A core's denied write is known to the core. -/
theorem sent_denied {n : Fin 32} {off size : Nat} (v : Nat) (s : State) (hc : coreMayWrite off = false) :
    Sent (.coreFault n true) s (bar0Write (.core n) off size v s) := by
  obtain ⟨_, _, _, o, h⟩ := bar0Write_denied (n := n) (size := size) v s hc
  exact ⟨[], o, by rw [h]; rfl⟩

/-- The message of a vector that nothing holds goes out at once (R286). -/
theorem sent_signal {v : Nat} {s : State} (h : msixHeld s v = false) (hl : (tget {} s.msix.vecs v).last = none) :
    Sent (.msix v) s (signal v s) := by
  have key : ∀ u : State, u.out = s.out → (tget {} u.msix.vecs v).last = none → msixHeld u v = false →
      Sent (.msix v) s (if msixHeld u v then
        { u with msix := { u.msix with vecs := tmod {} u.msix.vecs v (fun x => { x with pendingBit := true }) } }
        else match (tget {} s.msix.vecs v).last with
          | some g => if u.clk.gtc < g + 1000 then
              { u with msix := { u.msix with vecs := tmod {} u.msix.vecs v (fun x => { x with merge := true }) } }
            else sendMsix v u
          | none => sendMsix v u) := by
    intro u ho hu hh
    rw [hh, if_neg Bool.false_ne_true, hl]
    exact ⟨[], [], by rw [← ho]; rfl⟩
  unfold signal
  split
  · exact key _ rfl hl h
  · exact key _ rfl hl h

/-- The register of an event flag (Table 8.6): it stands at its offset. -/
theorem reg32_flag (p : Fin 4) (f : Fin 64) (s : State) : (reg32 s (0x1000 + 0x100 * p + 4 * f)).isSome = true := by
  have hp := p.isLt
  have hf := f.isLt
  generalize ho : 0x1000 + 0x100 * (p : Nat) + 4 * f = off
  have h4 : off % 4 = 0 := by omega
  have ha : inArray off 0x1000 0x100 4 = true := by simp only [inArray, decide_eq_true_eq]; omega
  have h50 : inArray off 0x50 4 4 = false := by simp only [inArray, decide_eq_false_iff_not]; omega
  have h60 : inArray off 0x60 4 4 = false := by simp only [inArray, decide_eq_false_iff_not]; omega
  rw [reg32, if_neg (by omega), if_pos (by omega), globalReg, if_neg (by omega), if_neg (by omega), if_neg (by omega),
    if_neg (by rw [h50]; simp), if_neg (by rw [h60]; simp), if_neg (by omega), if_neg (by omega), if_neg (by omega),
    if_neg (by omega), if_pos ⟨h4, ha⟩]
  rfl

/-- A write of an event flag (R173): refused while its partition runs. -/
theorem write4_flag (p : Fin 4) (f : Fin 64) (v : Nat) (s : State) :
    write4 (0x1000 + 0x100 * p + 4 * f) v s =
      if (getPart s p).st = .running ∨ (getPart s p).st = .paused then .refused
      else
        let u := modPart p (fun q => { q with
          flags := tset {} q.flags f { value := BitVec.ofNat 32 v, setter := some 32, setGtc := s.clk.gtc } }) s
        .done ((bandsOf u p).foldl (satisfyOne f (BitVec.ofNat 32 v)) u) := by
  have e1 : (0x1000 + 0x100 * (p : Nat) + 4 * f - 0x1000) / 0x100 = p := by omega
  have e2 : (0x1000 + 0x100 * (p : Nat) + 4 * f) % 0x100 / 4 = f := by omega
  have h := reg32_flag p f s
  rw [write4, if_pos h, write32, if_neg (by cases hr : reg32 s (0x1000 + 0x100 * (p : Nat) + 4 * f) <;> simp_all),
    if_pos (by omega), writeGlobal]
  rw [if_neg (by omega), if_neg (by simp [inArray]; omega), if_neg (by omega), if_neg (by omega),
    if_pos (by simp [inArray]; omega)]
  simp only [e1, e2]

/-- Flags that satisfy a wait leave the partition as it is. -/
theorem satisfyOne_parts (f : Nat) (v : W32) (s : State) (b : Nat) : (satisfyOne f v s b).parts = s.parts := by
  unfold satisfyOne
  dsimp only
  split <;> rfl

theorem satisfy_parts (f : Nat) (v : W32) (bs : List Nat) (s : State) : (bs.foldl (satisfyOne f v) s).parts = s.parts := by
  induction bs generalizing s with
  | nil => rfl
  | cons b r ih => rw [List.foldl_cons, ih, satisfyOne_parts]

/-- ARR_NUM of a cell (Table 5.7): it stands at its offset, and a write clears the flags whose bits are ones (R113). -/
theorem write4_arrNum (b : Fin 32) (pos : Fin 128) (v : Nat) (s : State) :
    write4 (0x1010008 + 0x80000 * b + 0x10 * pos) v s = .done (modCell (cellOf b pos) (fun c =>
      { c with arrNum := BitVec.ofNat 32 ((c.arrNum.toNat % 2 ^ 16 &&& (0xFFFF - v % 2 ^ 16)) +
        (if bitOf v 0 && bitOf v 1 then 0 else c.arrNum.toNat / 2 ^ 16 * 2 ^ 16)) }) s) := by
  have hb := b.isLt
  have hp := pos.isLt
  generalize ho : 0x1010008 + 0x80000 * (b : Nat) + 0x10 * pos = off
  have e1 : (off - 0x1000000) / 0x80000 = b := by omega
  have e2 : off % 0x80000 = 0x10008 + 0x10 * pos := by omega
  have e3 : (0x10008 + 0x10 * (pos : Nat) - 0x10000) / 0x10 = pos := by
    rw [show 0x10008 + 0x10 * (pos : Nat) - 0x10000 = 8 + 0x10 * pos by omega]; omega
  have e4 : (0x10008 + 0x10 * (pos : Nat)) % 0x10 = 8 := by omega
  generalize hk : 0x10008 + 0x10 * (pos : Nat) = k at e2 e3 e4
  have hr : inArray off 0x400000 0x20 16 = false := by simp only [inArray, decide_eq_false_iff_not]; omega
  have hin : inArray off 0x1000000 0x80000 32 = true := by simp only [inArray, decide_eq_true_eq]; omega
  have hc : inArray k 0x10000 0x10 128 = true := by simp only [inArray, decide_eq_true_eq]; omega
  have hs : ∀ base, base ≤ 0x30 → inArray k base 4 4 = false := by
    intro base h
    simp only [inArray, decide_eq_false_iff_not]
    omega
  have h : (reg32 s off).isSome = true := by
    rw [reg32, if_neg (by omega), if_neg (by omega), if_neg (by omega), if_neg (by omega), hr, if_neg Bool.false_ne_true, hin,
      if_pos rfl, e1, e2, bandReg]
    dsimp only
    rw [if_neg (by omega), if_neg (by omega), hs 0x10 (by omega), hs 0x20 (by omega), hs 0x30 (by omega),
      if_neg (by simp), if_neg (by simp), if_neg (by simp), hc, if_pos ⟨by omega, rfl⟩, e4]
    rfl
  have hn : ¬((reg32 s off).isNone = true) := by
    obtain ⟨w, hw⟩ := Option.isSome_iff_exists.mp h
    simp [hw]
  rw [write4, if_pos h, write32, if_neg hn, if_neg (by omega), if_neg (by omega), if_neg (by omega), hr, if_neg Bool.false_ne_true,
    hin, if_pos rfl, e1, e2, writeBand, hc, e4, if_pos (by rfl), e3]

/-- Writes of ERR_STS, ERR_ACK, GLB_APP_CTL and GLB_AP_BASE (Tables 14.7, 14.8, 19.6). -/
theorem write4_errSts (v : Nat) (s : State) : write4 0x3C00008 v s = .done { s with log := { s.log with
    overflow := s.log.overflow && !bitOf v 1, firstValid := s.log.firstValid && !bitOf v 2
    first := if bitOf v 2 then 0xFFFFFFFF else s.log.first } } := rfl
theorem write4_errAck (v : Nat) (s : State) : write4 0x3C00004 v s = .done { s with log := { s.log with ack := v } } := rfl
theorem write4_appCtl (v : Nat) (s : State) : write4 0x200 v s = .done (resetCores v s) := rfl
theorem write64_apBase (v : Nat) (s : State) : write64 0x100 v s =
    .done { s with pcie := { s.pcie with apBase := v / 2 ^ 30 % 2 ^ 18 } } := rfl

end Sys2Proof.Machine
end

