-- ==== Sys2Proof/Laws/Values.lean ====
section
/-! SUPPORT. Laws of byte lists, of a lane with no error, and of a copy of empty memory. -/

namespace Sys2Proof.Machine

/-- Memory with nothing listed reads as zeros. -/
theorem readBytes_nil (n : Nat) : ∀ a, readBytes [] a n = List.replicate n 0 := by
  induction n with
  | zero => intro a; rfl
  | succ n ih => intro a; rw [readBytes, ih]; rfl

/-- The bytes of a number give it back, modulo what they hold. -/
theorem leNat_leBytes (n : Nat) : ∀ v, leNat (leBytes n v) = v % 256 ^ n := by
  induction n with
  | zero => intro v; simp [leBytes, leNat, Nat.mod_one]
  | succ n ih =>
    intro v
    simp only [leBytes, leNat, ih]
    rw [Nat.pow_succ, Nat.mul_comm (256 ^ n) 256, Nat.mod_mul]
    simp

/-- A lane that no bit of is flipped comes back as it is, when its fields have their widths (R56). -/
theorem flip_clean (l : Lane) (j a : Nat) (hd : l.dest < 4) (ht : l.tag < 16) (hf : l.life < 2 ^ 15)
    (ha : unsigned 16 (l.age j) = a) (hb : a < 65536) (hs : (((j : Int) - signed 16 a).emod (2 ^ 48)).toNat = l.birth) :
    l.flip j [] = (l, true) := by
  have hc := l.check.isLt
  have hx : leNat (leBytes 16 (1 + l.dest * 2 + l.tag * 8 + a * 128 + l.life * 2 ^ 23 + l.check.toNat * 2 ^ 38)) =
      1 + l.dest * 2 + l.tag * 8 + a * 128 + l.life * 2 ^ 23 + l.check.toNat * 2 ^ 38 := by
    rw [leNat_leBytes]; omega
  generalize hk : l.check.toNat = k at hx hc
  have h1 : bits (1 + l.dest * 2 + l.tag * 8 + a * 128 + l.life * 2 ^ 23 + k * 2 ^ 38) 1 2 = l.dest := by
    simp only [bits]; omega
  have h2 : bits (1 + l.dest * 2 + l.tag * 8 + a * 128 + l.life * 2 ^ 23 + k * 2 ^ 38) 3 4 = l.tag := by
    simp only [bits]; omega
  have h3 : bits (1 + l.dest * 2 + l.tag * 8 + a * 128 + l.life * 2 ^ 23 + k * 2 ^ 38) 7 16 = a := by
    simp only [bits]; omega
  have h4 : bits (1 + l.dest * 2 + l.tag * 8 + a * 128 + l.life * 2 ^ 23 + k * 2 ^ 38) 23 15 = l.life := by
    simp only [bits]; omega
  have h5 : bits (1 + l.dest * 2 + l.tag * 8 + a * 128 + l.life * 2 ^ 23 + k * 2 ^ 38) 38 16 = k := by
    simp only [bits]; omega
  have h6 : bitOf (1 + l.dest * 2 + l.tag * 8 + a * 128 + l.life * 2 ^ 23 + k * 2 ^ 38) 0 = true := by
    simp only [bitOf, decide_eq_true_eq]; omega
  have h7 : BitVec.ofNat 16 k = l.check := by rw [← hk]; simp
  simp only [Lane.flip, List.foldl_nil, ha, hk, hx, h1, h2, h3, h4, h5, h6, h7, hs]

/-- A unit of memory that is populated, lists nothing and has no error is copied (R9, R228). -/
theorem copyUnit_empty (r : Region) (ms : List Nat) (st n : Nat) (s : State) (hm : s.mem = []) (he : s.memErr = [])
    (hp : s.poison = [])
    (hs : ∀ i, i < 1024 → populated s ((regionAddr r (n * 65536) / 64 + i) * 64) = true) : (copyUnit r ms st n s).1 = true := by
  have hh : ∀ l, lineHeld s l = false := fun l => by
    simp [lineHeld, hm, he, hp, tget, readBytes_nil, zeros]
  have h : ∀ (w : MemWho) (l : List Nat) (a b : Nat), (∀ i ∈ l, populated s ((a + i) * 64) = true) →
      l.foldl (fun (x : Bool × State) i => if x.1 then copyLine w (a + i) (b + i) x.2 else x) (true, s) = (true, s) := by
    intro w l a b hs
    induction l with
    | nil => rfl
    | cons i l ih =>
      rw [List.foldl_cons]
      simp only [if_true, copyLine, hs i (List.mem_cons_self ..), hh, Bool.not_true, Bool.not_false, Bool.and_self,
        Bool.false_eq_true, if_false]
      exact ih fun k hk => hs k (List.mem_cons_of_mem _ hk)
  unfold copyUnit
  dsimp only
  rw [h _ _ _ _ fun i hi => hs i (List.mem_range.mp hi)]

end Sys2Proof.Machine
end

