-- ==== Sys2Proof/Laws/Frames.lean ====
section
/-! SUPPORT. What a transmitted frame spells at its receiver: the row that the sender meant (R235, R236). -/

namespace Sys2Proof.Machine

theorem length_leBytes (n v : Nat) : (leBytes n v).length = n := by
  induction n generalizing v with
  | zero => rfl
  | succ n ih => simp [leBytes, ih]

theorem length_fit (n : Nat) (bs : List Byte) : (fit n bs).length = n := by
  simp [fit, zeros]

theorem fit_exact (n : Nat) (bs : List Byte) (h : bs.length = n) : fit n bs = bs := by
  simp [fit, ← h]

theorem pow_bytes : (256 : Nat) ^ 8 = 2 ^ 64 := by norm_num

/-- An intact frame spells what its header and body say (R235). -/
theorem frameCommands_frameBytes (l : Fin 32) (frac : Nat × Nat) (h : Nat) (body : List Byte) :
    frameCommands l frac (frameBytes h body) = bodyCommands l frac (h % 2 ^ 64) (fit 256 body) := by
  have l1 : (leBytes 8 h ++ fit 256 body).length = 264 := by simp [length_leBytes, length_fit]
  have l2 := length_leBytes 8 h
  have l3 := length_fit 256 body
  unfold frameCommands frameBytes
  dsimp only
  rw [List.take_left' l1, List.drop_left' l1, leNat_leBytes, if_pos]
  · rw [List.append_assoc, List.take_left' l2, List.drop_left' l2, List.take_left' l3, leNat_leBytes, pow_bytes]
  · refine ⟨by simp [length_leBytes, length_fit], ?_⟩
    exact Nat.mod_eq_of_lt (by have := (crc32c (leBytes 8 h ++ fit 256 body)).isLt; simpa using this)

/-- A RED frame (R256). -/
theorem frameCommands_red (l : Fin 32) (frac : Nat × Nat) (seq c g o : Nat) (b : List Byte) (hb : b.length = 256) :
    frameCommands l frac (seqFrame seq (.red c g o b)) = [.red l (seq % 4096) (c % 1024) (g % 65536) (o % 2 ^ 22) b] := by
  rw [seqFrame, frameCommands_frameBytes, fit_exact 256 b hb]
  generalize hh : 3 + seq % 4096 * 2 ^ 4 + c % 1024 * 2 ^ 16 + g % 65536 * 2 ^ 26 + o % 2 ^ 22 * 2 ^ 42 = h
  have e : h % 2 ^ 64 = h := by omega
  have e0 : h % 16 = 3 := by omega
  have e1 : bits h 4 12 = seq % 4096 := by rw [bits]; omega
  have e2 : bits h 16 10 = c % 1024 := by rw [bits]; omega
  have e3 : bits h 26 16 = g % 65536 := by rw [bits]; omega
  have e4 : bits h 42 22 = o % 2 ^ 22 := by rw [bits]; omega
  simp only [e, bodyCommands, e0, e1, e2, e3, e4]

/-- A PARAM frame (R266). -/
theorem frameCommands_param (l : Fin 32) (frac : Nat × Nat) (seq c g o : Nat) (b : List Byte) (hb : b.length = 256) :
    frameCommands l frac (seqFrame seq (.param c g o b)) = [.param l (seq % 4096) (c % 1024) (g % 65536) (o % 2 ^ 22) b] := by
  rw [seqFrame, frameCommands_frameBytes, fit_exact 256 b hb]
  generalize hh : 4 + seq % 4096 * 2 ^ 4 + c % 1024 * 2 ^ 16 + g % 65536 * 2 ^ 26 + o % 2 ^ 22 * 2 ^ 42 = h
  have e : h % 2 ^ 64 = h := by omega
  have e0 : h % 16 = 4 := by omega
  have e1 : bits h 4 12 = seq % 4096 := by rw [bits]; omega
  have e2 : bits h 16 10 = c % 1024 := by rw [bits]; omega
  have e3 : bits h 26 16 = g % 65536 := by rw [bits]; omega
  have e4 : bits h 42 22 = o % 2 ^ 22 := by rw [bits]; omega
  simp only [e, bodyCommands, e0, e1, e2, e3, e4]

/-- A value below `2 ^ n` whose `n` bits are all fields has no stray bit (Table 12.7a). -/
theorem strayRow_none (l : Fin 32) (typ seq v n : Nat) (fields : List (Nat × Nat)) (hv : v < 2 ^ n)
    (hf : ∀ i, i < n → fields.any (fun x => decide (x.1 ≤ i ∧ i < x.1 + x.2)) = true) : strayRow l typ seq v fields = [] := by
  have : strayBits v fields = false := by
    rw [strayBits, List.any_eq_false]
    intro i _
    by_cases c : i < n
    · rw [hf i c, Bool.not_true, Bool.and_false]
      exact Bool.false_ne_true
    · have : v / 2 ^ i = 0 := Nat.div_eq_of_lt (lt_of_lt_of_le hv (Nat.pow_le_pow_right (by omega) (by omega)))
      simp [bitOf, this]
  rw [strayRow, this]
  rfl

/-- A MSG frame spells its entry, and the reserved bits that it sets (R244, Table 13.4, Table 12.7a). -/
theorem frameCommands_msg (l : Fin 32) (frac : Nat × Nat) (seq : Nat) (m : Msg) :
    frameCommands l frac (seqFrame seq (.msg m)) =
      strayRow l 5 (seq % 4096) (msgEntry m % 2 ^ 64) (msgFields (msgEntry m % 2 ^ 64 % 256)) ++
        [msgCommand l (seq % 4096) (msgEntry m % 2 ^ 64)] := by
  rw [seqFrame, frameCommands_frameBytes]
  generalize hh : 5 + seq % 4096 * 2 ^ 4 + 2 ^ 16 = h
  have e : h % 2 ^ 64 = h := by omega
  have e0 : h % 16 = 5 := by omega
  have e1 : bits h 4 12 = seq % 4096 := by rw [bits]; omega
  have e2 : bits h 16 8 = 1 := by rw [bits]; omega
  have e3 : (fit 256 (leBytes 8 (msgEntry m))).take 8 = leBytes 8 (msgEntry m) := by
    rw [fit, List.take_take, show min 8 256 = 8 from rfl, List.take_left' (length_leBytes 8 _)]
  have e4 : leNat (leBytes 8 (msgEntry m)) = msgEntry m % 2 ^ 64 := by rw [leNat_leBytes, pow_bytes]
  have n : ¬ ((1 : Nat) = 0 ∨ 1 > 32) := by decide
  have e5 : strayRow l 5 (seq % 4096) h [(0, 4), (4, 12), (16, 8)] = [] :=
    strayRow_none l 5 _ h 24 _ (by omega) (by decide)
  simp only [e, bodyCommands, e0, e1, e2, e5, bodyEntries, e3, e4, if_neg n, numbered, Nat.mul_zero, Nat.add_zero, List.nil_append,
    List.flatMap_cons, List.flatMap_nil, List.append_nil]

/-- A FAIL message (R269). -/
theorem frameCommands_fail (l : Fin 32) (frac : Nat × Nat) (seq c g cause rank : Nat) :
    frameCommands l frac (seqFrame seq (.msg (.fail c g cause rank))) =
      [.fail l (seq % 4096) (c % 1024) (g % 65536) (cause % 16) (rank % 4096)] := by
  rw [frameCommands_msg, msgEntry]
  generalize hh : 0x10 + c % 1024 * 2 ^ 8 + g % 65536 * 2 ^ 18 + cause % 16 * 2 ^ 34 + rank % 4096 * 2 ^ 38 = e
  have k : e % 2 ^ 64 = e := by omega
  have k0 : e % 256 = 0x10 := by omega
  have k1 : bits e 8 10 = c % 1024 := by rw [bits]; omega
  have k2 : bits e 18 16 = g % 65536 := by rw [bits]; omega
  have k3 : bits e 34 4 = cause % 16 := by rw [bits]; omega
  have k4 : bits e 38 12 = rank % 4096 := by rw [bits]; omega
  have k5 : strayRow l 5 (seq % 4096) e (msgFields 0x10) = [] := strayRow_none l 5 _ e 50 _ (by omega) (by decide)
  simp only [k, msgCommand, k0, k1, k2, k3, k4, k5, if_true, List.nil_append]

end Sys2Proof.Machine
end

