-- ==== Sys2Proof/WellFormed.lean ====
section
/-! DEFINITION. When an operand fits the field that carries it: the byte or bit widths of Tables 12.1, 12.2, 15.5, 15.7
and of the register and packet layouts. -/

namespace Sys2Proof

/-- One check of an operand: a value below the first value its field cannot hold, or a block of a fixed size. -/
inductive Check where
  | below (v bound : Nat)
  | size (len want : Nat)
  deriving DecidableEq, Repr

/-- Whether a check passes. -/
def Check.ok : Check → Bool
  | .below v bound => decide (v < bound)
  | .size len want => len == want

/-- The checks of a command header (Table 15.5): the ring, or 16 for the management ring; FLAGS; TAG; and an OPCODE of one
byte that Table 15.7 does not have. -/
def CmdHdr.checks (h : CmdHdr) : List Check :=
  [.below h.ring 17, .below h.flags 256, .below h.tag 65536] ++ (match h.badOp with
    | some o => [.below o 256, .below (if opcodes.contains o then 1 else 0) 1]
    | none => [])

/-- The checks of every command and event. Quantities measured in the world (volts, degrees, watts) have none. -/
def Instr.checks : Instr → List Check
  | .queryInfo h kind => h.checks ++ [.below kind 256]
  | .setPowerState h goal => h.checks ++ [.below goal.target 256]
  | .setFreqLevel h level => h.checks ++ [.below level 256]
  | .loadMaquette h part loc addr size img =>
    h.checks ++ [.below part 256, .below loc 256, .below addr (2 ^ 64), .below size (2 ^ 64), .size img.hdr.length 256]
  | .bind h part loc _ _ report => h.checks ++ [.below part 256, .below loc 256, .below report.addr (2 ^ 64)]
  | .start h part _ atMcc => h.checks ++ [.below part 256, .below atMcc (2 ^ 48)]
  | .startAccepted _ => []
  | .startDrainTimeout _ => []
  | .armatureLeaveReset t _ => [.below t (2 ^ 64)]
  | .startCountReached t _ => [.below t (2 ^ 64)]
  | .hold h part => h.checks ++ [.below part 256]
  | .pauseAtBoundary t _ => [.below t (2 ^ 64)]
  | .resume h part => h.checks ++ [.below part 256]
  | .resumeAtBoundary t _ => [.below t (2 ^ 64)]
  | .cast h part atGtc => h.checks ++ [.below part 256, .below atGtc (2 ^ 64)]
  | .castAtBoundary t _ => [.below t (2 ^ 64)]
  | .abort h part => h.checks ++ [.below part 256]
  | .partitionDone t _ _ => [.below t (2 ^ 64)]
  | .migrationUnitCopy _ handle => [.below handle 65536]
  | .regionMapQuery h part handle => h.checks ++ [.below part 256, .below handle 65536]
  | .regionMapPin h part handle => h.checks ++ [.below part 256, .below handle 65536]
  | .regionMapUnpin h part handle => h.checks ++ [.below part 256, .below handle 65536]
  | .regionMapAttach h part handle srcPart srcHandle =>
    h.checks ++ [.below part 256, .below handle 65536, .below srcPart 256, .below srcHandle 65536]
  | .regionMigrate h part handle tier device =>
    h.checks ++ [.below part 256, .below handle 65536, .below tier 256, .below device 256]
  | .linkTrain h link => h.checks ++ [.below link 256]
  | .linkRecal h link => h.checks ++ [.below link 256]
  | .linkDrain h link => h.checks ++ [.below link 256]
  | .channelOpen h chan => h.checks ++ [.below chan 65536]
  | .channelClose h chan => h.checks ++ [.below chan 65536]
  | .fwUpdate h loc addr size img _ =>
    h.checks ++ [.below loc 256, .below addr (2 ^ 64), .below size (2 ^ 64), .size img.hdr.length 512]
  | .fwActivateLiveHandover h _ => h.checks
  | .fwActivateAtWarmReset h => h.checks
  | .dumpTensor h part loc point step addr len =>
    h.checks ++ [.below part 256, .below loc 256, .below point 65536, .below step (2 ^ 32), .below addr (2 ^ 64), .below len (2 ^ 64)]
  | .dumpCopyComplete _ => []
  | .digestTapArm h part loc tap addr entries =>
    h.checks ++ [.below part 256, .below loc 256, .below tap 65536, .below addr (2 ^ 64), .below entries (2 ^ 32)]
  | .digestTapDisarm h part loc tap => h.checks ++ [.below part 256, .below loc 256, .below tap 65536]
  | .fenceCell h cell => h.checks ++ [.below cell 65536]
  | .fenceAtBoundary t _ => [.below t (2 ^ 64)]
  | .unfenceCell h cell _ => h.checks ++ [.below cell 65536]
  | .routerSelfTest _ _ => []
  | .appCoresBoot h addr size entry mask selfTestFails =>
    h.checks ++ [.below addr (2 ^ 64), .below size (2 ^ 64), .below entry (2 ^ 64), .below mask (2 ^ 32), .below selfTestFails (2 ^ 32)]
  | .dimmOffline h chan => h.checks ++ [.below chan 256]
  | .dimmOnline h chan _ => h.checks ++ [.below chan 256]
  | .stackRetrain h stack _ => h.checks ++ [.below stack 256]
  | .laserOffline h n => h.checks ++ [.below n 256]
  | .laserOnline h n _ => h.checks ++ [.below n 256]
  | .warmReset _ => []
  | .crDb _ _ _ => []
  | .crCfg _ _ _ => []
  | .mbSlotWrite _ _ off bytes => [.below off 256, .below bytes.length 257]
  | .mbCommit _ _ => []
  | .mbRelease _ _ _ => []
  | .mbCfg _ _ _ => []
  | .glbPartMap _ _ => []
  | .glbApBase _ _ => []
  | .glbAppCtl _ _ => []
  | .glbAppIrq _ _ => []
  | .glbFlag _ _ _ _ => []
  | .errSts _ _ => []
  | .arrNum _ _ _ _ => []
  | .msixUnmask _ => []
  | .registerWrite _ off size _ => [.below off (2 ^ 34), .below size (2 ^ 64)]
  | .bar2Read off len => [.below off (2 ^ 38), .below len (2 ^ 64)]
  | .bar2Write off _ => [.below off (2 ^ 36)]
  | .unsupportedRequest requester addr => [.below requester 65536, .below addr (2 ^ 64)]
  | .malformedTlp requester addr => [.below requester 65536, .below addr (2 ^ 64)]
  | .poisonedWrite requester bar addr _ => [.below requester 65536, .below bar 6, .below addr (2 ^ 64)]
  | .unexpectedCompletion requester => [.below requester 65536]
  | .dmaError _ rd hostAddr => [.below rd.ring 17, .below hostAddr (2 ^ 64)]
  | .completionTimeout _ rd hostAddr => [.below rd.ring 17, .below hostAddr (2 ^ 64)]
  | .doeObject typ len _ => [.below typ.typ 256, .below typ.index 256, .below len (2 ^ 64)]
  | .flr => []
  | .d3hot _ => []
  | .perstAsserted => []
  | .perstDeasserted _ _ => []
  | .dlDown => []
  | .mergedMessage _ => []
  | .mctpControl command eid => [.below command 256, .below eid.eid 256]
  | .mctpBadPacket => []
  | .vdmCommandPacket opcode loc tag => [.below opcode 256, .below loc 256, .below tag.tag 65536]
  | .vdmBar0Read off width => [.below off (2 ^ 32), .below width.width 9]
  | .pldmMonitoring _ => []
  | .pldmFirmwareUpdate img _ => [.size img.hdr.length 512]
  | .activateFirmware _ => []
  | .pldmIdentify _ => []
  | .ident => []
  | .getVersion _ => []
  | .getCapabilities _ => []
  | .negotiateAlgorithms _ _ => []
  | .getDigests _ => []
  | .getCertificate _ slot => [.below slot 8]
  | .challenge _ slot nonce => [.below slot 8, .size nonce.bytes.length 32]
  | .getMeasurements _ index _ => [.below index 256]
  | .keyExchange _ _ => []
  | .finish _ session => [.below session.id (2 ^ 32)]
  | .heartbeat _ session => [.below session.id (2 ^ 32)]
  | .keyUpdate _ session => [.below session.id (2 ^ 32)]
  | .endSession _ session => [.below session.id (2 ^ 32)]
  | .setCertificate _ slot _ _ => [.below slot 8]
  | .selfTest _ session _ => [.below session.id (2 ^ 32)]
  | .provision _ session keyHash _ _ _ _ => [.below session.id (2 ^ 32), .below keyHash.length 49]
  | .zeroise _ session => [.below session.id (2 ^ 32)]
  | .decommission _ session => [.below session.id (2 ^ 32)]
  | .por _ _ => []
  | .mainRailsPowerUp _ => []
  | .ready => []
  | .backoffExpiry _ => []
  | .recoveryMessage img _ => [.size img.hdr.length 512]
  | .recoveryTimeout => []
  | .mainInputLost _ => []
  | .mainInputRestored => []
  | .thermalTrip _ _ => []
  | .mainEn _ => []
  | .coverOpening => []
  | .powerManagerWindow _ _ _ => []
  | .holdupTest => []
  | .holdupTestComplete _ _ _ => []
  | .flashCommitComplete => []
  | .lifetimeCounterCommit => []
  | .frequencyPause => []
  | .frequencyRestart => []
  | .syncPulse _ => []
  | .pllUnlock _ => []
  | .jccWrap _ => []
  | .patinaSample gtc => [.below gtc (2 ^ 64)]
  | .holdRequest t _ _ => [.below t (2 ^ 64)]
  | .holdDecision t _ => [.below t (2 ^ 64)]
  | .bundleIssue t _ _ slot _ order _ => [.below t (2 ^ 64), .below slot 65536, .below order (2 ^ 32)]
  | .capture t _ _ _ _ _ _ => [.below t (2 ^ 64)]
  | .emission t _ _ _ lane dest laps _ _ _ => [.below t (2 ^ 64), .below lane 8, .below dest 4, .below laps 256]
  | .laneRegisterWrite t _ _ _ _ _ => [.below t (2 ^ 64)]
  | .laneRemoval t _ => [.below t (2 ^ 64)]
  | .bandPortPop t _ _ => [.below t (2 ^ 64)]
  | .headInjection t _ _ => [.below t (2 ^ 64)]
  | .headRelease t _ _ => [.below t (2 ^ 64)]
  | .seamPlacement t _ _ _ tag => [.below t (2 ^ 64), .below tag 16]
  | .seamArrival t _ _ => [.below t (2 ^ 64)]
  | .rowPassStart t _ _ seq _ => [.below t (2 ^ 64), .below seq 256]
  | .rowEntry t _ _ => [.below t (2 ^ 64)]
  | .partialSumRead t _ _ _ => [.below t (2 ^ 64)]
  | .outputWrite t _ _ => [.below t (2 ^ 64)]
  | .weightChunkWrite t _ _ _ _ => [.below t (2 ^ 64)]
  | .swap t _ _ mask _ => [.below t (2 ^ 64), .below mask 16]
  | .modeSet t _ _ _ _ => [.below t (2 ^ 64)]
  | .seedOperation t _ _ _ _ => [.below t (2 ^ 64)]
  | .counterOperation t _ _ _ _ _ => [.below t (2 ^ 64)]
  | .comparatorConfiguration t _ _ _ _ _ => [.below t (2 ^ 64)]
  | .vectorDescriptorStart t _ _ seq _ => [.below t (2 ^ 64), .below seq 256]
  | .vectorWordIssue t _ _ => [.below t (2 ^ 64)]
  | .vectorResultWrite t _ _ => [.below t (2 ^ 64)]
  | .operationStatusWord t _ _ => [.below t (2 ^ 64)]
  | .tapOperation t _ tap _ n tag => [.below t (2 ^ 64), .below tap 65536, .below n (2 ^ 32), .below tag 16]
  | .digestRecordRelease t _ => [.below t (2 ^ 64)]
  | .queuePush t _ _ tag _ => [.below t (2 ^ 64), .below tag 16]
  | .queueRelease t _ _ => [.below t (2 ^ 64)]
  | .cellFifoDelivery t _ _ => [.below t (2 ^ 64)]
  | .rowDescriptorConsumption t _ => [.below t (2 ^ 64)]
  | .rowGroupRelease t _ => [.below t (2 ^ 64)]
  | .rowEngineDrain t _ => [.below t (2 ^ 64)]
  | .portRunEntry t _ => [.below t (2 ^ 64)]
  | .sequencerEnd t _ => [.below t (2 ^ 64)]
  | .flagSet t _ _ _ => [.below t (2 ^ 64)]
  | .flagAdd t _ _ _ => [.below t (2 ^ 64)]
  | .flagWait t _ _ _ _ => [.below t (2 ^ 64)]
  | .flagUpdateApplied t _ => [.below t (2 ^ 64)]
  | .waitEnd t _ => [.below t (2 ^ 64)]
  | .mccRead t _ => [.below t (2 ^ 64)]
  | .armatureEnd t _ => [.below t (2 ^ 64)]
  | .armatureFault t _ => [.below t (2 ^ 64)]
  | .waitWatchdog t _ => [.below t (2 ^ 64)]
  | .streamTransferIssue _ _ => []
  | .fetchWordArrival _ ctx gen _ => [.below ctx 65536, .below gen 65536]
  | .updateCountReached _ ctx => [.below ctx 65536]
  | .storeWord _ ctx => [.below ctx.index 65536, .below ctx.gen 65536]
  | .mcastGrant _ ctx g => [.below ctx 65536, .below g.gen 65536]
  | .mcastTimeout _ ctx => [.below ctx 65536]
  | .drainTokenReturn _ ctx => [.below ctx 65536]
  | .shardHandoff _ ctx => [.below ctx.index 65536, .below ctx.gen 65536]
  | .memoryReadResponse _ addr _ => [.below addr (2 ^ 64)]
  | .refresh _ bank => [.below bank 1024]
  | .phyCalibration _ => []
  | .patrolScrub _ _ => []
  | .tempHigh _ _ => []
  | .dimmRemoved _ => []
  | .sharedUnitFailure _ => []
  | .frameTransmit _ => []
  | .crcFailure _ _ => []
  | .ack _ seq => [.below seq 4096]
  | .nak _ seq => [.below seq 4096]
  | .credit _ cls granted => [.below cls 4, .below granted 65536]
  | .timeReq _ t1 t2 t3 => [.below t1 (2 ^ 48), .below t2 16, .below t3 16]
  | .timeResp _ t2 t3 t4 => [.below t2 (2 ^ 48), .below t3 (2 ^ 48), .below t4 16]
  | .root _ hops prio id => [.below hops 16, .below prio 16, .below id (2 ^ 48)]
  | .train _ peerId peerLink version x =>
    [.below peerId (2 ^ 48), .below peerLink 32, .below version 256, .size x.credits.length 3, .below x.seq 4096]
  | .red _ seq chan gen offset body =>
    [.below seq 4096, .below chan 1024, .below gen 65536, .below offset (2 ^ 22), .size body.length 256]
  | .param _ seq chan gen offset body =>
    [.below seq 4096, .below chan 1024, .below gen 65536, .below offset (2 ^ 22), .size body.length 256]
  | .quiesce _ seq => [.below seq 131072]
  | .quiesceOk _ seq => [.below seq 131072]
  | .quiesceRefuse _ seq => [.below seq 131072]
  | .fail _ seq chan gen cause rank =>
    [.below seq 131072, .below chan 1024, .below gen 65536, .below cause 16, .below rank 4096]
  | .stepFail _ seq chan gen cause rank =>
    [.below seq 131072, .below chan 1024, .below gen 65536, .below cause 16, .below rank 4096]
  | .nanReport _ seq chan _ rank element =>
    [.below seq 131072, .below chan 1024, .below rank 4096, .below element (2 ^ 28)]
  | .drain _ seq chan gen => [.below seq 131072, .below chan 1024, .below gen 65536]
  | .drainDone _ seq chan gen => [.below seq 131072, .below chan 1024, .below gen 65536]
  | .castAt _ seq chan atGtc => [.below seq 131072, .below chan 1024, .below atGtc (2 ^ 46)]
  | .error _ seq _ => [.below seq 131072]
  | .retryTimeout _ => []
  | .trainingStateComplete _ peerId peerLink version =>
    [.below peerId (2 ^ 48), .below peerLink 32, .below version 256]
  | .trainingStateTimeout _ => []
  | .lossOfLock _ => []
  | .fecWindow _ _ _ _ => []
  | .rootAdvertisement => []
  | .timeExchange t1 => [.below t1 16]
  | .parentReselection => []
  | .holdoverExpiry => []
  | .laserDegraded _ _ _ => []
  | .laserFailed _ _ _ => []
  | .laserRemoved _ => []
  | .latchOpened _ => []
  | .wavelengthLock _ => []
  | .unitFold _ => []
  | .deadline _ => []
  | .optimiserStep _ => []
  | .paramTransfer _ => []
  | .paramMulticastTimeout _ => []
  | .linkDrainTimeout _ => []
  | .wavelengthLockTimeout _ _ => []
  | .auxInputLost _ => []
  | .ctrlUnknownKind _ => []
  | .msgUnknown _ seq chan _ => [.below seq 131072, .below chan 1024]
  | .applicationCoreAccess _ addr _ => [.below addr (2 ^ 64)]
  | .pcieLinkRetrain rate width _ => [.below rate 8, .below width 16]
  | .boundaryScanInstruction _ => []

/-- An instruction whose every operand fits its field. -/
def Instr.wf (i : Instr) : Bool := i.checks.all Check.ok

end Sys2Proof
end

