-- ==== Sys2Proof/Tests/Slice0.lean ====
section
/-! SUPPORT. Tests: the well-formedness checks refuse ill-formed terms; small steps give what the spec says; and for every
statement with hypotheses, states and operands that meet them. -/

namespace Sys2Proof.Tests.Slice0

open Sys2Proof Sys2Proof.Machine

/-- A header of a command of ring 0, and one of the management ring. -/
def h0 : CmdHdr := { ring := 0, flags := 0, tag := 7, reserved := false }
def h16 : CmdHdr := { ring := 16, flags := 0, tag := 7, reserved := false }

/-- A module that is ACTIVE and ready, its clocks running, with one command on ring 0. -/
def act : State := {
  pwr := { st := .active, ready := true, stage := .ready, mainOk := true, mainEnLow := true, valid := true, energy := 2000
           flomorUp := true }
  sec := { st := .operational }
  rings := [(0, { enable := true, tail := 1 })]
  clk := { run := .running }
  pcie := { cmd := 6 } }

/-- Partition 0 in a state. -/
def withPart (q : Part) : State := { act with parts := [(0, q)] }

/-- Band 0 bound in partition 0, which is RUNNING, with a sequencer that runs unless `b` says otherwise. -/
def isl (b : Band) (c : Cell) : State := { act with
  parts := [(0, { st := .running })], bands := [(0, { b with bound := true, seqState := if b.seqState = 0 then 1 else b.seqState })]
  cells := if c = {} then [] else [(0, c)] }
def arm : Arm := { st := .running }

/-- The predicate a witness establishes is that its hypotheses hold together. -/
theorem witness_EmptyQueueIsOneTick :
    (act.pending = [] ∧ act.clk.gtc + 20 < 2 ^ 64 ∧ act.clk.mcc + 1 < 2 ^ 64 ∧ act.clk.phase < 378 ∧ act.clk.run = .running ∧
      act.clk.pendingChange = false ∧ act.fab.slew = 0) ∧
    (State.reset.pending = [] ∧ State.reset.clk.phase < 378 ∧ State.reset.clk.run ≠ .running ∧ State.reset.clk.run ≠ .pause) ∧
    (({ act with clk := { run := .pause, gtc := 9, pauseGtc := 9 } } : State).clk.gtc + 20 ≤ 9 + 40000) ∧
    (getPart (withPart { st := .running, jcc := 2 ^ 48 - 2 }) 0).islandRuns = true ∧
    (getPart (withPart { st := .running, jcc := 2 ^ 48 - 2 }) 0).jcc + 1 < 2 ^ 48 ∧
    (getPart (withPart { st := .paused }) 0).islandRuns = false := by decide

theorem witness_EveryStepKeepsSound : Sound act ∧ ∃ t, step { act with pending := [.ident] } = .next t :=
  ⟨⟨by decide, by decide⟩, _, rfl⟩

theorem witness_CommandsLeaveTheRestAlone : (∃ t, exec (.abort h0 0) act = .next t) ∧
    (spdmEvent (.getVersion .mctp) = true ∧ ∃ t, exec (.getVersion .mctp) act = .next t) ∧
    (timeEvent .parentReselection = true ∧ ∃ t, exec .parentReselection act = .next t) ∧
    (bar4Event (.crDb .host 15 1) = true ∧ ∃ t, exec (.crDb .host 15 1) act = .next t) ∧
    (boardEvent .ident = true ∧ ∃ t, exec .ident act = .next t) :=
  ⟨⟨_, rfl⟩, ⟨rfl, _, rfl⟩, ⟨rfl, _, rfl⟩, ⟨rfl, _, rfl⟩, rfl, _, rfl⟩

def maq0 : Maquette := { hdr := [], bands := [], seams := [], regions := [], contexts := [], sigBlock := none, signedBytes := [] }
def sStartDrains (ctxs : Tbl Ctx) : State := { withPart { st := .bound, startDrains := true, maq := some maq0 } with
  plinths := [(0, { ctxs := ctxs })] }

theorem witness_StartRunsAPartition :
    (Accepted h0 { op := 0x12, fields := [(8, 1, 0), (16, 8, (0 : W64).toNat), (24, 6, 0)], claims := [.part 0], modFatal := true } (withPart { st := .bound }) ∧
      (getPart (withPart { st := .bound }) 0).st = .bound ∧
      (boundBands (withPart { st := .bound }) 0).any (fun b => (getBand (withPart { st := .bound }) b).lost) = false) ∧
    (Accepted h0 {
      op := 0x12, fields := [(8, 1, 3), (16, 8, (7 : W64).toNat), (24, 6, 2 ^ 48 - 4096)], claims := [.part 3], modFatal := true } { act with parts := [(3, { st := .done })] } ∧
      (2 ^ 48 - 4096) % 4096 = 0) ∧
    ((getPart (sStartDrains []) 0).startDrains = true ∧ anyDraining (sStartDrains []) 0 = false ∧
      (getPart (sStartDrains []) 0).maq = some maq0 ∧ (getPart (sStartDrains []) 0).reqAt = 0 ∧
      (allocContexts 0 maq0.contexts (getPart (sStartDrains []) 0).ctxMap (sStartDrains [])).isSome = true) ∧
    ((getPart (sStartDrains [(0, { st := .draining })]) 0).startDrains = true ∧
      anyDraining (sStartDrains [(0, { st := .draining })]) 0 = true) ∧
    ((getPart (advanceTo 0 (withPart { armAt := some 0 })) 0).armAt = some 0 ∧
      0 ≤ (advanceTo 0 (withPart { armAt := some 0 })).clk.mcc) ∧
    ((getPart (advanceTo 4096 (withPart { startAt := some 4096 })) 0).startAt = some 4096 ∧
      4096 ≤ (advanceTo 4096 (withPart { startAt := some 4096 })).clk.mcc ∧
      (match toBoundary 4096 4096 (advanceTo 4096 (withPart { startAt := some 4096 })) with
        | some u => !u.log.modFatal
        | none => false) = true) := by decide

theorem witness_HoldAndResume :
    (Accepted h0 { op := 0x13, fields := [(8, 1, 0)] } (withPart { st := .running }) ∧ (getPart (withPart { st := .running }) 0).st = .running) ∧
    ((getPart (advanceTo 64 (withPart { st := .running, pauseAt := some 64 })) 0).pauseAt = some 64 ∧
      (toBoundary 64 64 (advanceTo 64 (withPart { st := .running, pauseAt := some 64 }))).isSome = true ∧
      (getPart (advanceTo 64 (withPart { st := .running, pauseAt := some 64 })) 0).st = .running) ∧
    (Accepted h0 { op := 0x14, fields := [(8, 1, 0)], claims := [.part 0], modFatal := true } (withPart { st := .paused }) ∧
      (getPart (withPart { st := .paused }) 0).st = .paused ∧
      Accepted h0 { op := 0x14, fields := [(8, 1, 0)], claims := [.part 0], modFatal := true } (withPart { st := .cast }) ∧
      (getPart (withPart { st := .cast }) 0).faultCast = false) ∧
    ((getPart (advanceTo 64 (withPart { st := .cast, resumeAt := some 64 })) 0).resumeAt = some 64 ∧
      (toBoundary 64 64 (advanceTo 64 (withPart { st := .cast, resumeAt := some 64 }))).isSome = true ∧
      (getPart (advanceTo 64 (withPart { st := .cast, resumeAt := some 64 })) 0).st = .cast ∧
      (getPart (advanceTo 64 (withPart { st := .cast, resumeAt := some 64 })) 0).pendFatal = none ∧
      (getPart (advanceTo 64 (withPart { st := .cast, resumeAt := some 64 })) 0).reqFor = none) := by decide

def sPaused (cap : Nat) : State := { withPart { st := .paused } with devs := [(0, { st := 1, cap := cap, rated := 36 })] }
def alignedRun : State := { withPart { st := .paused } with clk := { run := .running, timeState := 2 } }
def sCast : State := withPart { st := .running, pendCast := some { at_ := some 64, cause := .command, fault := false } }

theorem witness_CastTakesACut :
    (Accepted h0 { op := 0x15, fields := [(8, 1, 0), (16, 8, 0)], fabric := true } (withPart { st := .running }) ∧ bitOf h0.flags 1 = false ∧
      (getPart (withPart { st := .running }) 0).st = .running ∧ 0 ≤ (withPart { st := .running }).clk.gtc) ∧
    (Accepted h0 { op := 0x15, fields := [(8, 1, 0), (16, 8, 10000)], fabric := true } alignedRun ∧ (getPart alignedRun 0).st = .paused ∧
      alignedRun.clk.gtc + 10000 ≤ 10000 ∧ aligned alignedRun = true) ∧
    ((advanceTo 64 sCast).clk.mcc % 64 = 0 ∧ (getPart (advanceTo 64 sCast) 0).st = .running ∧
      (advanceTo 64 sCast).clk.run = .running ∧ (castDue (advanceTo 64 sCast) (getPart (advanceTo 64 sCast) 0)).isSome = true ∧
      (getPart (advanceTo 64 sCast) 0).pendFatal = none) := by decide

/-- Commands that name a partition in a state that Table 1.5 does not allow them. -/
theorem witness_AbortAndDone_images :
    (Accepted h0 {
        op := 0x10, fields := [(8, 1, 0), (9, 1, 1), (16, 8, 0), (24, 8, 1)], loc := some 1
        claims := partClaims (sPaused 1) 0, modFatal := true } (sPaused 1) ∧ locOk h0 1 = true ∧ bulkOk (sPaused 1) 1 0 1 = true ∧
      (getPart (sPaused 1) 0).st = .paused) ∧
    (Accepted h0 {
        op := 0x11, fields := [(8, 1, 0), (9, 1, 0), (10, 1, 0), (16, 8, 0), (24, 8, 0)], loc := some 0
        claims := partClaims act 0, modFatal := true } act ∧ locOk h0 0 = true ∧ (getPart act 0).st ≠ .loaded) := by decide

theorem witness_AbortAndDone_states :
    (Accepted h0 { op := 0x12, fields := [(8, 1, 0), (16, 8, (0 : W64).toNat), (24, 6, 0)], claims := [.part 0], modFatal := true } act ∧
      (getPart act 0).st ∉ [PState.bound, .done]) ∧
    (Accepted h0 { op := 0x13, fields := [(8, 1, 0)] } act ∧ (getPart act 0).st ≠ .running ∧ starting act 0 = false) ∧
    (Accepted h0 { op := 0x14, fields := [(8, 1, 0)], claims := [.part 0], modFatal := true } (withPart { st := .cast, faultCast := true }) ∧
      (getPart (withPart { st := .cast, faultCast := true }) 0).faultCast = true) ∧
    (Accepted h0 { op := 0x15, fields := [(8, 1, 0), (16, 8, 0)], fabric := true } act ∧
      (getPart act 0).st ∉ [PState.running, .paused] ∧ castTimeOk (bitOf h0.flags 1) 0 act = true) ∧
    (Accepted h0 { op := 0x16, fields := [(8, 1, 0)], claims := [.part 0] } (withPart { st := .bound }) ∧
      (getPart (withPart { st := .bound }) 0).st ∉ [PState.running, .paused, .cast, .done]) := by decide

/-- The last sequencer of partition 0 has ended; its count runs to 64. -/
def sEnded : State := { isl { seqState := 2 } {} with parts := [(0, { st := .running, endJcc := some 64 })] }

theorem witness_AbortAndDone :
    (Accepted h0 { op := 0x16, fields := [(8, 1, 0)], claims := [.part 0] } (withPart { st := .done }) ∧
      (getPart (withPart { st := .done }) 0).st ∈ [PState.running, .paused, .cast, .done]) ∧
    (Live 9 0 (isl {} {}) ∧ (getBand (advanceTo 9 (isl {} {})) 0).seqState = 1 ∧
      boundBands (advanceTo 9 (isl {} {})) (partOf (advanceTo 9 (isl {} {})) 0) = [0]) ∧
    ((advanceTo 64 sEnded).clk.mcc % 64 = 0 ∧ (getPart (advanceTo 64 sEnded) 0).st = .running ∧
      (advanceTo 64 sEnded).clk.run = .running ∧ (getPart (advanceTo 64 sEnded) 0).endJcc = some (getPart (advanceTo 64 sEnded) 0).jcc ∧
      castDue (advanceTo 64 sEnded) (getPart (advanceTo 64 sEnded) 0) = none ∧
      faultAsked (getPart (advanceTo 64 sEnded) 0) = none) := by decide

def fenceFlight : Flight := { ring := 1, slot := 0, opcode := 0x70, tag := 0, irq := false, claims := [.band 0], kind := .fence 5 }
def facFence : State := { act with ident := { factoryFence := [5] }, fence := [5] }

theorem witness_FencingOfCells :
    (Accepted h0 { op := 0x70, fields := [(8, 2, 4095)], claims := [.band 31] } act ∧ act.fence.contains 4095 = false ∧ (getBand act 31).bound = false) ∧
    ((advanceTo 64 { act with flights := [fenceFlight] }).clk.mcc % 64 = 0 ∧
      (advanceTo 64 { act with flights := [fenceFlight] }).clk.run = .running ∧
      fenceFlight ∈ ({ act with flights := [fenceFlight] } : State).flights ∧ fenceFlight.kind = .fence 5 ∧
      partOf { act with flights := [fenceFlight] } 0 = 0) ∧
    (Accepted h0 { op := 0x71, fields := [(8, 2, 0)], claims := [.band 0] } { act with fence := [0] } ∧
      (getBand { act with fence := [0] } 0).lost = false ∧ ({ act with fence := [0] } : State).ident.factoryFence.contains 0 = false ∧
      ({ act with fence := [0] } : State).fence.contains 0 = true) ∧
    (routerTestDue { isl { ringChecks := 3 } {} with parts := [(0, { st := .cast })] } 0 = true) ∧
    (facFence.ident.factoryFence.contains 5 = true ∧ facFence.fence.contains 5 = true) := by decide

theorem witness_factory_fence_unfence : ∃ t, exec (.unfenceCell h0 5 true) facFence = .next t := ⟨_, rfl⟩

def reg1 : Region := { bound := true, size := 1, members := [0] }
def sReg : State := { act with regions := [(1, reg1)] }
def sAttach : State := { act with parts := [(0, { st := .loaded })], regions := [(1, { imported := true, size := 1 }), (65538, reg1)] }

theorem witness_RegionMapCommands :
    (Accepted h0 { op := 0x20, fields := [(8, 1, 0), (9, 1, 0), (10, 2, 1)], claims := [.region 0 1], names := [.part 0] } sReg ∧
      Accepted h0 { op := 0x20, fields := [(8, 1, 0), (9, 1, 1), (10, 2, 1)], claims := [.region 0 1], names := [.part 0] } sReg ∧
      Accepted h0 { op := 0x20, fields := [(8, 1, 0), (9, 1, 2), (10, 2, 1)], claims := [.region 0 1], names := [.part 0] } sReg ∧ resolve sReg 0 1 = some (1, reg1) ∧
      (getReg sReg (regKey 0 1)).bound = true) ∧
    (Accepted h0 {
        op := 0x20, fields := [(8, 1, 0), (9, 1, 3), (10, 2, 1), (12, 1, 1), (14, 2, 2)], claims := [.region 0 1]
        names := [.part 0, .part 1, .region 1 2] } sAttach ∧ (getPart sAttach 0).st = .loaded ∧
      (getReg sAttach (regKey 1 2)).bound = true ∧ resolve sAttach 1 2 = some (65538, reg1) ∧ (getReg sAttach (regKey 0 1)).imported = true ∧
      (getReg sAttach (regKey 0 1)).size ≤ (getReg sAttach (regKey 1 2)).size) := by decide

/-- A bound region of an idle partition, on DIMM channel 0, with stack 0 online. -/
def sMig : State := { act with
  parts := [(0, { st := .bound })], devs := [(0, { st := 1, cap := 36, rated := 36 }), (16, { st := 1, cap := 64, rated := 64 })]
  regions := [(1, { reg1 with members := [16] })] }
def sCopy (size : Nat) : State := { sMig with regions := [(1, { reg1 with members := [16], size := size, target := some ([0], 0) })] }

theorem witness_MigrationCopiesUnits :
    (Accepted h0 { op := 0x21, fields := [(8, 1, 0), (10, 2, 1), (12, 1, 1), (13, 1, 0)], claims := [.region 0 1], names := [.part 0] } sMig ∧ (getReg sMig (regKey 0 1)).bound = true ∧
      (getReg sMig (regKey 0 1)).imported = false ∧ movableState sMig (regKey 0 1) = true ∧
      chanWrites sMig (regKey 0 1) = false ∧
      migrateHome (endCopies [regKey 0 1] (taken h0 sMig)) (regKey 0 1) (getReg sMig (regKey 0 1)) 1 0 = some ([0], 0)) ∧
    ((getReg (sCopy 1) (regKey 0 1)).target = some ([0], 0) ∧
      (passMove (passNext (sCopy 1)) (regKey 0 1) && dumpReads (passNext (sCopy 1)) (regKey 0 1)) = false ∧ passNext (sCopy 1) = sCopy 1 ∧
      (getReg (sCopy 1) (regKey 0 1)).size ≤ (getReg (sCopy 1) (regKey 0 1)).copied + 1) ∧
    ((getReg (passNext (sCopy 2)) (regKey 0 1)).target = some ([0], 0) ∧
      (getReg (sCopy 2) (regKey 0 1)).copied + 1 < (getReg (sCopy 2) (regKey 0 1)).size) := by decide

/-- A copy of an empty unit goes through. -/
theorem witness_copyUnit : (copyUnit (getReg (sCopy 1) (regKey 0 1)) [0] 0 0 (sCopy 1)).1 = true :=
  copyUnit_empty _ _ _ _ _ rfl rfl rfl fun i hi => by
    have e : regionAddr (getReg (sCopy 1) (regKey 0 1)) (0 * 65536) = 0x100000000000 := by decide +kernel
    have c : (getDev (sCopy 1) 16).cap = 64 := by decide +kernel
    have p : ((sCopy 1).pwr.st != .standby) = true := by decide +kernel
    rw [e, populated, unitOf, if_neg (by omega), if_pos (by omega)]
    rw [show 16 + ((0x100000000000 / 64 + i) * 64 - 0x100000000000) / 0x4000000000 = 16 by omega]
    simp only [c, gib, p, Bool.and_true, decide_eq_true_eq]
    omega

def dimm0 : DimmProbe := { rdimmEcc := true, capGiB := 64, ratedMts := 6400, testOk := true }
def sDev (u st : Nat) : State := { act with devs := [(u, { st := st, cap := 36, rated := 36 })] }
def sCtx (c : Ctx) : State := { sDev 0 1 with plinths := [(0, { ctxs := [(0, c)] })] }
/-- Two symbols of one codeword more than R220 corrects. -/
def badLine : Noise := [(0, 1), (1, 1), (2, 1)]

theorem witness_MemoryDevices_commands :
    ((getDev (sDev 27 1) (16 + 11)).st = 1 ∧ Accepted h0 { op := 0x90, fields := [(8, 1, 11)], claims := .dimm 11 :: unitClaims (sDev 27 1) 27 } (sDev 27 1) ∧
      (∀ x ∈ (sDev 27 1).regions, onUnit x.2 27 = false)) ∧
    ((getDev (sDev 16 3) 16).st = 3 ∧ dimmOk dimm0 = true ∧ dimm0.testOk = true ∧
      Accepted h0 { op := 0x91, fields := [(8, 1, 0)], claims := .dimm 0 :: unitClaims (sDev 16 3) 16 } (sDev 16 3)) ∧
    ((getDev (sDev 16 2) 16).st = 2 ∧ Accepted h0 { op := 0x91, fields := [(8, 1, 0)], claims := .dimm 0 :: unitClaims (sDev 16 2) 16 } (sDev 16 2)) ∧
    ((getDev (sDev 15 5) 15).st ∈ [1, 2, 5] ∧
      Accepted h0 { op := 0x94, fields := [(8, 1, 15)], claims := .stack 15 :: (drainUnits 15).flatMap (unitClaims (sDev 15 5)) } (sDev 15 5) ∧
      (∀ x ∈ (sDev 15 5).regions, onUnit x.2 15 = false)) := by decide

theorem witness_MemoryDevices_events :
    (populated (sDev 0 1) 0 = true ∧ (cwDecode (sDev 0 1) [] 0).2 = .clean ∧ (cwDecode (sDev 0 1) [] 1).2 = .clean) ∧
    (7 % 65536 ≠ (getCtx (sCtx { st := .running }) 0 0).gen % 65536 ∧ populated (sCtx { st := .running }) 0 = true ∧ (getCtx (sCtx { st := .running }) 0 0).st = .running ∧
      (cwReads { src := 0, part := some 0, ctx := some 0, pol := 2 } badLine 0 2 (sCtx { st := .running })).2.1 = false) ∧
    ((getDev (sDev 27 1) 27).st = 1 ∧ (sDev 27 1).clk.run = .running ∧ (sDev 27 1).clk.pendingChange = false ∧
      (sDev 27 1).fab.slew = 0 ∧ (sDev 27 1).clk.phase < 378 ∧ (getDev (sDev 27 1) 27).refreshGtc + 130 + 1 < 2 ^ 64) ∧
    ((getDev { sDev 0 1 with clk := {} } 0).st = 1 ∧ ({ sDev 0 1 with clk := {} } : State).clk.run = .stopped) ∧
    ((getDev (sDev 0 1) 0).st = 1 ∧ (sDev 0 1).clk.run ≠ .stopped ∧
      (getDev (sDev 0 1) 0).scrubAt + 2048 < (getDev (sDev 0 1) 0).cap * gib) := by decide +kernel

/-- A context of plinth die 2 whose region lies on stack 15, of plinth die 3. -/
def sCross : State := { sDev 15 1 with
  parts := [(0, { st := .running })], regions := [(1, { reg1 with members := [15] })]
  plinths := [(2, { ctxs := [(7, { st := .running, img := fit 64 [0, 0, 0, 0, 1] })] })] }

theorem witness_MemoryDevices_losses :
    ((getDev (sDev 16 2) 16).st = 2) ∧
    (0 ∈ crossParts sCross (linkEnds 5).1 (linkEnds 5).2 ∧ sCross.clk.run ≠ .stopped ∧
      (getPart sCross 0).st = .running ∧ (getPart sCross 0).faulted = false ∧ (getPart sCross 0).sfaults = []) ∧
    (1 ∈ [0, 1, 2, 3].filter (livePart { sCross with parts := [(0, { st := .running }), (1, { st := .running })] }) ∧
      1 ∉ crossParts { sCross with parts := [(0, { st := .running }), (1, { st := .running })] } (linkEnds 5).1 (linkEnds 5).2) ∧
    ([0, 1, 2, 3].filter (livePart (withPart { st := .running })) ≠ [] ∧
      ∀ p ∈ [0, 1, 2, 3].filter (livePart (withPart { st := .running })), p ∈ dieParts (withPart { st := .running }) 3) := by
  decide

def port0 : PortRun := { outbound := true, stream := 7, words := 4 }
def qe (body : QBody) : QEntry := { tag := 3, seq := 0, at_ := 0, body := body }

theorem witness_BandQueues :
    (ArmRuns 0 0 (isl { arm := arm } {}) ∧
      (getQ (getBand (advanceTo 0 (isl { arm := arm } {})) 0) .port).length < qDepth .port ∧
      (getBand (advanceTo 3 (isl {} {})) 0).seqState = 1) ∧
    (ArmRuns 0 0 (isl { arm := arm, qPort := List.replicate (qDepth .port) (qe (.port port0)) } {}) ∧
      qDepth .port ≤
        (getQ (getBand (advanceTo 0 (isl { arm := arm, qPort := List.replicate (qDepth .port) (qe (.port port0)) } {})) 0) .port).length) ∧
    (Live 3 0 (isl { qArray := [qe (.port port0)] } {}) ∧
      getQ (getBand (advanceTo 3 (isl { qArray := [qe (.port port0)] } {})) 0) .array = [qe (.port port0)] ∧
      (qe (.port port0)).at_ + 3 ≤ (advanceTo 3 (isl { qArray := [qe (.port port0)] } {})).clk.mcc ∧
      (qe (.port port0)).tag = jccAt 3 0 (isl { qArray := [qe (.port port0)] } {}) % 16) ∧
    (Live 3 0 (isl { qPort := [qe (.port port0)] } {}) ∧
      (getBand (advanceTo 3 (isl { qPort := [qe (.port port0)] } {})) 0).qPort = [qe (.port port0)] ∧
      (qe (.port port0)).tag = jccAt 3 0 (isl { qPort := [qe (.port port0)] } {}) % 16 ∧
      (getBand (advanceTo 3 (isl { qPort := [qe (.port port0)] } {})) 0).outRun = none ∧
      tget none (getBand (advanceTo 3 (isl { qPort := [qe (.port { port0 with outbound := false })] } {})) 0).inRuns 7 = none) := by
  decide +kernel

def deliv : Delivery := { at_ := 5, vector := true, entry := qe (.port port0) }

/-- A cell whose FIFO holds four entries. -/
def fourQueued : Cell := { vecFifo := List.replicate 4 (qe (.port port0)) }

theorem witness_DescriptorsReachEveryCell :
    Live 5 0 (isl { deliveries := [deliv] } {}) ∧
    (getBand (advanceTo 5 (isl { deliveries := [deliv] } {})) 0).deliveries.filter
      (fun x => x.at_ == jccAt 5 0 (isl { deliveries := [deliv] } {}) && x.vector == true) = [deliv] ∧
    (advanceTo 5 (isl { deliveries := [deliv] } {})).fence.contains (cellOf 0 127) = false ∧
    (getBand (advanceTo 5 (isl { deliveries := [deliv] } {})) 0).idle.contains 127 = false ∧
    (getCell (advanceTo 5 (isl { deliveries := [deliv] } {})) (cellOf 0 127)).vecFifo.length < 5 ∧
    (getCell (advanceTo 5 (isl { deliveries := [deliv] } fourQueued)) (cellOf 0 0)).vecFifo.length = 4 := by decide

theorem witness_CellRegisters :
    CellLive 1 0 0 (isl {} {}) ∧ predOk (getCell (advanceTo 1 (isl {} {})) (cellAt 1 0 0 (isl {} {}))) (jccAt 1 0 (isl {} {})) none = true ∧
    (getCell (advanceTo 1 (isl {} {})) (cellAt 1 0 0 (isl {} {}))).ctrSink.contains (jccAt 1 0 (isl {} {}), 7) = false ∧
    rowOccupies (getCell (advanceTo 1 (isl {} {})) (cellAt 1 0 0 (isl {} {}))) (jccAt 1 0 (isl {} {})) = false ∧
    (getCell (advanceTo 1 (isl {} {})) (cellAt 1 0 0 (isl {} {}))).early.contains (jccAt 1 0 (isl {} {}), false) = false := by
  decide

theorem witness_BundlesIssue :
    (CellLive 9 0 127 (isl {} {}) ∧ (9 + skewOf 127 .none) % 2 ^ 48 = jccAt 9 0 (isl {} {}) ∧
      (getBand (advanceTo 9 (isl {} {})) 0).perCell = false ∧ (getBand (advanceTo 9 (isl {} {})) 0).seqState = 1 ∧
      bundleFits (getCell (advanceTo 9 (isl {} {})) (cellAt 9 0 127 (isl {} {}))).wide [] = true ∧
      rival (advanceTo 9 (isl {} {})) 0 127 (jccAt 9 0 (isl {} {})) (cellAt 9 0 127 (isl {} {})) 9 0 = false) ∧
    (CellLive 9 0 0 (isl {} { bundle := some (9, 9, 0) }) ∧
      rival (advanceTo 9 (isl {} { bundle := some (9, 9, 0) })) 0 0 (jccAt 9 0 (isl {} { bundle := some (9, 9, 0) }))
        (cellAt 9 0 0 (isl {} { bundle := some (9, 9, 0) })) 9 1 = true) := by decide

def upd0 : FlagUpd := { band := 0, at_ := 0, flag := 63, add := true, v := 1 }
def sWait : State := { isl { arm := { st := .waitFlag, flag := 63, satisfied := true } } {} with
  wdog := [(0, 0x1000)], clk := { run := .running, mcc := 0x1000 }, parts := [(0, { st := .running, jcc := 0x1000 })] }

theorem witness_FlagsWaitsAndEnds :
    ArmRuns 0 0 (isl { arm := arm } {}) ∧
    ((getPart (advanceTo 1 (withPart { updates := [upd0] })) 0).updates = [upd0] ∧
      upd0.at_ < (advanceTo 1 (withPart { updates := [upd0] })).clk.mcc ∧ (advanceTo 1 (withPart { updates := [upd0] })).clk.run = .running) ∧
    ((getBand (advanceTo 0 sWait) 0).arm.st = .waitFlag ∧ (getBand (advanceTo 0 sWait) 0).arm.satisfied = true ∧
      (advanceTo 0 sWait).clk.run = .running) ∧
    (Live 0 0 (isl {} {}) ∧ (getBand (advanceTo 0 (isl {} {})) 0).seqState = 1) ∧
    (partOf (advanceTo 0x1000 sWait) 0 < 4 ∧ watchdogDue (advanceTo 0x1000 sWait) (partOf (advanceTo 0x1000 sWait) 0) 0 = true ∧
      (getPart (advanceTo 0x1000 sWait) (partOf (advanceTo 0x1000 sWait) 0)).pendCast = none) := by decide

def z64 : List Byte := zeros 64
/-- A lane that began at position 0 in cycle 0 and stands there still. -/
def lane0 (dest tag life : Nat) : Lane := {
  ccw := false, idx := 0, origin := 0, birth := 0, life := life, dest := dest, tag := tag, check := laneCheck z64 dest tag life
  data := z64, placed := true, emitted := false }

theorem witness_CaptureAndEmission :
    (CellLive 0 0 0 (isl { lanes := [lane0 0 0 127] } {}) ∧
      predOk (getCell (advanceTo 0 (isl { lanes := [lane0 0 0 127] } {})) 0) 0 none = true ∧
      laneSeen (getBand (advanceTo 0 (isl { lanes := [lane0 0 0 127] } {})) 0) 0 false
        ((getCell (advanceTo 0 (isl { lanes := [lane0 0 0 127] } {})) 0).laneCw.get 0) 0 = some (lane0 0 0 127) ∧
      0 ≤ (lane0 0 0 127).age 0 ∧ ringTime false 0 0 = (lane0 0 0 127).tag) ∧
    (laneAt (getBand (advanceTo 0 (isl {} {})) 0) 0 false 7 0 = none ∧
      (getCell (advanceTo 0 (isl {} { staged := [z64] })) 0).staged = [z64] ∧
      portLoser (getCell (advanceTo 0 (isl {} {})) 0) 0 false 0xF 1 [bankOf (spAddrOf {} 0 0 ⟨⟨0, 0⟩, none⟩ / 64 * 64)] = none ∧
      passTileRead (getCell (advanceTo 0 (isl {} {})) 0) 0 7 = false ∧ (0, 7) ∉ (getCell (advanceTo 0 (isl {} {})) 0).tileReads) ∧
    predOk (getCell (advanceTo 0 (isl {} {})) 0) 0 (some ⟨0, true⟩) = false := by decide +kernel

/-- The lane reaches the cell with no bit flipped, and its CHECK agrees, whatever the start value of CHECK is. -/
theorem witness_capture_check : (lane0 0 0 127).flip 0 [] = (lane0 0 0 127, true) ∧
    laneCheck (lane0 0 0 127).data (lane0 0 0 127).dest (lane0 0 0 127).tag (lane0 0 0 127).life = (lane0 0 0 127).check :=
  ⟨flip_clean _ 0 0 (by decide) (by decide) (by decide) (by decide) (by decide) (by decide), by simp only [lane0]⟩

theorem witness_CaptureIntoABank :
    z64.length = 64 ∧ portLoser (getCell act 0) 0 true 0xC 1 [bankOf (spAddrOf (getCell act 0) 0 0 ⟨⟨0x7FFC0, 0⟩, none⟩ / 64 * 64)] = none := by
  decide +kernel

theorem witness_LaneRemovalByAge : Live 0 0 (isl { lanes := [lane0 0 0 127] } {}) := by decide

def word7 : PortWord := { tag := 2, mask := 0xFF, data := [] }
def sPop : State := isl { inRuns := [(7, some { stream := 7, left := 1, from_ := 2 })], inStreams := [(7, [word7])] } {}
/-- Cycle 128. -/
def at128 (s : State) : State := { s with clk := { s.clk with mcc := 128 }, parts := [(0, { st := .running, jcc := 128 })] }
/-- A lane taken from the port in cycle 0, that reaches the ring at position 127 in cycle 128 of rotation 0. -/
def waiting : Lane := { lane0 0 0 127 with origin := 0, birth := 129, placed := false }
def sPlace : State := at128 (isl { lanes := [waiting] } {})
/-- A lane for the head whose AGE is 128 in cycle 128. -/
def toHead (dest : Nat) : Lane := lane0 dest 0 127
def sHead (dest : Nat) : State := at128 (isl { lanes := [toHead dest], outRun := some { stream := 0, left := 4, from_ := 0 } } {})

theorem witness_HeadMovesWords :
    (Live 2 0 sPop ∧ tget none (getBand (advanceTo 2 sPop) 0).inRuns 7 = some { stream := 7, left := 1, from_ := 2 } ∧
      0 ≤ ageAt (jccAt 2 0 sPop) 2 ∧ tget [] (getBand (advanceTo 2 sPop) 0).inStreams 7 = [word7] ∧
      word7.tag = jccAt 2 0 sPop % 16 ∧ (getBand (advanceTo 2 sPop) 0).seqState = 1 ∧
      (getBand (advanceTo 2 sPop) 0).used = none) ∧
    (∀ m ∈ (getBand (advanceTo 0 (isl { lanes := [lane0 0 0 127] } {})) 0).lanes,
      m.emitted = true ∨ m.birth ≠ (jccAt 0 0 (isl { lanes := [lane0 0 0 127] } {}) + 129) % 2 ^ 48) ∧
    (Live 128 0 sPlace ∧ (getBand (advanceTo 128 sPlace) 0).lanes.filter
        (fun x => x.places (getBand (advanceTo 128 sPlace) 0).rot (jccAt 128 0 sPlace)) = [waiting] ∧
      laneAt (getBand (advanceTo 128 sPlace) 0) (jccAt 128 0 sPlace) false 0 127 = none) ∧
    (Live 128 0 (sHead 1) ∧ (getBand (advanceTo 128 (sHead 1)) 0).lanes.filter
        (fun x => x.placed && x.dest != 0 && x.age (jccAt 128 0 (sHead 1)) == 128) = [toHead 1] ∧
      (toHead 1).idx < 8 ∧ (toHead 1).tag = jccAt 128 0 (sHead 1) % 16 ∧
      (getBand (advanceTo 128 (sHead 1)) 0).outRun = some { stream := 0, left := 4, from_ := 0 } ∧
      0 ≤ ageAt (jccAt 128 0 (sHead 1)) 0) := by decide +kernel

/-- The lane leaves the ring with no bit flipped, for each of the three units. -/
theorem witness_HeadMovesWords_check : ∀ d, 1 ≤ d → d ≤ 3 → (toHead d).flip 128 [] = (toHead d, true) ∧
    laneCheck (toHead d).data (toHead d).dest (toHead d).tag (toHead d).life = (toHead d).check :=
  fun d h1 h3 => by
    rcases (by omega : d = 1 ∨ d = 2 ∨ d = 3) with rfl | rfl | rfl <;>
      exact ⟨flip_clean _ 128 128 (by decide) (by decide) (by decide) (by decide) (by decide) (by decide),
        by simp only [toHead, lane0]⟩

def sw : SeamWord := { src := 1, dst := 0, track := 2, placedAt := 0, tag := 5, lanes := [] }

theorem witness_SeamCarriesWords :
    (Live 3 0 (isl { seamOut := some (3, []) } {}) ∧
      (getBand (advanceTo 3 (isl { seamOut := some (3, []) } {})) 0).seamOut = some (jccAt 3 0 (isl { seamOut := some (3, []) } {}), []) ∧
      trackOk 0 16 1 = true ∧ trackOk 0 1 1 = true ∧ trackOk 1 0 3 = true ∧
      routeOk (advanceTo 3 (isl { seamOut := some (3, []) } {})) (partOf (advanceTo 3 (isl { seamOut := some (3, []) } {})) 0) 0 16 = true ∧
      (advanceTo 3 (isl { seamOut := some (3, []) } {})).seam = []) ∧
    (Live 5 0 { isl {} {} with seam := [sw] } ∧ (advanceTo 5 { isl {} {} with seam := [sw] }).seam.filter
        (fun x => x.dst == 0 && ageAt (jccAt 5 0 { isl {} {} with seam := [sw] }) x.placedAt == (seamLatency x.src 0 : Int)) = [sw] ∧
      sw.tag = jccAt 5 0 { isl {} {} with seam := [sw] } % 16) := by decide +kernel

def bf : OpFmt := { elem := .bf16, mx := false }
def pass0 : PassDesc := {
  xf := bf, wf := bf, acc := .fp32, rows := 1, src0 := .sp ⟨0, 0⟩, src1 := none, scale := ⟨0, 0⟩, mask := 15, ins := [], outs := []
  stride := 64 }
def running0 : Pass := { d := pass0, e0 := 0, n := 0, wide := false, lat := 24, performed := true, q := 0, part := [] }
def step0 : Step := {
  array := 0, readAt := 4, writeAt := 9, inAddr := some 64, outAddr := 128, acc := .fp32, xf := bf, rows := [], gen := 0
  psum := none, ok := true, performed := true }
def fullShadow : Shadow := { fmt := bf, transposed := false, chunks := (List.range 8).map (fun i => (i, z64)) }
def sFifo : State := isl {} { arrayFifo := [qe (.array pass0)] }
def sStep (st : Step) : State := isl {} { steps := [st] }
def sShadow : State := isl {} { shadow := (List.range 4).map (fun i => (i, some fullShadow)) }

theorem witness_ArrayPasses :
    (CellLive 0 0 0 sFifo ∧ (getCell (advanceTo 0 sFifo) (cellAt 0 0 0 sFifo)).arrayFifo = [qe (.array pass0)] ∧
      passRate pass0.xf pass0.wf pass0.acc ≠ 0 ∧ (qe (.array pass0)).got ≠ some (jccAt 0 0 sFifo) ∧
      passOk (getCell (advanceTo 0 sFifo) (cellAt 0 0 0 sFifo)).wide pass0 = true ∧ passOk true pass0 = true ∧
      passBusy (getCell (advanceTo 0 sFifo) (cellAt 0 0 0 sFifo)) 3 = false) ∧
    (CellLive 0 0 0 (isl {} { passes := [running0] }) ∧
      (getCell (advanceTo 0 (isl {} { passes := [running0] })) 0).passes.find?
        (·.due (jccAt 0 0 (isl {} { passes := [running0] }))) = some running0) ∧
    (CellLive 4 0 0 (sStep step0) ∧ (getCell (advanceTo 4 (sStep step0)) (cellAt 4 0 0 (sStep step0))).steps = [step0] ∧
      step0.readAt = jccAt 4 0 (sStep step0) ∧
      portLoser (getCell (advanceTo 4 (sStep step0)) 0) (jccAt 4 0 (sStep step0)) false 0 0 [bankOf 64] = none) ∧
    (CellLive 9 0 0 (sStep { step0 with inAddr := none }) ∧
      portLoser (getCell (advanceTo 9 (sStep { step0 with inAddr := none })) 0) 9 true 0 0 [bankOf 128] = none) ∧
    (CellLive 0 0 0 sShadow ∧ ∀ i < 4, tget none (getCell (advanceTo 0 sShadow) 0).shadow i = some fullShadow) ∧
    (getCell (advanceTo 0 sShadow) 0).early.contains (jccAt 0 0 sShadow, true) = false ∧
    fullShadow.full = true ∧
    portLoser (getCell (advanceTo 0 (isl {} {})) 0) 0 false 7 4 [bankOf (spAddrOf {} 0 0 ⟨⟨0, 0⟩, none⟩ / 64 * 64)] = none := by
  decide +kernel

def opNone : VOperand := { src := .none, fmt := .fp32, strides := [0, 0, 0, 0] }
def vec0 : VecDesc := {
  opA := { src := .sp ⟨0, 0⟩, fmt := .fp32, strides := [0, 0, 0, 0] }, opB := opNone, opC := opNone, alu1 := none, func := none
  alu2 := none, red := none, sink := .sp ⟨4096, 0⟩, sinkFmt := .fp32, mxOut := false, stochastic := false, sat := false
  outStrides := [0, 0, 0, 0], loops := [1, 1, 1, 1], count := 64, mask := .none, zeroMode := false, keep := 0, limit := 0
  ctr := none, mxb := 16, mxWords := false, status := none }
def vrun0 : VecRun := {
  d := vec0, start := 0, issued := 0, words := 1, lat := 20, performed := true, q := 0, bcast := [], acc := [], active := [], run := []
  accN := 0, lanesOut := [], results := 0, packed := [], packedN := 0, packedWords := 0, taken := 0, mxBuf := [], held := none, flags := 0 }
def vout0 : VecOut := {
  at_ := 9, tile := false, bytes := [], banks := [0], ctr := none, ring := [z64], flags := 0, last := false, performed := true }
def sVec : State := isl {} { vecFifo := [qe (.vector vec0)] }

theorem witness_VectorDescriptors :
    (CellLive 0 0 0 sVec ∧ (getCell (advanceTo 0 sVec) (cellAt 0 0 0 sVec)).vecFifo = [qe (.vector vec0)] ∧ vecOk vec0 = true ∧
      (qe (.vector vec0)).got ≠ some (jccAt 0 0 sVec) ∧
      vecBusy (getCell (advanceTo 0 sVec) (cellAt 0 0 0 sVec)) (jccAt 0 0 sVec) = false) ∧
    (CellLive 0 0 0 (isl {} { vec := some vrun0 }) ∧
      (getCell (advanceTo 0 (isl {} { vec := some vrun0 })) 0).vec = some vrun0 ∧ vrun0.performed = true ∧
      0 ≤ ageAt (jccAt 0 0 (isl {} { vec := some vrun0 })) vrun0.start ∧
      (ageAt (jccAt 0 0 (isl {} { vec := some vrun0 })) vrun0.start).toNat < vrun0.words) ∧
    (CellLive 9 0 0 (isl {} { vecOuts := [vout0] }) ∧ (getCell (advanceTo 9 (isl {} { vecOuts := [vout0] })) 0).vecOuts = [vout0] ∧
      vout0.at_ = jccAt 9 0 (isl {} { vecOuts := [vout0] }) ∧
      (getCell (advanceTo 9 (isl {} { vecOuts := [vout0] })) 0).vec = none ∧ (getCell (advanceTo 9 (isl {} { vecOuts := [vout0] })) 0).vecOld = none ∧
      portLoser (getCell (advanceTo 9 (isl {} { vecOuts := [vout0] })) 0) 9 true 8 0 vout0.banks = none) ∧
    (CellLive 9 0 0 (isl {} { vecStatus := [(9, 64, some 1)] }) ∧
      portLoser (getCell (advanceTo 9 (isl {} { vecStatus := [(9, 64, some 1)] })) 0) 9 true 0xE 0 [bankOf 64] = none) := by
  decide +kernel

def row0 : RowDesc := {
  op := .statRms, fmtIn := .fp32, fmtOut := .fp32, rows := 1, n := 16, off := 0, first := true, recIdx := 0, brecIdx := 0, recB := none
  scale := 0x3F800000, mask := .none, row0 := 0, diag := 0, width := 1, eps := 0, na := 0, nb := 0, outDir := .cw, outLanes := []
  outLaps := 1, outDest := 0, status := none }
def rowRun0 : RowRun := {
  d := row0, start := 0, count := 0, lastAt := 0, flags := 0, drainAt := some 9, side := 0, laneQ := [] }
def sRow : State := isl { qRow := [{ qe (.row row0) with tag := 3 }] } {}
def sRowIn : State := isl { row := some rowRun0, rowIn := [(1, [(0, z64)])] } {}

theorem witness_RowEngineDescriptors :
    (Live 3 0 sRow ∧ (getBand (advanceTo 3 sRow) 0).seqState = 1 ∧
      (getBand (advanceTo 3 sRow) 0).row = none ∧ (getBand (advanceTo 3 sRow) 0).qRow = [qe (.row row0)] ∧
      (qe (.row row0)).at_ + 3 ≤ (advanceTo 3 sRow).clk.mcc ∧ (qe (.row row0)).tag = jccAt 3 0 sRow % 16 ∧ rowOk row0 = true) ∧
    (Live 1 0 sRowIn ∧ (getBand (advanceTo 1 sRowIn) 0).row = some rowRun0 ∧ rowRun0.count < rowGroups row0 ∧
      1 ≤ ageAt (jccAt 1 0 sRowIn) rowRun0.start ∧ (((getBand (advanceTo 1 sRowIn) 0).rowIn.filter
        (fun x => x.1 == jccAt 1 0 sRowIn)).flatMap (fun x => x.2.map (·.2))).length = groupLanes row0 0) ∧
    (Live 9 0 sRowIn ∧ (getBand (advanceTo 9 sRowIn) 0).row = some rowRun0 ∧ 0 ≤ ageAt (jccAt 9 0 sRowIn) 9) := by decide +kernel

/-- A context image: KIND, byte 3, region handle 1, TARGET, one word. -/
def mkImg (kind b3 target : Nat) : List Byte :=
  fit 64 ([0, 0, BitVec.ofNat 8 kind, BitVec.ofNat 8 b3, 1, 0, BitVec.ofNat 8 target, 0] ++ zeros 16 ++ [1])
/-- Context 0 of plinth die 0, with its region on stack 0, and stream 0 of band 0 with room for eight words. -/
def sStream (c : Ctx) (r : Region) : State := { sDev 0 1 with
  parts := [(0, { st := .running })], regions := [(1, r)], plinths := [(0, { ctxs := [(0, c)] })]
  bands := [(0, { bound := true, allocIn := [(0, 8)], outStreams := [(0, [word7])] })], chans := [(0, { st := .open_ })] }
def cFetch : Ctx := { st := .running, img := mkImg 0 0 0, bands := [0] }
/-- It waits for update count 1. -/
def cWait : Ctx := { cFetch with img := fit 64 ([0, 0, 0, 64, 1, 0, 0, 0] ++ zeros 8 ++ [1] ++ zeros 7 ++ [1]) }
def whoS : MemWho := { src := 0, part := some 0, ctx := some 0, pol := 2 }

theorem witness_InboundStreams :
    (act.clk.run = .running ∧ nextReady (sStream cFetch reg1) 0 0 = some 0 ∧
      resolve (sStream cFetch reg1) 0 (ctxRegion cFetch.img) = some (1, reg1) ∧ 
      ctxKind cFetch.img ≠ 1 ∧
      wordInside (boundSize (sStream cFetch reg1) cFetch) cFetch.img 0 = true) ∧
    (1 ≠ (getCtx (sStream cFetch reg1) 0 0).gen) ∧
    ((getCtx (sStream { cFetch with flight := [0], next := 1 } reg1) 0 0).flight = [0] ∧
      (getCtx (sStream { cFetch with flight := [0], next := 1 } reg1) 0 0).st = .running ∧ ctxKind cFetch.img = 0 ∧
      (readWord whoS reg1 (64 * ctxOffset cFetch.img 0) [] 8 (sStream { cFetch with flight := [0], next := 1 } reg1)).2.1 = true ∧
      endpointStops (sStream { cFetch with flight := [0], next := 1 } reg1) 0 = false) ∧
    (ctxWaits (mkImg 0 64 0) 0 = true ∧
      ucReached (sStream { cFetch with img := mkImg 0 64 0 } reg1) { cFetch with img := mkImg 0 64 0 } = true ∧
      (getCtx (sStream cWait { reg1 with failed := true }) 0 0).st = .running ∧ ctxWaits cWait.img 0 = true ∧
      ucReached (sStream cWait { reg1 with failed := true }) cWait = false ∧
      resolve (sStream cWait { reg1 with failed := true }) 0 (ctxRegion cWait.img) = some (1, { reg1 with failed := true })) := by decide +kernel

def cStore : Ctx := { cFetch with img := mkImg 1 0 0 }
def cHeld : Ctx := { cFetch with img := mkImg 2 0 0, held := some (0, [word7], 0) }
def cShard : Ctx := { cFetch with img := mkImg 3 0 0, held := some (0, [word7], 0) }
def gtcAt (g : Nat) (s : State) : State := { s with clk := { s.clk with gtc := g } }
def partSt (q : Part) (s : State) : State := { s with parts := [(0, q)] }

theorem witness_OutboundStreams :
    (ctxKind cStore.img = 1 ∧ ctxState (sStream cStore reg1) 0 0 = 2 ∧ endpointStops (sStream cStore reg1) 0 = false ∧
      tget [] (getBand (sStream cStore reg1) 0).outStreams (ctxStream cStore.img) = [word7] ∧
      resolve (sStream cStore reg1) 0 (ctxRegion cStore.img) = some (1, reg1) ∧ 
      wordInside (boundSize (sStream cStore reg1) cStore) cStore.img 0 = true ∧ storeTurn (sStream cStore reg1) 0 0 = true ∧
      ctxTag cStore.img 0 ≠ word7.tag) ∧
    (cStore.st = .running ∧ cHeld.st = .running ∧ ctxKind cHeld.img = 2 ∧ cHeld.bands.contains (endpointBand 0 0) = true ∧
      1 ≠ (getCtx (sStream cHeld reg1) 0 0).gen ∧ endpointBand 0 0 = 0 ∧ cHeld.flight = [] ∧ cHeld.grants.contains 0 = false ∧
      1 ≤ inSpace (sStream cHeld reg1) 0 (ctxStream cHeld.img) ∧ endpointStops (sStream cHeld reg1) 0 = false ∧
      (∀ x ∈ cHeld.bands, x = endpointBand 0 0) ∧ endpointStops (partSt { st := .cast } (sStream cHeld reg1)) 0 = true ∧
      1 ≤ inSpace (partSt { st := .cast } (sStream cHeld reg1)) 0 (ctxStream cHeld.img)) ∧
    ((getCtx (sStream cHeld reg1) 0 0).bands.filter (fun b => !(getCtx (sStream cHeld reg1) 0 0).grants.contains b) ≠ [] ∧
      0 + max 1 (getPl (gtcAt 100000 (sStream cHeld reg1)) 0).mcastTo * 1000 ≤ (gtcAt 100000 (sStream cHeld reg1)).clk.gtc) ∧
    ((getCtx (sStream { cStore with st := .draining, tokens := 2 } reg1) 0 0).st = .draining ∧
      1 < (getCtx (sStream { cStore with st := .draining, tokens := 2 } reg1) 0 0).tokens ∧
      (getCtx (sStream { cStore with st := .draining, tokens := 1 } reg1) 0 0).tokens ≤ 1) ∧
    ((getCtx (sStream cShard reg1) 0 0).held = some (0, [word7], 0) ∧ (getCtx (sStream cShard reg1) 0 0).flight = [] ∧
      (getCtx (sStream cShard reg1) 0 0).st = .running ∧ ctxKind cShard.img = 3 ∧ ctxState (sStream cShard reg1) 0 0 = 2 ∧
      ctxShard cShard.img = (getChan (sStream cShard reg1) (bits (ctxTarget cShard.img) 0 10)).nextShard ∧
      ctxTotal cShard.img ≤ [word7].length) := by decide +kernel

def sLink (x : Link) : State := { act with links := [(0, x)], lasers := [(0, { st := 1 })] }
def sLaser (n st : Nat) : State := { act with lasers := [(n, { st := st })] }
def up : Link := { st := .active }

theorem witness_LinkAndLaserCommands :
    (Accepted h0 { op := 0x30, fields := [(8, 1, 0)], claims := [.link 0], modFatal := true } (sLink {}) ∧ litLaser (sLink {}) (0 / 8) = true ∧
      routesOver (sLink {}) 0 = false) ∧
    (Accepted h0 { op := 0x31, fields := [(8, 1, 0)], claims := [.link 0] } (sLink { st := .drained }) ∧
      (getLink (sLink { st := .drained }) 0).st = .drained) ∧
    (Accepted h0 { op := 0x32, fields := [(8, 1, 0)], claims := [.link 0] } (sLink up) ∧ (getLink (sLink up) 0).st = .active ∧
      routesOver (sLink up) 0 = false) := by decide

theorem witness_LinkAndLaserCommands_lasers :
    (Accepted h0 { op := 0x92, fields := [(8, 1, 3)], claims := .laser 3 :: (laserLinks 3).map .link } (sLaser 3 1) ∧
      (∀ l ∈ laserLinks 3, (getLink (sLaser 3 1) l).st ∈ [LinkSt.down, .drained, .failed, .noLight])) ∧
    (Accepted h0 { op := 0x93, fields := [(8, 1, 3)], claims := .laser 3 :: (laserLinks 3).map .link } (sLaser 3 4) ∧ (getLaser (sLaser 3 4) 3).st = 4 ∧
      (getLaser (sLaser 0 4) 3).st = 0) := by decide

def fq : Frame := .msg .quiesce
def credited : Link := { up with queue := [fq], granted := [(2, 256)] }
def fd : Frame := .red 0 0 0 (zeros 8)
def full : Link := { up with queue := [fd], granted := [(0, 1)], ctrl := [.root] }
def waitingAck : Link := { up with unacked := [(0, fq)], txSeq := 1 }

theorem witness_LinkRetry :
    (framing (getLink (sLink credited) 0) = true ∧ (getLink (sLink credited) 0).nakDue = false ∧
      (getLink (sLink credited) 0).replay = [] ∧ readyMsg (sLink credited).clk.gtc (getLink (sLink credited) 0) = some (fq, [])) ∧
    (framing (getLink (sLink full) 0) = true ∧ readyMsg (sLink full).clk.gtc (getLink (sLink full) 0) = none ∧
      readyData (getLink (sLink full) 0) = some (fd, []) ∧ (getLink (sLink full) 0).ctrl ≠ [] ∧
      ctrlDue (sLink full).clk.gtc (getLink (sLink full) 0) = false ∧
      ctrlDue (sLink { full with sinceCtrl := 255 }).clk.gtc (getLink (sLink { full with sinceCtrl := 255 }) 0) = true ∧
      readyData (getLink (sLink { up with ctrl := [.root] }) 0) = none ∧ readyMsg (sLink up).clk.gtc (getLink (sLink up) 0) = none ∧
      (getLink (sLink up) 0).ctrl = []) ∧
    (getLink (sLink up) 0).nakSent = false ∧
    (fromSeq (4096 % 4096) (getLink (sLink waitingAck) 0).unacked = (0, fq) :: [] ∧
      (getLink (sLink waitingAck) 0).stuck < max 1 (getLink (sLink waitingAck) 0).retryMax) ∧
    ((32767 + 65536 - tget 0 (getLink (sLink up) 0).granted 2 % 65536) % 65536 < 32768) ∧
    (getLink (gtcAt 4000 (sLink waitingAck)) 0).progressGtc + max 1 (getLink (gtcAt 4000 (sLink waitingAck)) 0).retryTo * 100 ≤
      (gtcAt 4000 (sLink waitingAck)).clk.gtc := by decide

theorem witness_LinkRetry_bytes : (∀ a r bs, FrameFail.crc ≠ .bytes a r bs) ∧ (zeros 256).length = 256 ∧
    ¬ (([] : List Byte).length = 268 ∧ leNat (([] : List Byte).drop 264) = (crc32c (([] : List Byte).take 264)).toNat) :=
  ⟨fun _ _ _ => nofun, by decide +kernel, fun h => absurd h.1 (by decide)⟩

theorem witness_LinkTraining :
    (getLink (sLink { st := .optical }) 0).st = .optical ∧ (getLink (sLink { st := .equalise }) 0).st = .equalise ∧
    (getLink (sLink { st := .fecLock }) 0).st = .fecLock ∧
    ((getLink (sLink { st := .retrain, phase := 1 }) 0).st = .retrain ∧ (getLink (sLink { st := .retrain, phase := 1 }) 0).phase < 4 ∧
      (getLink (sLink { st := .recal, phase := 4 }) 0).st = .recal ∧ 4 ≤ (getLink (sLink { st := .recal, phase := 4 }) 0).phase) ∧
    ((getLink (sLink { st := .retrain, row := 2 }) 0).row < 3 ∧ 3 ≤ (getLink (sLink { st := .retrain, row := 3 }) 0).row ∧
      3 ≤ (getLink (sLink { st := .active, row := 3 }) 0).row) ∧
    (getLink (sLink { st := .param, phase := 4 }) 0).st = .param ∧
    4 ≤ (getLink (sLink { st := .param, phase := 4 }) 0).phase ∧ (getLink (sLink { st := .param, phase := 4 }) 0).peerCredits = [] ∧
    (getLink (sLink { st := .param, peerCredits := [1, 2, 3] }) 0).peerCredits ≠ [] ∧
    ((getLink (sLink { st := .active, row := 2 }) 0).st = .active ∧ (getLink (sLink { st := .active, row := 2 }) 0).row < 3) ∧
    (getLink (sLink { st := .drained }) 0).st = .drained ∧ (sLink {}).pwr.st ≠ .standby ∧ (sLink {}).pwr.st ≠ .aux ∧
    State.reset.pwr.st = .aux := by decide

def sHears : State := { sLink { up with root := some (0, 5, 77) } with fab := { parent := some 0 } }
def sLoses (ts : Nat) : State := { act with clk := { run := .running, timeState := ts, gtc := 10000000 } }

/-- The one root that is heard stands 15 hops away. -/
def sFar : State := sLink { up with root := some (15, 2, 77) }

theorem witness_FabricTime :
    (framing (getLink sHears 0) = true ∧ sHears.fab.parent = some 0) ∧
    ({ sHears with clk := { run := .running, timeState := 1 } } : State).fab.offsets.length < 15 ∧
    ((getLink (chooseRoot sHears) 0).st = .active ∧ (chooseRoot sHears).fab.rootPrioOf ≠ 0) ∧
    (bestHeard (sLoses 0) = none ∧ (sLoses 0).fab.rootPrio ≠ 0 ∧ (sLoses 0).clk.timeState = 0 ∧
      (∀ l < 32, heardFar (sLoses 0) l = none)) ∧
    (bestHeard sFar = none ∧ sFar.fab.rootPrio ≠ 0 ∧ sFar.clk.timeState = 0 ∧ heardFar sFar 0 = some (2, 77) ∧
      betterRoot (2, 77) (sFar.fab.rootPrio, sFar.ident.fabId) = true) ∧
    (bestHeard (sLoses 3) = none ∧ (sLoses 3).fab.rootPrio ≠ 0 ∧ (sLoses 3).clk.timeState = 3 ∧ (∀ l < 32, heardFar (sLoses 3) l = none) ∧
      (sLoses 3).fab.lostGtc + (sLoses 3).fab.holdoverMs * 1000000 ≤ (sLoses 3).clk.gtc) := by decide +kernel

theorem witness_LaserModuleEvents : litLaser (sLaser 3 1) 3 = true ∧ litLaser (sLaser 3 2) 3 = true ∧
    (getLaser (sLaser 3 1) 3).st = 1 ∧ (getLaser (sLaser 3 2) 3).st = 2 ∧ (getLaser (sLaser 3 5) 3).st ∉ [1, 2, 3] ∧
    (getLaser (sLaser 3 3) 3).st = 3 := by decide

def sRoutes : State := { sLink up with chans := [(0, { st := .open_, edges := [(0, 1)] })] }
def sDrains : State := gtcAt 1000000 (sLink { up with drain := true })

theorem witness_LinkManagementMessages :
    (InOrder 0 0 2 (sLink up) ∧ routesOver (sLink up) 0 = false ∧ ∀ typ, MsgFault.kind ≠ .reserved typ) ∧
    (InOrder 0 0 2 sRoutes ∧ routesOver sRoutes 0 = true ∧ (getLink sRoutes 0).st = .active) ∧
    (framing (getLink (sLink { up with msgSeq := some 0 }) 0) = true ∧
      (getLink (sLink { up with msgSeq := some 0 }) 0).msgSeq = some (4096 % 4096)) ∧
    (InOrder 0 0 2 sDrains ∧ (getLink sDrains 0).drain = true ∧ (getLink sDrains 0).st = .active ∧
      (getLink sDrains 0).unacked = [] ∧ (getLink sDrains 0).drainGtc + 1000000 ≤ sDrains.clk.gtc) :=
  ⟨⟨by decide, by decide, fun _ h => by cases h⟩, by decide⟩

/-- Channel 1023, owned here: edge 0 an input of rank 1, edge 1 the output where `out` says so. -/
def chan0 (st : ChSt) (out : Bool) : Chan := {
  st := st, units := 1, shard := 1, nextGen := 1, edges := if out then [(0, 17), (1, 3)] else [(0, 17)] }
def sChan (c : Chan) : State := { sLink up with links := [(0, up), (1, up)], chans := [(1023, c)] }
/-- A channel whose fields CHANNEL_OPEN accepts: part 0 bound, regions 1 (parameters), 2 and 3 (weights and moments). -/
def openable : State := { sDev 0 1 with
  parts := [(0, { st := .bound })], links := [(0, up)]
  regions := [(1, { reg1 with param := true }), (2, reg1), (3, reg1)]
  chans := [(1023, { chan0 .free false with preg := 1, mreg := 2, sreg := 3 })] }

theorem witness_ChannelsOpenAndClose :
    (Accepted h0 { op := 0x40, fields := [(8, 2, 1023)], claims := [.channel 1023], modFatal := true } openable ∧ (getChan openable 1023).st = .free ∧
      (getPart openable (chPart (getChan openable 1023))).st = .bound ∧ chanFields openable (getChan openable 1023) = true ∧
      chanBound openable (getChan openable 1023) = true ∧
      (∀ l, l < 32 → edgeRole (getChan openable 1023) l ≠ 0 → (getLink openable l).st = .active)) ∧
    (Accepted h0 { op := 0x41, fields := [(8, 2, 1023)], claims := [.channel 1023] } (sChan (chan0 .open_ false)) ∧
      Carries (sChan (chan0 .open_ false)) 1023 ∧
      (∃ k ∈ chChildren (getChan (sChan (chan0 .open_ false)) 1023),
        (tget {} (getChan (sChan (chan0 .open_ false)) 1023).edgeQ k).drained = false)) := by decide +kernel

theorem witness_ChannelFrames :
    (zeros 256).length = 256 ∧ Carries (sChan (chan0 .active true)) 1023 ∧ InOrder 0 0 0 (sChan (chan0 .active true)) ∧
    edgeRole (getChan (sChan (chan0 .active true)) 1023) 0 = 1 ∧ 0 < (getChan (sChan (chan0 .active true)) 1023).units ∧
    InOrder 1 0 1 (sChan (chan0 .active true)) ∧ chOutput (getChan (sChan (chan0 .active true)) 1023) = some 1 ∧
    0 < chParams (getChan (sChan (chan0 .active true)) 1023) := by decide +kernel

def sDrained : State := sChan { chan0 .draining true with edgeQ := [(0, { drained := true })] }
def sAligned : State := { sChan (chan0 .active true) with
  parts := [(0, { st := .running })], clk := { run := .running, timeState := 2, gtc := 5 } }

theorem witness_ChannelMessages :
    InOrder 0 0 2 (sChan (chan0 .active true)) ∧ (getChan (sChan (chan0 .active true)) 1023).repDue = [] ∧
    (tget {} (getChan (sChan (chan0 .active true)) 1023).edgeQ 0).skip = 0 ∧
    (getChan (sChan (chan0 .open_ true)) 1023).st = .open_ ∧ InOrder 1 0 2 sDrained ∧
    ((getChan sDrained 1023).st = .draining ∧ chOutput (getChan sDrained 1023) = some 1 ∧
      (∀ k ∈ chChildren (getChan sDrained 1023), (tget {} (getChan sDrained 1023).edgeQ k).drained = true)) ∧
    (InOrder 0 0 2 sAligned ∧ Carries sAligned 1023 ∧ sAligned.clk.gtc ≤ 5 ∧ sAligned.clk.gtc < 2 ^ 45 ∧
      sAligned.castSeen.contains 5 = false ∧ aligned sAligned = true ∧
      (getPart sAligned (chPart (getChan sAligned 1023))).st = .running ∧
      (getPart sAligned (chPart (getChan sAligned 1023))).castGtc = none) := by decide +kernel

def rx : RxBody := { offset := 0, body := zeros 256, gtc := 0 }
def folds : Chan := { chan0 .active false with edgeQ := [(0, { red := [rx], next := 1 })] }
/-- CH_CFG with LOCAL set, and an owner whose optimiser works on regions 2 and 3. -/
def lateCh : Chan := { chan0 .active true with cfg := 8, deadline := 1, waitFrom := some 0 }
def sOpt : State := { openable with
  chans := [(1023, { chan0 .active false with preg := 1, mreg := 2, sreg := 3, reduced := [(0, [])] })] }
def returns : Chan := { chan0 .active false with outQ := [rx], outFrom := some 0 }
def sReturns (granted : Nat) : State :=
  gtcAt 100000 { sChan returns with links := [(0, { up with granted := [(1, granted)] })] }
def whoU : MemWho := { src := 1, part := some 0, ctx := none, pol := 1 }

theorem witness_ChannelWork :
    (chTerms folds ≠ [] ∧ folds.units ≠ 0 ∧ (pickAll folds 0 (chTerms folds)).isSome = true ∧
      (getChan (sChan folds) 1023).st = .active) ∧
    ((getChan (gtcAt 1000 (sChan lateCh)) 1023).waitFrom = some 0 ∧ lateCh.deadline ≠ 0 ∧ 0 + lateCh.deadline * 1000 ≤ 1000 ∧
      (0, Term.localTerm) ∈ chTerms lateCh ∧ pickTerm lateCh 1000 (0, .localTerm) = none) ∧
    ((getChan sOpt 1023).reduced = [(0, [])] ∧ resolve sOpt 0 (getChan sOpt 1023).mreg = some (2, reg1) ∧
      resolve sOpt 0 (getChan sOpt 1023).sreg = some (3, reg1) ∧
      (regionBytes whoU reg1 ((getChan sOpt 1023).mbase * 64 + 0 % (getChan sOpt 1023).units * 256) 256 sOpt).2.1 = true ∧
      chOpt (getChan sOpt 1023) = 0 ∧
      (regionBytes whoU reg1 ((getChan sOpt 1023).sbase * 64 + 0 % (getChan sOpt 1023).units * 256) 256
        (regionBytes whoU reg1 ((getChan sOpt 1023).mbase * 64 + 0 % (getChan sOpt 1023).units * 256) 256 sOpt).2.2).2.1 = true) ∧
    (transferLen (getChan (sReturns 1) 1023) = 1 ∧ lagging (sReturns 1) (getChan (sReturns 1) 1023) 1 = []) ∧
    (lagging (sReturns 0) (getChan (sReturns 0) 1023) 1 ≠ [] ∧ (getChan (sReturns 0) 1023).outFrom = some 0 ∧
      0 + max 1 (sReturns 0).redMcastTo * 1000 ≤ (sReturns 0).clk.gtc) := by decide +kernel

/-- A maquette of one band with empty programs; its header ends with the CRC-32C of the bytes before it (R192), worked out by
hand. -/
def hdrA : List Byte := [0x5A, 0x58, 0x4D, 0x51, 1, 0, 0, 0, 0x40, 1, 0, 0, 0, 0, 0, 0, 0, 0, 0, 0, 0, 1, 0, 0] ++ zeros 16 ++ [0, 1]
def hdr0 : List Byte := hdrA ++ zeros 42 ++ zeros 42 ++ zeros 42 ++ zeros 42 ++ zeros 42
def band0 : BandEntry := {
  idle := [], perCell := false, nContexts := 0, seqImg := [], armImg := [], cellImgs := []
  seqCrc := (crc32c []).toNat, armCrc := (crc32c []).toNat, cellCrcs := [] }
def maq1 : Maquette := {
  hdr := hdr0 ++ [0x58, 0x80, 0x7E, 0x02], bands := [band0], seams := [], regions := [], contexts := [], sigBlock := none
  signedBytes := hdr0 ++ [0x58, 0x80, 0x7E, 0x02] ++ zeros 64 }
def sLoad : State := { sDev 0 1 with parts := [(3, {})], partMap := [3, 3, 3, 3, 3, 3, 3, 3] }
def sBind : State := { sLoad with parts := [(3, { st := .loaded, maq := some maq1 })] }

/-- Partition 0 runs, and the window of its cell 0 is closed to the host and to the endpoint's engines. -/
def sClosed : State := { isl {} {} with parts := [(0, { st := .running }), (3, {})] }
/-- The state once an explicit table at 0 of host memory has been read. -/
def vBind (s : State) : State := hostIn 0 (tableBytes s 3) (taken h0 s)

theorem crc_append (c : W32) (a b : List Byte) : crc32cStep c (a ++ b) = crc32cStep (crc32cStep c a) b := List.foldl_append
theorem crc_hdr0 : crc32c hdr0 = 0x027E8058 := by
  have e0 : crc32cStep 0xFFFFFFFF hdrA = 2658270829 := by decide +kernel
  have e1 : crc32cStep 2658270829 (zeros 42) = 2190398226 := by decide +kernel
  have e2 : crc32cStep 2190398226 (zeros 42) = 3294364322 := by decide +kernel
  have e3 : crc32cStep 3294364322 (zeros 42) = 2378339981 := by decide +kernel
  have e4 : crc32cStep 2378339981 (zeros 42) = 2229815937 := by decide +kernel
  have e5 : crc32cStep 2229815937 (zeros 42) = 4253122471 := by decide +kernel
  unfold crc32c hdr0
  rw [crc_append, crc_append, crc_append, crc_append, crc_append, e0, e1, e2, e3, e4, e5]
  decide
theorem form_maq1 : maqFormOk maq1 = true := by
  have h : crc32c (maq1.hdr.take 0xFC) = 0x027E8058 := (congrArg crc32c (by decide +kernel : maq1.hdr.take 0xFC = hdr0)).trans crc_hdr0
  unfold maqFormOk
  simp only [h]
  decide +kernel
/-- LOAD_MAQUETTE's checks pass. -/
theorem witness_LoadAndBind_checks : loadCheck (hostIn 4096 320 (taken h0 sLoad)) 3 320 maq1 = none := by
  unfold loadCheck
  simp only [form_maq1]
  decide +kernel

theorem witness_LoadAndBind :
    (locOk h0 0 = true ∧ bulkOk sLoad 0 4096 320 = true ∧
      Accepted h0 {
        op := 0x10, fields := [(8, 1, 3), (9, 1, 0), (16, 8, 4096), (24, 8, 320)], loc := some 0, claims := partClaims sLoad 3
        modFatal := true } sLoad ∧ (hostIn 4096 320 (taken h0 sLoad)).sec.st = .operational ∧ (getPart sLoad 3).st ≠ .running ∧
      (getPart sLoad 3).st ≠ .paused ∧ sLoad.sec.st = .operational) ∧
    (locOk h0 1 = true ∧ bulkOk sClosed 1 0x200000000000 320 = true ∧ Accepted h0 {
        op := 0x10, fields := [(8, 1, 3), (9, 1, 1), (16, 8, 0x200000000000), (24, 8, 320)], loc := some 1
        claims := partClaims sClosed 3, modFatal := true } sClosed ∧
      (spaceRead 0x200000000000 7 320 (taken h0 sClosed)).1 = none) ∧
    (Accepted h0 {
        op := 0x11, fields := [(8, 1, 3), (9, 1, 0), (10, 1, 0), (16, 8, 0), (24, 8, 0)], loc := some 0, claims := partClaims sBind 3
        modFatal := true } sBind ∧ Accepted h0 {
        op := 0x11, fields := [(8, 1, 3), (9, 1, 0), (10, 1, 1), (16, 8, 0), (24, 8, 0)], loc := some 0, claims := partClaims sBind 3
        modFatal := true } sBind ∧ (getPart sBind 3).st = .loaded ∧ bulkOk sBind 0 0 (tableBytes sBind 3) = true ∧
      (getPart sBind 3).maq = some maq1 ∧ (getPart (vBind sBind) 3).st = .loaded ∧ (getPart (vBind sBind) 3).maq = some maq1 ∧ maq1.bands.length ≤ [(31, 127)].length ∧ (∀ x ∈ [(31, 127)], x.1 < 32 ∧ x.2 < 128) ∧
      (∀ x ∈ sBind.regions, x.1 / 65536 = 3 → x.2.imported = false)) := by decide +kernel

/-- Tier memory holds zeros, which are not the maquette. -/
theorem witness_LoadAndBind_image : imageIs none maq1 = true ∧ ((spaceRead 0 7 320 (taken h0 sLoad)).1.map (fun b => imageIs (some b) maq1)) = some false ∧
    bulkOk sLoad 1 0 320 = true := by decide +kernel

theorem witness_LoadAndBind_choice :
    ((bindChoice (taken h0 sBind) 3 maq1 false []).toOption = some [(0, 0)]) ∧
    ((bindChoice (vBind sBind) 3 maq1 true [(31, 127)]).toOption = some [(31, 127)]) := by decide +kernel

theorem witness_LoadAndBind_placed : (bindTo 3 maq1 [(0, 0)] (taken h0 sBind)).toOption.isSome = true ∧
    (bindTo 3 maq1 [(31, 127)] (vBind sBind)).toOption.isSome = true := by decide +kernel

def sClk (c : Clock) (q : Part) : State := { act with clk := c, parts := [(0, q)] }
def sFreq : State := sClk { run := .running, pendingChange := true, freqAt := 2 ^ 64 - 4096 } {}

def sPll : State := { act with clk := { run := .running, fastLock := true, coreLock := true } }

theorem witness_ClockEvents :
    act.clk.run = .running ∧ (advanceTo (nextPulse act) act).clk.run = .running ∧ regionRuns sPll 0 = true ∧ regionRuns sPll 45 = true ∧
    ((getPart (withPart { st := .running, jcc := 2 ^ 48 - 1 }) 0).endJcc = none ∧
      2 ^ 48 - (getPart (withPart { st := .running, jcc := 2 ^ 48 - 1 }) 0).jcc ≤ 64 - act.clk.mcc % 64) ∧
    ((getPart (withPart { st := .running, jcc := 2 ^ 48 - 1 }) 0).islandRuns = true ∧
      (getPart (withPart { st := .running, jcc := 2 ^ 48 - 1 }) 0).jcc < 2 ^ 48 ∧ act.clk.pendingChange = false) ∧
    (sFreq.clk.pendingChange = true ∧ sFreq.clk.run = .running ∧ sFreq.clk.mcc ≤ sFreq.clk.freqAt ∧ sFreq.clk.freqAt < 2 ^ 64) ∧
    ((sClk { run := .pause } {}).clk.run = .pause ∧ (sClk { run := .pause } {}).clk.queuedTgt = none ∧
      (sClk { run := .pause } {}).clk.gtc < 2 ^ 64) := by decide

def sReq : State := isl {} {}
def sHold : State := partSt { st := .running, reqFor := some 64, reqs := [(0, true, false)] } (isl {} {})

theorem witness_HoldsAtBoundaries :
    ((advanceTo 24 sReq).clk.mcc = 24 ∧ (advanceTo 24 sReq).clk.run = .running ∧ (getPart (advanceTo 24 sReq) 0).st = .running ∧
      (24 + 40) % 64 = 0 ∧ (portAsks (advanceTo 24 sReq) ⟨0, [(0, 1)], [(0, 1)]⟩) = (0, true, true) ∧ partOf sReq 0 = 0 ∧ (getBand (advanceTo 24 sReq) 0).bound = true) ∧
    ((63 + 1) % 64 = 0 ∧ (advanceTo 63 sHold).clk.mcc = 63 ∧ (advanceTo 63 sHold).clk.run = .running ∧
      (getPart (advanceTo 63 sHold) 0).st = .running ∧ (getPart (advanceTo 63 sHold) 0).pauseAt = none ∧
      castDue (advanceTo 64 (advanceTo 63 sHold)) (getPart (advanceTo 64 (advanceTo 63 sHold)) 0) = none ∧
      (advanceTo 64 (advanceTo 63 sHold)).clk.run = .running ∧ (getPart (advanceTo 63 sHold) 0).decided ≠ some 64 ∧ reqsAt (getPart (advanceTo 63 sHold) 0) 64 ≠ []) ∧
    reqsAt (getPart (advanceTo 63 sReq) 0) 64 = [] := by decide

theorem witness_EventsThatOnlyLetTimePass :
    ¬ Live 5 31 act ∧ ¬ Live 5 0 (partSt { st := .running, held := true } (isl {} {})) ∧
    (CellLive 0 0 127 (isl {} {}) ∧
      predOk (getCell (advanceTo 0 (isl {} {})) (cellAt 0 0 127 (isl {} {}))) (jccAt 0 0 (isl {} {})) (some ⟨0, true⟩) = false) ∧
    (getBand (advanceTo 5 act) 31).seqState ≠ 1 := by
  decide +kernel

def cut0 : Cut := {
  jcc := 0, mcc := 0, gtc := 0, cause := .command, time := 0, held := false, mask := 0, capture := [], record := none, atGtc := 0
  patina := {} }
def sCut : State := withPart { st := .cast, cut := some cut0 }
def sRegion (q : Part) : State := { sDev 0 1 with parts := [(0, q)], regions := [(1, reg1)] }
def job0 (copying : Bool) : DumpJob := {
  ring := 0, slot := 0, loc := 1, handle := 1, step := 0, addr := 4096, len := 65600, copying := copying, startGtc := 0
  startTime := 0 }
def dumpFlight : Flight := { ring := 0, slot := 0, opcode := 0x60, tag := 0, irq := false, claims := [], kind := .dump 0 }
def sCopying : State := { sRegion { st := .running, dump := [job0 true] } with flights := [dumpFlight] }
def tap0 : Tap := {
  tap := 0xFFFE, fmt := .fp32, left := 0, count := 1, nan := 0, posInf := 0, negInf := 0, finite := 1, minV := none
  maxV := none, sumI := 0, sumF := 0, crc := 0, doneAt := some 0 }
def sTap : State := isl { tap := some tap0, outRun := some { stream := 0, left := 4, from_ := 0 } } {}

def armed0 : ArmedTap := { tap := 0xFFFE, loc := 0, addr := 0x1000, entries := 4, next := 0 }
def sArmed : State := partSt { st := .running, taps := [armed0] } sTap

theorem witness_Observation :
    (locOk h0 0 = true ∧ bulkOk sCut 0 4096 64 = true ∧ Accepted h0 {
        op := 0x60, fields := [(8, 1, 0), (9, 1, 0), (10, 2, 0xFFFF), (12, 4, 0xFFFF20), (16, 8, 4096), (24, 8, 64)], loc := some 0
        names := [.part 0] } sCut ∧ (getPart sCut 0).st = .cast ∧
      (getPart sCut 0).cut = some cut0 ∧ ((cutObject 0 0xFFFF20 cut0 (taken h0 sCut)).map (fun x => x.1)) = some []) ∧
    (bulkOk (sRegion { st := .running }) 0 4096 65600 = true ∧ Accepted h0 {
        op := 0x60, fields := [(8, 1, 0), (9, 1, 0), (10, 2, 1), (12, 4, 0), (16, 8, 4096), (24, 8, 65600)], loc := some 0
        names := [.part 0] } (sRegion { st := .running }) ∧
      resolve (sRegion { st := .running }) 0 1 = some (1, reg1) ∧ 64 + (getReg (sRegion { st := .running }) (regKey 0 1)).size * 65536 ≤ 65600 ∧
      (getPart (sRegion { st := .running }) 0).runs ≤ 0) ∧
    ((getPart sCopying 0).dump.find? (fun d => d.copying) = some (job0 true) ∧ resolve sCopying 0 1 = some (1, reg1) ∧
      dumpFlight ∈ sCopying.flights ∧ dumpFlight.ring = (job0 true).ring ∧ dumpFlight.slot = (job0 true).slot) ∧
    (Accepted h0 {
        op := 0x61, fields := [(8, 1, 0), (9, 1, 0), (10, 2, 0xFFFE), (12, 1, 1), (16, 8, 4096), (24, 4, 2 ^ 32 - 1)], loc := some 0
        names := [.part 0] } sCut ∧ Accepted h0 {
        op := 0x61, fields := [(8, 1, 0), (9, 1, 0), (10, 2, 0xFFFE), (12, 1, 0)], loc := some 0, names := [.part 0] } sCut ∧ (getPart sCut 0).st ≠ .empty ∧ bulkOk sCut 0 4096 (64 * (2 ^ 32 - 1)) = true) := by decide +kernel

theorem witness_Observation_bytes : cutNames 0 0xFFFF20 sCut = true ∧ quiet sCut = false ∧ (getRing sCut 0).loc = false ∧
    (getRing sCopying 0).loc = false ∧ AllPopulated (sDev 0 1) 4096 64 ∧ NoErrors (sDev 0 1) := by decide +kernel

theorem witness_Observation_taps :
    (1000000 % 1000000 = 0 ∧ act.clk.gtc < 1000000 ∧ 1000000 ≤ (advanceGtc 1000000 act).clk.gtc ∧ act.pwr.st ≠ .aux ∧
      act.patina.seq = 0 ∧ (gtcAt 1000000 act).clk.gtc = 1000000 ∧
      (advanceGtc 1000000 (sClk { run := .pause } {})).clk.gtc < 1000000) ∧
    ((gtcAt 999999 act).clk.gtc < 1 * 1000000 ∧ 1 * 1000000 ≤ (tickAll 6 (gtcAt 999999 act)).clk.gtc ∧
      (tickAll 6 (gtcAt 999999 act)).clk.gtc < (1 + 1) * 1000000) ∧
    (Live 5 0 (isl {} {}) ∧ 21 % 16 = jccAt 5 0 (isl {} {}) % 16 ∧ (getBand (advanceTo 5 (isl {} {})) 0).seqState = 1 ∧ (getBand (advanceTo 5 (isl {} {})) 0).tap = none ∧
      tapFmt .int8 = some 6) ∧
    (Live 12 0 sTap ∧ (getBand (advanceTo 12 sTap) 0).tap = some tap0 ∧
      ageAt (jccAt 12 0 sTap) 0 = (digLat (advanceTo 12 sTap) 0 : Int) ∧
      (getBand (advanceTo 12 sTap) 0).outAt ≠ some (jccAt 12 0 sTap) ∧
      (getBand (advanceTo 12 sTap) 0).outRun = some { stream := 0, left := 4, from_ := 0 } ∧ 0 ≤ ageAt (jccAt 12 0 sTap) 0) ∧
    (Live 12 0 sArmed ∧ (getBand (advanceTo 12 sArmed) 0).tap = some tap0 ∧
      (getPart (advanceTo 12 sArmed) 0).taps.find? (fun y => y.tap == tap0.tap) = some armed0 ∧
      (getPl (advanceTo 12 sArmed) (plinthOf 0)).copies.length < 256) := by
  decide +kernel

def inState (st : PowerState) : State := { act with pwr := { act.pwr with st := st } }
def sAux : State := { act with
  pwr := { st := .aux, mainOk := true, mainEnLow := true, auxWhy := .held, ready := true }, clk := {}, mgmt := [{ opcode := 2, loc := 0, tag := 7 }] }
def sFaster : State := { act with clk := { run := .running, curLevel := 0 } }
def sCool : State := { act with pwr := { act.pwr with coolWindows := 49, pmLevel := 1 } }

theorem witness_PowerCommands :
    (Accepted h0 { op := 0x02, fields := [(8, 1, 3)], active := false, claims := [.module] } act ∧ act.pwr.st = .active ∧ powerCheck act true = none ∧
      powerCheck act false = none) ∧
    (powerCheck (withPart { st := .running }) false = some (.partitionState, 1, 0) ∧
      Accepted h0 { op := 0x02, fields := [(8, 1, 2)], active := false, claims := [.module] } (withPart { st := .running })) ∧
    (Accepted h0 { op := 0x02, fields := [(8, 1, 0)], active := false, claims := [.module] } (inState .idle) ∧
      Accepted h0 { op := 0x02, fields := [(8, 1, 0)], active := false, claims := [.module] } (inState .standby)) := by decide

theorem witness_PowerCommands_aux :
    (Accepted h16 { op := 0x02, fields := [(8, 1, 2)], active := false, claims := [.module] } sAux ∧
      sAux.pwr.mainOk = true ∧ sAux.pwr.mainEnLow = true ∧ sAux.pwr.auxWhy = .held) := by decide

theorem witness_PowerCommands_levels :
    (Accepted h0 { op := 0x03, fields := [(8, 1, 0)], claims := [.module] } act ∧ 5 ≤ act.clk.curLevel ∧ 0 ≤ act.clk.curLevel) ∧
    (Accepted h0 { op := 0x03, fields := [(8, 1, 5)], claims := [.module] } sFaster ∧ sFaster.clk.curLevel < 5 ∧ sFaster.clk.run = .running ∧
      sFaster.clk.pendingChange = false) ∧
    (act.clk.run ≠ .stopped ∧ max act.pwr.cap act.pwr.pmLevel < 5) ∧
    (49 ≤ sCool.pwr.coolWindows ∧ sCool.pwr.cap < sCool.pwr.pmLevel ∧ sCool.pwr.st = .active ∧ sCool.clk.run ≠ .stopped) := by decide

/-- A Flomor header of version 2, key slot 0, suite 1 and 16 bytes of ciphertext (Table 17.4). -/
def fwImg : FlomorImage := {
  hdr := fit 512 [0x46, 0x4C, 0x4D, 0x4F, 2, 0, 0, 0, 0, 0, 1, 0, 0, 0, 0, 0, 16], cipher := zeros 16 }
/-- The fused hash of key slot 0 is the hash of the header's point. -/
def keyed (s : State) : State := { s with
  sec := { s.sec with fwKeyHash := [(0, (Config.sha384 (suitePoint 1 (fwImg.hdr.drop 0x40)), false))] }
  flash := { s.flash with image := some fwImg, journal := [.complete] } }

/-- The image passes every check, once its signature verifies and its tag agrees: what the algorithms answer is open. -/
theorem fwCheck_passes (s : State) (slot : Bool) (hs : s.sec.fwRevoke = 0 ∧ s.sec.minSvn = 0 ∧ s.sec.decommissioned = false)
    (h1 : Config.ecdsaVerify false (suitePoint 1 (fwImg.hdr.drop 0x40)) (fwImg.hdr.take 0x100 ++ fwImg.cipher)
      (suiteSig 1 (fwImg.hdr.drop 0x100)) = true)
    (h2 : Config.gcmTagOk s.sec.imgKey (fwImg.hdr.take 0x24 ++ zeros 16 ++ (fwImg.hdr.take 0x100).drop 0x34) fwImg.cipher
      ((fwImg.hdr.drop 0x24).take 16) = true) : fwCheck (keyed s) slot fwImg = 0 := by
  obtain ⟨r, m, d⟩ := hs
  have e1 : ∀ b, ¬ (fwImg.hdr.length ≠ 512 ∨ field fwImg.hdr 0 4 ≠ 0x4F4D4C46 ∨ field fwImg.hdr 0x10 8 ≠ fwImg.cipher.length ∨
      field fwImg.hdr 0x10 8 > 0x2000000 - 512 ∨ field fwImg.hdr 0x10 8 % 16 ≠ 0 ∨ fwFlags fwImg ≥ 32 ∨
      !zeroBytes fwImg.hdr 0x0C 4 ∨ !zeroBytes fwImg.hdr 0x34 12 ∨ !zeroBytes fwImg.hdr 0xA1 0x5F ∨
      !zeroBytes fwImg.hdr 0x160 0xA0 ∨ (b && !true) = true) := by decide +kernel
  have e2 : fwSuite fwImg = 1 ∧ fwSlot fwImg = 0 ∧ fwSvn fwImg = 0 := by decide +kernel
  unfold fwCheck
  simp only [e2.1, e2.2.1, e2.2.2, show (keyed s).flash.journal.contains .complete = true from rfl, show (keyed s).sec.imgKey = s.sec.imgKey from rfl]
  rw [if_neg (e1 slot), if_neg, if_neg, if_neg, if_neg]
  · rintro (h | h)
    · exact absurd (d.symm.trans h) (by decide)
    · exact absurd h (by rw [h2]; decide)
  · show ¬ 0 < s.sec.minSvn
    rw [m]
    decide
  · exact fun h => absurd h (by rw [show decide ((1 : Nat) = 2) = false from rfl, h1]; decide)
  · rintro (h | h | h | h | h)
    · exact absurd h (by decide)
    · exact absurd h (by show ¬ s.sec.fwRevoke.getLsbD 0 = true; rw [r]; decide)
    · exact absurd h (by decide)
    · exact h rfl
    · exact h rfl

def sWarm (armed : Bool) : State := { act with pwr := { act.pwr with warmAt := some 5, armed := armed } }

def staged (g : Stage) (p : Power) : State := { act with pwr := { p with stage := g } }

theorem witness_Resets :
    (act.pwr.st ≠ .aux ∧ perstHolds act = false) ∧
    ((sWarm false).pwr.warmAt = some 5 ∧ (sWarm false).pwr.st = .active ∧ (sWarm false).pwr.armed = false ∧
      (sWarm true).pwr.armed = true ∧ (sWarm true).sec.st = .operational) ∧
    State.reset.pwr.st = .aux ∧
    (perstHolds { act with pcie := { down := true } } = true ∧ ({ act with pcie := { down := true } } : State).pwr.st = .active ∧
      ({ act with pcie := { down := true } } : State).pwr.flomorUp = true) ∧
    (perstHolds { staged .recovery { st := .active } with pcie := { perst := true } } = true ∧
      ({ staged .recovery { st := .active } with pcie := { perst := true } } : State).pwr.stage = .recovery ∧
      ({ staged .recovery { st := .active } with pcie := { perst := true } } : State).pwr.flomorUp = false) := by decide

/-- The recovery path with a message in MB63 that names an image of 528 bytes at 0x1000, or a malformed one. -/
def sPosted (ok : Bool) : State :=
  { staged .recovery {} with mbox := [(63, {
    full := true, slot := (if ok then [(0, 0x52), (1, 0x45), (2, 0x43), (3, 0x56), (9, 0x10), (16, 0x10), (17, 0x02)] else [(0, 0x52)]) })] }

/-- The bytes of the message are those that R354 gives. -/
theorem test_recovery_message : recoveryMsg (sPosted true) = some (0x1000, 0x210) ∧ recoveryMsg (sPosted false) = none := by decide

def sBooting : State := staged .flomorInit { act.pwr with ready := false }

theorem witness_StartUpAndLosses :
    (railsAllowed (staged .rails { st := .aux, mainEnLow := true, mainOk := true }) = true ∧
      (staged .rails { st := .aux, mainEnLow := true, mainOk := true }).pwr.warmStart = false ∧
      (staged .rails { st := .aux, mainEnLow := true, mainOk := true }).pcie.perst = false ∧
      (staged .rails { st := .aux, mainEnLow := true, mainOk := true }).sec.st = .operational ∧
      (staged .rails { st := .aux, mainEnLow := true, mainOk := true }).flash.image = none) ∧
    (sBooting.pwr.stage = .flomorInit ∧ perstHolds sBooting = false ∧ sBooting.sec.waitingImage = none ∧
      (∀ x ∈ sBooting.flights, ∀ n, x.kind = .setPower n → n = 0)) ∧
    ((staged .backoff {}).pwr.stage = .backoff ∧ (staged .recovery {}).pwr.stage = .recovery ∧
      (sPosted true).pwr.stage = .recovery ∧ (sPosted true).sec.st = .operational ∧ (getMb (sPosted true) 63).full = true ∧
      fwCheck (sPosted true) false { hdr := [], cipher := [] } ≠ 0 ∧ (sPosted false).pwr.stage = .recovery ∧
      (getMb (sPosted false) 63).full = true ∧ quiet (sPosted true) = false ∧
      derives (staged .rails { st := .aux, mainEnLow := true, mainOk := true }) = true ∧ ({} : StartupFind).keyFails = false) ∧
    (act.pwr.st ≠ .aux ∧ act.board.prsntLow = true ∧ (staged .auxWait { st := .aux, mainEnLow := true, auxWhy := .mainLost }).pwr.st = .aux ∧
      (staged .auxWait { st := .aux, mainEnLow := true, auxWhy := .mainLost }).pwr.mainEnLow = true) := by
  refine ⟨by decide, ⟨by decide, by decide, by decide, fun x h => ?_⟩, by decide, by decide⟩
  exact absurd h (List.not_mem_nil)

/-- The bytes that a recovery message names, and those of FW_UPDATE, are the image. -/
theorem witness_image_bytes : imageOf 528 (fwImg.hdr ++ fwImg.cipher) = fwImg := by decide +kernel

/-- The image checks of start-up, a warm reset, the back-off and recovery meet a state in which the image passes. -/
theorem witness_image_checks (slot : Bool)
    (h1 : Config.ecdsaVerify false (suitePoint 1 (fwImg.hdr.drop 0x40)) (fwImg.hdr.take 0x100 ++ fwImg.cipher)
      (suiteSig 1 (fwImg.hdr.drop 0x100)) = true)
    (h2 : Config.gcmTagOk [] (fwImg.hdr.take 0x24 ++ zeros 16 ++ (fwImg.hdr.take 0x100).drop 0x34) fwImg.cipher
      ((fwImg.hdr.drop 0x24).take 16) = true) :
    fwCheck (keyed (staged .rails { st := .aux, mainEnLow := true })) slot fwImg = 0 ∧
    fwCheck (keyed (staged .backoff {})) slot fwImg = 0 ∧ fwCheck (keyed (sPosted true)) slot fwImg = 0 ∧
    fwCheck (keyed (sWarm true)) slot fwImg = 0 ∧ fwCheck (keyed act) slot fwImg = 0 :=
  ⟨fwCheck_passes _ _ ⟨rfl, rfl, rfl⟩ h1 h2, fwCheck_passes _ _ ⟨rfl, rfl, rfl⟩ h1 h2, fwCheck_passes _ _ ⟨rfl, rfl, rfl⟩ h1 h2,
    fwCheck_passes _ _ ⟨rfl, rfl, rfl⟩ h1 h2, fwCheck_passes _ _ ⟨rfl, rfl, rfl⟩ h1 h2⟩

def sDefer (cs : List Commit) : State := { act with pwr := { act.pwr with deferred := cs } }

theorem witness_HoldupAndCommits :
    testDue act = true ∧ testDue ({ act with pwr := { act.pwr with onBank := true } } : State) = false ∧ ({ act with pwr := { act.pwr with testing := true } } : State).pwr.testing = true ∧
    ((sDefer [.counters []]).pwr.ready = true ∧
      takeFirst (fun c => mayCommit (sDefer [.counters []]) (commitNeed c)) (sDefer [.counters []]).pwr.deferred = some (.counters [], [])) ∧
    (act.pwr.st = .active ∧ act.pwr.ready = true ∧ activeTime act < hourNs ∧
      hourNs ≤ activeTime ({ act with patina := { act.patina with activeNs := hourNs } } : State)) ∧
    ({ act with pwr := { act.pwr with onBank := true } } : State).pwr.onBank = true := by decide

/-- MCTP has come to a phase; `n` sessions of it are established. -/
def spdm (ph : SpdmPhase) (xs : List Session) : State := { act with sec := { st := .operational, spdmMctp := ph, sessions := xs } }
def ses (up : Bool) : Session := { tr := .mctp, id := 3, peerKey := none, established := up, updates := 0 }
/-- A message of the session with the tag that its encryption gives, and one with another tag. -/
def sealed (code : Nat) : SessionMsg := { id := 3, tag := Config.sessionTag [] 0 code }
def broken (code : Nat) : SessionMsg := { id := 3, tag := 0 :: Config.sessionTag [] 0 code }
theorem sealed_ok (code : Nat) : sealOk (ses true) code (sealed code) = true := by simp [sealOk, sealed, ses]
theorem broken_ok (code : Nat) : sealOk (ses true) code (broken code) = false := by
  simp only [sealOk, broken, ses, beq_eq_false_iff_ne, ne_eq]
  exact fun h => by have := congrArg List.length h; simp at this
theorem in_session (code : Nat) (s : State) (h : Negotiated .mctp s) (hf : findSession s .mctp 3 = some (ses true)) :
    InSession .mctp code (sealed code) (ses true) s := ⟨h, hf, rfl, sealed_ok code⟩

theorem witness_SpdmExchange :
    (spdmReach (spdm .version []) .mctp = true ∧ spdmReach (spdm .version []) .doe = true ∧
      spdmPhase (spdm .version []) .mctp = .version ∧ spdmPhase (spdm .capabilities []) .mctp = .capabilities ∧
      spdmPhase (spdm .none []) .mctp ≠ .negotiated) ∧
    (Negotiated .mctp (spdm .negotiated []) ∧ (sessionsOf (spdm .negotiated []) .mctp).length < 4) ∧
    (findSession (spdm .negotiated [ses false]) .mctp 3 = some (ses false) ∧ (ses false).established = false) ∧
    (([1] : List Byte) ≠ (spdm .negotiated []).sec.aliasPub ∧ [1] ≠ (spdm .negotiated []).sec.devicePub ∧
      mayCommit act 40 = true ∧ mayCommit { act with pwr := { act.pwr with valid := false } } 40 = false ∧
      act.pwr.testing = false) ∧
    (Negotiated .mctp { spdm .negotiated [] with pwr := { act.pwr with testing := true } } ∧
      ({ spdm .negotiated [] with pwr := { act.pwr with testing := true } } : State).pwr.testing = true) ∧
    ([1] ≠ (spdm .negotiated []).sec.aliasPub) := by decide

/-- Messages of a session that decrypt, and one that does not; a FINISH that proves what it must, and one that does not. -/
theorem witness_SpdmExchange_sessions : (∀ code, InSession .mctp code (sealed code) (ses true) (spdm .negotiated [ses true])) ∧
    (∀ code, sealOk (ses true) code (broken code) = false ∧ findSession (spdm .negotiated [ses true]) .mctp (broken code).id = some (ses true)) ∧
    finishProves (spdm .negotiated [ses false]) .mctp (ses false) { id := 3, mac := verifyData (ses false) } = true ∧
    finishProves (spdm .negotiated [ses false]) .mctp (ses false) { id := 3, mac := 0 :: verifyData (ses false) } = false :=
  ⟨fun code => in_session code _ (by decide) rfl, fun code => ⟨broken_ok code, rfl⟩, by simp [finishProves, ses], by
    have h : (0 :: verifyData (ses false)) ≠ verifyData (ses false) := fun h => by
      have := congrArg List.length h; simp at this
    simp only [finishProves, beq_eq_false_iff_ne.mpr h, Bool.false_and]⟩

theorem witness_SpdmExchange_slots : (∃ c, slotChain (spdm .negotiated []) 0 = some c) ∧
    ∃ m, measurement (spdm .negotiated []) 1 = some m := ⟨⟨_, rfl⟩, ⟨_, rfl⟩⟩

def provisioned : State := { spdm .negotiated [ses true] with
  sec := { (spdm .negotiated [ses true]).sec with provisioned := true } }

/-- A session stands, and the cryptographic services have failed. -/
def failing : State := { spdm .negotiated [ses true] with sec := { (spdm .negotiated [ses true]).sec with st := .error } }

theorem witness_VendorRequests :
    (spdm .negotiated [ses true]).sec.provisioned = false ∧ mayZeroise (spdm .negotiated [ses true]) (ses true) = true ∧
    (provisioned.sec.provisioned = true ∧ mayZeroise provisioned (ses true) = false) ∧
    (spdmReach failing .mctp = true ∧ spdmPhase failing .mctp = .negotiated ∧ findSession failing .mctp 3 = some (ses true) ∧
      failing.sec.st ≠ .operational) := by decide

theorem witness_VendorRequests_sessions : InSession .mctp vendorCode (sealed vendorCode) (ses true) (spdm .negotiated [ses true]) ∧
    InSession .mctp vendorCode (sealed vendorCode) (ses true) provisioned ∧ sealOk (ses true) vendorCode (sealed vendorCode) = true :=
  ⟨in_session _ _ (by decide) rfl, in_session _ _ (by decide) rfl, sealed_ok _⟩

def lowBank (s : State) : State := { s with pwr := { s.pwr with energy := 777 } }

theorem witness_FirmwareImages :
    (act.sec.st = .operational ∧ bulkOk act 0 4096 528 = true ∧ Accepted h0 {
        op := 0x50, fields := [(9, 1, 0), (16, 8, 4096), (24, 8, 528)], loc := some 0, claims := [.firmware] } act ∧
      BulkRead 0 4096 528 none (taken h0 act) (hostIn 4096 528 (taken h0 act)) ∧ (hostIn 4096 528 (taken h0 act)).sec.st = .operational ∧
      (hostIn 4096 528 (taken h0 act)).pwr = act.pwr ∧
      act.pwr.testing = false ∧ mayCommit act 800 = true ∧ mayCommit (lowBank act) 800 = false ∧
      fwCheck act false { hdr := [], cipher := [] } ≠ 0 ∧ bankUnknown act = false ∧
      bankUnknown { act with pwr := { act.pwr with valid := false } } = true) ∧
    (Accepted h0 { op := 0x51, fields := [(8, 1, 1)], claims := [.firmware, .module] } act ∧ newerImage act = none ∧
      (∀ x ∈ act.flights, Claim.firmware ∉ x.claims)) := by decide

theorem witness_FirmwareImages_newer : newerImage (keyed act) = some fwImg ∧ othersRun (keyed act) = false ∧
    (keyed act).sec.st = .operational ∧ Accepted h0 { op := 0x51, fields := [(8, 1, 0)], claims := [.firmware, .module] } (keyed act) ∧
    Accepted h0 { op := 0x51, fields := [(8, 1, 1)], claims := [.firmware, .module] } (keyed act) ∧ busUp (keyed act) .pcie = true ∧
    mayCommit (keyed act) 800 = true := ⟨rfl, rfl, rfl, by decide, by decide, rfl, by decide⟩

def sRing (g : CmdRing) : State := { act with rings := [(15, g)] }
def sMb (full : Bool) : State := { act with
  mbox := [(63, { sender := 0x20, receiver := 3, full := full })], app := { cores := [(3, { st := 2 })] } }

theorem witness_RingsAndMailboxes :
    (CanAccess .host (sRing { enable := true, head := 65535 }) ∧ (getRing (sRing { enable := true, head := 65535 }) 15).enable = true ∧
      (15 % 65536 + 65536 - (getRing (sRing { enable := true, head := 65535 }) 15).head) % 65536 ≤
        2 ^ (getRing (sRing { enable := true, head := 65535 }) 15).log2 ∧
      2 ^ (getRing (sRing { enable := true, head := 65535 }) 15).log2 <
        (16 % 65536 + 65536 - (getRing (sRing { enable := true, head := 65535 }) 15).head) % 65536) ∧
    ((getRing (sRing {}) 15).enable = false ∧ bitOf (0xFF3 : W32).toNat 0 = true) ∧
    (CanAccess .host (sMb false) ∧ mbInUse (sMb false) 63 = true ∧ codeIs (mbSender (sMb false) 63) .host = true ∧
      (getMb (sMb false) 63).full = false ∧ 248 + (zeros 8).length ≤ 256) ∧
    (CanAccess (.core 3) (sMb true) ∧ mbInUse (sMb true) 63 = true ∧ codeIs (mbReceiver (sMb true) 63) (.core 3) = true ∧
      (getMb (sMb true) 63).full = true) ∧
    Accepted h0 { op := 0x01, fields := [(8, 1, 1)], active := false } act := by decide

/-- Every command row is one of the function. -/
theorem witness_RingsAndMailboxes_rows : commandRow (.start h0 0 7 0) = some (h0, 0x12) ∧ commandRow (.fenceCell h0 4095) = some (h0, 0x70) :=
  ⟨rfl, rfl⟩

def startSpec : CmdSpec := { op := 0x12, fields := [(8, 1, 0), (16, 8, (7 : W64).toNat), (24, 6, 0)], claims := [.part 0], modFatal := true }
def sClaimed : State := { act with flights := [{ ring := 1, slot := 0, opcode := 0x16, tag := 0, irq := false, claims := [.part 0], kind := .abort 0 }] }
def sIdleDue : State := { act with pwr := { act.pwr with st := .idle } }
def sUnread : State := { act with rings := [(0, { enable := true, tail := 1, loc := true, base := 0x0FFFFFFFFFC0 })] }

/-- A command due on a ring whose slot lies nowhere, and on one whose slot can be read with each thing that turns it away. -/
theorem witness_RingsAndMailboxes_refusals :
    (cmdDue h0 startSpec sUnread = true ∧ slotBad 0 sUnread = true ∧ cmdDue h16 startSpec act = false) ∧
    (cmdDue { h0 with badOp := some 0xFF } startSpec act = true ∧ slotBad 0 act = false) ∧
    (cmdDue { h0 with reserved := true } startSpec act = true ∧ cmdDue { h0 with flags := 2 } startSpec act = true) ∧
    (cmdDue h0 startSpec sIdleDue = true ∧ slotBad 0 sIdleDue = false ∧ sIdleDue.pwr.st ≠ .active) ∧
    (cmdDue h0 startSpec sClaimed = true ∧ slotBad 0 sClaimed = false ∧ sClaimed.pwr.st = .active ∧
      ∃ x ∈ sClaimed.flights, Claim.part 0 ∈ x.claims) ∧
    (cmdDue h0 startSpec { act with log := { modFatal := true } } = true ∧ ({ act with log := { modFatal := true } } : State).log.modFatal = true ∧
      Accepted h0 startSpec act ∧ startSpec.params = true) := by decide

theorem witness_RingsAndMailboxes_boot :
    bulkOk (sDev 0 1) 1 0 64 = true ∧ 0 + 64 ≤ 0x200000000000 ∧
    Accepted h0 {
      op := 0x80, fields := [(16, 8, 0), (24, 4, 64), (28, 4, 0), (32, 4, 0x80000000)], modFatal := true, claims := (coresIn 0x80000000).map .core } (sDev 0 1) ∧
    coresIn 0x80000000 = [31] ∧ (∀ n ∈ coresIn 0x80000000, coreUp (sDev 0 1) n = false) ∧
    (sDev 0 1).sec.st = .operational ∧ (sDev 0 1).sec.reqApp = false ∧
    (spaceRead 0 3 64 (taken h0 (sDev 0 1))).1.isSome = true := by decide +kernel

theorem witness_PartitionMapWrites :
    PartMapOk act ∧ CanAccess .host act ∧
    (∀ g p, g < 8 → p < 4 → act.partMap.getD g 4 ≠ min 4 (bits (0x240000 : W32).toNat (3 * g) 3) →
      (p = act.partMap.getD g 4 ∨ p = min 4 (bits (0x240000 : W32).toNat (3 * g) 3)) → (getPart act p).st = .empty) ∧
    (CanAccess .host (withPart { st := .running }) ∧
      (withPart { st := .running }).partMap.getD 7 4 ≠ min 4 (bits (0xE00000 : W32).toNat (3 * 7) 3) ∧
      0 = (withPart { st := .running }).partMap.getD 7 4 ∧ (getPart (withPart { st := .running }) 0).st ≠ .empty ∧
      (getPart (withPart { st := .running }) 0).st ≠ .loaded ∧ (getPart (withPart { st := .running }) 0).st ≠ .done) := by
  refine ⟨by decide, by decide, fun g p _ hp _ _ => ?_, by decide⟩
  rcases (by omega : p = 0 ∨ p = 1 ∨ p = 2 ∨ p = 3) with rfl | rfl | rfl | rfl <;> decide

/-- The aperture stands at an address in 1 GiB units. -/
def sAp (ap : Nat) : State := { sDev 0 1 with pcie := { act.pcie with apBase := ap } }

theorem witness_Aperture :
    (populated (sAp 0) (2 ^ 48) = false ∧ inWindow (2 ^ 48) = false) ∧
    (CanAccess .host (sAp 0) ∧ 0x0FFFFFFFC0 < 0x1000000000 ∧ 0x0FFFFFFFC0 + 64 ≤ 0x1000000000 ∧ (spaceRead (apAddr (sAp 0) 64) (8 / 64 + 2) 8 (sAp 0)).1.isSome = true) ∧
    (NoErrors (sAp 0) ∧ apAddr (sAp 0) 8 % 64 + (zeros 8).length ≤ 64 ∧
      (∀ i, i < (zeros 8).length → populated (sAp 0) (apAddr (sAp 0) 8 + i) = true)) ∧
    (inWindow (apAddr (sAp 0x8000) 0) = true ∧ windowRule (sAp 0x8000) ((apAddr (sAp 0x8000) 0 - 0x200000000000) / 0x80000) false = 0 ∧
      (apAddr (sAp 0x8000) 0 - 0x200000000000) % 64 + 40 ≤ 64 ∧ ∀ h ∈ [0, 1],
      (spDecode (spNow (getCell (sAp 0x8000) ((apAddr (sAp 0x8000) 0 - 0x200000000000) / 0x80000)))
        (jccOf (sAp 0x8000) (partOf (sAp 0x8000) ((apAddr (sAp 0x8000) 0 - 0x200000000000) / 0x80000 / 128)))
        ((apAddr (sAp 0x8000) 0 - 0x200000000000) % 0x80000 / 64) h).2 = .clean) ∧
    0x300000000000 ≤ apAddr (sAp 0xC000) 0 := by decide +kernel

def sMsi (x : Vector) : State := { act with msix := { enable := true, vecs := [(255, x)] } }

theorem witness_RegisterWrites :
    (CanAccess .host act ∧ CanAccess (.core 3) (sMb true) ∧ bitOf (0x80000000 : W32).toNat 31 = true) ∧
    (0x80 ≤ (0x1FF : W32).toNat % 256 ∧ (sMsi { masked := false }).msix.enable = true ∧
      (sMsi { masked := false }).msix.fnMask = false ∧ quiet (sMsi { masked := false }) = false ∧
      (tget {} (sMsi { masked := false }).msix.vecs ((0x1FF : W32).toNat % 256)).masked = false ∧
      (tget {} (sMsi { masked := false }).msix.vecs ((0x1FF : W32).toNat % 256)).last = none) ∧
    ((getPart act 3).st ≠ .running ∧ (getPart act 3).st ≠ .paused ∧ (getPart (withPart { st := .paused }) 0).st = .paused ∧
      CanAccess .host (withPart { st := .paused })) ∧
    (bitOf (6 : W32).toNat 1 = true ∧ bitOf (6 : W32).toNat 2 = true) ∧
    (reg32 act 0x3C00000 = some 0 ∧ (reg64 act 0x100000).isSome = true) ∧
    (getRing act 15).enable = false ∧ (coreRuns (sMb true) 3 = true ∧ coreMayWrite 0x3FFFFFC = false ∧ 0x3FFFFFC % 4 = 0) := by decide

def sFlight : State := { act with flights := [dumpFlight] }
def sCore : State := { sDev 0 1 with app := { cores := [(31, { st := 2 })] } }

theorem witness_EndpointAndCores :
    (endpointUp sFlight = true ∧ sFlight.flights.find? (fun x => x.ring == 0) = some dumpFlight) ∧
    ((tget {} (sMsi { pendingBit := true }).msix.vecs 255).pendingBit = true ∧ (sMsi { pendingBit := true }).msix.enable = true ∧
      (sMsi { pendingBit := true }).msix.fnMask = false ∧
      memoryOn (sMsi { pendingBit := true }) = true ∧ quiet (sMsi { pendingBit := true }) = false ∧ endpointUp (sMsi { pendingBit := true }) = true) ∧
    ((tget {} (sMsi { merge := true, last := some 0, masked := false }).msix.vecs 255).merge = true ∧
      (tget {} (sMsi { merge := true, last := some 0, masked := false }).msix.vecs 255).last = some 0 ∧
      (tget {} (sMsi { merge := true, last := some 0, masked := false }).msix.vecs 255).masked = false) ∧
    ((∀ x ∈ act.flights, x.ring ≠ 0) ∧ act.pwr.ready = true ∧ (getRing act 0).enable = true ∧ (getRing act 0).busy = false ∧
      (getRing act 0).head ≠ (getRing act 0).tail ∧ endpointUp act = true ∧ fnReady act = true ∧
      fnReady ({ act with pcie := { flrUntil := 1 } } : State) = false ∧ endpointUp ({ act with pcie := { flrUntil := 1 } } : State) = true ∧
      ({ act with pcie := { d3hot := true, held := [.write 0 4096 false []] } } : State).pcie.held ≠ []) ∧
    (bitOf act.pcie.cmd 2 = true ∧ (getCore { sCore with app := { cores := [(31, { st := 2, reserve := some 0 })] } } 31).reserve = some (56 / 64) ∧
      AllPopulated sCore 56 8) ∧
    ((getCore sCore 31).reserve ≠ some (56 / 64) ∧ coreWoken sCore 31 = false ∧ corePending sCore 31 &&& coreCsr (getCore sCore 31) 0x304 = 0) ∧
    (coreRuns sCore 31 = true ∧ 0 < (zeros 8).length ∧ NoErrors sCore ∧
      (∀ i, i < (zeros 8).length → populated sCore (56 + i) = true) ∧ 56 % 64 + (zeros 8).length ≤ 64 ∧
      (spaceRead 56 (8 / 64 + 2) 8 (wakeCore 31 sCore)).1.isSome = true ∧ 56 % 8 = 0 ∧ populated sCore 56 = true ∧
      (spaceRead 56 2 8 (wakeCore 31 sCore)).1.isSome = true) := by decide +kernel

def packets (n : Nat) : State := { act with mgmt := List.replicate n { opcode := 1, loc := 1, tag := 0 } }

theorem witness_ManagementAndBoard :
    (busUp (packets 3) .smbus = true ∧ busUp (packets 3) .pcie = true ∧
      busUp ({ packets 3 with pcie := { d3hot := true } } : State) .pcie = false) ∧
    ((packets 3).mgmt.length < 4 ∧ (packets 3).pwr.st ≠ .aux ∧ 4 ≤ (packets 4).mgmt.length) ∧
    (tapLoads act .idcode = .idcode ∧ tapLoads { act with pcie := { perst := true } } .extest = .extest) ∧
    (bar0Read 0x3FFFFFC 4 act).1.isSome = true ∧ act.pcie.perst = false := by decide +kernel

/-- A cell in which a byte of bank 0 was written in the last cycle before JCC wraps. -/
def written : Cell := { sp := ({} : Store).put (2 ^ 48 - 1) 0 7 }

theorem witness_ReadAndWriteOfOneBank :
    0x7FFC0 + z64.length ≤ 0x80000 ∧ (∀ e ∈ written.sp.old, 0 ≤ ageAt (2 ^ 48 - 1) e.1) ∧ written.sp.old ≠ [] ∧
    (∀ e ∈ written.sp.old, 0x7FFC0 ≤ e.2.1 → e.2.1 < 0x7FFC0 + z64.length → 0 < ageAt (2 ^ 48 - 1) e.1) := by decide

theorem witness_IslandEventsLeaveTheRimAlone :
    islandEvent (.laneRemoval 0 0) = true ∧ ∃ t, exec (.laneRemoval 0 0) (isl { lanes := [lane0 0 0 127] } {}) = .next t :=
  ⟨rfl, _, rfl⟩

/-! Ill-formed terms, one or more for each kind of check, are refused. -/

theorem test_wf_refuses_ring : Instr.wf (.queryInfo { h0 with ring := 17 } 0) = false := by decide
theorem test_wf_refuses_flags_and_tag : Instr.wf (.queryInfo { h0 with flags := 256 } 0) = false ∧
    Instr.wf (.queryInfo { h0 with tag := 65536 } 0) = false ∧ Instr.wf (.queryInfo { h0 with badOp := some 256 } 0) = false := by decide
theorem test_wf_refuses_an_opcode_of_the_table : Instr.wf (.queryInfo { h0 with badOp := some 0x16 } 0) = false ∧
    Instr.wf (.queryInfo { h0 with badOp := some 0x17 } 0) = true := by decide
theorem test_wf_refuses_byte_fields : Instr.wf (.queryInfo h0 256) = false ∧ Instr.wf (.setFreqLevel h0 256) = false ∧
    Instr.wf (.hold h0 256) = false ∧ Instr.wf (.linkTrain h0 256) = false := by decide
theorem test_wf_refuses_half_words : Instr.wf (.regionMapQuery h0 0 65536) = false ∧ Instr.wf (.fenceCell h0 65536) = false ∧
    Instr.wf (.channelOpen h0 65536) = false ∧ Instr.wf (.digestTapDisarm h0 0 0 65536) = false := by decide
theorem test_wf_refuses_long_numbers : Instr.wf (.start h0 0 0 (2 ^ 48)) = false ∧ Instr.wf (.cast h0 0 (2 ^ 64)) = false ∧
    Instr.wf (.dumpTensor h0 0 1 1 (2 ^ 32) 0 64) = false ∧ Instr.wf (.laneRemoval (2 ^ 64) 0) = false := by decide
theorem test_wf_refuses_island_fields : Instr.wf (.emission 0 0 0 .cw 8 0 1 ⟨0, 0⟩ .staged none) = false ∧
    Instr.wf (.emission 0 0 0 .cw 0 4 1 ⟨0, 0⟩ .staged none) = false ∧ Instr.wf (.swap 0 0 0 16 none) = false ∧
    Instr.wf (.tapOperation 0 0 0 .fp32 1 16) = false := by decide
theorem test_wf_refuses_frame_fields : Instr.wf (.ack 0 4096) = false ∧ Instr.wf (.quiesce 0 131072) = false ∧
    Instr.wf (.credit 0 4 0) = false ∧
    Instr.wf (.fail 0 0 1024 0 0 0) = false ∧ Instr.wf (.castAt 0 0 0 (2 ^ 46)) = false ∧ Instr.wf (.root 0 16 0 0) = false := by decide
theorem test_wf_refuses_block_sizes : Instr.wf (.red 0 0 0 0 0 []) = false ∧
    Instr.wf (.pldmFirmwareUpdate { hdr := [], cipher := [] } ⟨true, .smbus⟩) = false ∧
    Instr.wf (.loadMaquette h0 0 0 0 0 maq0) = false ∧ Instr.wf (.challenge .doe 0 ⟨[], none⟩) = false := by decide
theorem test_wf_accepts : Instr.wf (.loadMaquette h0 3 0 4096 320 maq1) = true ∧ Instr.wf (.swap 0 0 0 15 none) = true ∧
    Instr.wf (.red 31 4095 1023 65535 0 (zeros 256)) = true := by decide +kernel

/-! No row of the table gives bits, so no word spells a command. -/
theorem test_no_word_is_a_command : decodeTableWord 16 0 = none ∧ State.reset.withFetchWord 16 0 = State.reset := by decide

/-! Values that the spec's own examples give. -/

/-- Chapter 00, example: die 1, band 5, position 37 is cell 2,725. -/
theorem test_global_cell_index : cellOf (16 + 5) 37 = 2725 := by decide
/-- Chapter 01, example: 0x0024_0000 gives groups 6 and 7 to partition 1. -/
theorem test_part_map : (match exec (.glbPartMap .host 0x00240000) act with
    | .next t => t.partMap
    | _ => []) = [0, 0, 0, 0, 0, 0, 1, 1] := by decide +kernel
/-- Chapter 03, example: fences at 61, 62 and 64 fit idle positions 124-127 first at r = 65. -/
theorem test_rotation : (List.range 128).find? (rotFits [61, 62, 64] [124, 125, 126, 127]) = some 65 := by decide +kernel
/-- Chapter 05, example: 1 + 3 × 2^-10 rounds up to 0x3F81 for r ≥ 0xA000, and with the draw 0xB123. -/
theorem test_stochastic_rounding : (narrow .bf16 (some 0xA000) false 0x3F806000).1 = 0x3F81 ∧
    (narrow .bf16 (some 0x9FFF) false 0x3F806000).1 = 0x3F80 ∧ (narrow .bf16 (some 0xB123) false 0xBF806000).1 = 0xBF81 := by
  decide +kernel
/-- Chapter 05, conversions: 464 rounds to 448 (0x7E) and does not overflow; what lies above it is NaN (0x7F). -/
theorem test_e4m3_overflow : narrow .e4m3 none false 0x43E80000 = (0x7E, 0) ∧ (narrow .e4m3 none false 0x43E80001).1 = 0x7F := by
  decide +kernel
/-- Chapter 06, example: FUNC and ALU2 from tiles make L = 17 on A0 and 14 on B0. -/
theorem test_vector_latency :
    let d : VecDesc := { vec0 with
      opA := { opNone with src := .tile 1 0 }, func := some .silu, alu2 := some (.mul, .b), sink := .tile 5 0 }
    vecLat d true = 17 ∧ vecLat d false = 14 := by decide
/-- Chapter 11, examples: the check symbols of 31 zeros and 0x01; a striped offset on S4 to S7. -/
theorem test_check_symbols : rsEncode (zeros 31 ++ [1]) = [0x0F, 0x36, 0x78, 0x40] := by decide +kernel
theorem test_striped_address :
    regionAddr { size := 64, members := [4, 5, 6, 7], start := 0x100000000 } 0x52345 = 0x2E00012345 := by decide +kernel
/-- Chapter 15, example: START accepted at MCC 1,000,000 starts at 1,015,808. -/
theorem test_start_boundary : (match exec (.start h0 0 0 0) { withPart { st := .bound, maq := some maq1 } with
      clk := { run := .running, mcc := 1000000 } } with
    | .next t => (getPart t 0).reqAt
    | _ => 1) = 0 ∧ roundUp (1000000 + 12288) 4096 = 1015808 := by decide +kernel
/-- Chapter 16, example: 1.80 A, 0.200 V and 16.0 V measure 77.7 J, enough for a fence but not for an image. -/
theorem test_holdup_energy : (match exec (.holdupTestComplete 1800 200 16000) { act with pwr := { act.pwr with testing := true } } with
    | .next t => (t.pwr.energy, mayCommit t (commitNeed (.fenceMap 0 true)), mayCommit t (commitNeed (.image fwImg)))
    | _ => (0, false, false)) = (0x309, true, false) := by decide
/-- The check value of CRC-32C of "123456789", and that of CRC-16 with the start value 0xFFFF. -/
theorem test_crc : crc32c [0x31, 0x32, 0x33, 0x34, 0x35, 0x36, 0x37, 0x38, 0x39] = 0xE3069283 ∧
    crc16 0xFFFF [0x31, 0x32, 0x33, 0x34, 0x35, 0x36, 0x37, 0x38, 0x39] = 0x29B1 := by decide +kernel
/-- R405: IDENT# toggles IDENTIFY. -/
theorem test_ident : (match exec .ident act with
    | .next t => t.board.identify
    | _ => false) = true := by decide
/-- R306: a doorbell of more than the ring's entries sets OVERRUN and leaves TAIL. -/
theorem test_doorbell_overrun : (match exec (.crDb .host 15 17) (sRing { enable := true }) with
    | .next t => ((getRing t 15).overrun, (getRing t 15).tail)
    | _ => (false, 1)) = (true, 0) := by decide

end Sys2Proof.Tests.Slice0
end

section
/-! SUPPORT. GLB_PART_MAP (R26, Table 1.3): what it reads, which partitions a write of it concerns, and what the write comes
to in each case. From these the claim about it is settled. -/

namespace Sys2Proof.Machine

/-- A field above it leaves a field of three bits as it is. -/
theorem bits_add_field_of_lt (a x : Nat) {g n : Nat} (hg : g < n) : bits (a + x * 2 ^ (3 * n)) (3 * g) 3 = bits a (3 * g) 3 := by
  have hsplit : x * 2 ^ (3 * n) = 2 ^ (3 * g) * (2 ^ 3 * (x * 2 ^ (3 * (n - g - 1)))) := by
    rw [show 3 * n = 3 * g + 3 + 3 * (n - g - 1) by omega, Nat.pow_add, Nat.pow_add]
    ring
  rw [bits, bits, hsplit, Nat.add_mul_div_left _ _ (Nat.two_pow_pos _), Nat.add_mul_mod_self_left]

/-- A field of three bits reads back above what stands below it. -/
theorem bits_add_field_same {a x n : Nat} (ha : a < 2 ^ (3 * n)) (hx : x < 2 ^ 3) : bits (a + x * 2 ^ (3 * n)) (3 * n) 3 = x := by
  rw [bits, Nat.add_mul_div_right _ _ (Nat.two_pow_pos _), Nat.div_eq_of_lt ha, Nat.zero_add, Nat.mod_eq_of_lt hx]

/-- Fields of three bits, packed from bit 0 on, fit their width, and each reads back as it was packed. -/
theorem bits_packedFields (f : Nat → Nat) (n : Nat) (hf : ∀ g, g < n → f g < 2 ^ 3) :
    ∃ r, (List.range n).foldl (fun a g => a + f g * 2 ^ (3 * g)) 0 = r ∧ r < 2 ^ (3 * n) ∧
      ∀ g, g < n → bits r (3 * g) 3 = f g := by
  induction n with
  | zero => exact ⟨0, rfl, Nat.two_pow_pos _, fun g hg => absurd hg (Nat.not_lt_zero g)⟩
  | succ n ih =>
    obtain ⟨a, hfold, hlt, hread⟩ := ih fun g hg => hf g (Nat.lt_succ_of_lt hg)
    have hn := hf n (Nat.lt_succ_self n)
    refine ⟨a + f n * 2 ^ (3 * n), by rw [List.range_succ, List.foldl_append, hfold]; rfl, ?_, fun g hg => ?_⟩
    · rw [Nat.mul_succ, Nat.pow_add]
      nlinarith
    · rcases Nat.lt_succ_iff_lt_or_eq.mp hg with hg | rfl
      · rw [bits_add_field_of_lt _ _ hg, hread g hg]
      · exact bits_add_field_same hlt hn

/-- The register of the partition map holds the group fields. -/
theorem reg32_partMap (s : State) :
    reg32 s 0x40 = some ((List.range 8).foldl (fun a g => a + s.partMap.getD g 4 * 2 ^ (3 * g)) 0) := rfl

/-- In a legal map every group names a partition, or none by 4. -/
theorem getD_partMap_le {s : State} (h : PartMapOk s) {g : Nat} (hg : g < 8) : s.partMap.getD g 4 ≤ 4 := by
  obtain ⟨hlen, hle⟩ := h
  have hg : g < s.partMap.length := hlen ▸ hg
  rw [List.getD_eq_getElem _ _ hg]
  exact hle _ (List.getElem_mem hg)

theorem getD_partMapOf (v : Nat) {g : Nat} (hg : g < 8) : (partMapOf v).getD g 4 = min 4 (bits v (3 * g) 3) := by
  simp [partMapOf, hg]

/-- The partitions that a write concerns are those that lose or gain a group. -/
theorem mem_partMapChanged {s : State} {m : List Nat} {p : Nat} : p ∈ partMapChanged s m ↔
    p < 4 ∧ ∃ g, g < 8 ∧ s.partMap.getD g 4 ≠ m.getD g 4 ∧ (s.partMap.getD g 4 = p ∨ m.getD g 4 = p) := by
  have hp : p ∈ [0, 1, 2, 3] ↔ p < 4 := by simp; omega
  simp [partMapChanged, -List.mem_cons, hp]

theorem partMapState_iff {s : State} {p : Nat} :
    partMapState s p = true ↔ (getPart s p).st = .empty ∨ (getPart s p).st = .loaded ∨ (getPart s p).st = .done := by
  simp [partMapState]

/-- A write that concerns only partitions whose groups may change assigns the groups. -/
theorem writePartMap_done {v : Nat} {s : State} (h : ∀ p ∈ partMapChanged s (partMapOf v), partMapState s p = true) :
    ∃ t, writePartMap v s = (true, t) ∧ t.partMap = partMapOf v :=
  ⟨_, if_pos (List.all_eq_true.mpr h), rfl⟩

/-- One partition that it concerns and whose groups may not change refuses the whole write. -/
theorem writePartMap_refused {v p : Nat} {s : State} (hp : p ∈ partMapChanged s (partMapOf v))
    (hs : ¬ partMapState s p = true) : writePartMap v s = (false, s) :=
  if_neg fun h => hs (List.all_eq_true.mp h p hp)

theorem write4_partMap_done {v : Nat} {s t : State} (h : writePartMap v s = (true, t)) : write4 0x40 v s = .done t := by
  change writeGlobal 0x40 v s = .done t
  rw [writeGlobal, if_pos rfl, h]

theorem write4_partMap_refused {v : Nat} {s t : State} (h : writePartMap v s = (false, t)) : write4 0x40 v s = .refused := by
  change writeGlobal 0x40 v s = .refused
  rw [writeGlobal, if_pos rfl, h]

/-- A write of the register by the host, where it has access, comes to what `write4` says. -/
theorem exec_glbPartMap_host {s : State} (h : CanAccess .host s) (v : W32) : exec (.glbPartMap .host v) s =
    .next (announce s (settleWrite .host 0x40 v.toNat s (write4 0x40 v.toNat s))) := by
  change execGlbPartMap .host v s = _
  rw [execGlbPartMap, agentRequest_access h, awake, bar0Write_access h _ (by decide) (.inl rfl), writeReg, if_pos rfl,
    Nat.mod_eq_of_lt v.isLt]

/-- A record is written at ERR_HEAD (R386). -/
theorem writeRec_slot (r : ErrRec) (s : State) : tget {} (writeRec r s).log.slots (s.log.head % 4096) = r := by
  unfold writeRec
  simp only [apply_ite State.log, signal_log, ite_self, tget_tset_same]

/-- A deferred record stands at ERR_HEAD, or is counted as suppressed (R387). -/
theorem logDeferred_recorded (code : Nat) (unit part : Option Nat) (ctx : List (Nat × Nat)) (s : State) :
    (Recorded s.log.head code (logDeferred code unit part ctx s) ∧
      (tget {} (logDeferred code unit part ctx s).log.slots (s.log.head % 4096)).sev = .deferred) ∨
    (logDeferred code unit part ctx s).log.suppressed = satAdd 0xFFFF s.log.suppressed 1 := by
  rw [Recorded, logDeferred, logRec]
  split
  · exact .inr rfl
  · rw [writeRec_slot]
    exact .inl ⟨rfl, rfl⟩

/-- A refused write of the host changes the log and the MSI-X state (R392), and takes a free value for the requester ID. -/
theorem refuseReg_host_shape (off v : Nat) (s : State) : ∃ g m o,
    refuseReg .host off v s = { s with free := s.free + 1, log := g, msix := m, out := o ++ s.out } :=
  logDeferred_shape _ _ _ _ { s with free := s.free + 1 }

/-- Its record is a deferred one of REG_WRITE_REFUSED, or is counted as suppressed (R387, R392). -/
theorem refuseReg_host_recorded (off v : Nat) (s : State) :
    (Recorded s.log.head 0x0803 (refuseReg .host off v s) ∧
      (tget {} (refuseReg .host off v s).log.slots (s.log.head % 4096)).sev = .deferred) ∨
    (refuseReg .host off v s).log.suppressed = satAdd 0xFFFF s.log.suppressed 1 :=
  logDeferred_recorded _ _ _ _ { s with free := s.free + 1 }

/-- Settles O54: the map reads back field by field, and the states of the partitions that a write concerns decide whether it
is done or refused in full. -/
theorem partitionMapWrites : Obligations.PartitionMapWrites := by
  intro v s
  refine ⟨fun hmap => ?_, fun hacc => ⟨fun hst => ?_, fun g p hg hp hne hgp he hl hd => ?_⟩⟩
  · obtain ⟨r, hfold, hlt, hread⟩ := bits_packedFields (fun g => s.partMap.getD g 4) 8
      fun g hg => lt_of_le_of_lt (getD_partMap_le hmap hg) (by decide)
    exact ⟨r, by rw [reg32_partMap, hfold], hlt, hread⟩
  · have hall : ∀ p ∈ partMapChanged s (partMapOf v.toNat), partMapState s p = true := by
      intro p hp
      obtain ⟨hp, g, hg, hne, hgp⟩ := mem_partMapChanged.mp hp
      rw [getD_partMapOf _ hg] at hne hgp
      exact partMapState_iff.mpr (hst g p hg hp hne (hgp.imp Eq.symm Eq.symm))
    obtain ⟨t, hw, ht⟩ := writePartMap_done hall
    refine ⟨announce s t, ?_, fun g hg => ?_⟩
    · rw [exec_glbPartMap_host hacc, write4_partMap_done hw, settleWrite]
    · rw [announce_partMap, ht, getD_partMapOf _ hg]
  · have hmem : p ∈ partMapChanged s (partMapOf v.toNat) := by
      refine mem_partMapChanged.mpr ⟨hp, g, hg, ?_⟩
      rw [getD_partMapOf _ hg]
      exact ⟨hne, hgp.imp Eq.symm Eq.symm⟩
    have hblock : ¬ partMapState s p = true := by simp [partMapState_iff, he, hl, hd]
    obtain ⟨_, _, _, hshape⟩ := refuseReg_host_shape 0x40 v.toNat s
    refine ⟨announce s (refuseReg .host 0x40 v.toNat s), ?_, ?_, ?_, ?_, ?_⟩
    · rw [exec_glbPartMap_host hacc, write4_partMap_refused (writePartMap_refused hmem hblock), settleWrite]
    · rw [announce_partMap, hshape]
    · rw [announce_parts, hshape]
    · rw [announce_bands, hshape]
    · rw [Recorded, announce_log]
      exact refuseReg_host_recorded 0x40 v.toNat s

end Sys2Proof.Machine
end

section
/-! SUPPORT. The scratchpad in the cycles of a write (R180): the age of one cycle seen from another, what a read of a store
sees beside the writes of its own cycle and of later ones, and the ports that a request of the other kind leaves free. From
these the claim about a read and a write of one bank is settled. -/

namespace Sys2Proof.Machine

/-- An age is the difference of the two cycles modulo 2^48, taken from -2^47 up to 2^47 (R56). -/
theorem ageAt_spec (j b : Nat) : ∃ m : Int, ageAt j b = j - b + m * 2 ^ 48 ∧ -2 ^ 47 ≤ ageAt j b ∧ ageAt j b < 2 ^ 47 := by
  rw [ageAt, signed]
  split
  · exact ⟨1 + b / 2 ^ 48 - ((j + 2 ^ 48 - b % 2 ^ 48) / 2 ^ 48 : Nat), by omega⟩
  · exact ⟨b / 2 ^ 48 - ((j + 2 ^ 48 - b % 2 ^ 48) / 2 ^ 48 : Nat), by omega⟩

@[simp] theorem ageAt_self (j : Nat) : ageAt j j = 0 := by
  obtain ⟨m, hm, hlo, hhi⟩ := ageAt_spec j j
  omega

/-- A cycle that lies in the past of cycle `j` is none of the 8 from cycle `j + k` on, unless the two are the same: the count
of cycles does not come round to it. -/
theorem not_ageAt_soon {j k b : Nat} (hpast : 0 ≤ ageAt j b) (hk : k ≤ 2 ^ 47 - 8) (hne : 0 < ageAt j b + k) :
    ¬ (0 ≤ ageAt b (j + k) ∧ ageAt b (j + k) < 8) := by
  obtain ⟨m, hm, hlo, hhi⟩ := ageAt_spec j b
  obtain ⟨n, hn, hlo', hhi'⟩ := ageAt_spec b (j + k)
  omega

/-- A read of address `a` in cycle `j` sees the byte that the entry `e` kept: its write was of this address, in one of
the 8 cycles from `j` on. -/
def seesOld (j a : Nat) (e : Nat × Nat × Byte) : Bool := decide (e.2.1 = a ∧ 0 ≤ ageAt e.1 j ∧ ageAt e.1 j < 8)

/-- A read sees the oldest byte kept for it, or what stands in the store. -/
theorem store_at_eq (st : Store) (j a : Nat) :
    st.at j a = (st.old.filter (seesOld j a)).foldl (fun _ e => e.2.2) (readByte st.mem a) := by
  simp [Store.at, seesOld, List.foldl_filter]

theorem store_at_of_none_seen {st : Store} {j a : Nat} (h : ∀ e ∈ st.old, seesOld j a e = false) :
    st.at j a = readByte st.mem a := by
  rw [store_at_eq, List.filter_eq_nil_iff.mpr (by simpa using h), List.foldl_nil]

/-- No byte kept is that of a write after cycle `j`. -/
def NoneLater (j : Nat) (st : Store) : Prop := ∀ e ∈ st.old, 0 ≤ ageAt j e.1

/-- A write in cycle `j` drops the bytes kept for writes after `j`, and those of writes 8 cycles or more before. -/
theorem noneLater_put (st : Store) (j a : Nat) (v : Byte) : NoneLater j (st.put j a v) := by
  intro e he
  rcases List.mem_cons.mp he with rfl | he
  · exact (ageAt_self j).ge
  · exact (of_decide_eq_true (List.mem_filter.mp he).2).1

theorem noneLater_puts {st : Store} {j : Nat} (h : NoneLater j st) (l : List (Nat × Byte)) : NoneLater j (st.puts j l) := by
  induction l generalizing st with
  | nil => exact h
  | cons x l ih => exact ih (noneLater_put st j x.1 x.2)

/-- The bytes that a write drops are none that a read of its cycle, or of one after it, could see. -/
theorem filter_seesOld_recent {st : Store} {j k : Nat} (h : NoneLater j st) (hk : k ≤ 2 ^ 47 - 8) (y : Nat) :
    (st.old.filter (fun e => decide (ageAt j e.1 ≥ 0 ∧ ageAt j e.1 < 8))).filter (seesOld (j + k) y) =
      st.old.filter (seesOld (j + k) y) := by
  rw [List.filter_filter]
  refine List.filter_congr fun e he => ?_
  by_cases hrecent : ageAt j e.1 < 8
  · simp [h e he, hrecent]
  · have := not_ageAt_soon (h e he) hk (by omega)
    simp [seesOld, this]

/-- A write leaves the other addresses as they read. -/
theorem store_at_put_other {st : Store} {j k x y : Nat} (v : Byte) (h : NoneLater j st) (hk : k ≤ 2 ^ 47 - 8) (hne : x ≠ y) :
    (st.put j x v).at (j + k) y = st.at (j + k) y := by
  have hnew : seesOld (j + k) y (j, x, readByte st.mem x) = false := by simp [seesOld, hne]
  rw [store_at_eq, store_at_eq, Store.put, List.filter_cons, hnew, filter_seesOld_recent h hk,
    readByte_writeByte_other _ _ hne]
  rfl

/-- R180: a read in the cycle of a write sees what a read without the write would. -/
theorem store_at_put_same_cycle {st : Store} {j : Nat} (h : NoneLater j st) (x y : Nat) (v : Byte) :
    (st.put j x v).at j y = st.at j y := by
  by_cases hne : x = y
  · subst hne
    have hnew : seesOld j x (j, x, readByte st.mem x) = true := by simp [seesOld]
    have hrest := filter_seesOld_recent (k := 0) h (by decide) x
    rw [Nat.add_zero] at hrest
    rw [store_at_eq, store_at_eq, Store.put, List.filter_cons, hnew, hrest]
    rfl
  · exact store_at_put_other (k := 0) v h (by decide) hne

theorem store_at_puts_other {st : Store} {j k y : Nat} {l : List (Nat × Byte)} (h : NoneLater j st) (hk : k ≤ 2 ^ 47 - 8)
    (hne : ∀ x ∈ l, x.1 ≠ y) : (st.puts j l).at (j + k) y = st.at (j + k) y := by
  induction l generalizing st with
  | nil => rfl
  | cons x l ih =>
    obtain ⟨hx, hl⟩ := List.forall_mem_cons.mp hne
    rw [Store.puts, ih (noneLater_put st j x.1 x.2) hl, store_at_put_other x.2 h hk hx]

theorem store_at_puts_same_cycle {st : Store} {j : Nat} (h : NoneLater j st) (l : List (Nat × Byte)) (y : Nat) :
    (st.puts j l).at j y = st.at j y := by
  induction l generalizing st with
  | nil => rfl
  | cons x l ih => rw [Store.puts, ih (noneLater_put st j x.1 x.2), store_at_put_same_cycle h]

/-- R180: from the cycle after, a read sees what stands in the store. -/
theorem store_at_later {st : Store} {j k : Nat} (h : NoneLater j st) (hpos : 1 ≤ k) (hk : k ≤ 2 ^ 47 - 8) (y : Nat) :
    st.at (j + k) y = readByte st.mem y := by
  refine store_at_of_none_seen fun e he => ?_
  have hpast := h e he
  have := not_ageAt_soon hpast hk (by omega)
  simp [seesOld, this]

/-- Before any write of cycle `j` to an address, a read of it in that cycle sees what stands in the store. -/
theorem store_at_unwritten {st : Store} {j y : Nat} (h : ∀ e ∈ st.old, e.2.1 = y → 0 < ageAt j e.1) :
    st.at j y = readByte st.mem y := by
  refine store_at_of_none_seen fun e he => ?_
  by_cases hy : e.2.1 = y
  · have hpast := h e he hy
    have := not_ageAt_soon (k := 0) hpast.le (by decide) (by simpa using hpast)
    simpa [seesOld, hy] using this
  · simp [seesOld, hy]

theorem spread_cons (m a : Nat) (v : Byte) (r : List Byte) : spread m a (v :: r) = (a % m, v) :: spread m (a + 1) r := by
  simp [spread, List.range_succ_eq_map, Function.comp_def, Nat.add_assoc, Nat.add_comm 1]

/-- A run of bytes that does not pass the end of its memory keeps to its addresses. -/
theorem mem_spread_addr {m a : Nat} {bs : List Byte} (hfit : a + bs.length ≤ m) {x : Nat × Byte} (hx : x ∈ spread m a bs) :
    a ≤ x.1 ∧ x.1 < a + bs.length := by
  obtain ⟨i, hi, rfl⟩ := List.mem_map.mp hx
  have hi := List.mem_range.mp hi
  simp only [Nat.mod_eq_of_lt (show a + i < m by omega)]
  omega

/-- A run of bytes written in one cycle ends up in the store as a plain write of them does. -/
theorem puts_spread_mem (st : Store) (j : Nat) {m a : Nat} {bs : List Byte} (hfit : a + bs.length ≤ m) :
    (st.puts j (spread m a bs)).mem = writeBytes st.mem a bs := by
  induction bs generalizing st a with
  | nil => rfl
  | cons v r ih =>
    rw [List.length_cons] at hfit
    rw [spread_cons, Nat.mod_eq_of_lt (by omega), Store.puts, ih _ (by omega)]
    rfl

/-- R180: from the next cycle on a read of bytes written together returns them. -/
theorem store_read_spread_later {m a : Nat} {bs : List Byte} (hfit : a + bs.length ≤ m) (st : Store) (j : Nat) {k : Nat}
    (hpos : 1 ≤ k) (hk : k ≤ 2 ^ 47 - 8) : (st.puts j (spread m a bs)).read (j + k) a bs.length = bs := by
  refine List.ext_getElem (by simp [Store.read]) fun i _ hi => ?_
  have hpast : NoneLater j (st.puts j (spread m a bs)) := by
    cases bs with
    | nil => cases hi
    | cons v r => rw [spread_cons]; exact noneLater_puts (noneLater_put st j _ v) _
  simp only [Store.read, List.getElem_map, List.getElem_range]
  rw [store_at_later hpast hpos hk, puts_spread_mem st j hfit, readByte_writeBytes_inside bs _ _ _ hi]

/-- Recording a request of cycle `j` adds it to the requests of that cycle, and drops none of them. -/
theorem portsAt_addReq (c : Cell) (j : Nat) (write : Bool) (code order bank : Nat) :
    portsAt (addReq j write code order bank c) j = arrayPorts c j ++ vecReadPorts c j ++ vecWritePorts c j ++
      ⟨write, code, order, bank⟩ :: (c.reqs.filter (·.cyc = j)).map (fun r => ⟨r.write, r.code, r.order, r.bank⟩) := by
  have hkept : (c.reqs.filter (fun r => decide (ageAt j r.cyc ≥ 0 ∧ ageAt j r.cyc < 4))).filter (·.cyc = j) =
      c.reqs.filter (·.cyc = j) := by
    rw [List.filter_filter]
    refine List.filter_congr fun r _ => ?_
    by_cases hr : r.cyc = j <;> simp [hr]
  simp only [portsAt, addReq, List.filter_cons, decide_true, if_true, hkept, List.map_cons]
  rfl

/-- R180: a read takes no port from a write of its cycle, nor a write from a read. -/
theorem portLoser_addReq_other (c : Cell) (j : Nat) (write : Bool) (code order code' order' bank : Nat) (banks : List Nat) :
    portLoser (addReq j (!write) code' order' bank c) j write code order banks = portLoser c j write code order banks := by
  rw [portLoser, portsAt_addReq, portLoser, portsAt]
  simp only [List.foldl_append, List.foldl_cons, Bool.not_eq_self, false_and, if_false]

/-- Settles O59: each byte written hides from the reads of its own cycle and shows from the next one on, and requests of the
other kind do not meet. -/
theorem readAndWriteOfOneBank : Obligations.ReadAndWriteOfOneBank := by
  intro c j a bs hfit
  refine ⟨fun k hpos hk => store_read_spread_later hfit c.sp j hpos hk,
    fun hpast => ⟨?_, fun hunwritten => ?_, fun k x hk hx => ?_⟩,
    fun code code' order order' bank banks w => portLoser_addReq_other c j w code order code' order' bank banks⟩
  · exact List.map_congr_left fun i _ => store_at_puts_same_cycle hpast _ _
  · refine List.map_congr_left fun i hi => store_at_unwritten fun e he hy => ?_
    have hi := List.mem_range.mp hi
    exact hunwritten e he (by omega) (by omega)
  · refine store_at_puts_other hpast hk fun y hy => ?_
    have := mem_spread_addr hfit hy
    omega

end Sys2Proof.Machine
end

section
/-! SUPPORT. Device memory by address (Table 0.5, R9, R196 to R198, R282): where the tiers and the windows lie, that a read takes
back nothing that was sent before it, what a window read without errors returns, and that nothing is reached above the windows. -/

namespace Sys2Proof.Machine

/-- The tiers end with the last unit of DDR5 (Table 0.5). -/
theorem lt_of_populated {s : State} {a : Nat} (h : populated s a = true) : a < 0x130000000000 := by
  by_contra hge
  have hnone : unitOf a = none := by rw [unitOf, if_neg (by omega), if_neg (by omega)]
  rw [populated, hnone] at h
  cases h

/-- No tier holds an address from the end of the last unit on. -/
theorem populated_beyond (s : State) {a : Nat} (h : 0x130000000000 ≤ a) : populated s a = false :=
  Bool.eq_false_iff.mpr fun hp => absurd (lt_of_populated hp) (by omega)

theorem inWindow_iff {a : Nat} : inWindow a = true ↔ 0x200000000000 ≤ a ∧ a < 0x200080000000 := decide_eq_true_iff

/-- The windows end below the register space. -/
theorem inWindow_beyond {a : Nat} (h : 0x200080000000 ≤ a) : inWindow a = false :=
  Bool.eq_false_iff.mpr fun hw => absurd (inWindow_iff.mp hw) (by omega)

/-- A tier address is in no window. -/
theorem inWindow_of_populated {s : State} {a : Nat} (h : populated s a = true) : inWindow a = false :=
  Bool.eq_false_iff.mpr fun hw => absurd (inWindow_iff.mp hw) (by have := lt_of_populated h; omega)

/-! What a read sends comes after all that was sent before it. -/

theorem memChange_out {s t : State} (h : MemChange s t) : s.out <:+ t.out := by
  obtain ⟨_, _, _, _, _, _, _, o, rfl, -⟩ := h
  exact List.suffix_append o s.out

theorem memChange_setLog (g : ErrLog) (s : State) : MemChange s { s with log := g } := memChange_log ⟨g, s.msix, [], rfl⟩

theorem memChange_advise (cell crit : Nat) (ctx : List (Nat × Nat)) (s : State) : MemChange s (advise cell crit ctx s) :=
  memChange_trans (memChange_log (logRec_shape ..)) (memChange_setLog ..)

theorem memChange_spCorrected (j cell a : Nat) (s : State) : MemChange s (spCorrected j cell a s) := by
  unfold spCorrected
  extract_lets ctx s1 hs
  have hlog : MemChange s s1 := memChange_log (logCorrected_shape ..)
  split
  · exact memChange_trans (memChange_trans hlog (memChange_setLog ..)) (memChange_advise ..)
  · exact memChange_trans hlog (memChange_setLog ..)

theorem memChange_spUncorrectable_window (p j cell a : Nat) (s : State) :
    MemChange s (spUncorrectable p j cell a false s) := by
  unfold spUncorrectable
  extract_lets ctx s1 n _ s2
  have hlog : MemChange s s1 := memChange_log (logDeferred_shape ..)
  have hcount : MemChange s s2 := memChange_trans hlog (memChange_setLog ..)
  split
  · exact memChange_trans hcount (memChange_advise ..)
  · exact hcount

/-! The three outcomes of a codeword decoded for a window access (R197, R198). -/

theorem windowHalf_clean {cell word half : Nat} {s : State} {bs : List Byte} (fix : Bool)
    (h : spDecode (spNow (getCell s cell)) (jccOf s (partOf s (cell / 128))) word half = (bs, .clean)) :
    windowHalf cell word half fix s = (bs, true, s) := by simp only [windowHalf, h]

theorem windowHalf_corrected {cell word half i : Nat} {v : Byte} {s : State} {bs : List Byte} (fix : Bool)
    (h : spDecode (spNow (getCell s cell)) (jccOf s (partOf s (cell / 128))) word half = (bs, .corrected i v)) :
    ∃ u, MemChange s u ∧ windowHalf cell word half fix s = (bs, true, if fix then putHalf cell word half bs u else u) :=
  ⟨_, memChange_spCorrected (jccOf s (partOf s (cell / 128))) cell (word * 64) s, by simp only [windowHalf, h]⟩

theorem windowHalf_uncorrectable {cell word half : Nat} {s : State} {bs : List Byte} (fix : Bool)
    (h : spDecode (spNow (getCell s cell)) (jccOf s (partOf s (cell / 128))) word half = (bs, .uncorrectable)) :
    ∃ u, MemChange s u ∧ windowHalf cell word half fix s = (bs, false, u) :=
  ⟨_, memChange_spUncorrectable_window (partOf s (cell / 128)) (jccOf s (partOf s (cell / 128))) cell (word * 64) s,
    by simp only [windowHalf, h]⟩

theorem windowHalf_out {cell word half : Nat} {fix ok : Bool} {s t : State} {bs : List Byte}
    (h : windowHalf cell word half fix s = (bs, ok, t)) : s.out <:+ t.out := by
  rcases hd : spDecode (spNow (getCell s cell)) (jccOf s (partOf s (cell / 128))) word half with ⟨b, e⟩
  cases e with
  | clean =>
    rw [windowHalf_clean fix hd] at h
    obtain ⟨-, -, rfl⟩ := h
    exact List.suffix_rfl
  | corrected i v =>
    obtain ⟨u, hu, e⟩ := windowHalf_corrected fix hd
    rw [e] at h
    obtain ⟨-, -, rfl⟩ := h
    have hout := memChange_out hu
    cases fix <;> exact hout
  | uncorrectable =>
    obtain ⟨u, hu, e⟩ := windowHalf_uncorrectable fix hd
    rw [e] at h
    obtain ⟨-, -, rfl⟩ := h
    exact memChange_out hu

theorem windowRead_out {a n : Nat} {s t : State} {x : Option (List Byte)} (h : windowRead a n s = (x, t)) :
    s.out <:+ t.out := by
  unfold windowRead at h
  extract_lets o cell at h
  split at h
  · next word _ _ =>
    generalize h0 : windowHalf cell word 0 true s = r0 at h
    obtain ⟨b0, ok0, s0⟩ := r0
    dsimp only at h
    generalize h1 : windowHalf cell word 1 true s0 = r1 at h
    obtain ⟨b1, ok1, s1⟩ := r1
    obtain ⟨-, rfl⟩ := h
    exact (windowHalf_out h0).trans (windowHalf_out h1)
  · have hrec : s.out <:+ (windowRecord cell o 0x030A s).out := memChange_out (memChange_log (logDeferred_shape ..))
    generalize windowRecord cell o 0x030A s = u at h hrec
    obtain ⟨-, rfl⟩ := h
    exact hrec
  · obtain ⟨-, rfl⟩ := h
    exact List.suffix_rfl

theorem tierRead_out {a n : Nat} {s t : State} {bs : List Byte} {ok : Bool}
    (h : memRead windowWho a n (moveMem a n s) = (bs, ok, t)) : s.out <:+ t.out := by
  have hread := memChange_trans (memChange_moveMem a n s) (readChange_memRead windowWho a n _ (by decide)).1
  rw [h] at hread
  exact memChange_out hread

theorem spaceRead_out (f : Nat) : ∀ {a n : Nat} {s t : State} {x : Option (List Byte)}, spaceRead a f n s = (x, t) →
    s.out <:+ t.out := by
  induction f with
  | zero => rintro a n s t x ⟨-, -⟩; exact List.suffix_rfl
  | succ f ih =>
    intro a n s t x h
    unfold spaceRead at h
    by_cases hn : n = 0
    · rw [if_pos hn] at h
      obtain ⟨-, rfl⟩ := h
      exact List.suffix_rfl
    rw [if_neg hn] at h
    extract_lets k at h
    generalize hp : (ite (inWindow a = true) _ _ : Option (List Byte) × State) = p at h
    obtain ⟨y, u⟩ := p
    have hpiece : s.out <:+ u.out := by
      split at hp
      · exact windowRead_out hp
      · split at hp
        · generalize hm : memRead windowWho a k (moveMem a k s) = r at hp
          obtain ⟨bs, ok, v⟩ := r
          obtain ⟨-, rfl⟩ := hp
          exact tierRead_out hm
        · obtain ⟨-, rfl⟩ := hp
          exact List.suffix_rfl
    cases y with
    | none =>
      obtain ⟨-, rfl⟩ := h
      exact hpiece
    | some bs =>
      dsimp only at h
      generalize hr : spaceRead (a + k) f (n - k) u = r at h
      obtain ⟨z, v⟩ := r
      obtain ⟨-, rfl⟩ := h
      exact hpiece.trans (ih hr)

/-! A window read without errors, and accesses above the windows. -/

/-- A window read of a bank word whose codewords are both good (R196, R198). -/
theorem windowRead_clean {a : Nat} {s : State} {b0 b1 : List Byte} (n : Nat)
    (hrule : windowRule s ((a - 0x200000000000) / 0x80000) false = 0)
    (h0 : spDecode (spNow (getCell s ((a - 0x200000000000) / 0x80000)))
      (jccOf s (partOf s ((a - 0x200000000000) / 0x80000 / 128))) ((a - 0x200000000000) % 0x80000 / 64) 0 = (b0, .clean))
    (h1 : spDecode (spNow (getCell s ((a - 0x200000000000) / 0x80000)))
      (jccOf s (partOf s ((a - 0x200000000000) / 0x80000 / 128))) ((a - 0x200000000000) % 0x80000 / 64) 1 = (b1, .clean)) :
    windowRead a n s = (some (((b0 ++ b1).drop ((a - 0x200000000000) % 64)).take n), s) := by
  simp only [windowRead, hrule, windowHalf_clean true h0, windowHalf_clean true h1, Bool.and_self, if_true]

theorem spaceRead_zero (a f : Nat) (s : State) : spaceRead a f 0 s = (some [], s) := by cases f <;> rfl

/-- A read within one bank word of a window is the window's. -/
theorem spaceRead_window {a n : Nat} {s u : State} {bs : List Byte} (hpos : 0 < n) (hwin : inWindow a = true)
    (hfit : a % 64 + n ≤ 64) (hread : windowRead a n s = (some bs, u)) (f : Nat) : spaceRead a (f + 1) n s = (some bs, u) := by
  rw [spaceRead, if_neg (by omega)]
  simp only [Nat.min_eq_left (show n ≤ 64 - a % 64 by omega), hwin, if_true, hread, Nat.sub_self, spaceRead_zero, Option.map_some,
    List.append_nil]

/-- A read above the windows reaches nothing. -/
theorem spaceRead_beyond {a n : Nat} (s : State) (h : 0x200080000000 ≤ a) (hpos : 0 < n) (f : Nat) :
    spaceRead a (f + 1) n s = (none, s) := by
  rw [spaceRead, if_neg (by omega)]
  simp only [inWindow_beyond h, populated_beyond s (show 0x130000000000 ≤ a by omega), Bool.false_and, Bool.false_eq_true, if_false]

/-- A write above the windows changes nothing, and is refused unless it is empty. -/
theorem spaceWrite_beyond (s : State) (f : Nat) : ∀ {a : Nat} (bs : List Byte), 0x200080000000 ≤ a →
    ∃ ok, spaceWrite a f bs s = (ok, s) ∧ (bs ≠ [] → 0 < f → ok = false) := by
  induction f with
  | zero => exact fun bs _ => ⟨true, rfl, fun _ h => absurd h (by decide)⟩
  | succ f ih =>
    intro a bs h
    by_cases hne : bs = []
    · exact ⟨true, if_pos hne, fun h => absurd hne h⟩
    · obtain ⟨ok, hrest, -⟩ := ih (a := a + min bs.length (64 - a % 64)) (bs.drop (min bs.length (64 - a % 64))) (by omega)
      refine ⟨false, ?_, fun _ _ => rfl⟩
      rw [spaceWrite, if_neg hne]
      simp only [inWindow_beyond h, populated_beyond s (show 0x130000000000 ≤ a by omega), Bool.false_and, Bool.false_eq_true,
        if_false, hrest]

/-- Table 10.1 and R9 give no access above the windows. -/
theorem mayAccess_beyond {a n : Nat} (s : State) (h : 0x200080000000 ≤ a) (hpos : 0 < n) (write : Bool) :
    mayAccess s a n write = false := by
  refine List.all_eq_false.mpr ⟨0, List.mem_range.mpr (by omega), ?_⟩
  have hline : 0x200080000000 ≤ a / 64 * 64 + 64 * 0 := by omega
  simp only [inWindow_beyond hline, populated_beyond s (Nat.le_trans (by decide) hline), Bool.false_eq_true, if_false,
    not_false_eq_true]

end Sys2Proof.Machine
end

section
/-! SUPPORT. A write within one line of a tier that is populated and without errors (R9, R219, R220): the merge writes back
what stands beside the bytes written, so that memory reads as after a plain write of them. -/

namespace Sys2Proof.Machine

@[simp] theorem length_readBytes (m : List Host.Cell) (n : Nat) : ∀ a, (readBytes m a n).length = n := by
  induction n with
  | zero => intro a; rfl
  | succ n ih => intro a; rw [readBytes, List.length_cons, ih]

theorem getD_readBytes (m : List Host.Cell) {n i : Nat} (hi : i < n) (a : Nat) : (readBytes m a n).getD i 0 = readByte m (a + i) := by
  induction n generalizing a i with
  | zero => cases hi
  | succ n ih =>
    cases i with
    | zero => rfl
    | succ i => rw [readBytes, List.getD_cons_succ, ih (by omega), Nat.add_assoc, Nat.add_comm 1 i]

/-- What memory reads after a write of bytes. -/
theorem readByte_writeBytes (m : List Host.Cell) (a : Nat) (bs : List Byte) (x : Nat) : readByte (writeBytes m a bs) x =
    if a ≤ x ∧ x < a + bs.length then bs.getD (x - a) 0 else readByte m x := by
  split
  · next h =>
    obtain ⟨i, rfl⟩ := Nat.exists_eq_add_of_le h.1
    have hi : i < bs.length := by omega
    rw [readByte_writeBytes_inside bs m a i hi, Nat.add_sub_cancel_left, List.getD_eq_getElem _ _ hi]
  · exact readByte_writeBytes_outside bs m a x (by omega)

/-- A codeword without errors decodes to what stands there (R220). -/
theorem cwDecode_noErrors {s : State} (h : NoErrors s) (c : Nat) : cwDecode s [] c = (readBytes s.mem (c * 32) 32, .clean) := by
  obtain ⟨herr, hpoison⟩ := h
  have hsym : cwErrors s [] c = [] := by simp [cwErrors, herr, tget]
  have hchk : addrChkBad s [] (c / 2) = false := by simp [addrChkBad, herr, tget]
  have hdec : rsDecode [] = .clean := by decide
  simp [cwDecode, hsym, hchk, hpoison, hdec, tget]

theorem mergeRead_noErrors {s : State} (h : NoErrors s) (w : MemWho) (c : Nat) :
    mergeRead w c s = (readBytes s.mem (c * 32) 32, true, s) := by rw [mergeRead, cwDecode_noErrors h]

/-- Whether a write of bytes `lo` to `hi` of two codewords meets codeword `h` of them. -/
def halfHit (lo hi h : Nat) : Bool := decide (lo < 32 * h + 32 ∧ 32 * h < hi)

theorem halfHit_iff {lo hi h : Nat} : halfHit lo hi h = true ↔ lo < 32 * h + 32 ∧ 32 * h < hi := decide_eq_true_iff

/-- What a merge has of codeword `h`: its bytes when it is written in part. -/
def halfOld (lo hi h : Nat) (b : List Byte) : List Byte :=
  if halfHit lo hi h && !decide (lo ≤ 32 * h ∧ 32 * h + 32 ≤ hi) then b else zeros 32

/-- Two codewords with bytes from `lo` on replaced. -/
def mergedLine (lo : Nat) (bs old : List Byte) : List Byte := old.take lo ++ bs ++ old.drop (lo + bs.length)

theorem getIf_clean {get : Nat → State → List Byte × Bool × State} {h : Nat} {s : State} {b : List Byte} (c : Bool)
    (hget : get h s = (b, true, s)) : getIf c get h s = (if c then b else zeros 32, true, s) := by
  cases c
  · rfl
  · exact hget

/-- A merge whose codewords can be read writes the line merged (R219). -/
theorem mergeWrite_clean {get : Nat → State → List Byte × Bool × State} {s : State} {b0 b1 : List Byte}
    (h0 : get 0 s = (b0, true, s)) (h1 : get 1 s = (b1, true, s)) (put : Nat → List Byte → State → State)
    (lo : Nat) (bs : List Byte) :
    mergeWrite get put lo bs s =
      let full := mergedLine lo bs (halfOld lo (lo + bs.length) 0 b0 ++ halfOld lo (lo + bs.length) 1 b1)
      (true, putIf (halfHit lo (lo + bs.length) 1) put 1 (full.drop 32)
        (putIf (halfHit lo (lo + bs.length) 0) put 0 (full.take 32) s)) := by
  simp only [mergeWrite, getIf_clean _ h0, getIf_clean _ h1, Bool.and_self, Bool.true_and, if_true]
  rfl

theorem length_halfOld {lo hi h : Nat} {b : List Byte} (hb : b.length = 32) : (halfOld lo hi h b).length = 32 := by
  unfold halfOld
  split
  · exact hb
  · exact List.length_replicate

/-- A codeword that a write meets keeps the bytes beside it. -/
theorem getD_halfOld {lo hi h i : Nat} (b : List Byte) (hhit : halfHit lo hi h = true) (hi32 : i < 32)
    (hout : 32 * h + i < lo ∨ hi ≤ 32 * h + i) : (halfOld lo hi h b).getD i 0 = b.getD i 0 := by
  have hpart : decide (lo ≤ 32 * h ∧ 32 * h + 32 ≤ hi) = false := decide_eq_false (by omega)
  rw [halfOld, hhit, hpart]
  rfl

theorem length_mergedLine {lo : Nat} {bs old : List Byte} (hfit : lo + bs.length ≤ old.length) :
    (mergedLine lo bs old).length = old.length := by
  simp only [mergedLine, List.length_append, List.length_take, List.length_drop]
  omega

theorem getD_drop (l : List Byte) (n i : Nat) : (l.drop n).getD i 0 = l.getD (n + i) 0 := by
  rw [List.getD_eq_getElem?_getD, List.getElem?_drop, ← List.getD_eq_getElem?_getD]

theorem getD_take (l : List Byte) {n i : Nat} (h : i < n) : (l.take n).getD i 0 = l.getD i 0 := by
  rw [List.getD_eq_getElem?_getD, List.getElem?_take, if_pos h, ← List.getD_eq_getElem?_getD]

theorem getD_mergedLine {lo : Nat} {bs old : List Byte} (hfit : lo + bs.length ≤ old.length) (i : Nat) :
    (mergedLine lo bs old).getD i 0 = if lo ≤ i ∧ i < lo + bs.length then bs.getD (i - lo) 0 else old.getD i 0 := by
  have hlo : (old.take lo).length = lo := by rw [List.length_take]; omega
  have hhi : (old.take lo ++ bs).length = lo + bs.length := by rw [List.length_append, hlo]
  rw [mergedLine]
  by_cases h1 : i < lo + bs.length
  · rw [List.getD_append _ _ _ _ (by omega)]
    by_cases h2 : i < lo
    · rw [List.getD_append _ _ _ _ (by omega), if_neg (by omega), getD_take _ h2]
    · rw [List.getD_append_right _ _ _ _ (by omega), if_pos (by omega), hlo]
  · rw [List.getD_append_right _ _ _ _ (by omega), if_neg (by omega), hhi, getD_drop, Nat.add_sub_cancel' (by omega)]

/-- What memory reads once a codeword of a line has been put, or left. -/
theorem readByte_putIf_cwWrite (c : Bool) (k h : Nat) {bs : List Byte} (hlen : bs.length = 32) (s : State) (x : Nat) :
    readByte (putIf c (fun h => cwWrite (k + h)) h bs s).mem x =
      if c = true ∧ (k + h) * 32 ≤ x ∧ x < (k + h) * 32 + 32 then bs.getD (x - (k + h) * 32) 0 else readByte s.mem x := by
  cases c
  · simp [putIf]
  · have hmem : (putIf true (fun h => cwWrite (k + h)) h bs s).mem = writeBytes s.mem ((k + h) * 32) bs := rfl
    rw [hmem, readByte_writeBytes, hlen]
    simp only [true_and]

/-- The line that a merge writes, read from what stands at `base`. -/
def lineAfter (m : List Host.Cell) (base lo : Nat) (bs : List Byte) : List Byte :=
  mergedLine lo bs (halfOld lo (lo + bs.length) 0 (readBytes m base 32) ++
    halfOld lo (lo + bs.length) 1 (readBytes m (base + 32) 32))

theorem length_lineOld (m : List Host.Cell) (base lo hi : Nat) :
    (halfOld lo hi 0 (readBytes m base 32) ++ halfOld lo hi 1 (readBytes m (base + 32) 32)).length = 64 := by
  rw [List.length_append, length_halfOld (length_readBytes ..), length_halfOld (length_readBytes ..)]

theorem length_lineAfter (m : List Host.Cell) (base : Nat) {lo : Nat} {bs : List Byte} (hfit : lo + bs.length ≤ 64) :
    (lineAfter m base lo bs).length = 64 := by
  rw [lineAfter, length_mergedLine (by rw [length_lineOld]; exact hfit), length_lineOld]

/-- Beside the bytes written, a codeword that the write meets keeps what stood there. -/
theorem getD_lineAfter (m : List Host.Cell) (base : Nat) {lo h i : Nat} {bs : List Byte} (hfit : lo + bs.length ≤ 64)
    (hh : h = 0 ∨ h = 1) (hi : i < 32) (hhit : halfHit lo (lo + bs.length) h = true) :
    (lineAfter m base lo bs).getD (32 * h + i) 0 = readByte (writeBytes m (base + lo) bs) (base + 32 * h + i) := by
  rw [lineAfter, getD_mergedLine (by rw [length_lineOld]; exact hfit), readByte_writeBytes]
  by_cases hin : lo ≤ 32 * h + i ∧ 32 * h + i < lo + bs.length
  · rw [if_pos hin, if_pos (by omega)]
    congr 1
    omega
  · have hout : 32 * h + i < lo ∨ lo + bs.length ≤ 32 * h + i := by omega
    have hl0 := length_halfOld (lo := lo) (hi := lo + bs.length) (h := 0) (length_readBytes m 32 base)
    rw [if_neg hin, if_neg (by omega)]
    rcases hh with rfl | rfl
    · rw [List.getD_append _ _ _ _ (by omega), Nat.mul_zero, Nat.zero_add, getD_halfOld _ hhit hi hout, getD_readBytes m hi,
        Nat.add_zero]
    · rw [List.getD_append_right _ _ _ _ (by omega), hl0, Nat.mul_one, Nat.add_sub_cancel_left, getD_halfOld _ hhit hi hout,
        getD_readBytes m hi]

/-- A merge of codewords `k` and `k + 1` without errors writes those that it meets, merged (R219). -/
theorem mergeWrite_noErrors {s : State} (hok : NoErrors s) (w : MemWho) (k lo : Nat) (bs : List Byte) :
    mergeWrite (fun h => mergeRead w (k + h)) (fun h => cwWrite (k + h)) lo bs s =
      (true, putIf (halfHit lo (lo + bs.length) 1) (fun h => cwWrite (k + h)) 1 ((lineAfter s.mem (k * 32) lo bs).drop 32)
        (putIf (halfHit lo (lo + bs.length) 0) (fun h => cwWrite (k + h)) 0 ((lineAfter s.mem (k * 32) lo bs).take 32) s)) := by
  have h0 := mergeRead_noErrors hok w k
  have h1 := mergeRead_noErrors hok w (k + 1)
  rw [Nat.add_mul, Nat.one_mul] at h1
  exact mergeWrite_clean (get := fun h => mergeRead w (k + h)) h0 h1 _ lo bs

/-- Once the codewords that a merge meets are put, memory reads as after a plain write of its bytes. -/
theorem readByte_mergedLine (s : State) (k : Nat) {lo : Nat} {bs : List Byte} (hfit : lo + bs.length ≤ 64) (x : Nat) :
    readByte (putIf (halfHit lo (lo + bs.length) 1) (fun h => cwWrite (k + h)) 1 ((lineAfter s.mem (k * 32) lo bs).drop 32)
      (putIf (halfHit lo (lo + bs.length) 0) (fun h => cwWrite (k + h)) 0 ((lineAfter s.mem (k * 32) lo bs).take 32) s)).mem x =
    readByte (writeBytes s.mem (k * 32 + lo) bs) x := by
  have hlen := length_lineAfter s.mem (k * 32) hfit
  rw [readByte_putIf_cwWrite _ _ _ (by rw [List.length_drop, hlen]),
    readByte_putIf_cwWrite _ _ _ (by rw [List.length_take, hlen]; rfl), Nat.add_mul, Nat.one_mul, Nat.add_zero k]
  split
  · next hupper =>
    obtain ⟨hhit, hle, hlt⟩ := hupper
    obtain ⟨i, rfl⟩ := Nat.exists_eq_add_of_le hle
    rw [Nat.add_sub_cancel_left, getD_drop]
    exact getD_lineAfter s.mem (k * 32) (h := 1) hfit (.inr rfl) (by omega) hhit
  · next hupper =>
    split
    · next hlower =>
      obtain ⟨hhit, hle, hlt⟩ := hlower
      obtain ⟨i, rfl⟩ := Nat.exists_eq_add_of_le hle
      have hbyte := getD_lineAfter s.mem (k * 32) (i := i) hfit (.inl rfl) (by omega) hhit
      rw [Nat.mul_zero, Nat.zero_add, Nat.add_zero] at hbyte
      rw [Nat.add_sub_cancel_left, getD_take _ (by omega), hbyte]
    · next hlower =>
      rw [halfHit_iff] at hupper hlower
      exact (readByte_writeBytes_outside bs s.mem _ x (by omega)).symm

/-- A write within a line of a tier without errors is a plain write of its bytes (R219). -/
theorem lineWrite_noErrors {s : State} (hok : NoErrors s) {a : Nat} (hpop : populated s a = true) {bs : List Byte}
    (hfit : a % 64 + bs.length ≤ 64) (w : MemWho) :
    ∃ t, lineWrite w a bs s = (true, t) ∧ ∀ x, readByte t.mem x = readByte (writeBytes s.mem a bs) x := by
  have haddr : a / 64 * 2 * 32 + a % 64 = a := by omega
  refine ⟨_, by rw [lineWrite, if_pos hpop, mergeWrite_noErrors hok], fun x => ?_⟩
  rw [readByte_mergedLine s (a / 64 * 2) hfit, haddr]

/-- With no stored error there is no address check to correct. -/
theorem fixChk_noErrors {s : State} (hok : NoErrors s) (a n : Nat) : fixChk a n s = s := by
  have hkept : ∀ p : Nat × Byte → Bool, s.memErr.filter p = s.memErr := fun p => by rw [hok.1, List.filter_nil]
  rw [fixChk, hkept]

theorem memWriteAux_nil (w : MemWho) (a n : Nat) (s : State) : memWriteAux w a n [] s = (true, s) := by cases n <;> rfl

theorem memWrite_noErrors {s : State} (hok : NoErrors s) {a : Nat} (hpop : populated s a = true) {bs : List Byte} (hne : bs ≠ [])
    (hfit : a % 64 + bs.length ≤ 64) (w : MemWho) :
    ∃ t, memWrite w a bs s = (true, t) ∧ ∀ x, readByte t.mem x = readByte (writeBytes s.mem a bs) x := by
  obtain ⟨t, hline, hmem⟩ := lineWrite_noErrors hok hpop hfit w
  refine ⟨t, ?_, hmem⟩
  rw [memWrite, fixChk_noErrors hok, memWriteAux, if_neg hne]
  simp only [List.take_of_length_le (show bs.length ≤ 64 - a % 64 by omega),
    List.drop_of_length_le (show bs.length ≤ 64 - a % 64 by omega), hline, memWriteAux_nil, Bool.and_self]

theorem moveMem_shape (a n : Nat) (s : State) : ∃ pa, moveMem a n s = { s with patina := pa } := by
  unfold moveMem
  split <;> exact ⟨_, rfl⟩

theorem spaceWrite_nil (a f : Nat) (s : State) : spaceWrite a f [] s = (true, s) := by cases f <;> rfl

/-- A write within one line of populated tier memory by its address. -/
theorem spaceWrite_tier {s : State} (hok : NoErrors s) {a : Nat} {bs : List Byte} (hpop : AllPopulated s a bs.length)
    (hfit : a % 64 + bs.length ≤ 64) (f : Nat) :
    ∃ t, spaceWrite a (f + 1) bs s = (true, t) ∧ ∀ x, readByte t.mem x = readByte (writeBytes s.mem a bs) x := by
  by_cases hne : bs = []
  · subst hne
    exact ⟨s, rfl, fun _ => rfl⟩
  · have hpos : 0 < bs.length := List.length_pos_iff.mpr hne
    have hfirst : populated s a = true := hpop 0 hpos
    have hlast : populated s (a + bs.length - 1) = true := by
      rw [Nat.add_sub_assoc hpos]
      exact hpop _ (by omega)
    obtain ⟨pa, hmove⟩ := moveMem_shape a bs.length s
    obtain ⟨t, hwrite, hmem⟩ := memWrite_noErrors (s := { s with patina := pa }) hok hfirst hne hfit windowWho
    refine ⟨t, ?_, hmem⟩
    rw [spaceWrite, if_neg hne]
    simp only [Nat.min_eq_left (show bs.length ≤ 64 - a % 64 by omega), List.take_length, List.drop_length,
      inWindow_of_populated hfirst, hfirst, hlast, hmove, hwrite, spaceWrite_nil, Bool.and_self, Bool.false_eq_true,
      if_false, if_true]

end Sys2Proof.Machine
end

section
/-! SUPPORT. The aperture (R281, R282, R284): what the host's reads and writes through BAR2 come to. From these the claim about
it is settled. -/

namespace Sys2Proof.Machine

/-- A read below the size of BAR2, where the host has access, is one through the aperture. -/
theorem exec_bar2Read_aperture {s : State} (hacc : CanAccess .host s) {off : Nat} (n : Nat) (hoff : off < 0x1000000000) :
    exec (.bar2Read off n) s = .next (readBar2 off n s) := by
  have hload : hostLoad off n s = readBar2 off n s := if_pos hoff
  have hcfg : ¬ readsCfg ≤ off := by rw [readsCfg]; omega
  change execBar2Read off n s = _
  rw [execBar2Read, if_neg hcfg, ← hload]
  exact congrArg _ (agentRequest_access hacc (readReq off s) (hostLoad off n))

theorem exec_bar2Write_aperture {s : State} (hacc : CanAccess .host s) (off : Nat) (bs : List Byte) :
    exec (.bar2Write off bs) s = .next (writeBar2 off bs s) :=
  congrArg Host.Outcome.next (agentRequest_access hacc
    { bar := some 2, addr := apAddr s off, kind := 1, data := field bs 0 4 } (writeBar2 off bs))

/-- What went out after a state went out after every state before it. -/
theorem sent_of_suffix {o : Out} {s t u : State} (h : s.out <:+ t.out) (hsent : Sent o t u) : Sent o s u := by
  obtain ⟨p, hp⟩ := h
  obtain ⟨a, b, hout⟩ := hsent
  exact ⟨a, b ++ p, by rw [hout, ← hp]; simp⟩

theorem sent_emit (o : Out) (s : State) : Sent o s (emit o s) := ⟨[], [], rfl⟩

/-- A read that can be done is answered with its bytes (R281). -/
theorem sent_readBar2 {s u : State} {off n : Nat} {bs : List Byte} (hlim : limited s = false) (hin : off + n ≤ 0x1000000000)
    (hread : spaceRead (apAddr s off) (n / 64 + 2) n s = (some bs, u)) : Sent (.completion bs) s (readBar2 off n s) := by
  have hok : ¬ (limited s = true ∨ off + n > 0x1000000000) := by simp [hlim, hin]
  rw [readBar2, if_neg hok, hread]
  exact sent_of_suffix (spaceRead_out _ hread) (sent_emit ..)

/-- A read that Table 10.1 or R9 refuses is logged, counted and aborted. -/
theorem readBar2_refused {s : State} {off n : Nat} (hlim : limited s = false) (hin : off + n ≤ 0x1000000000)
    (hread : spaceRead (apAddr s off) (n / 64 + 2) n s = (none, s)) (hmay : mayAccess s (apAddr s off) n false = false) :
    readBar2 off n s = completerAbort (countRefused (hostRecord 0x0801 (some 2) .host (apAddr s off) 0 2 0 s)) := by
  have hok : ¬ (limited s = true ∨ off + n > 0x1000000000) := by simp [hlim, hin]
  rw [readBar2, if_neg hok, hread]
  simp only [hmay, Bool.false_eq_true, if_false]

theorem writeBar2_done {s t : State} {off : Nat} {bs : List Byte} (hlim : limited s = false)
    (hin : off + bs.length ≤ 0x1000000000) (hwrite : spaceWrite (apAddr s off) (bs.length / 64 + 2) bs s = (true, t)) :
    writeBar2 off bs s = t := by
  have hok : ¬ (limited s = true ∨ off + bs.length > 0x1000000000) := by simp [hlim, hin]
  rw [writeBar2, if_neg hok, hwrite]

/-- A write that Table 10.1 or R9 refuses is logged and counted. -/
theorem writeBar2_refused {s : State} {off : Nat} {bs : List Byte} (hlim : limited s = false)
    (hin : off + bs.length ≤ 0x1000000000) (hwrite : spaceWrite (apAddr s off) (bs.length / 64 + 2) bs s = (false, s))
    (hmay : mayAccess s (apAddr s off) bs.length true = false) :
    writeBar2 off bs s = countRefused (hostRecord 0x0801 (some 2) .host (apAddr s off) 1 0 (field bs 0 4) s) := by
  have hok : ¬ (limited s = true ∨ off + bs.length > 0x1000000000) := by simp [hlim, hin]
  rw [writeBar2, if_neg hok, hwrite]
  simp only [hmay, Bool.false_eq_true, if_false]

/-- The record of a request of the host changes the log and the MSI-X state, and takes a free value for the requester ID. -/
theorem hostRecord_host_shape (code : Nat) (unit : Option Nat) (addr kind ans data : Nat) (s : State) : ∃ g m o,
    hostRecord code unit .host addr kind ans data s = { s with free := s.free + 1, log := g, msix := m, out := o ++ s.out } :=
  logDeferred_shape _ _ _ _ { s with free := s.free + 1 }

/-- An error that AER shows changes its status registers, and sends at most a message (R277). -/
theorem aerError_shape (bit : Nat) (s : State) : ∃ sts dev o,
    aerError bit s = { s with pcie := { s.pcie with aerSts := sts, devSts := dev }, out := o ++ s.out } := by
  unfold aerError
  extract_lets p fatal u
  generalize (bitOf p.aerMask bit || p.d3hot || !_) = silent
  cases silent
  · exact ⟨u.pcie.aerSts, u.pcie.devSts, [.errorMessage fatal], rfl⟩
  · exact ⟨u.pcie.aerSts, u.pcie.devSts, [], rfl⟩

theorem sent_completerAbort (s : State) : Sent .completerAbort s (completerAbort s) := by
  obtain ⟨_, _, o, haer⟩ := aerError_shape 15 s
  have hout : s.out <:+ (aerError 15 s).out := by rw [haer]; exact List.suffix_append o s.out
  exact sent_of_suffix hout (sent_emit ..)

theorem completerAbort_refused (s : State) : (completerAbort s).pcie.refused = s.pcie.refused := by
  obtain ⟨_, _, _, haer⟩ := aerError_shape 15 s
  rw [completerAbort, emit_pcie, haer]

/-- Settles O55: the address map says what an offset reaches, and each access comes to a read or a write of device memory by its
address, or to a refusal that is counted. -/
theorem aperture : Obligations.Aperture := by
  intro off s
  refine ⟨⟨s.pcie.apBase % 2 ^ 18 * 2 ^ 30, rfl, rfl, Nat.mul_mod_left ..⟩,
    fun x hx => ⟨populated_beyond s (by omega), inWindow_beyond (by omega)⟩, fun hacc => ?_⟩
  have hlim : limited s = false := hacc.2.2
  refine ⟨fun n bs u hoff hin hread => ?_, fun bs hin hok hpop hfit => ?_, fun n b0 b1 hpos hin hwin hrule hfit hdec => ?_,
    fun n hpos hin hreg => ?_⟩
  · exact ⟨_, exec_bar2Read_aperture hacc n hoff, sent_readBar2 hlim hin hread⟩
  · obtain ⟨t, hwrite, hmem⟩ := spaceWrite_tier hok hpop hfit (bs.length / 64 + 1)
    refine ⟨t, ?_, fun x => by rw [hmem, readByte_writeBytes]⟩
    rw [exec_bar2Write_aperture hacc, writeBar2_done hlim hin hwrite]
  · have hbase := (inWindow_iff.mp hwin).1
    have hread := windowRead_clean n hrule (hdec 0 b0 (.inl ⟨rfl, rfl⟩)) (hdec 1 b1 (.inr ⟨rfl, rfl⟩))
    exact ⟨_, exec_bar2Read_aperture hacc n (by omega), sent_readBar2 hlim hin
      (spaceRead_window hpos hwin (by omega) hread (n / 64 + 1))⟩
  · have habove : 0x200080000000 ≤ apAddr s off := by omega
    refine ⟨⟨_, exec_bar2Read_aperture hacc n (by omega), ?_⟩, fun bs hlen => ?_⟩
    · obtain ⟨_, _, o, hrec⟩ := hostRecord_host_shape 0x0801 (some 2) (apAddr s off) 0 2 0 s
      rw [readBar2_refused hlim hin (spaceRead_beyond s habove hpos _) (mayAccess_beyond s habove hpos false),
        completerAbort_refused, hrec]
      exact ⟨sent_of_suffix (List.suffix_append o s.out) (sent_completerAbort _), rfl⟩
    · subst hlen
      obtain ⟨ok, hwrite, hok⟩ := spaceWrite_beyond s (bs.length / 64 + 2) bs habove
      obtain rfl : ok = false := hok (List.length_pos_iff.mp hpos) (by omega)
      obtain ⟨_, _, _, hrec⟩ := hostRecord_host_shape 0x0801 (some 2) (apAddr s off) 1 0 (field bs 0 4) s
      refine ⟨_, exec_bar2Write_aperture hacc off bs, ?_⟩
      rw [writeBar2_refused hlim hin hwrite (mayAccess_beyond s habove hpos true), hrec]
      exact ⟨rfl, rfl, rfl, rfl, rfl⟩

end Sys2Proof.Machine
end

section
/-! SUPPORT. The rim under the operations of the static island and of the Armature cores (R18): each operation leaves it alone,
one lemma for each. From these the claim about island events is settled. -/

-- One proof after another: many at a time need more memory than the check of the whole text has.
set_option Elab.async false

namespace Sys2Proof.Machine

/-- The rim of a state, the rest at its default. -/
def rimView (s : State) : State := {
  mem := s.mem, memErr := s.memErr, poison := s.poison, regions := s.regions,
  devs := s.devs, plinths := s.plinths, links := s.links, lasers := s.lasers, chans := s.chans, rings := s.rings,
  mbox := s.mbox, flights := s.flights, flash := s.flash, sec := s.sec, pwr := s.pwr, app := s.app, partMap := s.partMap,
  fence := s.fence, pending := s.pending }

/-- The rim is the same: tier memory, regions and devices, links and channels, rings and mailboxes, flash and security, power, the
application cores, the partition and fence maps, and the queue. -/
abbrev RimKept (s t : State) : Prop := rimView t = rimView s

/-- The equation of the view, field by field. -/
theorem rimKept_fields {s t : State} (h : RimKept s t) :
    t.mem = s.mem ∧ t.memErr = s.memErr ∧ t.poison = s.poison ∧ t.regions = s.regions ∧ t.devs = s.devs ∧
    t.plinths = s.plinths ∧ t.links = s.links ∧ t.lasers = s.lasers ∧ t.chans = s.chans ∧ t.rings = s.rings ∧
    t.mbox = s.mbox ∧ t.flights = s.flights ∧ t.flash = s.flash ∧ t.sec = s.sec ∧ t.pwr = s.pwr ∧ t.app = s.app ∧
    t.partMap = s.partMap ∧ t.fence = s.fence ∧ t.pending = s.pending :=
  ⟨(congrArg State.mem h :), (congrArg State.memErr h :), (congrArg State.poison h :), (congrArg State.regions h :), (congrArg State.devs h :), (congrArg State.plinths h :),
    (congrArg State.links h :), (congrArg State.lasers h :), (congrArg State.chans h :), (congrArg State.rings h :), (congrArg State.mbox h :), (congrArg State.flights h :),
    (congrArg State.flash h :), (congrArg State.sec h :), (congrArg State.pwr h :), (congrArg State.app h :), (congrArg State.partMap h :), (congrArg State.fence h :), (congrArg State.pending h :)⟩

theorem rimKept_ite {c : Prop} [Decidable c] {s t u : State} (h : RimKept s t) (h' : RimKept s u) : RimKept s (if c then t else u) := by
  split
  · exact h
  · exact h'

theorem next_rim {s t u : State} (h : (.next u : Host.Outcome State Fault Refusal) = .next t) (hk : RimKept s u) : RimKept s t :=
  Host.Outcome.next.inj h ▸ hk

theorem rimKept_trans {s t u : State} (h : RimKept s t) (h' : RimKept t u) : RimKept s u := h'.trans h

/-- A write of fields outside the rim does not show in it. -/
@[simp] theorem rimView_update (s : State) (out : List Out) (free : Nat) (ident : Ident) (clk : Clock) (log : ErrLog)
    (mgmt : List MgmtCmd) (msix : Msix) (pcie : Pcie) (board : Board) (parts : Tbl Part) (wdog : Tbl Nat) (bands : Tbl Band)
    (cells : Tbl Cell) (seam : List SeamWord) (patina : Patina) (passQ : List (Nat × Nat)) (fab : Fabric) (redMcastTo : Nat)
    (castSeen : List Nat) :
    rimView { s with
      out := out, free := free, ident := ident, clk := clk, log := log, mgmt := mgmt, msix := msix, pcie := pcie,
      board := board, parts := parts, wdog := wdog, bands := bands, cells := cells, seam := seam, patina := patina,
      passQ := passQ, fab := fab, redMcastTo := redMcastTo, castSeen := castSeen } = rimView s := rfl

@[simp] theorem foldl_rim {α : Type} {f : State → α → State} (h : ∀ s x, RimKept s (f s x)) (l : List α) (s : State) :
    RimKept s (l.foldl f s) := by
  induction l generalizing s with
  | nil => simp [RimKept]
  | cons x r ih => rw [List.foldl_cons]; exact rimKept_trans (h s x) (ih _)

theorem rimKept_of_snd {α : Type} {x : α × State} {o : α} {s t : State} (h : x = (o, t)) (hk : RimKept s x.2) : RimKept s t := by
  rw [h] at hk
  exact hk

theorem foldl_rim_snd {α β : Type} {f : β × State → α → β × State} (h : ∀ x a, RimKept x.2 (f x a).2) (l : List α)
    (x : β × State) : RimKept x.2 (l.foldl f x).2 := by
  induction l generalizing x with
  | nil => simp [RimKept]
  | cons a r ih => rw [List.foldl_cons]; exact rimKept_trans (h x a) (ih _)

theorem foldl_rim_fst {α β : Type} {f : State × β → α → State × β} (h : ∀ x a, RimKept x.1 (f x a).1) (l : List α)
    (x : State × β) : RimKept x.1 (l.foldl f x).1 := by
  induction l generalizing x with
  | nil => simp [RimKept]
  | cons a r ih => rw [List.foldl_cons]; exact rimKept_trans (h x a) (ih _)

theorem rimKept_of_foldl {α β : Type} {f : State × β → α → State × β} {l : List α} {s t : State} {b c : β}
    (h : l.foldl f (s, b) = (t, c)) (hf : ∀ x a, RimKept x.1 (f x a).1) : RimKept s t := by
  have hk := foldl_rim_fst hf l (s, b)
  rw [h] at hk
  exact hk

@[simp] theorem emit_rim (o : Out) (s : State) : RimKept s (emit o s) := by
  simp [RimKept, emit]

@[simp] theorem setPart_rim (p : Nat) (v : Part) (s : State) : RimKept s (setPart p v s) := by
  simp [RimKept, setPart]

@[simp] theorem modPart_rim (p : Nat) (f : Part → Part) (s : State) : RimKept s (modPart p f s) := by
  simp [RimKept, modPart]

@[simp] theorem setBand_rim (b : Nat) (v : Band) (s : State) : RimKept s (setBand b v s) := by
  simp [RimKept, setBand]

@[simp] theorem modBand_rim (b : Nat) (f : Band → Band) (s : State) : RimKept s (modBand b f s) := by
  simp [RimKept, modBand]

@[simp] theorem setCell_rim (c : Nat) (v : Cell) (s : State) : RimKept s (setCell c v s) := by
  simp [RimKept, setCell]

@[simp] theorem modCell_rim (c : Nat) (f : Cell → Cell) (s : State) : RimKept s (modCell c f s) := by
  simp [RimKept, modCell]

@[simp] theorem sendMsix_rim (v : Nat) (s : State) : RimKept s (sendMsix v s) := by
  simp [RimKept, sendMsix]

@[simp] theorem signal_rim (v : Nat) (s : State) : RimKept s (signal v s) := by
  obtain ⟨_, _, h⟩ := signal_shape v s
  rw [h]
  rfl

@[simp] theorem writeRec_rim (r : ErrRec) (s : State) : RimKept s (writeRec r s) := by
  obtain ⟨_, _, _, h⟩ := writeRec_shape r s
  rw [h]
  rfl

@[simp] theorem logRec_rim (r : ErrRec) (s : State) : RimKept s (logRec r s).1 := by
  unfold logRec
  split <;> simp [RimKept]

@[simp] theorem logDeferred_rim (code : Nat) (unit part : Option Nat) (ctx : List (Nat × Nat)) (s : State) :
    RimKept s (logDeferred code unit part ctx s) := by
  simp [RimKept, logDeferred]

@[simp] theorem logCorrected_rim (code : Nat) (unit part : Option Nat) (ctx : List (Nat × Nat)) (s : State) :
    RimKept s (logCorrected code unit part ctx s) := by
  simp [RimKept, logCorrected]

@[simp] theorem jobFatal_rim (p code : Nat) (unit : Option Nat) (ctx : List (Nat × Nat)) (cause : CastCause)
    (jcc : Option Nat) (s : State) : RimKept s (jobFatal p code unit ctx cause jcc s) := by
  obtain ⟨_, _, _, _, h⟩ := jobFatal_shape p code unit ctx cause jcc s
  rw [h]
  rfl

@[simp] theorem schedFault_rim (p : Nat) (f : SFault) (s : State) : RimKept s (schedFault p f s) := by
  simp [RimKept, schedFault]

@[simp] theorem cellFault_rim (p j cell code : Nat) (f : SFault → SFault) (s : State) :
    RimKept s (cellFault p j cell code f s) := by
  simp [RimKept, cellFault]

@[simp] theorem applyChunk_rim (p cell : Nat) (x : PendChunk) (s : State) : RimKept s (applyChunk p cell x s) := by
  simp only [applyChunk]
  (repeat' split) <;> simp [RimKept]

@[simp] theorem settleList_rim (p cell : Nat) (all l : List PendChunk) (s : State) : RimKept s (settleList p cell all l s) := by
  induction l generalizing s with
  | nil => simp [RimKept, settleList]
  | cons x r ih =>
    rw [settleList]
    refine rimKept_trans ?_ (ih _)
    split <;> simp [RimKept]

@[simp] theorem settleChunks_rim (p j cell : Nat) (s : State) : RimKept s (settleChunks p j cell s) := by
  simp only [settleChunks]
  split <;> simp [RimKept]

@[simp] theorem settleCells_rim (s : State) : RimKept s (settleCells s) := by
  refine foldl_rim (fun t cell => ?_) _ s
  split <;> simp [RimKept]

@[simp] theorem settleRows_rim (s : State) : RimKept s (settleRows s) := by
  refine foldl_rim (fun t b => ?_) _ s
  split <;> simp [RimKept]

@[simp] theorem overrunCell_rim (s : State) (cell : Nat) : RimKept s (overrunCell s cell) := by
  simp only [overrunCell]
  (repeat' split) <;> simp [RimKept]

@[simp] theorem closeCells_rim (s : State) : RimKept s (closeCells s) := by
  simp [RimKept, closeCells]

@[simp] theorem passSamples_rim (g : Nat) (live : Nat → PatLive) (s : State) : RimKept s (passSamples g live s) := by
  simp only [passSamples]
  split <;> simp [RimKept]

@[simp] theorem tickAll_rim (d : Nat) (s : State) : RimKept s (tickAll d s) := by
  simp [RimKept, tickAll]

@[simp] theorem holdUnit_rim (p : Nat) (rs : List (Nat × Bool × Bool)) (s : State) : RimKept s (holdUnit p rs s) := by
  simp [RimKept, holdUnit]

@[simp] theorem holdDecide_rim (p : Nat) (s : State) : RimKept s (holdDecide p s) := by
  simp only [holdDecide]
  (repeat' split) <;> simp [RimKept]

@[simp] theorem decideHolds_rim (s : State) : RimKept s (decideHolds s) := by
  unfold decideHolds
  split <;> simp [RimKept]

@[simp] theorem tickOn_rim (d : Nat) (s : State) : RimKept s (tickOn d s) := by
  simp [RimKept, tickOn]

@[simp] theorem advanceCycles_rim (d : Nat) (s : State) : RimKept s (advanceCycles d s) := by
  simp only [advanceCycles]
  (repeat' split) <;> simp [RimKept]

@[simp] theorem pauseClocks_rim (s : State) : RimKept s (pauseClocks s) := by
  simp [RimKept, pauseClocks]

@[simp] theorem runToPause_rim (s : State) : RimKept s (runToPause s) := by
  unfold runToPause
  extract_lets n a s1
  have h1 : RimKept s s1 := by simp only [s1]; split <;> simp [RimKept, a]
  exact rimKept_trans h1 (by simp [RimKept])

@[simp] theorem runCycles_rim (d : Nat) (s : State) : RimKept s (runCycles d s) := by
  unfold runCycles
  split <;> simp [RimKept]

@[simp] theorem advanceTo_rim (t : Nat) (s : State) : RimKept s (advanceTo t s) := by
  unfold advanceTo
  split <;> simp [RimKept]

@[simp] theorem island_rim {f : Nat → Nat → State → State} (hf : ∀ p j s, RimKept s (f p j s)) (t b : Nat) (s : State) :
    RimKept s (island t b f s) := by
  simp only [island]
  split
  · exact rimKept_trans (advanceTo_rim ..) (hf ..)
  · exact advanceTo_rim ..

@[simp] theorem sequencer_rim {f : Nat → Nat → State → State} (hf : ∀ p j s, RimKept s (f p j s)) (t b : Nat) (s : State) :
    RimKept s (sequencer t b f s) := by
  refine island_rim (fun p j s => ?_) t b s
  split
  · exact hf ..
  · simp [RimKept]

@[simp] theorem cellEvent_rim {f : Nat → Nat → Nat → State → State} (hf : ∀ p j c s, RimKept s (f p j c s)) (t b q : Nat)
    (s : State) : RimKept s (cellEvent t b q f s) := by
  refine island_rim (fun p j s => ?_) t b s
  dsimp only
  split
  · simp [RimKept]
  · exact hf ..

@[simp] theorem bankFault_rim (p j cell : Nat) (write : Bool) (loser : Nat) (w : Nat × Nat) (s : State) :
    RimKept s (bankFault p j cell write loser w s) := by
  simp [RimKept, bankFault]

@[simp] theorem advise_rim (cell crit : Nat) (ctx : List (Nat × Nat)) (s : State) : RimKept s (advise cell crit ctx s) := by
  simp [RimKept, advise]

@[simp] theorem spCorrected_rim (j cell a : Nat) (s : State) : RimKept s (spCorrected j cell a s) := by
  simp only [spCorrected]
  split <;> simp [RimKept]

@[simp] theorem spUncorrectable_rim (p j cell a : Nat) (fatal : Bool) (s : State) :
    RimKept s (spUncorrectable p j cell a fatal s) := by
  unfold spUncorrectable
  extract_lets ctx s1 n lg s2
  exact rimKept_trans (rimKept_ite (jobFatal_rim ..) (logDeferred_rim ..)) (rimKept_trans (t := s2) rfl (rimKept_ite (advise_rim ..) rfl))

@[simp] theorem spReadWord_rim (p j cell a : Nat) (s : State) : RimKept s (spReadWord p j cell a s).2 := by
  simp only [spReadWord]
  (repeat' split) <;> simp [RimKept]

@[simp] theorem spReadWords_rim (p j cell a n : Nat) (s : State) : RimKept s (spReadWords p j cell a n s).2 := by
  induction n generalizing a s with
  | zero => simp [RimKept, spReadWords]
  | succ n ih => exact rimKept_trans (spReadWord_rim ..) (ih ..)

@[simp] theorem cellFaults_rim (p j cell code n : Nat) (s : State) : RimKept s (cellFaults p j cell code n s) := by
  induction n generalizing s with
  | zero => simp [RimKept, cellFaults]
  | succ n ih => exact rimKept_trans (cellFault_rim ..) (ih ..)

@[simp] theorem tileWriteOp_rim (p j cell reg path : Nat) (on : Bool) (pairs : List (Nat × Byte)) (s : State) :
    RimKept s (tileWriteOp p j cell reg path on pairs s) := by
  simp only [tileWriteOp]
  split <;> simp [RimKept]

@[simp] theorem tileLaneWrite_rim (p j cell reg block lane es : Nat) (on : Bool) (data : List Byte) (s : State) :
    RimKept s (tileLaneWrite p j cell reg block lane es on data s) := by
  simp [RimKept, tileLaneWrite]

@[simp] theorem unemit_rim (j cell : Nat) (gone : EmitNote → Bool) (s : State) : RimKept s (unemit j cell gone s) := by
  simp only [unemit]
  split <;> simp [RimKept]

@[simp] theorem tileReadOp_rim (p j cell reg : Nat) (s : State) : RimKept s (tileReadOp p j cell reg s).2 := by
  simp only [tileReadOp]
  (repeat' split) <;> simp [RimKept]

@[simp] theorem takeBackReads_rim (p j cell code : Nat) (banks : List Nat) (s : State) :
    RimKept s (takeBackReads p j cell code banks s) := by
  simp only [takeBackReads]
  split <;> simp [RimKept]

@[simp] theorem bankOp_rim (p j cell : Nat) (write : Bool) (code order bank : Nat) (s : State) :
    RimKept s (bankOp p j cell write code order bank s).2 := by
  unfold bankOp
  extract_lets c
  split
  · exact rimKept_trans (modCell_rim ..) (bankFault_rim ..)
  · rw [apply_ite Prod.snd]
    exact rimKept_ite (rimKept_trans (foldl_rim (fun _ _ => bankFault_rim ..) ..) (modCell_rim ..))
      (rimKept_trans (takeBackReads_rim ..) (modCell_rim ..))

@[simp] theorem ringCheck_rim (p j b ppos lpos idx : Nat) (ccw : Bool) (s : State) :
    RimKept s (ringCheck p j b ppos lpos idx ccw s) := by
  simp [RimKept, ringCheck]

@[simp] theorem captureTake_rim (p j cell q idx : Nat) (ccw : Bool) (noise : Noise) (s : State) :
    RimKept s (captureTake p j cell q idx ccw noise s).2 := by
  simp only [captureTake]
  (repeat' split) <;> simp [RimKept]

@[simp] theorem chunkOp_rim (cell : Nat) (x : PendChunk) (s : State) : RimKept s (chunkOp cell x s) := by
  simp [RimKept, chunkOp]

@[simp] theorem weightChunkOp_rim (p j cell q : Nat) (array : Option Nat) (chunk : Nat) (tr : Bool) (fmt : OpFmt)
    (src : ChunkSrc) (on : Bool) (s : State) : RimKept s (weightChunkOp p j cell q array chunk tr fmt src on s) := by
  simp only [weightChunkOp]
  (repeat' split) <;> simp [RimKept]

@[simp] theorem swapOp_rim (p j cell mask : Nat) (s : State) : RimKept s (swapOp p j cell mask s) := by
  simp only [swapOp]
  (repeat' split) <;> simp [RimKept]

@[simp] theorem modeSetOp_rim (p j cell : Nat) (wide : Bool) (s : State) : RimKept s (modeSetOp p j cell wide s) := by
  unfold modeSetOp
  split <;> simp [RimKept]

@[simp] theorem passStartOp_rim (p j cell q seq : Nat) (on : Bool) (s : State) :
    RimKept s (passStartOp p j cell q seq on s) := by
  unfold passStartOp
  extract_lets c
  split
  · exact cellFault_rim ..
  · refine rimKept_ite (cellFault_rim ..) ?_
    extract_lets s1
    split
    · exact rimKept_trans (modCell_rim ..) (rimKept_ite (cellFault_rim ..) (rimKept_ite (cellFault_rim ..) (modCell_rim ..)))
    · exact modCell_rim ..

@[simp] theorem fetchAccess_rim (p j cell : Nat) (ps : Pass) (i k : Nat) (s : State) :
    RimKept s (fetchAccess p j cell ps i k s) := by
  unfold fetchAccess
  extract_lets c keep
  split
  · extract_lets a j2
    split
    · exact bankFault_rim ..
    · exact rimKept_ite (modCell_rim ..) (rimKept_trans (spReadWord_rim ..) (modCell_rim ..))
  · exact rimKept_ite (cellFault_rim ..) (modCell_rim ..)
  · refine rimKept_ite (modCell_rim ..) ?_
    split
    · exact rimKept_ite rfl (modCell_rim ..)
    · split
      · next htake => exact rimKept_trans (rimKept_of_snd htake (captureTake_rim ..)) (modCell_rim ..)
      · next htake => exact rimKept_of_snd htake (captureTake_rim ..)
  · rfl

@[simp] theorem fetchScale_rim (p j cell : Nat) (ps : Pass) (w : Nat) (s : State) : RimKept s (fetchScale p j cell ps w s) := by
  simp only [fetchScale]
  (repeat' split) <;> simp [RimKept]

@[simp] theorem formStep_rim (j : Nat) (ps : Pass) (a step : Nat) (s : State) (cell : Nat) :
    RimKept s (formStep j ps a step s cell) := by
  unfold formStep
  extract_lets c
  split
  · rfl
  · extract_lets mine c1 gen c2 off addr st
    refine rimKept_ite rfl (rimKept_ite rfl (rimKept_ite rfl ?_))
    rfl

@[simp] theorem endRow_rim (p j cell : Nat) (ps : Pass) (row a : Nat) (s : State) : RimKept s (endRow p j cell ps row a s) := by
  unfold endRow
  extract_lets c data sc
  split
  · rfl
  · extract_lets code s1 ok r' s2
    clear_value code
    have h1 : RimKept s s1 := by
      unfold s1
      split
      · exact rimKept_ite (cellFault_rim ..) rfl
      · rfl
    exact rimKept_trans h1 (rimKept_trans (modCell_rim ..) (formStep_rim ..))

@[simp] theorem entryCycle_rim (p j cell : Nat) (ps : Pass) (n : Nat) (s : State) : RimKept s (entryCycle p j cell ps n s) := by
  unfold entryCycle
  extract_lets s1 s2 half rows pairs s3 s4
  have h1 : RimKept s s1 := foldl_rim (fun t i => by split <;> simp [RimKept]) _ s
  have h2 : RimKept s1 s2 := by simp only [s2]; split <;> simp [RimKept]
  have h3 : RimKept s2 s3 := by simp only [s3]; split <;> simp [RimKept]
  have h4 : RimKept s3 s4 := by simp only [s4]; split <;> simp [RimKept]
  exact rimKept_trans h1 (rimKept_trans h2 (rimKept_trans h3 (rimKept_trans h4 (by simp [RimKept]))))

@[simp] theorem rowEntryOp_rim (p j cell : Nat) (s : State) : RimKept s (rowEntryOp p j cell s) := by
  unfold rowEntryOp
  split <;> simp [RimKept]

@[simp] theorem psumRead_rim (p j cell : Nat) (st : Step) (s : State) : RimKept s (psumRead p j cell st s) := by
  simp only [psumRead]
  (repeat' split) <;> simp [RimKept]

@[simp] theorem partialSumReadOp_rim (p j cell : Nat) (noise : Noise) (s : State) :
    RimKept s (partialSumReadOp p j cell noise s) := by
  simp only [partialSumReadOp]
  (repeat' split) <;> simp [RimKept]

@[simp] theorem outWrite_rim (p j cell : Nat) (st : Step) (s : State) : RimKept s (outWrite p j cell st s) := by
  unfold outWrite
  extract_lets c
  refine rimKept_ite rfl ?_
  split
  · exact bankFault_rim ..
  · exact rimKept_ite rfl (modCell_rim ..)

@[simp] theorem outputWriteOp_rim (p j cell : Nat) (s : State) : RimKept s (outputWriteOp p j cell s) := by
  simp [RimKept, outputWriteOp]

@[simp] theorem seedOp_rim (p cell q : Nat) (salt : W32) (s : State) : RimKept s (seedOp p cell q salt s) := by
  simp [RimKept, seedOp]

@[simp] theorem bringForward_rim (p j cell b q : Nat) (s : State) : RimKept s (bringForward p j cell b q s) := by
  refine foldl_rim (fun t o => ?_) _ s
  dsimp only
  (repeat' split) <;> simp [RimKept]

@[simp] theorem swapOnce_rim (p j cell mask : Nat) (s : State) : RimKept s (swapOnce p j cell mask s) := by
  unfold swapOnce
  split <;> simp [RimKept]

@[simp] theorem seedOnce_rim (p j cell q : Nat) (salt : W32) (s : State) : RimKept s (seedOnce p j cell q salt s) := by
  unfold seedOnce
  split <;> simp [RimKept]

@[simp] theorem deliver_rim (p j cell q : Nat) (ccw on : Bool) (dest : CapDest) (data : List Byte) (s : State) :
    RimKept s (deliver p j cell q ccw on dest data s) := by
  simp only [deliver]
  (repeat' split) <;> simp [RimKept]

@[simp] theorem captureOp_rim (p j cell q : Nat) (d : Dir) (dest : CapDest) (noise : Noise) (s : State) :
    RimKept s (captureOp p j cell q d dest noise s) := by
  simp only [captureOp]
  split
  · next htake => exact rimKept_trans (rimKept_of_snd htake (captureTake_rim ..)) (deliver_rim ..)
  · next htake =>
    refine rimKept_trans (rimKept_of_snd htake (captureTake_rim ..)) ?_
    split <;> simp [RimKept]

@[simp] theorem emissionData_rim (p j cell q : Nat) (ccw on : Bool) (src : EmSrc) (s : State) :
    RimKept s (emissionData p j cell q ccw on src s).2.2.2 := by
  simp only [emissionData]
  (repeat' split) <;> simp [RimKept]

@[simp] theorem emissionOp_rim (p j cell q : Nat) (d : Dir) (lane dest laps : Nat) (tag : Rel) (src : EmSrc) (s : State) :
    RimKept s (emissionOp p j cell q d lane dest laps tag src s) := by
  have hdata := emissionData_rim p j cell q (d == .ccw) true src s
  unfold emissionOp
  extract_lets ccw b pos
  split
  · simp [RimKept]
  · split
    · next h => rw [h] at hdata; exact hdata
    · next h =>
      rw [h] at hdata
      exact rimKept_trans hdata (by simp [RimKept])

@[simp] theorem emissionGhost_rim (p j cell q : Nat) (d : Dir) (src : EmSrc) (s : State) :
    RimKept s (emissionGhost p j cell q d src s) := by
  cases src <;> simp [emissionGhost, RimKept]

@[simp] theorem laneRegOp_rim (j cell q : Nat) (d : Dir) (v : Rel) (s : State) : RimKept s (laneRegOp j cell q d v s) := by
  simp [RimKept, laneRegOp]

@[simp] theorem headFault_rim (p j b code : Nat) (f : SFault → SFault) (s : State) : RimKept s (headFault p j b code f s) := by
  simp [RimKept, headFault]

@[simp] theorem popOne_rim (p j b x : Nat) (s : State) : RimKept s (popOne p j b x s) := by
  unfold popOne
  extract_lets bd
  split
  · exact headFault_rim ..
  · refine rimKept_ite (headFault_rim ..) ?_
    split
    · rfl
    · exact rimKept_ite (headFault_rim ..) rfl

@[simp] theorem unpop_rim (b : Nat) (n : PopNote) (s : State) : RimKept s (unpop b n s) := by
  simp only [unpop]
  split <;> simp [RimKept]

@[simp] theorem popOp_rim (p j b : Nat) (streams : List Nat) (s : State) : RimKept s (popOp p j b streams s) := by
  simp only [popOp]
  (repeat' split) <;> simp [RimKept]

@[simp] theorem injectTake_rim (p j b : Nat) (src : InjSrc) (cw ccw : Bool) (lanes : List Nat) (laps tagCw tagCcw : Nat)
    (s : State) : RimKept s (injectTake p j b src cw ccw lanes laps tagCw tagCcw s) := by
  simp only [injectTake]
  split <;> simp [RimKept]

@[simp] theorem placeOne_rim (p j b : Nat) (l : Lane) (s : State) : RimKept s (placeOne p j b l s) := by
  simp only [placeOne]
  split <;> simp [RimKept]

@[simp] theorem injectPlace_rim (p j b : Nat) (s : State) : RimKept s (injectPlace p j b s) := by
  simp [RimKept, injectPlace]

@[simp] theorem outWord_rim (p j b : Nat) (lanes : List (Nat × List Byte)) (s : State) : RimKept s (outWord p j b lanes s) := by
  unfold outWord
  extract_lets bd
  split
  · exact headFault_rim ..
  · exact rimKept_ite (headFault_rim ..) rfl

@[simp] theorem releaseOp_rim (p j b : Nat) (noise : List (Dir × Nat × Noise)) (s : State) :
    RimKept s (releaseOp p j b noise s) := by
  unfold releaseOp
  extract_lets bd due sorted s1
  have h1 : RimKept s s1 := by simp [RimKept, s1]
  refine rimKept_trans h1 ?_
  split
  next s2 ok hfold =>
  have h2 : RimKept s1 s2 := by
    refine rimKept_of_foldl hfold (fun x l0 => ?_)
    simp only []
    (repeat' split) <;> simp [RimKept]
  refine rimKept_trans h2 ?_
  extract_lets unit ovf port s3 st s4 row s5 s6 sm s7
  have hovf : ∀ u t, RimKept t (ovf u t) := fun u t => by simp only [ovf]; split <;> simp [RimKept]
  have h4 : RimKept s3 s4 := by simp only [s4]; split <;> simp [RimKept, st]
  have h6 : RimKept s5 s6 := by simp only [s6]; split <;> simp [RimKept]
  refine rimKept_trans (rimKept_trans (hovf 1 s2) (rimKept_trans h4 (rimKept_trans (hovf 2 s4) (rimKept_trans h6 (hovf 3 s6))))) ?_
  split <;> simp [RimKept, s7]

@[simp] theorem seamPlaceOp_rim (p j b dst track tag : Nat) (s : State) : RimKept s (seamPlaceOp p j b dst track tag s) := by
  simp only [seamPlaceOp]
  (repeat' split) <;> simp [RimKept]

@[simp] theorem seamArriveOp_rim (p j b : Nat) (inject : Bool) (s : State) : RimKept s (seamArriveOp p j b inject s) := by
  unfold seamArriveOp
  extract_lets here s1
  split
  · rfl
  · split
    · rfl
    · extract_lets s2
      have h2 : RimKept s1 s2 := by
        unfold s2
        split
        · exact headFault_rim ..
        · rfl
      exact rimKept_trans (t := s1) rfl (rimKept_trans h2 (rimKept_ite (schedFault_rim ..) (rimKept_ite (modBand_rim ..) (modBand_rim ..))))

@[simp] theorem vecWordsAt_rim (p j cell a n : Nat) (on : Bool) (s : State) : RimKept s (vecWordsAt p j cell a n on s).2 := by
  unfold vecWordsAt
  split <;> simp [RimKept]

@[simp] theorem vecReadSp_rim (p j cell a n code order : Nat) (on : Bool) (s : State) :
    RimKept s (vecReadSp p j cell a n code order on s).2 := by
  unfold vecReadSp
  split <;> simp [RimKept]

@[simp] theorem readBcast_rim (p j cell q : Nat) (on : Bool) (clash : Nat → Bool) (k : Nat) (o : VOperand) (s : State) :
    RimKept s (readBcast p j cell q on clash k o s).2 := by
  unfold readBcast
  split <;> simp [RimKept]

@[simp] theorem vecStartOp_rim (p j cell q seq : Nat) (on : Bool) (s : State) : RimKept s (vecStartOp p j cell q seq on s) := by
  unfold vecStartOp
  extract_lets c
  split
  · exact cellFault_rim ..
  · refine rimKept_ite (cellFault_rim ..) ?_
    extract_lets s1
    split
    · refine rimKept_trans (modCell_rim ..) (rimKept_ite (cellFault_rim ..) (rimKept_ite (cellFault_rim ..) ?_))
      extract_lets a0 v s2 clash s3
      refine rimKept_trans (modCell_rim ..) (rimKept_trans (cellFaults_rim ..) (rimKept_trans (readBcast_rim ..)
        (rimKept_trans (readBcast_rim ..) (rimKept_trans (readBcast_rim ..) (modCell_rim ..)))))
    · exact modCell_rim ..

@[simp] theorem operandLanes_rim (p j cell : Nat) (v : VecRun) (w k : Nat) (o : VOperand) (clash : Nat → Bool) (g : W64)
    (s : State) : RimKept s (operandLanes p j cell v w k o clash g s).2 := by
  simp only [operandLanes]
  split <;> simp [RimKept]

@[simp] theorem expandElems_rim (p j cell : Nat) (v : VecRun) (o : VOperand) (n count : Nat) (s : State) :
    RimKept s (expandElems p j cell v o n count s).2 := by
  unfold expandElems
  split
  · split
    · simp [RimKept]
    · refine foldl_rim_snd (fun x k => ?_) _ _
      dsimp only
      split <;> simp [RimKept]
  · simp [RimKept]

@[simp] theorem issueWord_rim (p j cell : Nat) (v : VecRun) (w : Nat) (s : State) : RimKept s (issueWord p j cell v w s) := by
  unfold issueWord
  extract_lets d c g0 bern g1 g2 s1 pl pa s2 clash s3
  have h3 : RimKept s s3 := rimKept_trans (t := s2) (rimKept_trans (t := s1) (modCell_rim ..) rfl) (cellFaults_rim ..)
  split
  next hoa =>
  split
  next hob =>
  split
  next hoc =>
  split
  next s6 _ _ _ hpl =>
  extract_lets x v'
  have h6 : RimKept s s6 := rimKept_trans (rimKept_trans (rimKept_trans h3 (rimKept_of_snd hoa (operandLanes_rim ..)))
    (rimKept_of_snd hob (operandLanes_rim ..))) (rimKept_of_snd hoc (operandLanes_rim ..))
  refine rimKept_trans h6 (rimKept_trans (rimKept_of_snd hpl ?_) (rimKept_ite (modCell_rim ..) (modCell_rim ..)))
  split
  · exact vecReadSp_rim ..
  · rfl

@[simp] theorem expandOne_rim (p j cell : Nat) (old : Bool) (s : State) : RimKept s (expandOne p j cell old s) := by
  unfold expandOne
  extract_lets c
  split
  · rfl
  · split
    · rfl
    · refine rimKept_ite rfl ?_
      extract_lets d v banks
      split
      · exact rimKept_trans (bankFault_rim ..) (modCell_rim ..)
      · exact rimKept_ite (modCell_rim ..) (rimKept_trans (expandElems_rim ..) (modCell_rim ..))

@[simp] theorem expandDue_rim (p j cell : Nat) (s : State) : RimKept s (expandDue p j cell s) := by
  simp [RimKept, expandDue]

@[simp] theorem vecIssueOp_rim (p j cell : Nat) (s : State) : RimKept s (vecIssueOp p j cell s) := by
  simp only [vecIssueOp]
  (repeat' split) <;> simp [RimKept]

@[simp] theorem tileRowWrite_rim (p j cell : Nat) (on : Bool) (bytes : List (Nat × Byte)) (s : State) :
    RimKept s (tileRowWrite p j cell on bytes s) := by
  unfold tileRowWrite
  split <;> simp [RimKept]

@[simp] theorem writeOut_rim (p j cell order : Nat) (o : VecOut) (s : State) : RimKept s (writeOut p j cell order o s) := by
  unfold writeOut
  extract_lets c lost s1 s2 s3
  clear_value lost
  have h1 : RimKept s s1 := by
    unfold s1
    split
    · exact bankFault_rim ..
    · rfl
  refine rimKept_trans h1 (rimKept_trans (t := s2) (modCell_rim ..) (rimKept_ite (rimKept_ite (tileRowWrite_rim ..) rfl) ?_))
  exact rimKept_trans (rimKept_ite rfl (rimKept_ite (tileRowWrite_rim ..) (modCell_rim ..))) (modCell_rim ..)

@[simp] theorem vecWriteOp_rim (p j cell : Nat) (s : State) : RimKept s (vecWriteOp p j cell s) := by
  simp [RimKept, vecWriteOp]

@[simp] theorem statusWordOp_rim (p j cell : Nat) (s : State) : RimKept s (statusWordOp p j cell s) := by
  unfold statusWordOp
  extract_lets due s1
  have h1 : RimKept s s1 := by
    refine foldl_rim (fun t x => ?_) _ s
    simp only []
    (repeat' split) <;> simp [RimKept]
  exact rimKept_trans h1 (by simp [RimKept])

@[simp] theorem counterOp_rim (j cell q i : Nat) (o : CtrOp) (s : State) : RimKept s (counterOp j cell q i o s) := by
  simp [RimKept, counterOp]

@[simp] theorem comparatorOp_rim (j cell i : Nat) (g : CmpCfg) (s : State) : RimKept s (comparatorOp j cell i g s) := by
  simp [RimKept, comparatorOp]

@[simp] theorem cellOp_rim (p j cell q : Nat) (o : CellOp) (on : Bool) (s : State) : RimKept s (cellOp p j cell q o on s) := by
  unfold cellOp
  (repeat' split) <;> simp [RimKept]

@[simp] theorem bundleOps_rim (p j cell q : Nat) (ops : List BundleOp) (s : State) :
    RimKept s (bundleOps p j cell q ops s) := by
  simp [RimKept, bundleOps]

@[simp] theorem bundleOp_rim (p j b cell q slot order : Nat) (ops : List BundleOp) (s : State) :
    RimKept s (bundleOp p j b cell q slot order ops s) := by
  unfold bundleOp
  (repeat' split) <;> simp [RimKept]

@[simp] theorem takeEntry_rim (p j b : Nat) (n : QName) (s : State) : RimKept s (takeEntry p j b n s).2 := by
  simp only [takeEntry]
  (repeat' split) <;> simp [RimKept]

@[simp] theorem releaseQueueOp_rim (p j b : Nat) (vector : Bool) (s : State) : RimKept s (releaseQueueOp p j b vector s) := by
  unfold releaseQueueOp
  split
  · next htake => exact rimKept_of_snd htake (takeEntry_rim ..)
  · next htake => exact rimKept_trans (rimKept_of_snd htake (takeEntry_rim ..)) (by simp [RimKept])

@[simp] theorem deliverTo_rim (p j b : Nat) (d : Delivery) (s : State) (pos : Nat) : RimKept s (deliverTo p j b d s pos) := by
  simp only [deliverTo]
  (repeat' split) <;> simp [RimKept]

@[simp] theorem fifoDeliveryOp_rim (p j b : Nat) (vector : Bool) (s : State) : RimKept s (fifoDeliveryOp p j b vector s) := by
  simp [RimKept, fifoDeliveryOp]

@[simp] theorem portRunOp_rim (p j b : Nat) (s : State) : RimKept s (portRunOp p j b s) := by
  unfold portRunOp
  split
  · next htake => exact rimKept_of_snd htake (takeEntry_rim ..)
  · next htake =>
    refine rimKept_trans (rimKept_of_snd htake (takeEntry_rim ..)) ?_
    dsimp only
    (repeat' split) <;> simp [RimKept]

@[simp] theorem armature_rim {f : Nat → Band → State → State} (hf : ∀ p bd s, RimKept s (f p bd s)) (t b : Nat) (s : State) :
    RimKept s (armature t b f s) := by
  simp only [armature]
  split
  · exact rimKept_trans (advanceTo_rim ..) (hf ..)
  · exact advanceTo_rim ..

@[simp] theorem flagOp_rim (t b f : Nat) (add : Bool) (v : W32) (s : State) : RimKept s (flagOp t b f add v s) :=
  armature_rim (fun p bd s => by simp [RimKept]) t b s

@[simp] theorem watchdogOp_rim (p b : Nat) (s : State) : RimKept s (watchdogOp p b s) := by
  simp [RimKept, watchdogOp]

@[simp] theorem endSequencer_rim (p j b : Nat) (s : State) : RimKept s (endSequencer p j b s) := by
  simp only [endSequencer]
  split <;> simp [RimKept]

@[simp] theorem rowDrainOp_rim (j b : Nat) (s : State) : RimKept s (rowDrainOp j b s) := by
  simp only [rowDrainOp]
  (repeat' split) <;> simp [RimKept]

@[simp] theorem rowConsumeOp_rim (p j b : Nat) (s : State) : RimKept s (rowConsumeOp p j b s) := by
  unfold rowConsumeOp
  extract_lets s1 bd
  refine rimKept_trans (rowDrainOp_rim j b s) ?_
  split
  · next htake => exact rimKept_of_snd htake (takeEntry_rim ..)
  · next htake =>
    refine rimKept_trans (rimKept_of_snd htake (takeEntry_rim ..)) ?_
    split
    · simp only []
      (repeat' split) <;> simp [RimKept]
    · simp [RimKept]

@[simp] theorem rowReleaseOp_rim (p j b : Nat) (s : State) : RimKept s (rowReleaseOp p j b s) := by
  simp only [rowReleaseOp]
  (repeat' split) <;> simp [RimKept]

@[simp] theorem tapOp_rim (p j b tap : Nat) (fmt : Elem) (n tag : Nat) (s : State) :
    RimKept s (tapOp p j b tap fmt n tag s) := by
  simp only [tapOp]
  (repeat' split) <;> simp [RimKept]

/-- An event of a static island or of an Armature core leaves the rim alone. -/
theorem exec_rim {c : Instr} (hc : islandEvent c = true) {s t : State} (h : exec c s = .next t) : RimKept s t := by
  cases c
  case bundleIssue => exact next_rim h (cellEvent_rim (fun p j cell s => rimKept_ite (bundleOp_rim ..) rfl) ..)
  case capture => exact next_rim h (cellEvent_rim (fun p j cell s => rimKept_ite (captureOp_rim ..) (deliver_rim ..)) ..)
  case emission => exact next_rim h (cellEvent_rim (fun p j cell s => rimKept_ite (emissionOp_rim ..) (emissionGhost_rim ..)) ..)
  case laneRegisterWrite => exact next_rim h (cellEvent_rim (fun p j cell s => rimKept_ite (laneRegOp_rim ..) rfl) ..)
  case laneRemoval => exact next_rim h (island_rim (fun p j s => modBand_rim ..) ..)
  case bandPortPop => exact next_rim h (sequencer_rim (fun p j s => popOp_rim ..) ..)
  case headInjection t b inj =>
    refine next_rim h ?_
    cases inj with
    | take => exact sequencer_rim (fun p j s => injectTake_rim ..) ..
    | place => exact island_rim (fun p j s => injectPlace_rim ..) ..
  case headRelease => exact next_rim h (island_rim (fun p j s => releaseOp_rim ..) ..)
  case seamPlacement => exact next_rim h (sequencer_rim (fun p j s => seamPlaceOp_rim ..) ..)
  case seamArrival => exact next_rim h (island_rim (fun p j s => seamArriveOp_rim ..) ..)
  case rowPassStart => exact next_rim h (cellEvent_rim (fun p j cell s => passStartOp_rim ..) ..)
  case rowEntry => exact next_rim h (cellEvent_rim (fun p j cell s => rimKept_trans (bringForward_rim ..) (rowEntryOp_rim ..)) ..)
  case partialSumRead => exact next_rim h (cellEvent_rim (fun p j cell s => partialSumReadOp_rim ..) ..)
  case outputWrite => exact next_rim h (cellEvent_rim (fun p j cell s => outputWriteOp_rim ..) ..)
  case weightChunkWrite =>
    refine next_rim h (cellEvent_rim (fun p j cell s => foldl_rim (fun s o => by
      split
      · exact weightChunkOp_rim ..
      · rfl) _ s) ..)
  case swap => exact next_rim h (cellEvent_rim (fun p j cell s => rimKept_ite (swapOnce_rim ..) rfl) ..)
  case modeSet => exact next_rim h (cellEvent_rim (fun p j cell s => rimKept_ite (modeSetOp_rim ..) rfl) ..)
  case seedOperation => exact next_rim h (cellEvent_rim (fun p j cell s => rimKept_ite (seedOnce_rim ..) rfl) ..)
  case counterOperation => exact next_rim h (cellEvent_rim (fun p j cell s => rimKept_ite (counterOp_rim ..) rfl) ..)
  case comparatorConfiguration => exact next_rim h (cellEvent_rim (fun p j cell s => rimKept_ite (comparatorOp_rim ..) rfl) ..)
  case vectorDescriptorStart => exact next_rim h (cellEvent_rim (fun p j cell s => vecStartOp_rim ..) ..)
  case vectorWordIssue => exact next_rim h (cellEvent_rim (fun p j cell s => rimKept_trans (bringForward_rim ..) (vecIssueOp_rim ..)) ..)
  case vectorResultWrite => exact next_rim h (cellEvent_rim (fun p j cell s => vecWriteOp_rim ..) ..)
  case operationStatusWord => exact next_rim h (cellEvent_rim (fun p j cell s => statusWordOp_rim ..) ..)
  case tapOperation => exact next_rim h (sequencer_rim (fun p j s => tapOp_rim ..) ..)
  case queuePush => exact next_rim h (armature_rim (fun p bd s => setBand_rim ..) ..)
  case queueRelease => exact next_rim h (sequencer_rim (fun p j s => releaseQueueOp_rim ..) ..)
  case cellFifoDelivery => exact next_rim h (island_rim (fun p j s => fifoDeliveryOp_rim ..) ..)
  case rowDescriptorConsumption => exact next_rim h (sequencer_rim (fun p j s => rowConsumeOp_rim ..) ..)
  case rowGroupRelease => exact next_rim h (island_rim (fun p j s => rowReleaseOp_rim ..) ..)
  case rowEngineDrain => exact next_rim h (island_rim (fun p j s => rowDrainOp_rim ..) ..)
  case portRunEntry => exact next_rim h (sequencer_rim (fun p j s => portRunOp_rim ..) ..)
  case sequencerEnd => exact next_rim h (sequencer_rim (fun p j s => endSequencer_rim ..) ..)
  case flagSet => exact next_rim h (flagOp_rim ..)
  case flagAdd => exact next_rim h (flagOp_rim ..)
  case flagWait => exact next_rim h (armature_rim (fun p bd s => setBand_rim ..) ..)
  case waitEnd n b =>
    exact next_rim h (rimKept_trans (advanceTo_rim n s) (rimKept_ite (setBand_rim ..) rfl))
  case mccRead => exact next_rim h (armature_rim (fun p bd s => emit_rim ..) ..)
  case armatureEnd => exact next_rim h (armature_rim (fun p bd s => setBand_rim ..) ..)
  case armatureFault => exact next_rim h (armature_rim (fun p bd s => rimKept_trans (setBand_rim ..) (jobFatal_rim ..)) ..)
  case waitWatchdog n b =>
    exact next_rim h (rimKept_trans (advanceTo_rim n s) (rimKept_ite (watchdogOp_rim ..) rfl))
  all_goals exact absurd hc Bool.false_ne_true

/-- Settles O60: no operation of a cell, of a head, of the seam, of a queue or of a core writes a field of the rim. -/
theorem islandEventsLeaveTheRimAlone : Obligations.IslandEventsLeaveTheRimAlone :=
  fun _ _ _ hc h => rimKept_fields (exec_rim hc h)

end Sys2Proof.Machine
end

section
/-! SUPPORT. What a step is, what the state after reset holds, and that every command or event has an effect (R306). -/

-- One proof after another: many at a time need more memory than the check of the whole text has.
set_option Elab.async false

namespace Sys2Proof.Machine

/-- Settles O1: that is how a step is defined. -/
theorem stepRunsTheFrontCommand : Obligations.StepRunsTheFrontCommand := fun _ _ _ => rfl

/-- Whether an outcome is a next state. -/
def goesOn : Host.Outcome State Fault Refusal → Bool
  | .next _ => true
  | _ => false

theorem goesOn_next {o : Host.Outcome State Fault Refusal} (h : goesOn o = true) : ∃ t, o = .next t := by
  cases o with
  | next t => exact ⟨t, rfl⟩
  | _ => exact absurd h Bool.false_ne_true

/-- Settles O6: what a command turns away or finds amiss it notes in its next state; no arm of the dispatch ends otherwise. -/
theorem everyCommandTakesANextState : Obligations.EveryCommandTakesANextState := by
  intro c s
  have hg : goesOn (exec c s) = true := by cases c <;> rfl
  exact goesOn_next hg

/-- Settles O4: reset gives the eight groups partition 0, and tier memory starts empty. -/
theorem resetIsSound : Obligations.ResetIsSound := by
  refine ⟨⟨?_, ?_⟩, ?_⟩
  · decide
  · decide
  · exact memory_wf_reset

theorem partOf_reset (b : Nat) : partOf State.reset b = if groupOf b < 8 then 0 else 4 := by
  change (List.replicate 8 0).getD (groupOf b) 4 = _
  rw [List.getD_eq_getElem?_getD, List.getElem?_replicate]
  split <;> rfl

/-- Settles O3: a field of the state after reset is its default, and a table with no entry gives its default. -/
theorem resetLeavesAux : Obligations.ResetLeavesAux := by
  refine ⟨rfl, rfl, rfl, rfl, rfl, rfl, rfl, rfl, rfl, rfl, rfl, rfl, rfl, ?_, ?_, partOf_reset, ?_, ?_, ?_, ?_⟩
  · exact fun n => ⟨rfl, rfl, rfl, rfl, rfl⟩
  · exact fun p => ⟨rfl, rfl, rfl⟩
  · exact fun m => ⟨rfl, rfl, rfl⟩
  · exact fun l => rfl
  · exact fun c => rfl
  · exact fun a => rfl

end Sys2Proof.Machine
end

section
/-! SUPPORT. The partition map and tier memory under the operations of the model: an operation keeps both (`CoreKept`), or keeps the
map and the canonical form of memory (`SoundKept`); one lemma for each. -/

-- One proof after another: many at a time need more memory than the check of the whole text has.
set_option Elab.async false

namespace Sys2Proof.Machine


/-- The partition map and tier memory of a rim. -/
def coreOf (v : State) : List Nat × List Host.Cell := (v.partMap, v.mem)

/-- The partition map and tier memory are the same. -/
abbrev CoreKept (s t : State) : Prop := coreOf (rimView t) = coreOf (rimView s)

/-- Tier memory in canonical form, as an atom for simp. -/
def Canonical (m : List Host.Cell) : Prop := Memory.wf m

/-- The partition map is the same, and memory stays canonical. -/
abbrev SoundKept (s t : State) : Prop :=
  (coreOf (rimView t)).1 = (coreOf (rimView s)).1 ∧ (Canonical (coreOf (rimView s)).2 → Canonical (coreOf (rimView t)).2)

/-- A write of other fields does not show in the partition map and in memory. -/
@[simp] theorem coreOf_update (s : State) (pending : List Instr) (out : List Out) (free : Nat) (ident : Ident) (clk :
    Clock) (log : ErrLog) (rings : Tbl CmdRing) (mgmt : List MgmtCmd) (flights : List Flight) (mbox : Tbl Mailbox)
    (msix : Msix) (pcie : Pcie) (app : App) (pwr : Power) (flash : Flash) (sec : Sec) (board : Board) (parts : Tbl
    Part) (wdog : Tbl Nat) (bands : Tbl Band) (cells : Tbl Cell) (seam : List SeamWord) (fence : List Nat) (patina :
    Patina) (memErr : Tbl Byte) (poison : Tbl Bool) (devs : Tbl MemDev) (plinths : Tbl Plinth) (regions : Tbl Region)
    (passQ : List (Nat × Nat)) (links : Tbl Link) (lasers : Tbl Laser) (fab : Fabric) (chans : Tbl Chan) (redMcastTo :
    Nat) (castSeen : List Nat) :
    coreOf (rimView { s with
      pending := pending, out := out, free := free, ident := ident, clk := clk, log := log, rings := rings, mgmt
      := mgmt, flights := flights, mbox := mbox, msix := msix, pcie := pcie, app := app, pwr := pwr, flash :=
      flash, sec := sec, board := board, parts := parts, wdog := wdog, bands := bands, cells := cells, seam :=
      seam, fence := fence, patina := patina, memErr := memErr, poison := poison, devs := devs, plinths :=
      plinths, regions := regions, passQ := passQ, links := links, lasers := lasers, fab := fab, chans := chans,
      redMcastTo := redMcastTo, castSeen := castSeen }) =
      coreOf (rimView s) := rfl

theorem coreKept_trans {s t u : State} (h : CoreKept s t) (h' : CoreKept t u) : CoreKept s u := h'.trans h

theorem coreKept_of_rim {s t : State} (h : RimKept s t) : CoreKept s t := congrArg coreOf h

theorem soundKept_refl (s : State) : SoundKept s s := ⟨rfl, id⟩

theorem soundKept_trans {s t u : State} (h : SoundKept s t) (h' : SoundKept t u) : SoundKept s u :=
  ⟨h'.1.trans h.1, h'.2 ∘ h.2⟩

theorem soundKept_of_core {s t : State} (h : CoreKept s t) : SoundKept s t :=
  ⟨congrArg Prod.fst h, fun hw => congrArg Prod.snd h ▸ hw⟩

theorem coreKept_of_fields {s t : State} (hp : t.partMap = s.partMap) (hm : t.mem = s.mem) : CoreKept s t :=
  congrArg₂ Prod.mk hp hm

/-- What runs on a state whose map and memory are those of `s`. -/
theorem soundKept_after {s t u : State} (h' : SoundKept t u) (h : CoreKept s t) : SoundKept s u :=
  soundKept_trans (soundKept_of_core h) h'

@[simp] theorem foldl_core {α : Type} {f : State → α → State} (h : ∀ s x, CoreKept s (f s x)) (l : List α) (s : State) :
    CoreKept s (l.foldl f s) := by
  induction l generalizing s with
  | nil => simp [CoreKept]
  | cons x r ih => rw [List.foldl_cons]; exact coreKept_trans (h s x) (ih _)

@[simp] theorem foldl_sound {α : Type} {f : State → α → State} (h : ∀ s x, SoundKept s (f s x)) (l : List α) (s : State) :
    SoundKept s (l.foldl f s) := by
  induction l generalizing s with
  | nil => exact soundKept_refl s
  | cons x r ih => rw [List.foldl_cons]; exact soundKept_trans (h s x) (ih _)

theorem coreKept_of_snd {α : Type} {x : α × State} {o : α} {s t : State} (h : x = (o, t)) (hk : CoreKept s x.2) :
    CoreKept s t := by
  rw [h] at hk
  exact hk

theorem soundKept_of_snd {α : Type} {x : α × State} {o : α} {s t : State} (h : x = (o, t)) (hk : SoundKept s x.2) :
    SoundKept s t := by
  rw [h] at hk
  exact hk

theorem foldl_sound_snd {α β : Type} {f : β × State → α → β × State} (h : ∀ x a, SoundKept x.2 (f x a).2) (l : List α)
    (x : β × State) : SoundKept x.2 (l.foldl f x).2 := by
  induction l generalizing x with
  | nil => exact soundKept_refl x.2
  | cons a r ih => rw [List.foldl_cons]; exact soundKept_trans (h x a) (ih _)

theorem soundKept_of_snd_snd {α β : Type} {x : α × β × State} {o : α} {o' : β} {s t : State} (h : x = (o, o', t))
    (hk : SoundKept s x.2.2) : SoundKept s t := by
  rw [h] at hk
  exact hk

theorem coreKept_of_snd_snd {α β : Type} {x : α × β × State} {o : α} {o' : β} {s t : State} (h : x = (o, o', t))
    (hk : CoreKept s x.2.2) : CoreKept s t := by
  rw [h] at hk
  exact hk

theorem coreKept_ite {c : Prop} [Decidable c] {s t u : State} (ht : CoreKept s t) (hu : CoreKept s u) :
    CoreKept s (if c then t else u) := by
  split
  · exact ht
  · exact hu

theorem soundKept_ite {c : Prop} [Decidable c] {s t u : State} (ht : SoundKept s t) (hu : SoundKept s u) :
    SoundKept s (if c then t else u) := by
  split
  · exact ht
  · exact hu

/-- What is copied out of a cut, where there is an object, keeps the map and memory. -/
def OptCore (s : State) (x : Option (List Byte × State)) : Prop := ∀ y, x = some y → CoreKept s y.2

theorem optCore_none (s : State) : OptCore s none := fun _ h => absurd h.symm (Option.some_ne_none _)

theorem optCore_some {s : State} (x : List Byte × State) (h : CoreKept s x.2) : OptCore s (some x) :=
  fun _ hy => Option.some.inj hy ▸ h

theorem optCore_ite {c : Prop} [Decidable c] {s : State} {x y : Option (List Byte × State)} (hx : OptCore s x)
    (hy : OptCore s y) : OptCore s (if c then x else y) := by
  split
  · exact hx
  · exact hy

theorem soundKept_of_memChange {s t : State} (h : MemChange s t) : SoundKept s t := by
  obtain ⟨_, _, _, _, _, _, _, _, rfl, hw⟩ := h
  exact ⟨rfl, hw⟩

theorem soundKept_of_completes {s t : State} (h : Completes s t) : SoundKept s t := by
  obtain ⟨_, _, _, _, _, _, _, _, _, _, _, _, rfl, hw⟩ := h
  exact ⟨rfl, hw⟩

theorem soundKept_of_takes {s t : State} (h : Takes s t) : SoundKept s t := by
  obtain ⟨_, _, _, _, _, _, _, _, _, _, _, rfl, hw, -⟩ := h
  exact ⟨rfl, hw⟩

theorem foldl_core_snd {α β : Type} {f : β × State → α → β × State} (h : ∀ x a, CoreKept x.2 (f x a).2) (l : List α)
    (x : β × State) : CoreKept x.2 (l.foldl f x).2 := by
  induction l generalizing x with
  | nil => simp [CoreKept]
  | cons a r ih => rw [List.foldl_cons]; exact coreKept_trans (h x a) (ih _)

@[simp] theorem taken_sound (h : CmdHdr) (s : State) : SoundKept s (taken h s) :=
  soundKept_of_takes (taken_takes h s)

@[simp] theorem takeFree_core (s : State) : CoreKept s (takeFree s).2 := by
  simp [CoreKept, takeFree]

@[simp] theorem freeBytes_core (n : Nat) (s : State) : CoreKept s (freeBytes n s).2 := by
  induction n generalizing s with
  | zero => simp [CoreKept, freeBytes]
  | succ n ih => exact coreKept_trans (takeFree_core s) (ih _)

@[simp] theorem emitHost_core (x : HostSend) (s : State) : CoreKept s (emitHost x s) := by
  unfold emitHost
  split <;> simp [CoreKept]

@[simp] theorem flushHeld_core (s : State) : CoreKept s (flushHeld s) := by
  unfold flushHeld
  split <;> simp [CoreKept]

@[simp] theorem aerError_core (bit : Nat) (s : State) : CoreKept s (aerError bit s) := by
  unfold aerError
  extract_lets p fatal s1
  exact coreKept_ite (rfl : CoreKept s s1) rfl

@[simp] theorem completerAbort_core (s : State) : CoreKept s (completerAbort s) := by
  simp [CoreKept, completerAbort]

@[simp] theorem unsupportedRequest_core (s : State) : CoreKept s (unsupportedRequest s) := by
  simp [CoreKept, unsupportedRequest]

@[simp] theorem gtcTo_core (g : Nat) (s : State) : CoreKept s (gtcTo g s) := by
  have hp : ∀ a f t, CoreKept t (passSamples a f t) := fun _ _ _ => coreKept_ite rfl rfl
  unfold gtcTo
  extract_lets h
  exact coreKept_ite (coreKept_trans (t := { s with fab := (slewOf (h - s.clk.gtc) s.fab).2, clk := { s.clk with gtc := h, phase := 0 } }) rfl (hp ..)) rfl

@[simp] theorem reachGtc_core (n g : Nat) (s : State) : CoreKept s (reachGtc n g s) := by
  induction n generalizing s with
  | zero => simp [CoreKept, reachGtc]
  | succ n ih =>
    rw [reachGtc]
    split
    · exact coreKept_trans (by simp [CoreKept]) (ih _)
    · simp [CoreKept]

@[simp] theorem advanceGtc_core (g : Nat) (s : State) : CoreKept s (advanceGtc g s) := by
  simp only [advanceGtc]
  split <;> simp [CoreKept]

@[simp] theorem modCore_core (n : Nat) (f : AppCore → AppCore) (s : State) : CoreKept s (modCore n f s) := by
  simp [CoreKept, modCore]

@[simp] theorem coreFaults_core (n cause addr : Nat) (s : State) : CoreKept s (coreFaults n cause addr s) := by
  simp [CoreKept, coreFaults]

@[simp] theorem plicClaim_core (ctx : Nat) (s : State) : CoreKept s (plicClaim ctx s).2 := by
  simp only [plicClaim]
  split <;> simp [CoreKept]

@[simp] theorem plicComplete_core (ctx src : Nat) (s : State) : CoreKept s (plicComplete ctx src s) := by
  unfold plicComplete
  split <;> simp [CoreKept]

@[simp] theorem wakeCore_core (n : Nat) (s : State) : CoreKept s (wakeCore n s) := by
  simp [CoreKept, wakeCore]

@[simp] theorem coreWfi_core (n : Nat) (s : State) : CoreKept s (coreWfi n s) := by
  unfold coreWfi
  split <;> simp [CoreKept]

@[simp] theorem coreInterrupt_core (n : Nat) (s : State) : CoreKept s (coreInterrupt n s) := by
  simp only [coreInterrupt]
  split <;> simp [CoreKept]

@[simp] theorem endReserve_core (line : Nat) (s : State) : CoreKept s (endReserve line s) := by
  simp [CoreKept, endReserve]

@[simp] theorem modDev_core (u : Nat) (f : MemDev → MemDev) (s : State) : CoreKept s (modDev u f s) := by
  simp [CoreKept, modDev]

@[simp] theorem modPl_core (k : Nat) (f : Plinth → Plinth) (s : State) : CoreKept s (modPl k f s) := by
  simp [CoreKept, modPl]

@[simp] theorem modReg_core (key : Nat) (f : Region → Region) (s : State) : CoreKept s (modReg key f s) := by
  simp [CoreKept, modReg]

@[simp] theorem noteCe_core (w : MemWho) (a sym : Nat) (s : State) : CoreKept s (noteCe w a sym s) := by
  unfold noteCe
  split
  · exact rfl
  extract_lets p p' s1 d hour sec ctx
  have h1 : CoreKept s s1 := rfl
  clear_value s1
  split
  next s2 i hi =>
  have h2 : CoreKept s1 s2 := by
    split at hi
    · cases hi
      exact rfl
    · exact (congrArg (fun x : State × Option Nat => coreOf (rimView x.1)) hi).symm.trans (coreKept_of_rim (logRec_rim ..))
  extract_lets storm s3
  exact coreKept_trans h1 (coreKept_trans h2 (coreKept_trans (coreKept_ite (coreKept_of_rim (logDeferred_rim ..)) rfl) (modDev_core ..)))

@[simp] theorem noteUe_core (w : MemWho) (a sym : Nat) (s : State) : CoreKept s (noteUe w a sym s) := by
  unfold noteUe
  (repeat' split) <;> simp [CoreKept]

@[simp] theorem cwWrite_sound (c : Nat) (bs : List Byte) (s : State) : SoundKept s (cwWrite c bs s) :=
  soundKept_of_memChange (memChange_cwWrite ..)

@[simp] theorem cwRead_sound (w : MemWho) (flips : Noise) (c : Nat) (s : State) : SoundKept s (cwRead w flips c s).2.2 := by
  unfold cwRead
  split <;> (refine ⟨?_, fun hw => ?_⟩ <;> simp [*])

@[simp] theorem cwCopy_core (w : MemWho) (flips : Noise) (c : Nat) (s : State) : CoreKept s (cwCopy w flips c s).2.2 := by
  unfold cwCopy
  split <;> simp [CoreKept]

@[simp] theorem cwReadsFrom_sound (w : MemWho) (flips : Noise) (c : Nat) (seen : Bool) (n : Nat) (s : State) :
    SoundKept s (cwReadsFrom w flips c seen n s).2.2 := by
  induction n generalizing c seen s with
  | zero => exact soundKept_refl s
  | succ n ih => exact soundKept_trans (cwRead_sound ..) (ih ..)

@[simp] theorem cwReads_sound (w : MemWho) (flips : Noise) (c n : Nat) (s : State) :
    SoundKept s (cwReads w flips c n s).2.2 := by
  refine ⟨?_, fun hw => ?_⟩ <;> simp [cwReads, *]

@[simp] theorem unpopulated_core (w : MemWho) (a : Nat) (s : State) : CoreKept s (unpopulated w a s) := by
  simp [CoreKept, unpopulated]

@[simp] theorem lineRead_sound (w : MemWho) (flips : Noise) (line : Nat) (s : State) :
    SoundKept s (lineRead w flips line s).2.2 := by
  unfold lineRead
  split <;> (refine ⟨?_, fun hw => ?_⟩ <;> simp [*])

@[simp] theorem linesRead_sound (w : MemWho) (line n : Nat) (s : State) : SoundKept s (linesRead w line n s).2.2 := by
  induction n generalizing line s with
  | zero => exact soundKept_refl s
  | succ n ih => exact soundKept_trans (lineRead_sound ..) (ih ..)

@[simp] theorem memRead_sound (w : MemWho) (a n : Nat) (s : State) : SoundKept s (memRead w a n s).2.2 := by
  refine ⟨?_, fun hw => ?_⟩ <;> simp [memRead, *]

@[simp] theorem getIf_core {get : Nat → State → List Byte × Bool × State} (hg : ∀ h s, CoreKept s (get h s).2.2) (c : Bool)
    (h : Nat) (s : State) : CoreKept s (getIf c get h s).2.2 := by
  unfold getIf
  split
  · exact hg h s
  · simp [CoreKept]

@[simp] theorem putIf_core {put : Nat → List Byte → State → State} (hp : ∀ h x s, CoreKept s (put h x s)) (c : Bool) (h : Nat)
    (x : List Byte) (s : State) : CoreKept s (putIf c put h x s) := by
  unfold putIf
  split
  · exact hp h x s
  · simp [CoreKept]

@[simp] theorem mergeWrite_core {get : Nat → State → List Byte × Bool × State} {put : Nat → List Byte → State → State}
    (hg : ∀ h s, CoreKept s (get h s).2.2) (hp : ∀ h x s, CoreKept s (put h x s)) (lo : Nat) (bs : List Byte) (s : State) :
    CoreKept s (mergeWrite get put lo bs s).2 := by
  unfold mergeWrite
  simp only []
  split
  · exact coreKept_trans (getIf_core hg ..) (coreKept_trans (getIf_core hg ..)
      (coreKept_trans (putIf_core hp ..) (putIf_core hp ..)))
  · exact coreKept_trans (getIf_core hg ..) (getIf_core hg ..)

@[simp] theorem mergeRead_core (w : MemWho) (c : Nat) (s : State) : CoreKept s (mergeRead w c s).2.2 := by
  unfold mergeRead
  split <;> simp [CoreKept]

@[simp] theorem lineWrite_sound (w : MemWho) (a : Nat) (bs : List Byte) (s : State) : SoundKept s (lineWrite w a bs s).2 :=
  soundKept_of_memChange (memChange_lineWrite ..)

@[simp] theorem memWriteAux_sound (w : MemWho) (a n : Nat) (bs : List Byte) (s : State) :
    SoundKept s (memWriteAux w a n bs s).2 :=
  soundKept_of_memChange (memChange_memWriteAux ..)

@[simp] theorem fixChk_core (a n : Nat) (s : State) : CoreKept s (fixChk a n s) := by
  simp [CoreKept, fixChk]

@[simp] theorem memWrite_sound (w : MemWho) (a : Nat) (bs : List Byte) (s : State) : SoundKept s (memWrite w a bs s).2 := by
  refine ⟨?_, fun hw => ?_⟩ <;> simp [memWrite, *]

@[simp] theorem regionRead_sound (w : MemWho) (r : Region) (off n : Nat) (s : State) :
    SoundKept s (regionRead w r off n s).2.2 := by
  induction n generalizing off s with
  | zero => exact soundKept_refl s
  | succ n ih => exact soundKept_trans (memRead_sound ..) (ih ..)

@[simp] theorem regionBytes_sound (w : MemWho) (r : Region) (off n : Nat) (s : State) :
    SoundKept s (regionBytes w r off n s).2.2 := by
  refine ⟨?_, fun hw => ?_⟩ <;> simp [regionBytes, *]

@[simp] theorem regionWrite_sound (w : MemWho) (r : Region) (off n : Nat) (bs : List Byte) (s : State) :
    SoundKept s (regionWrite w r off n bs s).2 := by
  induction n generalizing off bs s with
  | zero => exact soundKept_refl s
  | succ n ih =>
    rw [regionWrite]
    split
    · exact soundKept_refl s
    · exact soundKept_trans (memWrite_sound ..) (ih ..)

@[simp] theorem chargeMem_core (u moved : Nat) (s : State) : CoreKept s (chargeMem u moved s) := by
  simp [CoreKept, chargeMem]

@[simp] theorem chargeRegion_core (r : Region) (off n : Nat) (s : State) : CoreKept s (chargeRegion r off n s) := by
  unfold chargeRegion
  (repeat' split) <;> simp [CoreKept]

@[simp] theorem moveMem_core (a moved : Nat) (s : State) : CoreKept s (moveMem a moved s) := by
  unfold moveMem
  split <;> simp [CoreKept]

@[simp] theorem copyLine_sound (w : MemWho) (src dst : Nat) (s : State) : SoundKept s (copyLine w src dst s).2 := by
  simp only [copyLine]
  (repeat' split) <;> (refine ⟨?_, fun hw => ?_⟩ <;> simp [*])

@[simp] theorem copyUnit_sound (r : Region) (ms : List Nat) (st n : Nat) (s : State) :
    SoundKept s (copyUnit r ms st n s).2 := by
  unfold copyUnit
  extract_lets w src dst
  have hline : ∀ (x : Bool × State) i,
      SoundKept x.2 (if x.1 then copyLine w (src + i) (dst + i) x.2 else x).2 := fun x i => by
    split
    · exact copyLine_sound ..
    · exact soundKept_refl _
  exact foldl_sound_snd hline (List.range 1024) (true, s)

@[simp] theorem modCtx_core (k n : Nat) (f : Ctx → Ctx) (s : State) : CoreKept s (modCtx k n f s) := by
  simp [CoreKept, modCtx]

@[simp] theorem ctxFault_core (k n code low mask word exp : Nat) (s : State) :
    CoreKept s (ctxFault k n code low mask word exp s) := by
  simp [CoreKept, ctxFault]

@[simp] theorem failWaiters_core (s : State) : CoreKept s (failWaiters s) := by
  refine foldl_core (fun t x => foldl_core (fun t e => ?_) _ t) _ s
  split <;> simp [CoreKept]

@[simp] theorem serve_core (k n : Nat) (s : State) : CoreKept s (serve k n s) := by
  simp [CoreKept, serve]

@[simp] theorem addressWords_core (k n : Nat) (r : Region) (ws : List Nat) (s : State) :
    CoreKept s (addressWords k n r ws s) := by
  simp [CoreKept, addressWords]

@[simp] theorem issueTransfer_core (k engine : Nat) (s : State) : CoreKept s (issueTransfer k engine s) := by
  unfold issueTransfer
  split
  · exact rfl
  extract_lets c s1 m0 m1 ws s2
  refine coreKept_ite rfl (coreKept_trans (t := s1) (serve_core ..) ?_)
  split
  · exact ctxFault_core ..
  refine coreKept_ite (ctxFault_core ..) ?_
  extract_lets u s3 s4
  have h4 : CoreKept s1 s4 := coreKept_trans (modCtx_core ..) (coreKept_trans (addressWords_core ..) (modReg_core ..))
  refine coreKept_trans h4 ?_
  clear_value u
  split
  · exact chargeMem_core ..
  · exact rfl

@[simp] theorem putInbound_core (b x : Nat) (w : PortWord) (s : State) : CoreKept s (putInbound b x w s) := by
  simp [CoreKept, putInbound]

@[simp] theorem readWord_sound (w : MemWho) (r : Region) (off : Nat) (flips : Noise) (n : Nat) (s : State) :
    SoundKept s (readWord w r off flips n s).2.2 := by
  induction n generalizing s with
  | zero => exact soundKept_refl s
  | succ n ih => exact soundKept_trans (lineRead_sound ..) (ih ..)

@[simp] theorem ctxAdvance_core (k n m done : Nat) (s : State) : CoreKept s (ctxAdvance k n m done s) := by
  simp [CoreKept, ctxAdvance]

@[simp] theorem staleMsg_core (k : Nat) (s : State) : CoreKept s (staleMsg k s) := by
  simp [CoreKept, staleMsg]

@[simp] theorem wordArrives_sound (k n gen : Nat) (flips : Noise) (s : State) : SoundKept s (wordArrives k n gen flips s) := by
  have hm : ∀ f t, SoundKept t (modCtx k n f t) := fun _ _ => soundKept_of_core (modCtx_core ..)
  unfold wordArrives
  extract_lets c
  refine soundKept_ite (soundKept_of_core (staleMsg_core ..)) ?_
  split
  · exact soundKept_refl s
  refine soundKept_ite (soundKept_refl s) ?_
  split
  · exact soundKept_of_core (ctxFault_core ..)
  extract_lets who
  split
  next bs ok t hr =>
  extract_lets s1 pw ws
  refine soundKept_trans (t := s1) (soundKept_trans (soundKept_of_snd_snd hr (readWord_sound ..)) (hm _ t)) ?_
  refine soundKept_ite (hm ..) (soundKept_ite (soundKept_ite (hm ..) ?_) (hm ..))
  exact soundKept_of_core (coreKept_trans (putInbound_core ..) (ctxAdvance_core ..))

@[simp] theorem deliverMcast_core (k n : Nat) (s : State) : CoreKept s (deliverMcast k n s) := by
  simp only [deliverMcast]
  (repeat' split) <;> simp [CoreKept]

@[simp] theorem grantMcast_core (k n gen e : Nat) (s : State) : CoreKept s (grantMcast k n gen e s) := by
  simp only [grantMcast]
  (repeat' split) <;> simp [CoreKept]

@[simp] theorem timeoutMcast_core (k n : Nat) (s : State) : CoreKept s (timeoutMcast k n s) := by
  simp only [timeoutMcast]
  (repeat' split) <;> simp [CoreKept]

@[simp] theorem storeMerged_core (k n : Nat) (r : Region) (word : Nat) (stored : Bool) (s : State) :
    CoreKept s (storeMerged k n r word stored s) := by
  simp only [storeMerged]
  (repeat' split) <;> simp [CoreKept]

@[simp] theorem storeOne_sound (k n gen : Nat) (s : State) : SoundKept s (storeOne k n gen s) := by
  unfold storeOne
  extract_lets c b x bd
  split
  · exact soundKept_of_core (staleMsg_core k s)
  · split
    · exact soundKept_refl s
    · split
      · exact soundKept_refl s
      · split
        · exact soundKept_of_core (ctxFault_core ..)
        · split
          · exact soundKept_of_core (ctxFault_core ..)
          · extract_lets u v w y
            have hv : SoundKept s v := soundKept_of_core rfl
            refine soundKept_trans hv ?_
            split
            · exact soundKept_of_core (coreKept_trans (coreKept_of_rim (schedFault_rim ..)) (coreKept_trans (storeMerged_core ..) (ctxAdvance_core ..)))
            · have hw : SoundKept v w := soundKept_of_core (addressWords_core ..)
              have hy : SoundKept w y := by
                refine foldl_sound (fun t i => ?_) (List.range 8) w
                exact soundKept_ite (memWrite_sound ..) (soundKept_refl t)
              exact soundKept_trans (soundKept_trans hw hy) (soundKept_of_core (coreKept_trans (storeMerged_core ..) (ctxAdvance_core ..)))

@[simp] theorem handShard_core (k n gen : Nat) (s : State) : CoreKept s (handShard k n gen s) := by
  unfold handShard
  extract_lets c chn ch total sz first cap last
  refine coreKept_ite (staleMsg_core ..) ?_
  split
  · exact rfl
  · extract_lets bs us s1
    have h1 : CoreKept s s1 := rfl
    exact coreKept_ite rfl (coreKept_trans h1 (coreKept_trans (modCtx_core ..) (ctxAdvance_core ..)))

@[simp] theorem ucArrive_core (k n : Nat) (s : State) : CoreKept s (ucArrive k n s) := by
  simp only [ucArrive]
  (repeat' split) <;> simp [CoreKept]

@[simp] theorem releaseContexts_core (p : Nat) (s : State) : CoreKept s (releaseContexts p s) := by
  simp [CoreKept, releaseContexts]

@[simp] theorem tokenBack_core (k n : Nat) (s : State) : CoreKept s (tokenBack k n s) := by
  simp [CoreKept, tokenBack]

theorem allocOne_core {p : Nat} {e : List Byte} {want : Option Nat} {x : Nat × Nat} {s t : State}
    (h : allocOne p e want s = some (x, t)) : CoreKept s t := by
  have hk : ∀ {y : Nat × Nat} {u : State}, some (y, u) = some (x, t) → CoreKept s u → CoreKept s t := fun h hu => by
    cases h
    exact hu
  unfold allocOne at h
  extract_lets q at h
  split at h
  · exact nomatch h
  extract_lets k pl idx at h
  clear_value idx
  split at h
  · exact nomatch h
  · exact hk h (modPl_core ..)

theorem allocContexts_core {p : Nat} {l : List (List Byte)} {want xs : List (Nat × Nat)} {s t : State}
    (h : allocContexts p l want s = some (xs, t)) : CoreKept s t := by
  induction l generalizing want xs s with
  | nil => cases h; exact rfl
  | cons e r ih =>
    rw [allocContexts] at h
    split at h
    · cases h
    · next hone =>
      split at h
      · cases h
      · next hrest =>
        cases h
        exact coreKept_trans (allocOne_core hone) (ih hrest)

@[simp] theorem deliverParked_core (p : Nat) (s : State) : CoreKept s (deliverParked p s) := by
  unfold deliverParked
  extract_lets s1
  have h1 : CoreKept s s1 := by
    refine foldl_core (fun t x => foldl_core (fun t e => ?_) _ t) _ s
    simp only []
    split <;> simp [CoreKept]
  refine coreKept_trans h1 (foldl_core (fun t x => foldl_core (fun t e => ?_) _ t) _ s1)
  split <;> simp [CoreKept]

@[simp] theorem windowRecord_core (cell a code : Nat) (s : State) : CoreKept s (windowRecord cell a code s) := by
  simp [CoreKept, windowRecord]

@[simp] theorem putHalf_core (cell word half : Nat) (bs : List Byte) (s : State) :
    CoreKept s (putHalf cell word half bs s) := by
  simp [CoreKept, putHalf]

@[simp] theorem windowHalf_core (cell word half : Nat) (fix : Bool) (s : State) :
    CoreKept s (windowHalf cell word half fix s).2.2 := by
  simp only [windowHalf]
  (repeat' split) <;> simp [CoreKept]

@[simp] theorem windowRead_core (a n : Nat) (s : State) : CoreKept s (windowRead a n s).2 := by
  simp only [windowRead]
  split <;> simp [CoreKept]

@[simp] theorem windowWrite_core (a : Nat) (bs : List Byte) (s : State) : CoreKept s (windowWrite a bs s).2 := by
  have hhalf : ∀ cell word h s, CoreKept s (windowHalf cell word h false s).2.2 := fun _ _ _ _ => windowHalf_core ..
  have hput : ∀ cell word h x s, CoreKept s (putHalf cell word h x s) := fun _ _ _ _ _ => putHalf_core ..
  unfold windowWrite
  extract_lets o cell
  split
  · exact mergeWrite_core (hhalf _ _) (hput _ _) ..
  all_goals simp [CoreKept]

/-- One step of a read of device memory: a window, or a line of the tiers. -/
@[simp] theorem spaceRead_sound (a f n : Nat) (s : State) : SoundKept s (spaceRead a f n s).2 := by
  induction f generalizing a n s with
  | zero => exact soundKept_refl s
  | succ f ih =>
    rw [spaceRead]
    split
    · exact soundKept_refl s
    · extract_lets k
      split
      next x t hx =>
      have ht : SoundKept s t := by
        refine soundKept_of_snd hx ?_
        split
        · exact soundKept_of_core (windowRead_core ..)
        · split
          · exact soundKept_trans (soundKept_of_core (moveMem_core ..)) (memRead_sound ..)
          · exact soundKept_refl s
      split
      · exact ht
      · exact soundKept_trans ht (ih ..)

@[simp] theorem spaceWrite_sound (a f : Nat) (bs : List Byte) (s : State) : SoundKept s (spaceWrite a f bs s).2 := by
  induction f generalizing a bs s with
  | zero => exact soundKept_refl s
  | succ f ih =>
    rw [spaceWrite]
    split
    · exact soundKept_refl s
    · extract_lets k
      split
      next ok t hx =>
      have ht : SoundKept s t := by
        refine soundKept_of_snd hx ?_
        split
        · exact soundKept_of_core (windowWrite_core ..)
        · split
          · exact soundKept_trans (soundKept_of_core (moveMem_core ..)) (memWrite_sound ..)
          · exact soundKept_refl s
      exact soundKept_trans ht (ih ..)

@[simp] theorem modRing_core (n : Nat) (f : CmdRing → CmdRing) (s : State) : CoreKept s (modRing n f s) := by
  simp [CoreKept, modRing]

@[simp] theorem fetchError_core (ring addr : Nat) (write : Bool) (s : State) : CoreKept s (fetchError ring addr write s).1 := by
  simp [CoreKept, fetchError]

@[simp] theorem storeStatus_sound (g : CmdRing) (p : StatusPkt) (s : State) : SoundKept s (storeStatus g p s) := by
  simp only [storeStatus]
  split <;> (refine ⟨?_, fun hw => ?_⟩ <;> simp [*])

@[simp] theorem finish_sound (r : CmdRef) (st : Status) (v rec : Nat) (s : State) : SoundKept s (finish r st v rec s) :=
  soundKept_of_completes (finish_completes ..)

@[simp] theorem finishFatal_sound (r : CmdRef) (s : State) : SoundKept s (finishFatal r s) := by
  refine ⟨?_, fun hw => ?_⟩ <;> simp [finishFatal, *]

@[simp] theorem finishOk_sound (r : CmdRef) (result : Nat) (s : State) : SoundKept s (finishOk r result s) := by
  refine ⟨?_, fun hw => ?_⟩ <;> simp [finishOk, *]

@[simp] theorem finishErrR_sound (r : CmdRef) (st : Status) (kind obj detail result : Nat) (s : State) :
    SoundKept s (finishErrR r st kind obj detail result s) := by
  refine ⟨?_, fun hw => ?_⟩ <;> simp [finishErrR, *]

@[simp] theorem finishErr_sound (r : CmdRef) (st : Status) (kind obj detail : Nat) (s : State) :
    SoundKept s (finishErr r st kind obj detail s) :=
  soundKept_of_completes (finishErr_completes ..)

@[simp] theorem finishRecR_sound (r : CmdRef) (st : Status) (i : Option Nat) (kind obj detail result : Nat) (s : State) :
    SoundKept s (finishRecR r st i kind obj detail result s) := by
  unfold finishRecR
  split <;> (refine ⟨?_, fun hw => ?_⟩ <;> simp [*])

@[simp] theorem finishRec_sound (r : CmdRef) (st : Status) (i : Option Nat) (s : State) : SoundKept s (finishRec r st i s) := by
  refine ⟨?_, fun hw => ?_⟩ <;> simp [finishRec, *]

@[simp] theorem announce_core (t s : State) : CoreKept s (announce t s) :=
  coreKept_of_fields (announce_partMap ..) (announce_mem ..)

@[simp] theorem nextEngine_core (addr n : Nat) (s : State) : CoreKept s (nextEngine addr n s) := by
  simp [CoreKept, nextEngine]

@[simp] theorem hostIn_core (addr n : Nat) (s : State) : CoreKept s (hostIn addr n s) := by
  simp [CoreKept, hostIn]

@[simp] theorem hostOut_core (addr : Nat) (bs : List Byte) (s : State) : CoreKept s (hostOut addr bs s) := by
  simp [CoreKept, hostOut]

@[simp] theorem bulkIn_sound {f : Option (List Byte) → State → State} (hf : ∀ b s, SoundKept s (f b s)) (r : CmdRef)
    (loc addr n : Nat) (s : State) : SoundKept s (bulkIn r loc addr n f s) := by
  unfold bulkIn
  split
  · exact soundKept_trans (soundKept_of_core (hostIn_core ..)) (hf ..)
  · split
    · next hr => exact soundKept_trans (soundKept_of_snd hr (spaceRead_sound ..)) (hf ..)
    · next hr => exact soundKept_trans (soundKept_of_snd hr (spaceRead_sound ..)) (finishRec_sound ..)

@[simp] theorem unread_sound (ring addr : Nat) (s : State) : SoundKept s (unread ring addr s) := by
  refine ⟨?_, fun hw => ?_⟩ <;> simp [unread, *]

@[simp] theorem slotFails_sound (ring : Nat) (s : State) : SoundKept s (slotFails ring s) := by
  simp only [slotFails]
  split <;> (refine ⟨?_, fun hw => ?_⟩ <;> simp [*])

@[simp] theorem packetRead_sound (ring : Nat) (s : State) : SoundKept s (packetRead ring s) :=
  soundKept_of_takes (packetRead_takes ring s)

theorem pred_ite {P : State → Prop} {c : Prop} [Decidable c] {s t : State} (hs : P s) (ht : P t) : P (if c then s else t) := by
  split
  · exact hs
  · exact ht

/-- A command leaves the state as it was, or ends before its opcode's effect with the map and memory as they were, or has the effect. -/
theorem command_cases {f : CmdRef → State → State} {h : CmdHdr} {c : CmdSpec} {s : State} {P : State → Prop}
    (hkept : ∀ t, SoundKept s t → P t) (hrun : ∀ r u, SoundKept s u → P (f r u)) : ∃ t, command h c f s = announce s t ∧ P t := by
  refine ⟨_, rfl, ?_⟩
  split
  · split
    · exact hkept _ (slotFails_sound ..)
    · extract_lets g r u
      have hu : SoundKept s u := taken_sound h s
      clear_value u r g
      apply pred_ite (hkept _ (soundKept_trans hu (finish_sound ..)))
      apply pred_ite (hkept _ (soundKept_trans hu (finish_sound ..)))
      apply pred_ite (hkept _ (soundKept_trans hu (finishErr_sound ..)))
      apply pred_ite (hkept _ (soundKept_trans hu (finish_sound ..)))
      exact pred_ite (hkept _ (soundKept_trans hu (finishFatal_sound ..))) (hrun r u hu)
  · exact hkept s (soundKept_refl s)

theorem announced_sound {s t : State} (h : SoundKept s t) : SoundKept s (announce s t) :=
  soundKept_trans h (soundKept_of_core (announce_core ..))

@[simp] theorem command_sound {f : CmdRef → State → State} (hf : ∀ r s, SoundKept s (f r s)) (h : CmdHdr) (c : CmdSpec)
    (s : State) : SoundKept s (command h c f s) := by
  obtain ⟨t, hc, ht⟩ := command_cases (f := f) (h := h) (c := c) (s := s) (fun _ hk => hk) fun r u hu => soundKept_trans hu (hf r u)
  exact hc ▸ announced_sound ht

@[simp] theorem launch_core (r : CmdRef) (claims : List Claim) (k : FlightKind) (s : State) :
    CoreKept s (launch r claims k s) := by
  simp [CoreKept, launch]

@[simp] theorem land_sound {f : CmdRef → State → State} (hf : ∀ r s, SoundKept s (f r s)) (p : FlightKind → Bool) (s : State) :
    SoundKept s (land p f s) :=
  foldl_sound (fun _ _ => hf ..) _ s

@[simp] theorem moduleFatalOf_core (part : Option Nat) (code : Nat) (unit : Option Nat) (ctx : List (Nat × Nat)) (s : State) :
    CoreKept s (moduleFatalOf part code unit ctx s) := by
  simp only [moduleFatalOf]
  split <;> simp [CoreKept]

@[simp] theorem moduleFatal_core (code : Nat) (unit : Option Nat) (ctx : List (Nat × Nat)) (s : State) :
    CoreKept s (moduleFatal code unit ctx s) := by
  simp [CoreKept, moduleFatal]

@[simp] theorem settlePersist_core (b : Nat) (s : State) : CoreKept s (settlePersist b s) := by
  simp [CoreKept, settlePersist]

@[simp] theorem applyCommit_core (c : Commit) (s : State) : CoreKept s (applyCommit c s) := by
  unfold applyCommit
  split <;> simp [CoreKept]

@[simp] theorem flashCommit_core (c : Commit) (s : State) : CoreKept s (flashCommit c s).2 := by
  simp only [flashCommit]
  split
  · simp [CoreKept]
  · split <;> simp [CoreKept]

@[simp] theorem commitWaits_core (c : Commit) (s : State) : CoreKept s (commitWaits c s) := by
  unfold commitWaits
  split <;> simp [CoreKept]

@[simp] theorem asyncCommit_core (c : Commit) (s : State) : CoreKept s (asyncCommit c s) := by
  unfold asyncCommit
  split <;> simp [CoreKept]

@[simp] theorem commitThen_sound (r : CmdRef) (claims : List Claim) (c : Commit) (result : Nat) (s : State) :
    SoundKept s (commitThen r claims c result s) := by
  have hflash := flashCommit_core c s
  unfold commitThen
  split
  · exact soundKept_of_core (by simp [CoreKept])
  · split
    · next h =>
      refine soundKept_trans (soundKept_of_core (coreKept_of_snd h hflash)) ?_
      split
      · exact finishOk_sound ..
      · exact finishErr_sound ..
    · next h => exact soundKept_trans (soundKept_of_core (coreKept_of_snd h hflash)) (finish_sound ..)

@[simp] theorem spdmError_core (tr : Transport) (a : SpdmAns) (s : State) : CoreKept s (spdmError tr a s) := by
  simp [CoreKept, spdmError]

@[simp] theorem keyCommit_core (tr : Transport) (c : Commit) (s : State) : CoreKept s (keyCommit tr c s) := by
  unfold keyCommit
  split <;> simp [CoreKept]

@[simp] theorem settleWaiting_sound (s : State) : SoundKept s (settleWaiting s) := by
  unfold settleWaiting
  refine soundKept_trans (soundKept_of_core rfl) (foldl_sound (fun t c => ?_) _ _)
  split
  · exact soundKept_of_core (keyCommit_core ..)
  · split
    next i v hcommit =>
    extract_lets w
    have hv : SoundKept t v := soundKept_of_snd hcommit (soundKept_of_core (flashCommit_core ..))
    have hw : SoundKept v w := by
      unfold w
      split
      · exact soundKept_of_core (settlePersist_core ..)
      · exact soundKept_refl v
    refine soundKept_trans hv (soundKept_trans hw (foldl_sound (fun z x => ?_) _ _))
    split
    · split
      · exact finishOk_sound ..
      · exact finishErr_sound ..
    · exact finish_sound ..
    · exact soundKept_of_core rfl
    · exact soundKept_refl z

@[simp] theorem clearRange_sound (us : List Nat) (start len : Nat) (s : State) : SoundKept s (clearRange us start len s) :=
  ⟨rfl, memory_wf_filter s.mem _⟩

@[simp] theorem zeroDevice_sound (u : Nat) (s : State) : SoundKept s (zeroDevice u s) := by
  refine ⟨?_, fun hw => ?_⟩ <;> simp [zeroDevice, *]

@[simp] theorem endCopy_sound (key : Nat) (st : Status) (i : Option Nat) (s : State) : SoundKept s (endCopy key st i s) := by
  unfold endCopy
  split
  · exact soundKept_refl s
  · refine soundKept_trans (soundKept_of_core (by simp [CoreKept])) (land_sound (fun r t => ?_) _ _)
    (repeat' split) <;> (refine ⟨?_, fun hw => ?_⟩ <;> simp [*])

theorem drained_sound (u : Nat) (x : Flight) (s : State) : SoundKept s (match x.kind with
    | .dimmOff _ => finishOk (refOf x) 3 (modDev u (fun d => { d with st := 3, cap := 0, rate := 0 }) s)
    | .stack n true =>
      let s := zeroDevice u (modDev u (fun d => { d with st := 1, cap := 36, rated := 36 }) s)
      let marked := s.flash.failedStacks.contains n || (s.pwr.deferred ++ s.pwr.waiting).contains (.stackFailed n true)
      finishOk (refOf x) 1 (if marked then asyncCommit (.stackFailed n false) s else s)
    | .stack n false =>
      finishErrR (refOf x) .fault 6 u 0 5 (asyncCommit (.stackFailed n true) (modDev u (fun d => { d with st := 5, cap := 0 }) s))
    | _ => s) := by
  have hmod : ∀ f, SoundKept s (modDev u f s) := fun f => soundKept_of_core rfl
  split
  · exact soundKept_trans (hmod _) (finishOk_sound ..)
  · extract_lets t marked
    have ht : SoundKept s t := soundKept_trans (hmod _) (zeroDevice_sound ..)
    exact soundKept_trans (soundKept_ite (soundKept_trans ht (soundKept_of_core (asyncCommit_core ..))) ht) (finishOk_sound ..)
  · exact soundKept_trans (soundKept_trans (hmod _) (soundKept_of_core (asyncCommit_core ..))) (finishErrR_sound ..)
  · exact soundKept_refl s

@[simp] theorem drainCheckUnit_sound (u : Nat) (s : State) : SoundKept s (drainCheckUnit u s) := by
  unfold drainCheckUnit
  extract_lets left mine
  clear_value left mine
  split
  · exact soundKept_refl s
  · split
    · split
      · exact soundKept_refl s
      · exact foldl_sound (fun t x => drained_sound u x t) _ s
    · refine land_sound (fun r t => ?_) _ s
      exact soundKept_ite (finishErrR_sound ..) (finishErrR_sound ..)

@[simp] theorem drainChecks_sound (us : List Nat) (s : State) : SoundKept s (drainChecks us s) :=
  foldl_sound (fun _ _ => drainCheckUnit_sound ..) us s

@[simp] theorem stopCopy_sound (key : Nat) (st : Status) (i : Option Nat) (s : State) : SoundKept s (stopCopy key st i s) := by
  refine ⟨?_, fun hw => ?_⟩ <;> simp [stopCopy, *]

@[simp] theorem endCopies_sound (keys : List Nat) (s : State) : SoundKept s (endCopies keys s) :=
  foldl_sound (fun _ _ => stopCopy_sound ..) keys s

@[simp] theorem modLink_core (l : Nat) (f : Link → Link) (s : State) : CoreKept s (modLink l f s) := by
  simp [CoreKept, modLink]

@[simp] theorem modChan_core (c : Nat) (f : Chan → Chan) (s : State) : CoreKept s (modChan c f s) := by
  simp [CoreKept, modChan]

@[simp] theorem queueFrame_core (l : Nat) (f : Frame) (s : State) : CoreKept s (queueFrame l f s) := by
  simp only [queueFrame]
  split <;> simp [CoreKept]

@[simp] theorem queueCtrl_core (l : Nat) (m : Ctrl) (s : State) : CoreKept s (queueCtrl l m s) := by
  simp [CoreKept, queueCtrl]

@[simp] theorem freeBody_core (l cls : Nat) (s : State) : CoreKept s (freeBody l cls s) := by
  simp [CoreKept, freeBody]

@[simp] theorem freeBodies_core (l cls n : Nat) (s : State) : CoreKept s (freeBodies l cls n s) := by
  induction n generalizing s with
  | zero => simp [CoreKept, freeBodies]
  | succ n ih => exact coreKept_trans (freeBody_core ..) (ih _)

@[simp] theorem violRecord_core (l entry : Nat) (s : State) : CoreKept s (violRecord l entry s) := by
  simp [CoreKept, violRecord]

@[simp] theorem violation_core (l code typ seq chan gen : Nat) (s : State) :
    CoreKept s (violation l code typ seq chan gen s) := by
  have hv : ∀ e t, CoreKept t (violRecord l e t) := fun _ _ => violRecord_core ..
  unfold violation
  extract_lets x s1 g
  have h1 : CoreKept s s1 := modLink_core ..
  refine coreKept_ite (coreKept_trans h1 (hv ..)) (coreKept_ite ?_ h1)
  exact coreKept_trans h1 (coreKept_trans (modLink_core ..) (coreKept_trans (queueFrame_core ..) (hv ..)))

@[simp] theorem freeHeld_core (ch : Chan) (s : State) : CoreKept s (freeHeld ch s) := by
  unfold freeHeld
  split <;> simp [CoreKept]

@[simp] theorem chanFault_core (c cause link rank det unit : Nat) (step : Bool) (s : State) :
    CoreKept s (chanFault c cause link rank det unit step s) := by
  have hl : CoreKept s (logDeferred 0x0701 (some c) none (chanCtx (getChan s c) cause link rank unit 0) s) := coreKept_of_rim (logDeferred_rim ..)
  unfold chanFault
  extract_lets ch s1 s2 s3 s4
  have h2 : CoreKept s1 s2 := by
    dsimp only [s2]
    split
    · exact coreKept_trans (modReg_core ..) (failWaiters_core ..)
    · exact rfl
  have h3 : CoreKept s2 s3 := by
    dsimp only [s3]
    split
    · exact queueFrame_core ..
    · exact rfl
  have h4 : CoreKept s s4 := coreKept_ite (coreKept_trans hl (coreKept_trans h2 (coreKept_trans h3 (foldl_core (fun _ _ => queueFrame_core ..) ..)))) hl
  exact coreKept_trans h4 (coreKept_trans (freeHeld_core ..) (modChan_core ..))

@[simp] theorem chanStale_core (c : Nat) (s : State) : CoreKept s (chanStale c s) := by
  simp [CoreKept, chanStale]

@[simp] theorem drainCheck_core (c : Nat) (s : State) : CoreKept s (drainCheck c s) := by
  simp only [drainCheck]
  (repeat' split) <;> simp [CoreKept]

@[simp] theorem edgeDrained_core (c l : Nat) (s : State) : CoreKept s (edgeDrained c l s) := by
  simp [CoreKept, edgeDrained]

@[simp] theorem countSteps_core (key : Nat) (s : State) : CoreKept s (countSteps key s) := by
  simp [CoreKept, countSteps]

@[simp] theorem noteDone_core (c : Nat) (s : State) : CoreKept s (noteDone c s) := by
  simp only [noteDone]
  split <;> simp [CoreKept]

@[simp] theorem leaveRegion_core (c : Nat) (s : State) : CoreKept s (leaveRegion c s) := by
  simp only [leaveRegion]
  split <;> simp [CoreKept]

@[simp] theorem closeChan_core (c : Nat) (s : State) : CoreKept s (closeChan c s) := by
  simp only [closeChan]
  (repeat' split) <;> simp [CoreKept]

@[simp] theorem chansLost_core (l : Nat) (s : State) : CoreKept s (chansLost l s) := by
  refine foldl_core (fun t x => ?_) _ s
  simp only []
  (repeat' split) <;> simp [CoreKept]

@[simp] theorem chansLinkLost_core (l : Nat) (s : State) : CoreKept s (chansLinkLost l s) := by
  simp [CoreKept, chansLinkLost]

@[simp] theorem consumeUnits_core (c u : Nat) (s : State) : CoreKept s (consumeUnits c u s) := by
  simp [CoreKept, consumeUnits]

@[simp] theorem reportStep_core (c : Nat) (low : Option (Nat × Nat)) (es : List Nat) (rest : List (Option
    (Nat × Nat) × List Nat)) (s : State) : CoreKept s (reportStep c low es rest s) := by
  simp only [reportStep]
  split <;> simp [CoreKept]

@[simp] theorem reportsDue_core (c n : Nat) (s : State) : CoreKept s (reportsDue c n s) := by
  induction n generalizing s with
  | zero => simp [CoreKept, reportsDue]
  | succ n ih =>
    rw [reportsDue]
    split
    · simp [CoreKept]
    · split
      · exact coreKept_trans (reportStep_core ..) (ih _)
      · simp [CoreKept]

@[simp] theorem reportCheck_core (c : Nat) (s : State) : CoreKept s (reportCheck c s) := by
  simp [CoreKept, reportCheck]

@[simp] theorem stepFolded_core (c : Nat) (s : State) : CoreKept s (stepFolded c s) := by
  simp [CoreKept, stepFolded]

@[simp] theorem noteSwitch_core (c rank : Nat) (s : State) : CoreKept s (noteSwitch c rank s) := by
  simp [CoreKept, noteSwitch]

@[simp] theorem foldOne_core (c : Nat) (s : State) : CoreKept s (foldOne c s) := by
  unfold foldOne
  extract_lets ch ts u uo
  split
  · exact rfl
  split
  · exact rfl
  extract_lets s1 sum loc nans s2 s3 p1 p2 s4
  have h1 : CoreKept s s1 := foldl_core (fun t p => coreKept_ite (noteSwitch_core ..) rfl) ..
  have h3 : CoreKept s s3 := coreKept_trans h1 (coreKept_trans (consumeUnits_core ..) (modChan_core ..))
  clear_value s3
  have h : CoreKept s s4 := coreKept_trans h3 (by
    dsimp only [s4]
    split
    · exact queueFrame_core ..
    · exact rfl)
  exact coreKept_trans h (coreKept_ite (coreKept_trans (modChan_core ..) (stepFolded_core ..)) (modChan_core ..))

@[simp] theorem deadlineOp_core (c : Nat) (s : State) : CoreKept s (deadlineOp c s) := by
  simp only [deadlineOp]
  split
  · simp [CoreKept]
  · split
    · simp [CoreKept]
    · split
      · simp [CoreKept]
      · refine foldl_core (fun t x => ?_) _ s
        (repeat' split) <;> simp [CoreKept]

@[simp] theorem stepStarts_core (c u : Nat) (s : State) : CoreKept s (stepStarts c u s) := by
  simp [CoreKept, stepStarts]

@[simp] theorem storeCapture_sound (p : Nat) (s : State) : SoundKept s (storeCapture p s) := by
  simp only [storeCapture]
  split <;> (refine ⟨?_, fun hw => ?_⟩ <;> simp [*])

@[simp] theorem captureFrame_sound (l typ c off : Nat) (body : List Byte) (s : State) :
    SoundKept s (captureFrame l typ c off body s) := by
  simp only [captureFrame]
  split
  · split
    · refine soundKept_trans (soundKept_of_core ?_) (storeCapture_sound ..)
      split <;> simp [CoreKept]
    · exact soundKept_refl s
  · exact soundKept_refl s

@[simp] theorem redBody_sound (l seq c gen off : Nat) (body : List Byte) (s : State) :
    SoundKept s (redBody l seq c gen off body s) := by
  unfold redBody
  extract_lets ch drop e u gone s1 s2
  have hd : ∀ t, SoundKept t (drop t) := fun t => soundKept_of_core (freeBody_core ..)
  have hv : ∀ code typ g, SoundKept s (violation l code typ seq c g (drop s)) := fun _ _ _ => soundKept_trans (hd s) (soundKept_of_core (violation_core ..))
  have hs : SoundKept s (chanStale c (drop s)) := soundKept_trans (hd s) (soundKept_of_core (chanStale_core ..))
  have h2 : SoundKept s s2 := soundKept_trans (soundKept_ite (soundKept_refl s) (soundKept_of_core (stepStarts_core ..))) (soundKept_of_core (modChan_core ..))
  clear_value drop s2
  split
  · exact hv ..
  · exact hs
  · exact hs
  · refine soundKept_ite (soundKept_trans hs (soundKept_of_core (violRecord_core ..))) (soundKept_ite (hv ..) (soundKept_ite (hv ..) ?_))
    exact soundKept_trans (soundKept_trans h2 (soundKept_ite (hd s2) (soundKept_refl s2))) (captureFrame_sound ..)

@[simp] theorem paramBody_sound (l seq c gen off : Nat) (body : List Byte) (s : State) :
    SoundKept s (paramBody l seq c gen off body s) := by
  unfold paramBody
  extract_lets ch drop
  split
  case h_4 =>
    split
    · exact soundKept_of_core (by simp [CoreKept, drop])
    · split
      · exact soundKept_of_core (by simp [CoreKept, drop])
      · split
        · exact soundKept_of_core (by simp [CoreKept, drop])
        · exact soundKept_trans (soundKept_of_core (by simp [CoreKept])) (captureFrame_sound ..)
  all_goals exact soundKept_of_core (by simp [CoreKept, drop])

theorem chargeStep_core (who : Region) (other : Region) (a b k n : Nat) (s : State) :
    CoreKept s (chargeRegion who a b (chargeRegion who a b (chargeRegion other k n (chargeRegion other k n s)))) :=
  coreKept_trans (coreKept_trans (chargeRegion_core ..) (chargeRegion_core ..))
    (coreKept_trans (chargeRegion_core ..) (chargeRegion_core ..))

@[simp] theorem updateOne_sound (c : Nat) (s : State) : SoundKept s (updateOne c s) := by
  unfold updateOne
  extract_lets ch o opt n who
  split
  · exact soundKept_refl s
  · extract_lets first pw1 pw2 c1 c2 uo
    split
    · split
      next wb ok1 s1 hread1 =>
      split
      next sb ok2 s2 hread2 =>
      have h2 : SoundKept s s2 := soundKept_trans (soundKept_of_snd_snd hread1 (regionBytes_sound ..))
        (soundKept_of_snd_snd hread2 (regionBytes_sound ..))
      refine soundKept_trans h2 ?_
      split
      · exact soundKept_of_core (chanFault_core ..)
      · extract_lets r s3 s4 s5 ps ps'
        have h4 : SoundKept s2 s4 := soundKept_trans (regionWrite_sound ..) (regionWrite_sound ..)
        have h5 : CoreKept s4 s5 := by
          unfold s5
          split
          · exact chargeStep_core ..
          · exact rfl
        exact soundKept_trans (soundKept_trans h4 (soundKept_of_core h5)) (soundKept_of_core rfl)
    · exact soundKept_of_core (chanFault_core ..)

@[simp] theorem updateMany_sound (c n : Nat) (s : State) : SoundKept s (updateMany c n s) := by
  induction n generalizing s with
  | zero => exact soundKept_refl s
  | succ n ih =>
    rw [updateMany]
    split
    · exact soundKept_trans (updateOne_sound ..) (ih _)
    · exact soundKept_refl s

@[simp] theorem stepDone_core (c : Nat) (s : State) : CoreKept s (stepDone c s) := by
  simp [CoreKept, stepDone]

@[simp] theorem transferOne_sound (c : Nat) (s : State) : SoundKept s (transferOne c s) := by
  unfold transferOne
  extract_lets ch n us who s1 s2 s3
  split
  · exact soundKept_refl s
  · have h1 : SoundKept s s1 := by
      refine foldl_sound (fun t x => ?_) us s
      extract_lets o t1 t2
      have ht1 : CoreKept t t1 := foldl_core (fun t l => queueFrame_core ..) _ t
      have ht2 : CoreKept t1 t2 := by simp only [t2]; split <;> simp [CoreKept]
      refine soundKept_trans (soundKept_of_core (coreKept_trans ht1 ht2)) ?_
      split
      · exact regionWrite_sound ..
      · exact soundKept_refl _
    have h2 : CoreKept s1 s2 := by simp only [s2]; split <;> simp [CoreKept]
    refine soundKept_trans h1 (soundKept_of_core (coreKept_trans h2 ?_))
    split <;> simp [CoreKept, s3]

@[simp] theorem transferTimeout_core (c : Nat) (s : State) : CoreKept s (transferTimeout c s) := by
  simp only [transferTimeout]
  (repeat' split) <;> simp [CoreKept]

@[simp] theorem failMsg_core (l seq c gen rank : Nat) (s : State) : CoreKept s (failMsg l seq c gen rank s) := by
  simp only [failMsg]
  (repeat' split) <;> simp [CoreKept]

@[simp] theorem nanMsg_core (l seq c : Nat) (rep : Bool × Nat × Nat) (s : State) : CoreKept s (nanMsg l seq c rep s) := by
  simp only [nanMsg]
  split <;> simp [CoreKept]

@[simp] theorem drainMsg_core (l seq c gen : Nat) (s : State) : CoreKept s (drainMsg l seq c gen s) := by
  simp only [drainMsg]
  (repeat' split) <;> simp [CoreKept]

@[simp] theorem drainDoneMsg_core (l seq c gen : Nat) (s : State) : CoreKept s (drainDoneMsg l seq c gen s) := by
  simp only [drainDoneMsg]
  (repeat' split) <;> simp [CoreKept]

@[simp] theorem castAtMsg_core (l seq c at_ : Nat) (s : State) : CoreKept s (castAtMsg l seq c at_ s) := by
  have hc : ∀ x, CoreKept s { s with castSeen := x } := fun _ => rfl
  have hm : ∀ p f t, CoreKept t (modPart p f t) := fun _ _ _ => rfl
  have hr : CoreKept s s := rfl
  unfold castAtMsg
  extract_lets ch ahead late full s1 s2 p st miss s3
  split
  · exact violation_core ..
  · exact chanStale_core ..
  · exact chanStale_core ..
  · have h2 : CoreKept s s2 := coreKept_trans (t := s1) (hc _) (foldl_core (fun _ _ => queueFrame_core ..) ..)
    have h3 : CoreKept s s3 := coreKept_trans h2 (coreKept_ite (coreKept_of_rim (logDeferred_rim ..)) rfl)
    clear_value s3
    exact coreKept_ite hr (coreKept_ite h3 (coreKept_ite (coreKept_trans h3 (hm ..)) (coreKept_trans h3 (hm ..))))

@[simp] theorem openChan_sound (c : Nat) (s : State) : SoundKept s (openChan c s) := by
  simp only [openChan]
  split <;> (refine ⟨?_, fun hw => ?_⟩ <;> simp [*])

@[simp] theorem modLaser_core (n : Nat) (f : Laser → Laser) (s : State) : CoreKept s (modLaser n f s) := by
  simp [CoreKept, modLaser]

@[simp] theorem noteCause_core (bit : Nat) (s : State) : CoreKept s (noteCause bit s) := by
  simp [CoreKept, noteCause]

@[simp] theorem sendCtrl_core (l : Nat) (s : State) : CoreKept s (sendCtrl l s) := by
  simp [CoreKept, sendCtrl]

@[simp] theorem linkReset_core (l : Nat) (s : State) : CoreKept s (linkReset l s) := by
  simp [CoreKept, linkReset]

@[simp] theorem startTraining_core (l mode : Nat) (s : State) : CoreKept s (startTraining l mode s) := by
  unfold startTraining
  split <;> simp [CoreKept]

@[simp] theorem gtcAdd_core (d : Int) (s : State) : CoreKept s (gtcAdd d s) := by
  simp [CoreKept, gtcAdd]

theorem coreKept_fab (f : Fabric) (s : State) : CoreKept s { s with fab := f } := rfl

@[simp] theorem setParent_core (v : Option Nat) (s : State) : CoreKept s (setParent v s) :=
  coreKept_trans (foldl_core (fun u l => modLink_core l _ u) (List.range 32) s) (coreKept_fab ..)

@[simp] theorem setTime_core (st : Nat) (s : State) : CoreKept s (setTime st s) := by
  simp [CoreKept, setTime]

@[simp] theorem chooseRoot_core (s : State) : CoreKept s (chooseRoot s) := by
  unfold chooseRoot
  extract_lets own best parent st fab far lone u
  have hset : ∀ n t, CoreKept s t → CoreKept s (setTime n t) := fun n t h => coreKept_trans h (setTime_core n t)
  have hfab : ∀ n t f, CoreKept s t → CoreKept s (setTime n { t with fab := f }) := fun n t f h =>
    hset n _ (coreKept_trans h (coreKept_fab f t))
  have hlone : ∀ t, CoreKept s t → CoreKept s (lone t) := fun t h => by
    dsimp only [lone]
    split
    · exact hfab _ _ _ h
    · exact hfab _ _ _ h
  have hu : CoreKept s u := setParent_core none s
  clear_value parent
  rcases parent with _ | ⟨p, i, h, l⟩
  · exact coreKept_ite (coreKept_ite (hlone u hu) (hfab _ _ _ hu)) (coreKept_ite hu (hlone u hu))
  · have ht := coreKept_trans (coreKept_fab { s.fab with hops := h + 1, rootId := i, rootPrioOf := p } s)
      (setParent_core (some l) { s with fab := { s.fab with hops := h + 1, rootId := i, rootPrioOf := p } })
    exact coreKept_ite (hset _ _ ht) (coreKept_ite (hset _ _ ht) ht)

@[simp] theorem laserOnCheck_sound (n : Nat) (s : State) : SoundKept s (laserOnCheck n s) := by
  unfold laserOnCheck
  split
  · exact land_sound (fun r t => finishOk_sound ..) _ s
  · exact soundKept_refl s

@[simp] theorem endLinkCmds_sound (l state : Nat) (record : Option Nat) (s : State) :
    SoundKept s (endLinkCmds l state record s) :=
  soundKept_trans (land_sound (fun _ _ => finishRecR_sound ..) _ s) (land_sound (fun _ _ => finishRecR_sound ..) _ _)

@[simp] theorem linkFailed_sound (l timedOut : Nat) (s : State) : SoundKept s (linkFailed l timedOut s) := by
  simp only [linkFailed]
  split <;> (refine ⟨?_, fun hw => ?_⟩ <;> simp [*])

@[simp] theorem enterRetrain_sound (l : Nat) (s : State) : SoundKept s (enterRetrain l s) := by
  simp only [enterRetrain]
  split <;> (refine ⟨?_, fun hw => ?_⟩ <;> simp [*])

@[simp] theorem countReplay_core (l : Nat) (s : State) : CoreKept s (countReplay l s) := by
  simp [CoreKept, countReplay]

@[simp] theorem replayFrom_sound (l : Nat) (fs : List (Nat × Frame)) (s : State) : SoundKept s (replayFrom l fs s) := by
  simp only [replayFrom]
  split
  · exact soundKept_trans (soundKept_of_core rfl) (enterRetrain_sound ..)
  · exact soundKept_of_core (by simp [CoreKept])

@[simp] theorem sendFrame_core (l : Nat) (f : Frame) (rest : List Frame) (s : State) : CoreKept s (sendFrame l f rest s) := by
  simp [CoreKept, sendFrame]

@[simp] theorem transmit_core (l : Nat) (s : State) : CoreKept s (transmit l s) := by
  simp only [transmit]
  (repeat' split) <;> simp [CoreKept]

@[simp] theorem drainDoneCheck_sound (l : Nat) (s : State) : SoundKept s (drainDoneCheck l s) := by
  simp only [drainDoneCheck]
  split
  · exact soundKept_trans (soundKept_of_core (by simp [CoreKept])) (land_sound (fun r t => finishOk_sound ..) _ _)
  · exact soundKept_refl s

@[simp] theorem ackOp_sound (l seq : Nat) (s : State) : SoundKept s (ackOp l seq s) := by
  simp only [ackOp]
  split
  · exact soundKept_refl s
  · split
    · exact soundKept_of_core (by simp [CoreKept])
    · exact soundKept_trans (soundKept_of_core rfl) (drainDoneCheck_sound ..)

@[simp] theorem nakOp_sound (l seq : Nat) (s : State) : SoundKept s (nakOp l seq s) := by
  simp only [nakOp]
  (repeat' split) <;> (refine ⟨?_, fun hw => ?_⟩ <;> simp [*])

@[simp] theorem retryOp_sound (l : Nat) (s : State) : SoundKept s (retryOp l s) := by
  simp only [retryOp]
  split <;> (refine ⟨?_, fun hw => ?_⟩ <;> simp [*])

@[simp] theorem countFecUe_core (l n : Nat) (s : State) : CoreKept s (countFecUe l n s) := by
  simp [CoreKept, countFecUe]

@[simp] theorem badFrame_core (l : Nat) (k : FrameFail) (s : State) : CoreKept s (badFrame l k s) := by
  simp only [badFrame]
  (repeat' split) <;> simp [CoreKept]

theorem acceptFrame_sound {f : State → State} (hf : ∀ t, SoundKept t (f t)) (l seq cls typ chan gen : Nat) (s : State) :
    SoundKept s (acceptFrame l seq cls typ chan gen f s) := by
  unfold acceptFrame
  extract_lets x ovf u pat live v
  have hv : SoundKept s v := soundKept_trans (t := u) (soundKept_of_core rfl) (soundKept_of_core (coreKept_trans (t := { u with
      patina := _ }) rfl (queueCtrl_core ..)))
  split
  · exact soundKept_refl s
  · split
    · split
      · exact soundKept_trans hv (soundKept_of_core (violation_core ..))
      · exact soundKept_trans hv (hf v)
    · split
      · exact soundKept_of_core (coreKept_trans (queueCtrl_core ..) (violation_core ..))
      · exact soundKept_of_core (badFrame_core ..)

theorem acceptMsg_sound {f : State → State} (hf : ∀ t, SoundKept t (f t)) (l seq typ chan gen : Nat) (s : State) :
    SoundKept s (acceptMsg l seq typ chan gen f s) := by
  unfold acceptMsg
  split
  · refine soundKept_trans (t := modLink l (fun x => { x with msgSeq := none }) s) (soundKept_of_core rfl)
      (acceptFrame_sound (fun t => ?_) ..)
    exact soundKept_trans (t := modLink l (fun x => { x with msgSeq := some seq }) t) (soundKept_of_core rfl)
      (soundKept_trans (hf _) (soundKept_of_core (freeBody_core ..)))
  · split
    · exact hf s
    · exact soundKept_refl s

@[simp] theorem sendTrain_core (l : Nat) (s : State) : CoreKept s (sendTrain l s) := by
  simp [CoreKept, sendTrain]

@[simp] theorem toActive_core (l peerId peerLink : Nat) (fresh : Bool) (s : State) :
    CoreKept s (toActive l peerId peerLink fresh s) := by
  simp only [toActive]
  (repeat' split) <;> simp [CoreKept]

@[simp] theorem trained_sound (l peerId peerLink : Nat) (s : State) : SoundKept s (trained l peerId peerLink s) := by
  unfold trained
  extract_lets x fresh s1 s2 s3
  have h2 : CoreKept s s2 := by simp only [s2]; split <;> simp [CoreKept, s1]
  have h3 : SoundKept s2 s3 := land_sound (fun r t => by split <;> (refine ⟨?_, fun hw => ?_⟩ <;> simp [*])) _ s2
  exact soundKept_trans (soundKept_of_core h2) (soundKept_trans h3 (laserOnCheck_sound ..))

@[simp] theorem trainNext_sound (l peerId peerLink version : Nat) (s : State) :
    SoundKept s (trainNext l peerId peerLink version s) := by
  simp only [trainNext]
  (repeat' split) <;> (refine ⟨?_, fun hw => ?_⟩ <;> simp [*])

@[simp] theorem trainTimeout_sound (l : Nat) (s : State) : SoundKept s (trainTimeout l s) := by
  unfold trainTimeout
  split <;> (refine ⟨?_, fun hw => ?_⟩ <;> simp [*])

@[simp] theorem trainFrame_sound (l peerId peerLink version : Nat) (credits : List Nat) (seq : Nat) (s : State) :
    SoundKept s (trainFrame l peerId peerLink version credits seq s) := by
  simp only [trainFrame]
  (repeat' split) <;> (refine ⟨?_, fun hw => ?_⟩ <;> simp [*])

@[simp] theorem quiesceOp_core (l : Nat) (s : State) : CoreKept s (quiesceOp l s) := by
  unfold quiesceOp
  split <;> simp [CoreKept]

@[simp] theorem drainEnds_sound (l : Nat) (st : Status) (s : State) : SoundKept s (drainEnds l st s) := by
  refine soundKept_trans (soundKept_of_core (by simp [CoreKept])) (land_sound (fun r t => ?_) _ _)
  split <;> (refine ⟨?_, fun hw => ?_⟩ <;> simp [*])

@[simp] theorem timeOp_core (l t2 t3 frac : Nat) (s : State) : CoreKept s (timeOp l t2 t3 frac s) := by
  unfold timeOp
  extract_lets t4 ofs os mean f1 s1 step s2 s3 f2 f3
  refine coreKept_ite rfl ?_
  have h1 : CoreKept s s1 := rfl
  have h3 : CoreKept s1 s3 := coreKept_trans (gtcAdd_core ..) (coreKept_of_rim (logDeferred_rim ..))
  split
  · exact coreKept_ite (coreKept_trans h1 (coreKept_trans h3 (coreKept_trans (t := { s3 with fab := { s3.fab with steps := satAdd 0xFFF s3.fab.steps 1, offsets := [] } }) rfl (setTime_core ..)))) h1
  · exact coreKept_ite (coreKept_trans (t := { s1 with fab := { s1.fab with offsets := [] } }) h1 (setTime_core ..)) h1
  · exact h1

@[simp] theorem noLaserOn_sound (n : Nat) (record : Option Nat) (s : State) : SoundKept s (noLaserOn n record s) :=
  land_sound (fun _ _ => finishRecR_sound ..) _ s

@[simp] theorem laserRec_core (code n : Nat) (outPwr : BitVec 8) (wavelength : Nat) (s : State) :
    CoreKept s (laserRec code n outPwr wavelength s).1 := by
  simp [CoreKept, laserRec]

@[simp] theorem laserGone_sound (n : Nat) (s : State) : SoundKept s (laserGone n s) := by
  simp only [laserGone]
  split
  · exact soundKept_refl s
  · refine soundKept_trans ?_ (foldl_sound (fun t l => ?_) _ _)
    · refine soundKept_trans (soundKept_of_core ?_) (noLaserOn_sound ..)
      split <;> simp [CoreKept]
    · split
      · exact soundKept_refl t
      · exact soundKept_trans (soundKept_of_core (by simp [CoreKept])) (linkFailed_sound ..)

@[simp] theorem noLight_sound (n : Nat) (record : Option Nat) (s : State) : SoundKept s (noLight n record s) := by
  refine foldl_sound (fun t l => ?_) _ s
  simp only []
  split <;> (refine ⟨?_, fun hw => ?_⟩ <;> simp [*])

@[simp] theorem laserFails_sound (n wavelength : Nat) (outPwr : BitVec 8) (s : State) :
    SoundKept s (laserFails n wavelength outPwr s) := by
  refine ⟨?_, fun hw => ?_⟩ <;> simp [laserFails, *]

@[simp] theorem latchOpens_sound (n : Nat) (s : State) : SoundKept s (latchOpens n s) := by
  unfold latchOpens
  split <;> (refine ⟨?_, fun hw => ?_⟩ <;> simp [*])

@[simp] theorem laserLocked_core (n : Nat) (s : State) : CoreKept s (laserLocked n s) := by
  unfold laserLocked
  split
  · simp [CoreKept]
  · refine coreKept_trans (by simp [CoreKept]) (foldl_core (fun t l => ?_) _ _)
    split <;> simp [CoreKept]

@[simp] theorem stickyClk_core (r : Nat) (f : Clock → Clock) (s : State) : CoreKept s (stickyClk r f s) := by
  simp [CoreKept, stickyClk]

@[simp] theorem clockFatal_core (code r : Nat) (ps : List Nat) (ctx : List (Nat × Nat)) (s : State) :
    CoreKept s (clockFatal code r ps ctx s) := by
  unfold clockFatal
  split <;> simp [CoreKept]

@[simp] theorem breaches_core (code : Nat) (found : List (Nat × Nat)) (runs : Tbl Nat) (s : State) :
    CoreKept s (breaches code found runs s) := by
  refine foldl_core (fun t x => ?_) _ s
  simp only []
  split <;> simp [CoreKept]

@[simp] theorem skewFound_core (s : State) (x : Nat × Nat × Nat) : CoreKept s (skewFound s x) := by
  unfold skewFound
  (repeat' split) <;> simp [CoreKept]

@[simp] theorem slipFound_core (s : State) (r : Nat) : CoreKept s (slipFound s r) := by
  unfold slipFound
  split <;> simp [CoreKept]

@[simp] theorem compareCopies_core (s : State) : CoreKept s (compareCopies s) := by
  simp [CoreKept, compareCopies]

@[simp] theorem monitored_core (found : MonFind) (s : State) : CoreKept s (monitored found s) := by
  unfold monitored
  extract_lets j d runs s1 s2 s3
  have h1 : CoreKept s s1 := coreKept_trans (breaches_core ..) (breaches_core ..)
  have h2 : CoreKept s1 s2 := by
    dsimp only [s2]
    split
    · exact stickyClk_core ..
    · exact rfl
  have h3 : CoreKept s2 s3 := by
    dsimp only [s3]
    split
    · exact stickyClk_core ..
    · exact rfl
  exact coreKept_trans h1 (coreKept_trans h2 (coreKept_trans h3 (coreKept_trans (t := { s3 with clk := { s3.clk with breach := runs } }) rfl
    (foldl_core (fun _ _ => skewFound_core ..) ..))))

@[simp] theorem syncOp_core (found : MonFind) (s : State) : CoreKept s (syncOp found s) := by
  simp only [syncOp]
  (repeat' split) <;> simp [CoreKept]

@[simp] theorem unlockOp_sound (r : Nat) (s : State) : SoundKept s (unlockOp r s) := by
  simp only [unlockOp]
  split
  · exact soundKept_refl s
  · split
    · refine soundKept_trans (soundKept_of_core (by simp [CoreKept])) (foldl_sound (fun t l => ?_) _ _)
      split <;> (refine ⟨?_, fun hw => ?_⟩ <;> simp [*])
    · exact soundKept_of_core (by simp [CoreKept])

@[simp] theorem freqDone_sound (s : State) : SoundKept s (freqDone s) := by
  unfold freqDone
  split
  · exact soundKept_refl s
  · exact land_sound (fun r t => finishOk_sound ..) _ s

@[simp] theorem setTarget_sound (l : Nat) (s : State) : SoundKept s (setTarget l s) :=
  soundKept_ite (soundKept_of_core rfl) (soundKept_ite (soundKept_ite (soundKept_after (freqDone_sound _) rfl) (soundKept_of_core rfl))
    (soundKept_ite (soundKept_refl s) (soundKept_of_core rfl)))

@[simp] theorem freqPauseOp_core (s : State) : CoreKept s (freqPauseOp s) := by
  unfold freqPauseOp
  (repeat' split) <;> simp [CoreKept]

@[simp] theorem jccWrapOp_core (p : Nat) (s : State) : CoreKept s (jccWrapOp p s) := by
  simp only [jccWrapOp]
  split <;> simp [CoreKept]

@[simp] theorem holdRequestOp_core (t p : Nat) (ws : List PortWindow) (s : State) : CoreKept s (holdRequestOp t p ws s) := by
  simp only [holdRequestOp]
  (repeat' split) <;> simp [CoreKept]

@[simp] theorem holdDecisionOp_core (t p : Nat) (s : State) : CoreKept s (holdDecisionOp t p s) := by
  simp only [holdDecisionOp]
  split <;> simp [CoreKept]

@[simp] theorem relock_core (s : State) : CoreKept s (relock s) := by
  simp [CoreKept, relock]

@[simp] theorem startArith_core (f : Clock → Clock) (s : State) : CoreKept s (startArith f s) := by
  unfold startArith
  split <;> simp [CoreKept]

@[simp] theorem freqRestartOp_sound (s : State) : SoundKept s (freqRestartOp s) := by
  have hdecide : ∀ t (p : Nat), SoundKept t (holdDecide p t) := fun t p => soundKept_of_core (by simp [CoreKept])
  unfold freqRestartOp
  split
  · exact soundKept_refl s
  · have hstart : ∀ u, SoundKept s u → SoundKept s ([0, 1, 2, 3].foldl (fun s p => holdDecide p s) (freqDone u)) :=
      fun u hu => soundKept_trans hu (soundKept_trans (freqDone_sound u) (foldl_sound hdecide _ _))
    simp only []
    split
    · exact soundKept_trans (hstart _ (soundKept_of_core (by simp [CoreKept]))) (setTarget_sound ..)
    · exact hstart _ (soundKept_of_core (by simp [CoreKept]))

@[simp] theorem startClocks_core (s : State) : CoreKept s (startClocks s) := by
  simp [CoreKept, startClocks]

@[simp] theorem rejectImage_core (check image opcode ring : Nat) (s : State) :
    CoreKept s (rejectImage check image opcode ring s).2 := by
  simp [CoreKept, rejectImage]

@[simp] theorem satisfyOne_core (f : Nat) (v : W32) (s : State) (b : Nat) : CoreKept s (satisfyOne f v s b) := by
  simp only [satisfyOne]
  split <;> simp [CoreKept]

@[simp] theorem retest_core (p : Nat) (s : State) (b : Nat) : CoreKept s (retest p s b) := by
  simp [CoreKept, retest]

@[simp] theorem applyUpd_core (p : Nat) (s : State) : CoreKept s (applyUpd p s) := by
  unfold applyUpd
  (repeat' split) <;> simp [CoreKept]

@[simp] theorem clearBands_core (band : Band → Band) (cell : Cell → Cell) (bs : List Nat) (s : State) :
    CoreKept s (clearBands band cell bs s) := by
  simp [CoreKept, clearBands]

@[simp] theorem bandResets_core (bs : List Nat) (s : State) : CoreKept s (bandResets bs s) := by
  unfold bandResets
  split <;> simp [CoreKept]

@[simp] theorem unbindBands_core (f : Band → Band) (bs : List Nat) (s : State) : CoreKept s (unbindBands f bs s) := by
  simp [CoreKept, unbindBands]

@[simp] theorem releaseRegions_sound (p : Nat) (s : State) : SoundKept s (releaseRegions p s) := by
  unfold releaseRegions
  extract_lets mine u v
  have hu : SoundKept s u := foldl_sound (fun t x => endCopy_sound ..) mine s
  exact soundKept_trans hu (soundKept_trans (soundKept_of_core rfl) (drainChecks_sound (List.range 28) v))

@[simp] theorem endDumps_sound (p : Nat) (all : Bool) (s : State) : SoundKept s (endDumps p all s) :=
  soundKept_trans (soundKept_of_core (by simp [CoreKept])) (foldl_sound (fun t x => finishErr_sound ..) _ _)

@[simp] theorem endOthers_sound (p : Nat) (s : State) : SoundKept s (endOthers p s) :=
  land_sound (fun _ _ => finishErr_sound ..) _ s

@[simp] theorem partReset_sound (p : Nat) (s : State) : SoundKept s (partReset p s) := by
  have hclose : ∀ t (x : Nat × Chan), CoreKept t (if chPart x.2 = p then closeChan x.1 t else t) := fun t x => by
    split <;> simp [CoreKept]
  unfold partReset
  extract_lets bs s1 s2 s3 s4 s5
  have h3 : CoreKept s s3 :=
    coreKept_trans (releaseContexts_core p s) (coreKept_trans rfl (foldl_core hclose s2.chans s2))
  have h4 : SoundKept s3 s4 :=
    soundKept_trans (releaseRegions_sound p s3) (soundKept_trans (endDumps_sound ..) (endOthers_sound ..))
  have h5 : CoreKept s4 s5 := coreKept_trans (bandResets_core bs s4) (unbindBands_core ..)
  refine soundKept_trans (soundKept_of_core h3) (soundKept_trans h4 (soundKept_of_core (coreKept_trans h5 ?_)))
  exact coreKept_trans rfl (noteCause_core 4 (setPart p {} s5))

theorem placeRegion_sound {k zeroed uc : Nat} {x : Nat × Region} {s t : State} (h : placeRegion k zeroed uc x s = some t) :
    SoundKept s t := by
  simp only [placeRegion, Option.map_eq_some_iff] at h
  obtain ⟨y, -, rfl⟩ := h
  split
  · exact soundKept_trans (soundKept_of_core rfl) (clearRange_sound ..)
  · exact soundKept_of_core rfl

theorem placeAll_sound {m : Maquette} {pl : List (Nat × Nat)} {l : List (Nat × Region)} {s t : State}
    (h : placeAll m pl l s = some t) : SoundKept s t := by
  induction l generalizing s with
  | nil => cases h; exact soundKept_refl _
  | cons x r ih =>
    simp only [placeAll] at h
    split at h
    · next hone => exact soundKept_trans (placeRegion_sound hone) (ih h)
    · cases h

theorem placeCapture_sound {p : Nat} {s t : State} (h : placeCapture p s = some t) : SoundKept s t := by
  simp only [placeCapture, Option.map_eq_some_iff] at h
  obtain ⟨y, -, rfl⟩ := h
  exact soundKept_of_core rfl

@[simp] theorem bindCells_core (m : Maquette) (lb b r : Nat) (s : State) : CoreKept s (bindCells m lb b r s) := by
  simp only [bindCells]
  split <;> simp [CoreKept]

theorem bindTo_sound {p : Nat} {m : Maquette} {pl : List (Nat × Nat)} {s t : State} (h : bindTo p m pl s = .ok t) :
    SoundKept s t := by
  have hq : ∀ (f : Part → Part) (x : State), CoreKept x (modPart p f x) := fun _ _ => rfl
  unfold bindTo at h
  extract_lets decl order at h
  split at h
  · cases h
  · split at h
    · cases h
    · next u hplaced =>
      obtain ⟨v, hall, hcapture⟩ := Option.bind_eq_some_iff.mp hplaced
      have hu : SoundKept s u := soundKept_trans (placeAll_sound hall) (placeCapture_sound hcapture)
      extract_lets u1 u2 at h
      have hu2 : SoundKept u u2 := soundKept_of_core rfl
      split at h
      · cases h
      · next cm w halloc =>
        extract_lets w1 w2 at h
        have hw1 : CoreKept w w1 := by
          refine coreKept_trans (clearBands_core ..) (foldl_core (fun t lb => ?_) (List.range pl.length) _)
          split
          · next b r _ => exact coreKept_trans (t := modBand b (bindBand s m lb r) t) rfl (bindCells_core ..)
          · exact rfl
        have hw2 : CoreKept w1 w2 := by
          exact pred_ite (P := CoreKept w1) rfl rfl
        have hw : SoundKept w t := by
          rw [← Except.ok.inj h]
          exact soundKept_of_core (coreKept_trans hw1 (coreKept_trans hw2 (hq _ w2)))
        exact soundKept_trans (soundKept_trans hu hu2) (soundKept_trans (soundKept_of_core (allocContexts_core halloc)) hw)

@[simp] theorem bulkWrite_sound (loc addr : Nat) (bs : List Byte) (s : State) : SoundKept s (bulkWrite loc addr bs s) := by
  unfold bulkWrite
  (repeat' split) <;> (refine ⟨?_, fun hw => ?_⟩ <;> simp [*])

@[simp] theorem bindOp_sound (r : CmdRef) (p loc : Nat) (explicit : Bool) (table : List (Nat × Nat)) (report : Nat)
    (badLoad : Bool) (s : State) : SoundKept s (bindOp r p loc explicit table report badLoad s) := by
  unfold bindOp
  extract_lets q keys u
  split
  · split
    · exact finish_sound ..
    · have hu : SoundKept s u := endCopies_sound ..
      refine soundKept_trans hu ?_
      split
      · exact finishErr_sound ..
      · split
        · exact finishErr_sound ..
        · next t hbind =>
          extract_lets v
          have hv : SoundKept t v := by
            unfold v
            split
            · exact soundKept_refl t
            · exact bulkWrite_sound ..
          exact soundKept_ite (finishErr_sound ..) (soundKept_trans (soundKept_trans (bindTo_sound hbind) hv) (finishOk_sound ..))
  · exact finishErr_sound ..

@[simp] theorem loadTo_sound (p : Nat) (m : Maquette) (s : State) : SoundKept s (loadTo p m s) := by
  refine ⟨?_, fun hw => ?_⟩ <;> simp [loadTo, *]

@[simp] theorem loadOp_sound (r : CmdRef) (p size : Nat) (m : Maquette) (s : State) : SoundKept s (loadOp r p size m s) := by
  simp only [loadOp]
  (repeat' split) <;> (refine ⟨?_, fun hw => ?_⟩ <;> simp [*])

@[simp] theorem takeDimm_sound (c : Nat) (found : Option DimmProbe) (s : State) : SoundKept s (takeDimm c found s).2.2 := by
  simp only [takeDimm]
  split
  · exact soundKept_of_core rfl
  · split
    · exact soundKept_of_core (by simp [CoreKept])
    · split
      · exact soundKept_of_core rfl
      · exact soundKept_trans (soundKept_of_core rfl) (zeroDevice_sound ..)

@[simp] theorem beginDrain_sound (u : Nat) (s : State) : SoundKept s (beginDrain u s) := by
  refine soundKept_trans (foldl_sound (fun t x => stopCopy_sound ..) _ s) (foldl_sound (fun t x => ?_) _ _)
  (repeat' split) <;> (refine ⟨?_, fun hw => ?_⟩ <;> simp [*])

@[simp] theorem passNext_core (s : State) : CoreKept s (passNext s) := by
  unfold passNext
  (repeat' split) <;> simp [CoreKept]

@[simp] theorem migrationPass_core (s : State) : CoreKept s (migrationPass s) := by
  simp [CoreKept, migrationPass]

@[simp] theorem migrateUnit_sound (key : Nat) (s : State) : SoundKept s (migrateUnit key s) := by
  have hr : ∀ (f : Region → Region) (t : State), SoundKept t (modReg key f t) := fun _ _ => soundKept_of_core rfl
  refine soundKept_trans (soundKept_of_core (passNext_core s)) ?_
  unfold migrateUnit
  extract_lets u r
  have hcopied := fun ms st => copyUnit_sound r ms st r.copied u
  split
  · exact soundKept_refl u
  · split
    · exact soundKept_refl u
    · split
      · next hcopy =>
        refine soundKept_trans (soundKept_of_snd hcopy (hcopied _ _)) ?_
        exact soundKept_trans (stopCopy_sound ..) (soundKept_of_core (passNext_core _))
      · next v hcopy =>
        extract_lets w x y
        have hmove : CoreKept v w := by
          refine foldl_core (fun t x => ?_) _ v
          exact chargeMem_core ..
        have hw : SoundKept u w := soundKept_trans (soundKept_of_snd hcopy (hcopied _ _)) (soundKept_of_core hmove)
        refine soundKept_trans hw ?_
        split
        · exact hr _ w
        · have hy : SoundKept x y := land_sound (fun r t => finishOk_sound ..) _ x
          exact soundKept_trans (t := y) (soundKept_trans (t := x) (hr _ w) hy)
            (soundKept_trans (drainChecks_sound ..) (soundKept_of_core (passNext_core _)))

@[simp] theorem sharedError_core (code unit : Nat) (ps : List Nat) (a : Nat) (s : State) :
    CoreKept s (sharedError code unit ps a s) := by
  unfold sharedError
  split <;> simp [CoreKept]

@[simp] theorem unitFails_core (code unit : Nat) (ps : List Nat) (a : Nat) (s : State) :
    CoreKept s (unitFails code unit ps a s) := by
  simp only [unitFails]
  split <;> simp [CoreKept]

@[simp] theorem deviceGone_core (u st : Nat) (s : State) : CoreKept s (deviceGone u st s) := by
  unfold deviceGone
  (repeat' split) <;> simp [CoreKept]

@[simp] theorem copiesLost_sound (u : Nat) (i : Option Nat) (s : State) : SoundKept s (copiesLost u i s) :=
  foldl_sound (fun _ _ => stopCopy_sound ..) _ s

@[simp] theorem sharedFailure_sound (u : SharedUnit) (s : State) : SoundKept s (sharedFailure u s) := by
  unfold sharedFailure
  (repeat' split) <;> (refine ⟨?_, fun hw => ?_⟩ <;> simp [*])

@[simp] theorem poisonCw_sound (c : Nat) (bs : List Byte) (s : State) : SoundKept s (poisonCw c bs s) :=
  soundKept_trans (cwWrite_sound c bs s) (soundKept_of_core rfl)

@[simp] theorem scrubCw_sound (flips : Noise) (c : Nat) (s : State) : SoundKept s (scrubCw flips c s) := by
  unfold scrubCw
  split <;> (refine ⟨?_, fun hw => ?_⟩ <;> simp [*])

@[simp] theorem scrubStep_sound (u : Nat) (flips : List (Nat × Noise)) (s : State) : SoundKept s (scrubStep u flips s) := by
  unfold scrubStep
  extract_lets d line0 s1 s2 next k last
  have h1 : SoundKept s s1 := by
    refine foldl_sound (fun t i => ?_) (List.range 32) s
    exact soundKept_trans (scrubCw_sound ..) (scrubCw_sound ..)
  have h2 : SoundKept s s2 := soundKept_trans h1 (soundKept_of_core (moveMem_core ..))
  clear_value s2
  split
  · exact soundKept_refl s
  · refine soundKept_trans h2 (soundKept_of_core ?_)
    split
    · exact rfl
    · exact rfl

@[simp] theorem answerRead_core (a : Agent) (addr : Nat) (o : Option (List Byte)) (s : State) :
    CoreKept s (answerRead a addr o s) := by
  unfold answerRead
  split <;> simp [CoreKept]

@[simp] theorem readResponse_sound (rd : MemReader) (a : Nat) (flips : Noise) (s : State) :
    SoundKept s (readResponse rd a flips s) := by
  have hboth : ∀ w t, SoundKept t (cwReads w flips (a / 64 * 2) 2 t).2.2 := fun w t => cwReads_sound ..
  unfold readResponse
  extract_lets c v owner both whole
  split
  · exact soundKept_refl s
  have hv : SoundKept s v := by
    dsimp only [v]
    split
    · exact soundKept_of_core (moveMem_core ..)
    · exact soundKept_of_core (moveMem_core ..)
    · exact soundKept_refl s
  have hb : ∀ w t, SoundKept t (both w t).2 := hboth
  refine soundKept_trans hv ?_
  clear_value v both
  split
  · extract_lets k n x
    refine soundKept_ite (soundKept_of_core (staleMsg_core ..)) (soundKept_ite (soundKept_refl v) ?_)
    exact soundKept_trans (hb _ v) (soundKept_ite (soundKept_refl _) (soundKept_of_core (modCtx_core ..)))
  · extract_lets x
    exact soundKept_trans (hb _ v) (soundKept_ite (soundKept_refl _) (soundKept_of_core (chanFault_core ..)))
  · exact soundKept_trans (scrubCw_sound ..) (scrubCw_sound ..)
  · exact soundKept_trans (hboth _ v) (soundKept_of_core (answerRead_core ..))
  · refine soundKept_trans (hb { whole with src := 5 } v) ?_
    dsimp only
    split
    · exact soundKept_ite (soundKept_refl _) (soundKept_of_core (coreFaults_core ..))
    · exact soundKept_refl _
  · split
    next b0 ok0 t0 h0 =>
    split
    next b1 ok1 t1 h1 =>
    refine soundKept_trans (soundKept_of_core (coreKept_trans (coreKept_of_snd_snd h0 (cwCopy_core ..)) (coreKept_of_snd_snd h1 (cwCopy_core ..)))) ?_
    extract_lets ok
    split
    · exact soundKept_ite (soundKept_refl _) (stopCopy_sound ..)
    · exact soundKept_refl _
  · exact hb _ v

theorem onRegion_sound {f : Region → Nat → Region → State → State} (hf : ∀ a b c t, SoundKept t (f a b c t)) (r : CmdRef) (p h : Nat)
    (s : State) : SoundKept s (onRegion r p h f s) := by
  unfold onRegion
  split
  · exact soundKept_ite (hf ..) (finishErr_sound ..)
  · exact finishErr_sound ..

@[simp] theorem startFails_sound {f : CmdRef → State → State} (hf : ∀ r s, SoundKept s (f r s)) (p : Nat) (s : State) :
    SoundKept s (startFails p f s) := by
  unfold startFails
  extract_lets u
  exact soundKept_trans (s := s) (t := u) (soundKept_of_core rfl)
    (soundKept_trans (land_sound hf _ _) (land_sound (fun r t => finishErr_sound ..) _ _))

@[simp] theorem startOp_sound (r : CmdRef) (p : Nat) (seed : W64) (at_ : Nat) (s : State) :
    SoundKept s (startOp r p seed at_ s) := by
  simp only [startOp]
  (repeat' split) <;> (refine ⟨?_, fun hw => ?_⟩ <;> simp [*])

@[simp] theorem emptyPorts_core (p : Nat) (s : State) : CoreKept s (emptyPorts p s) := by
  simp [CoreKept, emptyPorts]

@[simp] theorem startAccept_sound (p : Nat) (s : State) : SoundKept s (startAccept p s) := by
  simp only [startAccept]
  split
  · exact soundKept_refl s
  · split
    · exact startFails_sound finishFatal_sound p s
    · split
      · exact startFails_sound (fun r t => finish_sound ..) p s
      · split
        · exact startFails_sound (fun r t => finishErr_sound ..) p s
        · split
          · exact startFails_sound (fun r t => finishErr_sound ..) p s
          · next halloc =>
            refine soundKept_trans (soundKept_of_core (allocContexts_core halloc)) ?_
            exact soundKept_trans (endCopies_sound ..) (soundKept_of_core (coreKept_trans rfl (emptyPorts_core ..)))

@[simp] theorem startTimeout_sound (p : Nat) (s : State) : SoundKept s (startTimeout p s) := by
  simp only [startTimeout]
  split
  · exact soundKept_refl s
  · exact soundKept_trans (soundKept_of_core (by simp [CoreKept])) (startFails_sound (fun r t => finishErr_sound ..) p _)

@[simp] theorem armLeave_core (t p : Nat) (s : State) : CoreKept s (armLeave t p s) := by
  have ha : CoreKept s (advanceTo t s) := coreKept_of_rim (advanceTo_rim ..)
  have hm : ∀ f b c d v, CoreKept v (modPart p f { v with bands := b, cells := c, plinths := d }) := fun _ _ _ _ _ => rfl
  unfold armLeave
  extract_lets s1
  split
  · exact ha
  · exact coreKept_ite ha (coreKept_trans ha (hm ..))

@[simp] theorem clearCounts_core (bs : List Nat) (s : State) : CoreKept s (clearCounts bs s) := by
  simp [CoreKept, clearCounts]

theorem toBoundary_core {k a : Nat} {s t : State} (h : toBoundary k a s = some t) : CoreKept s t := by
  unfold toBoundary at h
  extract_lets u at h
  split at h
  · cases h
  · split at h
    · exact Option.some.inj h ▸ coreKept_of_rim (advanceTo_rim ..)
    · cases h

theorem modCells_core (b : Nat) (f : Nat → Cell → Cell) (l : List Nat) (s : State) :
    CoreKept s (l.foldl (fun s pos => modCell (cellOf b pos) (f pos) s) s) :=
  foldl_core (f := fun s pos => modCell (cellOf b pos) (f pos) s) (fun _ _ => rfl) l s

@[simp] theorem startCount_sound (t p : Nat) (s : State) : SoundKept s (startCount t p s) := by
  refine soundKept_trans (soundKept_of_core (coreKept_of_rim (advanceTo_rim t s))) ?_
  unfold startCount
  extract_lets u q
  split
  · exact soundKept_refl u
  · split
    · exact soundKept_refl u
    · next v hreach =>
      refine soundKept_trans (soundKept_of_core (toBoundary_core hreach)) ?_
      split
      · exact startFails_sound finishFatal_sound p v
      · extract_lets a v1 bs v2 v3 v4 v5
        have h1 : SoundKept v v1 := endCopies_sound ..
        have h2 : CoreKept v1 v2 := coreKept_trans rfl (clearCounts_core ..)
        have h3 : CoreKept v2 v3 := by
          refine foldl_core (fun w b => ?_) bs v2
          extract_lets lb r w1
          exact coreKept_trans (s := w) (t := w1) rfl (modCells_core b _ _ w1)
        have h5 : CoreKept v4 v5 := by
          unfold v5
          split
          · exact rfl
          · exact coreKept_of_rim (holdUnit_rim ..)
        have hv : CoreKept v1 v5 := coreKept_trans h2 (coreKept_trans h3 (coreKept_trans rfl h5))
        exact soundKept_trans h1 (soundKept_trans (soundKept_of_core hv) (land_sound (fun r t => finishOk_sound ..) _ _))

@[simp] theorem pauseAt_sound (t p : Nat) (s : State) : SoundKept s (pauseAt t p s) := by
  refine soundKept_trans (soundKept_of_core (coreKept_of_rim (advanceTo_rim t s))) ?_
  unfold pauseAt
  extract_lets u q
  split
  · exact soundKept_refl u
  · split
    · exact soundKept_refl u
    · split
      · exact soundKept_refl u
      · next hreach =>
        refine soundKept_trans (soundKept_of_core (toBoundary_core hreach)) ?_
        exact soundKept_trans (soundKept_of_core rfl) (land_sound (fun r t => finishOk_sound ..) _ _)

@[simp] theorem waitRecord_core (p : Nat) (c : PendCast) (first : Bool) (s : State) (b : Nat) :
    CoreKept s (waitRecord p c first s b) := by
  have hw : ∀ r, CoreKept s (writeRec r s) := fun r => coreKept_of_rim (writeRec_rim ..)
  have hs : CoreKept s s := rfl
  exact coreKept_ite hs (coreKept_ite (coreKept_ite (hw _) (coreKept_ite hs (hw _))) (coreKept_ite hs (hw _)))

@[simp] theorem faultRecords_core (p : Nat) (c : PendCast) (s : State) : CoreKept s (faultRecords p c s) := by
  unfold faultRecords
  extract_lets q l
  refine foldl_core_snd (fun a x => ?_) l (decide (c.cause = .schedFault) || (c.fault && !q.faulted), s)
  simp [CoreKept]

theorem storeCaptured_sound (s t : State) (p : Nat) (h : SoundKept s t) :
    SoundKept s (storeCapture p (match (getPart t p).captureAt, (getPart t p).captured with
      | some (u, _), some c => if c.2 = [] then t else chargeMem u c.2.flatten.length t
      | _, _ => t)) := by
  refine soundKept_trans h (soundKept_trans ?_ (storeCapture_sound ..))
  split
  · split
    · exact soundKept_refl t
    · exact soundKept_of_core (chargeMem_core ..)
  · exact soundKept_refl t

@[simp] theorem takeCast_sound (p : Nat) (c : PendCast) (s : State) : SoundKept s (takeCast p c s) := by
  have hwaits : ∀ b t, CoreKept t (if c.fault then (boundBands s p).foldl (waitRecord p c b) t else t) := fun b t => by
    split
    · exact foldl_core (fun t x => waitRecord_core ..) _ t
    · exact rfl
  unfold takeCast
  extract_lets q i bs s1 s2 s3 first capture s4 s5 s6 s7 s8
  have h3 : SoundKept s s3 :=
    soundKept_of_core (coreKept_trans (hwaits true s) (coreKept_trans (faultRecords_core p c s1) (hwaits false s2)))
  have h6 : SoundKept s s7 := storeCaptured_sound s s5 p (soundKept_trans h3 (soundKept_of_core rfl))
  exact soundKept_trans h6 (soundKept_trans (land_sound (fun r t => finishOk_sound ..) _ _)
    (land_sound (fun r t => finishErr_sound ..) _ _))

theorem land_fatal_sound (k : FlightKind → Bool) (f : CmdRef → State → State) (hf : ∀ r t, SoundKept t (f r t)) (s : State) :
    SoundKept s (land k (fun r t => if t.log.modFatal then finishFatal r t else f r t) s) :=
  land_sound (fun r t => by
    split
    · exact finishFatal_sound ..
    · exact hf ..) k s

@[simp] theorem castBoundary_sound (t p : Nat) (s : State) : SoundKept s (castBoundary t p s) := by
  refine soundKept_trans (soundKept_of_core (coreKept_of_rim (advanceTo_rim t s))) ?_
  unfold castBoundary
  extract_lets u q
  split
  · exact soundKept_refl u
  · split
    · exact soundKept_refl u
    · exact soundKept_trans (takeCast_sound ..) (land_fatal_sound _ _ (fun r v => finishErr_sound ..) _)

theorem retested_core (p : Nat) (bs : List Nat) (s : State) : CoreKept s (bs.foldl (retest p) s) :=
  foldl_core (fun _ _ => retest_core ..) bs s

@[simp] theorem resumeBoundary_sound (t p : Nat) (s : State) : SoundKept s (resumeBoundary t p s) := by
  refine soundKept_trans (soundKept_of_core (coreKept_of_rim (advanceTo_rim t s))) ?_
  unfold resumeBoundary
  extract_lets u q done
  split
  · exact soundKept_refl u
  · split
    · exact soundKept_refl u
    · split
      · exact soundKept_refl u
      · next v hreach =>
        refine soundKept_trans (soundKept_of_core (toBoundary_core hreach)) ?_
        split
        · exact soundKept_trans (soundKept_of_core rfl) (land_sound finishFatal_sound _ _)
        · have hdone : ∀ w, SoundKept w (done w) := fun w => land_sound (fun r t => finishOk_sound ..) _ w
          extract_lets a bs v1 v2
          split
          · exact soundKept_trans (takeCast_sound ..) (hdone _)
          · have h1 : CoreKept v v1 := by
              unfold v1
              split
              · exact coreKept_trans rfl (retested_core p bs _)
              · exact rfl
            have h2 : CoreKept v v2 := coreKept_trans h1 rfl
            refine soundKept_trans (soundKept_of_core h2) (soundKept_trans ?_ (hdone _))
            split
            · exact soundKept_refl v2
            · exact soundKept_of_core (coreKept_of_rim (holdUnit_rim ..))

@[simp] theorem resumeOp_sound (r : CmdRef) (p : Nat) (s : State) : SoundKept s (resumeOp r p s) := by
  simp only [resumeOp]
  (repeat' split) <;> (refine ⟨?_, fun hw => ?_⟩ <;> simp [*])

@[simp] theorem holdOp_sound (r : CmdRef) (p : Nat) (s : State) : SoundKept s (holdOp r p s) := by
  simp only [holdOp]
  (repeat' split) <;> (refine ⟨?_, fun hw => ?_⟩ <;> simp [*])

@[simp] theorem sendCastAt_core (p at_ : Nat) (s : State) : CoreKept s (sendCastAt p at_ s) := by
  have hqueue : ∀ (t : State) (x : Nat × Chan), CoreKept t (if chPart x.2 = p ∧ chRoutes x.2 = true then
      ((List.range 32).filter (fun l => edgeRole x.2 l != 0)).foldl (fun s l => queueFrame l (.msg (.castAt x.1 (at_ % 2 ^ 46))) s) t
    else t) := fun t x => by
    split
    · exact foldl_core (fun t l => queueFrame_core ..) _ t
    · exact rfl
  exact coreKept_trans rfl (foldl_core hqueue s.chans { s with castSeen := at_ :: s.castSeen })

@[simp] theorem castOp_sound (r : CmdRef) (p : Nat) (fabric : Bool) (at_ : Nat) (s : State) :
    SoundKept s (castOp r p fabric at_ s) := by
  simp only [castOp]
  (repeat' split) <;> (refine ⟨?_, fun hw => ?_⟩ <;> simp [*])

@[simp] theorem abortOp_sound (r : CmdRef) (p : Nat) (s : State) : SoundKept s (abortOp r p s) := by
  unfold abortOp
  extract_lets q s1 s2 s3
  split
  · have h1 : SoundKept s s1 := soundKept_trans (endDumps_sound p false s) (soundKept_of_core
      (coreKept_trans (releaseContexts_core ..) (bandResets_core ..)))
    have h3 : SoundKept s s3 := soundKept_trans (soundKept_trans h1 (soundKept_of_core rfl))
      (land_sound (fun r t => finishErr_sound ..) _ s2)
    exact soundKept_trans h3 (finishOk_sound ..)
  · exact finishErr_sound ..

@[simp] theorem doneBand_core (p : Nat) (unfinished : List Nat) (s : State) (b : Nat) :
    CoreKept s (doneBand p unfinished s b) := by
  simp only [doneBand]
  (repeat' split) <;> simp [CoreKept]

@[simp] theorem partDone_sound (t p : Nat) (unfinished : List Nat) (s : State) : SoundKept s (partDone t p unfinished s) := by
  refine soundKept_trans (soundKept_of_core (coreKept_of_rim (advanceTo_rim t s))) ?_
  unfold partDone
  extract_lets u q bs s1 s2 s3
  split
  · exact soundKept_refl u
  · have h1 : SoundKept u s1 := soundKept_of_core (foldl_core (fun t x => doneBand_core ..) bs u)
    have h3 : SoundKept u s3 := soundKept_trans (soundKept_trans h1 (soundKept_of_core rfl))
      (land_sound (fun r t => finishErr_sound ..) _ s2)
    exact soundKept_trans h3 (soundKept_of_core (migrationPass_core _))

@[simp] theorem fenceOn_core (cell : Nat) (s : State) : CoreKept s (fenceOn cell s) := by
  simp [CoreKept, fenceOn]

@[simp] theorem fenceOp_sound (r : CmdRef) (cell : Nat) (s : State) : SoundKept s (fenceOp r cell s) := by
  simp only [fenceOp]
  (repeat' split) <;> (refine ⟨?_, fun hw => ?_⟩ <;> simp [*])

@[simp] theorem fenceBoundary_sound (t p : Nat) (s : State) : SoundKept s (fenceBoundary t p s) := by
  refine soundKept_trans (soundKept_of_core (coreKept_of_rim (advanceTo_rim t s))) ?_
  unfold fenceBoundary
  extract_lets u
  split
  · exact soundKept_refl u
  · refine foldl_sound (fun v x => ?_) _ u
    split
    · exact soundKept_trans (soundKept_of_core (by simp [CoreKept])) (commitThen_sound ..)
    · exact soundKept_refl v

@[simp] theorem unfenceOp_sound (r : CmdRef) (cell : Nat) (pass : Bool) (s : State) : SoundKept s (unfenceOp r cell pass s) := by
  unfold unfenceOp
  extract_lets b x u
  split
  · split
    · exact soundKept_trans (soundKept_of_core rfl) (commitThen_sound ..)
    · exact finishErrR_sound ..
  · split
    · exact finishErrR_sound ..
    · split
      · exact finishOk_sound ..
      · have hu : SoundKept s u := soundKept_of_core rfl
        split
        · exact soundKept_trans (soundKept_trans hu (soundKept_of_core rfl)) (commitThen_sound ..)
        · exact soundKept_trans hu (finishErrR_sound ..)

@[simp] theorem bandLost_core (b : Nat) (s : State) : CoreKept s (bandLost b s) := by
  simp only [bandLost]
  split <;> simp [CoreKept]

@[simp] theorem sampleOp_core (g : Nat) (s : State) : CoreKept s (sampleOp g s) := by
  simp only [sampleOp]
  (repeat' split) <;> simp [CoreKept]

@[simp] theorem cutScratch_core (p b pos : Nat) (s : State) : CoreKept s (cutScratch p b pos s).2 := by
  unfold cutScratch
  extract_lets cell j
  refine foldl_core_snd (fun x i => ?_) _ ([], s)
  simp only []
  split <;> simp [CoreKept]

theorem cutObject_kept (p sel : Nat) (c : Cut) (s : State) : OptCore s (cutObject p sel c s) := by
  unfold cutObject
  extract_lets obj b pos band cell bd x j
  apply optCore_ite (optCore_none s)
  have hkept : CoreKept s s := rfl
  clear_value obj b pos band cell bd x j
  iterate 13
    apply optCore_ite
    · exact optCore_some (_, s) hkept
  exact optCore_ite (optCore_some _ (cutScratch_core ..)) (optCore_none s)

theorem cutObject_core {p sel : Nat} {c : Cut} {l : List Byte} {s t : State} (h : cutObject p sel c s = some (l, t)) :
    CoreKept s t :=
  cutObject_kept p sel c s _ h

@[simp] theorem dumpOp_sound (r : CmdRef) (p loc point step addr len : Nat) (s : State) :
    SoundKept s (dumpOp r p loc point step addr len s) := by
  unfold dumpOp
  extract_lets q size job go
  split
  · split
    · split
      · exact finish_sound ..
      · next data t hcut =>
        have ht : SoundKept s t := soundKept_of_core (cutObject_core hcut)
        have hshort : SoundKept s (finishErr r .noResource 1 p 0 s) := finishErr_sound ..
        have hwritten : ∀ bs, SoundKept s (finishOk r (64 + data.length) (bulkWrite loc addr bs t)) := fun bs =>
          soundKept_trans ht (soundKept_trans (bulkWrite_sound ..) (finishOk_sound ..))
        clear hcut
        exact soundKept_ite hshort (hwritten _)
    · exact finishErr_sound ..
  · split
    · exact finishErr_sound ..
    · exact finishErr_sound ..
    · exact finishErr_sound ..
    · have hgo : ∀ d t, SoundKept t (go d t) := fun d t => soundKept_of_core rfl
      exact soundKept_ite (finishErr_sound ..) (soundKept_ite (hgo ..) (soundKept_ite (hgo ..) (finishErr_sound ..)))

@[simp] theorem dumpDone_sound (p : Nat) (s : State) : SoundKept s (dumpDone p s) := by
  unfold dumpDone
  extract_lets q
  split
  · exact soundKept_refl s
  · split
    · exact endDumps_sound ..
    · extract_lets u
      have hu : SoundKept s u := soundKept_of_core (foldl_core (fun t i => chargeRegion_core ..) _ s)
      split
      next hread =>
      extract_lets v w
      have hv : SoundKept s v :=
        soundKept_trans (soundKept_trans hu (soundKept_of_snd_snd hread (regionRead_sound ..))) (bulkWrite_sound ..)
      have hw : SoundKept v w := soundKept_of_core rfl
      exact soundKept_trans (soundKept_trans hv hw) (foldl_sound (fun t x => finishOk_sound ..) _ w)

@[simp] theorem writeCopies_sound (k n : Nat) (s : State) : SoundKept s (writeCopies k n s) := by
  unfold writeCopies
  extract_lets l
  exact soundKept_trans (t := modPl k (fun x => { x with copies := l.drop n }) s) (soundKept_of_core rfl)
    (foldl_sound (fun t x => bulkWrite_sound ..) _ _)

@[simp] theorem armedCopy_sound (p b : Nat) (bs : List Byte) (tap : Nat) (s : State) :
    SoundKept s (armedCopy p b bs tap s) := by
  simp only [armedCopy]
  (repeat' split) <;> (refine ⟨?_, fun hw => ?_⟩ <;> simp [*])

@[simp] theorem digestOp_sound (p j b : Nat) (s : State) : SoundKept s (digestOp p j b s) := by
  unfold digestOp
  extract_lets bd ok
  split
  · exact soundKept_refl s
  split
  · exact soundKept_refl s
  refine soundKept_ite (soundKept_refl s) ?_
  extract_lets n bs s1 s2
  have h1 : SoundKept s s1 := soundKept_of_core rfl
  have h2 : SoundKept s1 s2 := soundKept_of_core (coreKept_of_rim (outWord_rim ..))
  refine soundKept_trans h1 (soundKept_ite (soundKept_of_core (coreKept_of_rim (headFault_rim ..))) (soundKept_trans h2 ?_))
  exact soundKept_ite (armedCopy_sound ..) (soundKept_refl s2)

@[simp] theorem resetLinks_sound (s : State) : SoundKept s (resetLinks s) := by
  unfold resetLinks
  extract_lets u v
  have hu : SoundKept s u := soundKept_of_core (foldl_core (fun t l => linkReset_core ..) _ s)
  have hv : SoundKept u v := foldl_sound (fun t l => land_sound (fun r w => finishErr_sound ..) _ t) _ u
  refine soundKept_trans (soundKept_trans hu hv) (soundKept_of_core (coreKept_trans ?_ (noteCause_core ..)))
  split
  · exact chooseRoot_core v
  · exact rfl

@[simp] theorem dropFlights_core (all : Bool) (s : State) : CoreKept s (dropFlights all s) := by
  simp [CoreKept, dropFlights]

@[simp] theorem trainLinks_core (s : State) : CoreKept s (trainLinks s) := by
  unfold trainLinks
  split
  · exact rfl
  · refine foldl_core (fun t l => ?_) _ s
    split
    · exact startTraining_core ..
    · exact rfl

@[simp] theorem undrain_sound (s : State) : SoundKept s (undrain s) := by
  unfold undrain
  extract_lets u
  refine soundKept_trans (t := u) (soundKept_of_core rfl)
    (foldl_sound (fun t l => land_sound (fun r w => finishErrR_sound ..) _ t) _ u)

@[simp] theorem beginActive_core (s : State) : CoreKept s (beginActive s) := by
  simp [CoreKept, beginActive]

@[simp] theorem endActive_core (x : PowerState) (s : State) : CoreKept s (endActive x s) := by
  simp [CoreKept, endActive]

@[simp] theorem stackInit_core (bad : List Nat) (s : State) (u : Nat) : CoreKept s (stackInit bad s u) := by
  unfold stackInit
  split <;> simp [CoreKept]

@[simp] theorem dimmInit_sound (found : StartupFind) (s : State) (c : Nat) : SoundKept s (dimmInit found s c) := by
  unfold dimmInit
  (repeat' split) <;> (refine ⟨?_, fun hw => ?_⟩ <;> simp [*])

@[simp] theorem loadCounters_core (s : State) : CoreKept s (loadCounters s) := by
  simp [CoreKept, loadCounters]

@[simp] theorem loadFlash_core (s : State) : CoreKept s (loadFlash s) := by
  simp [CoreKept, loadFlash]

@[simp] theorem zeroAll_sound (s : State) : SoundKept s (zeroAll s) := ⟨rfl, fun _ => memory_wf_reset⟩

@[simp] theorem routerTests_core (bad : List Nat) (s : State) : CoreKept s (routerTests bad s) := by
  refine foldl_core (fun t b => ?_) bad s
  split
  · exact rfl
  · exact bandLost_core b t

@[simp] theorem laserInit_core (found : StartupFind) (s : State) : CoreKept s (laserInit found s) := by
  simp [CoreKept, laserInit]

@[simp] theorem hardwareInit_sound (found : StartupFind) (s : State) : SoundKept s (hardwareInit found s) := by
  unfold hardwareInit
  extract_lets u v w
  have hu : CoreKept s u := by
    unfold u
    split
    · exact rfl
    · exact startClocks_core s
  have hv : CoreKept u v := by
    refine coreKept_trans (coreKept_trans ?_ (loadCounters_core _)) (routerTests_core ..)
    split
    · exact loadFlash_core u
    · exact rfl
  have hw : CoreKept v w := foldl_core (fun t k => stackInit_core ..) _ v
  refine soundKept_trans (soundKept_of_core (coreKept_trans hu (coreKept_trans hv hw))) ?_
  have hdimm : SoundKept w ((List.range 12).foldl (dimmInit found) w) := foldl_sound (dimmInit_sound found) _ w
  exact soundKept_trans (soundKept_trans hdimm (zeroAll_sound _)) (soundKept_of_core (laserInit_core ..))

@[simp] theorem measureBoot_core (i : FwId) (s : State) : CoreKept s (measureBoot i s) := by
  unfold measureBoot
  split <;> simp [CoreKept]

@[simp] theorem selfTestFails_core (row : Nat) (s : State) : CoreKept s (selfTestFails row s) := by
  simp [CoreKept, selfTestFails]

@[simp] theorem flomorStart_sound (i : FwId) (found : StartupFind) (s : State) : SoundKept s (flomorStart i found s) := by
  simp only [flomorStart]
  (repeat' split) <;> (refine ⟨?_, fun hw => ?_⟩ <;> simp [*])

@[simp] theorem romAttempt_sound (found : StartupFind) (s : State) : SoundKept s (romAttempt found s) := by
  unfold romAttempt
  refine soundKept_ite (soundKept_of_core rfl) ?_
  split
  · exact soundKept_of_core (coreKept_trans (rejectImage_core 1 0 0 0 s) rfl)
  · exact soundKept_ite (soundKept_after (flomorStart_sound ..) rfl) (soundKept_of_core (coreKept_trans (rejectImage_core _ 0 0 0 s) rfl))

@[simp] theorem attemptFailed_core (s : State) : CoreKept s (attemptFailed s) := by
  simp [CoreKept, attemptFailed]

@[simp] theorem railsUp_sound (found : StartupFind) (s : State) : SoundKept s (railsUp found s) := by
  unfold railsUp
  split <;> (refine ⟨?_, fun hw => ?_⟩ <;> simp [*])

@[simp] theorem backoffOver_sound (found : StartupFind) (s : State) : SoundKept s (backoffOver found s) :=
  soundKept_ite (soundKept_after (romAttempt_sound ..) rfl) (soundKept_refl s)

@[simp] theorem releaseRecovery_core (s : State) : CoreKept s (releaseRecovery s) := by
  simp [CoreKept, releaseRecovery]

@[simp] theorem recoverWith_sound (image : FlomorImage) (found : StartupFind) (s : State) :
    SoundKept s (recoverWith image found s) := by
  have ha : ∀ t, SoundKept t (attemptFailed t) := fun _ => soundKept_of_core (attemptFailed_core ..)
  have hr : SoundKept s (releaseRecovery s) := soundKept_of_core (releaseRecovery_core ..)
  unfold recoverWith
  refine soundKept_ite (soundKept_refl s) ?_
  split
  · exact soundKept_trans hr (ha _)
  extract_lets img s1 k
  have h1 : SoundKept s s1 := soundKept_trans hr (soundKept_of_core (hostIn_core ..))
  refine soundKept_trans h1 (soundKept_ite (ha _) (soundKept_ite ?_ ?_))
  · exact soundKept_trans (t := { s1 with pwr := { s1.pwr with recovered := true }, sec := { s1.sec with waitingImage := some img } })
      (soundKept_of_core rfl) (flomorStart_sound ..)
  · exact soundKept_trans (soundKept_of_core (rejectImage_core ..)) (ha _)

@[simp] theorem enterIdle_sound (s : State) : SoundKept s (enterIdle s) := by
  refine ⟨?_, fun hw => ?_⟩ <;> simp [enterIdle, *]

@[simp] theorem loseHbm_sound (s : State) : SoundKept s (loseHbm s) := ⟨rfl, fun h => memory_wf_filter _ _ h⟩

@[simp] theorem enterStandby_sound (s : State) : SoundKept s (enterStandby s) := by
  unfold enterStandby
  extract_lets cause u v
  have hu : SoundKept s u := foldl_sound (f := fun t p => partReset p t) (fun t p => partReset_sound p t) _ s
  have hv : SoundKept u v := soundKept_trans (soundKept_trans (resetLinks_sound u) (undrain_sound _))
    (soundKept_trans (loseHbm_sound _) (soundKept_of_core (endActive_core ..)))
  clear_value v
  exact soundKept_trans (soundKept_trans hu hv) (soundKept_of_core rfl)

@[simp] theorem leaveStandby_sound (found : StartupFind) (s : State) : SoundKept s (leaveStandby found s) := by
  unfold leaveStandby
  extract_lets u v
  have hu : CoreKept s u := coreKept_trans (coreKept_trans (beginActive_core s) (startClocks_core _))
    (coreKept_trans (loadCounters_core _) (routerTests_core ..))
  have hv : SoundKept u v := soundKept_trans (t := { u with cells := [] }) (soundKept_of_core rfl)
    (soundKept_trans (loseHbm_sound _) (soundKept_of_core
      (coreKept_trans (foldl_core (fun t k => stackInit_core ..) _ _) (laserInit_core ..))))
  exact soundKept_trans (soundKept_of_core hu) (soundKept_trans hv (soundKept_of_core rfl))

@[simp] theorem mainSeen_core (s : State) : CoreKept s (mainSeen s) := by
  unfold mainSeen
  split <;> simp [CoreKept]

@[simp] theorem advanceFuses_core (s : State) : CoreKept s (advanceFuses s) := by
  simp only [advanceFuses]
  split <;> simp [CoreKept]

@[simp] theorem dropWaiting_core (s : State) : CoreKept s (dropWaiting s) := by
  simp [CoreKept, dropWaiting]

@[simp] theorem preTest_core (failing : Option Nat) (s : State) : CoreKept s (preTest failing s) := by
  unfold preTest
  split <;> simp [CoreKept]

@[simp] theorem perstEnds_sound (found : StartupFind) (failing : Option Nat) (s : State) :
    SoundKept s (perstEnds found failing s) := by
  have hp : ∀ t u, CoreKept t u → SoundKept t (preTest failing u) := fun t u h => soundKept_of_core (coreKept_trans h (preTest_core ..))
  unfold perstEnds
  extract_lets p1 s1 c1 p2 s2
  refine soundKept_ite (soundKept_refl s) (soundKept_ite (hp _ _ rfl) ?_)
  have h1 : SoundKept s s1 := hp _ _ rfl
  have h2 : SoundKept s1 s2 := soundKept_of_core rfl
  refine soundKept_ite (soundKept_trans h1 (soundKept_trans h2 ?_)) (soundKept_ite (soundKept_trans h1 ?_) h1)
  · exact soundKept_trans (soundKept_ite (soundKept_of_core (startClocks_core ..)) (soundKept_refl _))
      (soundKept_trans (soundKept_of_core (loadCounters_core ..)) (soundKept_of_core (routerTests_core ..)))
  · exact soundKept_trans (t := { s1 with pwr := { s1.pwr with stage := .rom } }) (soundKept_of_core rfl) (romAttempt_sound ..)

@[simp] theorem railsWait_core (s : State) : CoreKept s (railsWait s) := by
  unfold railsWait
  split <;> simp [CoreKept]

@[simp] theorem mainRestored_core (s : State) : CoreKept s (mainRestored s) := by
  simp [CoreKept, mainRestored]

@[simp] theorem zeroiseOp_core (s : State) : CoreKept s (zeroiseOp s) := by
  simp [CoreKept, zeroiseOp]

@[simp] theorem pmActs_core (s : State) : CoreKept s (pmActs s) := by
  simp [CoreKept, pmActs]

@[simp] theorem pmWindow_sound (meanW hottest auxW : Nat) (s : State) : SoundKept s (pmWindow meanW hottest auxW s) := by
  unfold pmWindow
  extract_lets pwr t lvl
  have ht : CoreKept s t := rfl
  have hset : ∀ l x, SoundKept s (pmActs (setTarget l { t with pwr := x })) := fun l x =>
    soundKept_trans (soundKept_after (setTarget_sound l { t with pwr := x }) rfl) (soundKept_of_core (pmActs_core _))
  refine soundKept_ite (soundKept_of_core ht) (soundKept_ite (soundKept_ite (soundKept_of_core ht) (hset ..)) ?_)
  exact soundKept_ite (soundKept_ite (soundKept_ite (hset ..) (soundKept_of_core ht)) (soundKept_of_core ht)) (soundKept_of_core ht)

@[simp] theorem freqOp_sound (r : CmdRef) (level : Nat) (s : State) : SoundKept s (freqOp r level s) := by
  unfold freqOp
  extract_lets slower pwr u go
  have hgo : ∀ t, SoundKept t (go t) := fun t => setTarget_sound ..
  refine soundKept_trans (t := u) (soundKept_of_core rfl) ?_
  split
  · exact soundKept_trans (t := launch r [.module] .setFreq u) (soundKept_of_core rfl) (hgo _)
  · exact soundKept_trans (hgo u) (finishOk_sound ..)

@[simp] theorem energyOf_core (milliA dropMv fullMv : Nat) (s : State) : CoreKept s (energyOf milliA dropMv fullMv s).2 := by
  unfold energyOf
  split <;> simp [CoreKept]

@[simp] theorem testDone_sound (milliA dropMv fullMv : Nat) (s : State) : SoundKept s (testDone milliA dropMv fullMv s) := by
  unfold testDone
  split <;> (refine ⟨?_, fun hw => ?_⟩ <;> simp [*])

@[simp] theorem commitRetry_core (s : State) : CoreKept s (commitRetry s) := by
  unfold commitRetry
  (repeat' split) <;> simp [CoreKept]

@[simp] theorem lifeCommit_core (s : State) : CoreKept s (lifeCommit s) := by
  unfold lifeCommit
  split <;> simp [CoreKept]

@[simp] theorem auxLost_core (exhausted : Bool) (s : State) : CoreKept s (auxLost exhausted s) := by
  simp [CoreKept, auxLost]

@[simp] theorem setPhase_core (tr : Transport) (x : SpdmPhase) (s : State) : CoreKept s (setPhase tr x s) := by
  unfold setPhase
  split <;> simp [CoreKept]

@[simp] theorem setSuite_core (tr : Transport) (n : Nat) (s : State) : CoreKept s (setSuite tr n s) := by
  unfold setSuite
  split <;> simp [CoreKept]

@[simp] theorem answer_core (tr : Transport) (a : SpdmAns) (s : State) : CoreKept s (answer tr a s) := by
  simp [CoreKept, answer]

@[simp] theorem drbgBytes_core (n : Nat) (s : State) : CoreKept s (drbgBytes n s).2 := by
  unfold drbgBytes
  split <;> simp [CoreKept]

theorem withEntropy_core {f : State → State} (hf : ∀ t, CoreKept t (f t)) (tr : Transport) (failing : Option Nat) (s : State) :
    CoreKept s (withEntropy tr failing f s) := by
  unfold withEntropy
  split
  · exact coreKept_trans (selfTestFails_core ..) (spdmError_core ..)
  · exact hf s

@[simp] theorem privWrite_core (a : Nat) (bs : List Byte) (s : State) : CoreKept s (privWrite a bs s) := by
  simp [CoreKept, privWrite]

theorem spdmRequest_core {f : State → State} (hf : ∀ t, CoreKept t (f t)) (tr : Transport) (s : State) :
    CoreKept s (spdmRequest tr f s) := by
  unfold spdmRequest
  split
  · exact rfl
  · split
    · exact spdmError_core ..
    · exact hf s

@[simp] theorem measureOp_core (tr : Transport) (index : Nat) (nonce : Nonce) (s : State) :
    CoreKept s (measureOp tr index nonce s) := by
  unfold measureOp
  extract_lets pick
  split
  · exact withEntropy_core (fun t => coreKept_trans (drbgBytes_core 32 t) (answer_core ..)) ..
  · exact spdmError_core ..

@[simp] theorem keyExchangeOp_core (tr : Transport) (x : KeyShare) (s : State) : CoreKept s (keyExchangeOp tr x s) := by
  unfold keyExchangeOp
  extract_lets l
  split
  · exact spdmError_core ..
  · refine withEntropy_core (fun t => ?_) ..
    split
    next hdraw =>
    extract_lets key point v
    have hv : CoreKept t v := coreKept_trans (coreKept_of_snd hdraw (drbgBytes_core 48 t)) (privWrite_core ..)
    exact coreKept_trans (coreKept_trans hv rfl) (answer_core ..)

@[simp] theorem modSession_core (tr : Transport) (n : Nat) (f : Session → Option Session) (s : State) :
    CoreKept s (modSession tr n f s) := by
  simp [CoreKept, modSession]

@[simp] theorem finishOp_core (tr : Transport) (m : FinishMsg) (s : State) : CoreKept s (finishOp tr m s) := by
  unfold finishOp
  (repeat' split) <;> simp [CoreKept]

@[simp] theorem received_core (tr : Transport) (n : Nat) (s : State) : CoreKept s (received tr n s) := by
  simp [CoreKept, received]

theorem inSession_core {f : State → State} (hf : ∀ t, CoreKept t (f t)) (tr : Transport) (code : Nat) (m : SessionMsg) (s : State) :
    CoreKept s (inSession tr code m f s) := by
  refine spdmRequest_core (fun t => ?_) tr s
  split
  · split
    · exact spdmError_core ..
    · split
      · exact spdmError_core ..
      · exact coreKept_trans (received_core ..) (hf _)
  · exact spdmError_core ..

@[simp] theorem endSessionOp_core (tr : Transport) (n : Nat) (s : State) : CoreKept s (endSessionOp tr n s) := by
  simp [CoreKept, endSessionOp]

theorem vendorRequest_core {f : Session → State → State} (hf : ∀ x t, CoreKept t (f x t)) (tr : Transport) (m : SessionMsg)
    (s : State) : CoreKept s (vendorRequest tr m f s) := by
  unfold vendorRequest
  split
  · exact rfl
  · split
    · split
      · exact spdmError_core ..
      · split
        · exact spdmError_core ..
        · split
          · exact coreKept_trans (received_core ..) (answer_core ..)
          · exact coreKept_trans (received_core ..) (hf ..)
    · exact spdmError_core ..

@[simp] theorem setCertOp_core (tr : Transport) (slot : Nat) (chain : List Byte) (leaf : CertLeaf) (s : State) :
    CoreKept s (setCertOp tr slot chain leaf s) := by
  unfold setCertOp
  (repeat' split) <;> simp [CoreKept]

@[simp] theorem provisionOp_core (tr : Transport) (keyHash : List Byte) (suite reqMaq reqApp ok : Bool) (s : State) :
    CoreKept s (provisionOp tr keyHash suite reqMaq reqApp ok s) := by
  unfold provisionOp
  refine coreKept_ite (answer_core ..) ?_
  split
  next h t ht =>
  have h0 : CoreKept s t := by
    refine coreKept_of_snd ht ?_
    exact iteInduction (motive := fun x : List Byte × State => CoreKept s x.2) (fun _ => rfl) fun _ => freeBytes_core ..
  extract_lets p s1
  have h1 : CoreKept s s1 := coreKept_trans h0 rfl
  exact coreKept_ite (coreKept_trans h1 (answer_core ..)) (coreKept_trans h1 (coreKept_trans (coreKept_of_rim (logDeferred_rim ..)) (answer_core ..)))

@[simp] theorem updateOp_sound (r : CmdRef) (img : FlomorImage) (flashOk : Bool) (s : State) :
    SoundKept s (updateOp r img flashOk s) := by
  simp only [updateOp]
  (repeat' split) <;> (refine ⟨?_, fun hw => ?_⟩ <;> simp [*])

@[simp] theorem pldmUpdate_core (img : FlomorImage) (flashOk : Bool) (s : State) : CoreKept s (pldmUpdate img flashOk s) := by
  simp only [pldmUpdate]
  (repeat' split) <;> simp [CoreKept]

theorem handover_core {i : FlomorImage} {accepts b : Bool} {ring : Nat} {n : Option Nat} {s t : State}
    (h : handover i accepts ring s = (n, b, t)) : CoreKept s t := by
  have hk : CoreKept s (handover i accepts ring s).2.2 :=
    iteInduction (motive := fun x : Option Nat × Bool × State => CoreKept s x.2.2) (fun _ => rfl) fun _ =>
      iteInduction (motive := fun x : Option Nat × Bool × State => CoreKept s x.2.2) (fun _ => rejectImage_core ..) fun _ =>
        iteInduction (motive := fun x : Option Nat × Bool × State => CoreKept s x.2.2) (fun _ => rfl) fun _ => rfl
  rwa [h] at hk

@[simp] theorem activateOp_sound (r : CmdRef) (accepts : Bool) (s : State) : SoundKept s (activateOp r accepts s) := by
  unfold activateOp
  split
  · exact finishErr_sound ..
  · split
    · exact finish_sound ..
    · split
      · next h => exact soundKept_trans (soundKept_of_core (handover_core h)) (finishOk_sound ..)
      · next h => exact soundKept_trans (soundKept_of_core (handover_core h)) (finish_sound ..)
      · next h => exact soundKept_trans (soundKept_of_core (handover_core h)) (finishErr_sound ..)

@[simp] theorem armOp_sound (r : CmdRef) (s : State) : SoundKept s (armOp r s) := by
  unfold armOp
  split
  · exact finishErr_sound ..
  · exact soundKept_after (finishOk_sound ..) rfl

@[simp] theorem pldmActivate_core (accepts : Bool) (s : State) : CoreKept s (pldmActivate accepts s) := by
  unfold pldmActivate
  split
  · exact rfl
  · split
    · exact rfl
    · split
      · exact rfl
      · exact coreKept_trans (handover_core rfl) rfl

@[simp] theorem resetCores_core (mask : Nat) (s : State) : CoreKept s (resetCores mask s) := by
  simp [CoreKept, resetCores]

@[simp] theorem flushMsix_core (s : State) : CoreKept s (flushMsix s) := by
  refine foldl_core (fun t v => ?_) (List.range 256) s
  split <;> simp [CoreKept]

@[simp] theorem writeMsix_core (off v : Nat) (s : State) : CoreKept s (writeMsix off v s) := by
  simp [CoreKept, writeMsix]

@[simp] theorem requesterOf_core (a : Agent) (s : State) : CoreKept s (requesterOf a s).2 := by
  unfold requesterOf
  split <;> simp [CoreKept]

@[simp] theorem hostRecord_core (code : Nat) (unit : Option Nat) (a : Agent) (addr kind ans data : Nat) (s : State) :
    CoreKept s (hostRecord code unit a addr kind ans data s) := by
  simp [CoreKept, hostRecord]

@[simp] theorem refuseReg_core (a : Agent) (off v : Nat) (s : State) : CoreKept s (refuseReg a off v s) := by
  unfold refuseReg
  split <;> simp [CoreKept]

@[simp] theorem missReg_core (a : Agent) (off : Nat) (s : State) : CoreKept s (missReg a off s) := by
  unfold missReg
  split <;> simp [CoreKept]

@[simp] theorem doeOp_core (typ index len : Nat) (busy : Bool) (s : State) : CoreKept s (doeOp typ index len busy s) := by
  unfold doeOp
  split <;> simp [CoreKept]

@[simp] theorem doeGo_core (s : State) : CoreKept s (doeGo s) := by
  simp [CoreKept, doeGo]

theorem hostRequest_sound {f : State → State} (hf : ∀ t, SoundKept t (f t)) (q : HostReq) (s : State) :
    SoundKept s (hostRequest q f s) := by
  unfold hostRequest
  split
  · exact soundKept_refl s
  · split
    · exact soundKept_of_core (coreKept_trans (hostRecord_core ..) (unsupportedRequest_core ..))
    · exact hf s

theorem hostRequest_core {f : State → State} (hf : ∀ t, CoreKept t (f t)) (q : HostReq) (s : State) :
    CoreKept s (hostRequest q f s) := by
  unfold hostRequest
  split
  · exact rfl
  · split
    · exact coreKept_trans (hostRecord_core ..) (unsupportedRequest_core ..)
    · exact hf s

theorem cfgRequest_core {f : State → State} (hf : ∀ t, CoreKept t (f t)) (s : State) : CoreKept s (cfgRequest f s) := by
  unfold cfgRequest
  split
  · exact rfl
  · split
    · exact rfl
    · exact hf s

theorem agentRequest_core {f : State → State} (hf : ∀ t, CoreKept t (f t)) (a : Agent) (q : HostReq) (s : State) :
    CoreKept s (agentRequest a q f s) := by
  unfold agentRequest
  split
  · exact hostRequest_core hf q s
  · split
    · exact coreKept_trans (wakeCore_core ..) (hf _)
    · exact rfl

theorem bar0Read_core (off size : Nat) (s : State) : CoreKept s (bar0Read off size s).2 := by
  unfold bar0Read
  split
  · exact rfl
  · split
    · exact rfl
    · extract_lets r
      dsimp only
      split
      · exact rfl
      · exact rfl

@[simp] theorem modMb_core (m : Nat) (f : Mailbox → Mailbox) (s : State) : CoreKept s (modMb m f s) := by
  simp [CoreKept, modMb]

@[simp] theorem signalAgent_core (code m : Nat) (s : State) : CoreKept s (signalAgent code m s) := by
  unfold signalAgent
  (repeat' split) <;> simp [CoreKept]

@[simp] theorem mbRefuseAs_core (cause : Nat) (a : Agent) (m addr kind data : Nat) (s : State) :
    CoreKept s (mbRefuseAs cause a m addr kind data s) := by
  unfold mbRefuseAs
  (repeat' split) <;> simp [CoreKept]

@[simp] theorem mbRefuse_core (a : Agent) (a1 a2 a3 a4 : Nat) (a5 : State) : CoreKept a5 (mbRefuse a a1 a2 a3 a4 a5) := by
  simp [CoreKept, mbRefuse]

@[simp] theorem slotWrite_core (a : Agent) (m off : Nat) (bs : List Byte) (s : State) :
    CoreKept s (slotWrite a m off bs s) := by
  unfold slotWrite
  split <;> simp [CoreKept]

@[simp] theorem readData_core (a : Agent) (bs : List Byte) (s : State) : CoreKept s (readData a bs s) := by
  unfold readData
  split <;> simp [CoreKept]

@[simp] theorem commitMb_core (cause : Nat) (a : Agent) (m : Nat) (more : List Byte) (s : State) :
    CoreKept s (commitMb cause a m more s) := by
  unfold commitMb
  split <;> simp [CoreKept]

@[simp] theorem releaseMb_core (a : Agent) (m v : Nat) (s : State) : CoreKept s (releaseMb a m v s) := by
  unfold releaseMb
  (repeat' split) <;> simp [CoreKept]

@[simp] theorem configMb_core (a : Agent) (m v : Nat) (s : State) : CoreKept s (configMb a m v s) := by
  unfold configMb
  split <;> simp [CoreKept]

@[simp] theorem doorbell_core (n v : Nat) (s : State) : CoreKept s (doorbell n v s) := by
  simp only [doorbell]
  split <;> simp [CoreKept]

@[simp] theorem bar4Refuse_core (a : Agent) (off data : Nat) (s : State) : CoreKept s (bar4Refuse a off data s) := by
  unfold bar4Refuse
  split <;> simp [CoreKept]

@[simp] theorem bar4Word_core (a : Agent) (off v : Nat) (s : State) : CoreKept s (bar4Word a off v s) := by
  simp only [bar4Word]
  (repeat' split) <;> simp [CoreKept]

@[simp] theorem bar4Write_core (a : Agent) (off : Nat) (bs : List Byte) (s : State) : CoreKept s (bar4Write a off bs s) := by
  unfold bar4Write
  (repeat' split) <;> simp [CoreKept]

@[simp] theorem bar4ReadAs_core (cause : Nat) (a : Agent) (off size : Nat) (s : State) :
    CoreKept s (bar4ReadAs cause a off size s) := by
  unfold bar4ReadAs
  (repeat' split) <;> simp [CoreKept]

@[simp] theorem bar4Read_core (a : Agent) (a1 a2 : Nat) (a3 : State) : CoreKept a3 (bar4Read a a1 a2 a3) := by
  simp [CoreKept, bar4Read]

@[simp] theorem countRefused_core (s : State) : CoreKept s (countRefused s) := by
  simp [CoreKept, countRefused]

@[simp] theorem readBar2_sound (off len : Nat) (s : State) : SoundKept s (readBar2 off len s) := by
  unfold readBar2
  extract_lets a abort refuse
  have habort : ∀ t, SoundKept t (abort t) := fun t =>
    soundKept_of_core (coreKept_trans (countRefused_core t) (completerAbort_core ..))
  have hrefuse : ∀ t, SoundKept t (refuse t) := fun t =>
    soundKept_trans (soundKept_of_core (hostRecord_core ..)) (habort _)
  split
  · exact hrefuse s
  · split
    · next hread => exact soundKept_trans (soundKept_of_snd hread (spaceRead_sound ..)) (soundKept_of_core rfl)
    · next hread =>
      exact soundKept_trans (soundKept_of_snd hread (spaceRead_sound ..)) (soundKept_ite (habort _) (hrefuse _))

@[simp] theorem writeBar2_sound (off : Nat) (bs : List Byte) (s : State) : SoundKept s (writeBar2 off bs s) := by
  unfold writeBar2
  extract_lets a drop
  have hdrop : ∀ t, SoundKept t (drop t) := fun t =>
    soundKept_of_core (coreKept_trans (hostRecord_core ..) (countRefused_core _))
  split
  · exact hdrop s
  · split
    · next hwrite => exact soundKept_of_snd hwrite (spaceWrite_sound ..)
    · next hwrite =>
      exact soundKept_trans (soundKept_of_snd hwrite (spaceWrite_sound ..))
        (soundKept_ite (soundKept_of_core (countRefused_core _)) (hdrop _))

@[simp] theorem noBar_core (q : HostReq) (s : State) : CoreKept s (noBar q s) := by
  simp [CoreKept, noBar]

@[simp] theorem readBar0_core (off len : Nat) (s : State) : CoreKept s (readBar0 off len s) := by
  unfold readBar0
  split
  · next hread => exact coreKept_trans (coreKept_of_snd hread (bar0Read_core ..)) rfl
  · next hread =>
    exact coreKept_trans (coreKept_of_snd hread (bar0Read_core ..)) (coreKept_trans (hostRecord_core ..) (completerAbort_core ..))

@[simp] theorem hostLoad_sound (off len : Nat) (s : State) : SoundKept s (hostLoad off len s) := by
  unfold hostLoad
  (repeat' split) <;> (refine ⟨?_, fun hw => ?_⟩ <;> simp [*])

theorem readFails_sound {f : CmdRef → State → State} (hf : ∀ r t, SoundKept t (f r t)) (ring : Nat) (s : State) :
    SoundKept s (readFails ring f s) := by
  unfold readFails
  split
  · extract_lets u
    have hu : SoundKept s u := by
      unfold u
      split
      · exact soundKept_of_core rfl
      · exact soundKept_refl s
    exact soundKept_trans hu (hf ..)
  · exact soundKept_ite (unread_sound ..) (soundKept_refl s)

@[simp] theorem dmaFails_sound (engine : Nat) (rd : DmaRead) (addr : Nat) (st : Status) (s : State) :
    SoundKept s (dmaFails engine rd addr st s) := by
  unfold dmaFails
  split
  · exact soundKept_refl s
  · split
    next t i hlog =>
    extract_lets ends g
    have hends : ∀ r u, SoundKept u (ends r u) := fun r u => finishRec_sound ..
    refine soundKept_trans (soundKept_of_core (t := t) ?_) ?_
    · have hrec := coreKept_of_rim (logRec_rim (mkRec s .deferred 0x0805 (some engine) none [(0, addr), (10, 0)]) s)
      rw [hlog] at hrec
      exact hrec
    · split
      · exact soundKept_trans (t := modRing rd.ring (fun g => { g with head := (g.head + 1) % 65536, busy := true }) t)
          (soundKept_of_core rfl) (hends ..)
      · exact readFails_sound hends ..

@[simp] theorem mergedOp_core (v : Nat) (s : State) : CoreKept s (mergedOp v s) := by
  simp only [mergedOp]
  (repeat' split) <;> simp [CoreKept]

@[simp] theorem unmaskOp_core (v : Option Nat) (s : State) : CoreKept s (unmaskOp v s) := by
  simp [CoreKept, unmaskOp]

@[simp] theorem mgmtCommand_core (op loc tag : Nat) (s : State) : CoreKept s (mgmtCommand op loc tag s) := by
  unfold mgmtCommand
  split <;> simp [CoreKept]

@[simp] theorem mgmtRead_core (off width : Nat) (s : State) : CoreKept s (mgmtRead off width s) := by
  unfold mgmtRead
  split
  · exact rfl
  · split
    · next hread => exact coreKept_trans (coreKept_of_snd hread (bar0Read_core ..)) rfl
    · next hread => exact coreKept_trans (coreKept_of_snd hread (bar0Read_core ..)) rfl

@[simp] theorem countMctp_core (s : State) : CoreKept s (countMctp s) := by
  simp [CoreKept, countMctp]

@[simp] theorem mctpOp_core (command eid : Nat) (s : State) : CoreKept s (mctpOp command eid s) := by
  unfold mctpOp
  (repeat' split) <;> simp [CoreKept]

@[simp] theorem pldmBase_core (command value : Nat) (s : State) : CoreKept s (pldmBase command value s) := by
  have he : ∀ o t, CoreKept t (emit o t) := fun _ _ => rfl
  have ht : ∀ b o, CoreKept s (emit o { s with board := b }) := fun _ _ => rfl
  refine coreKept_ite (ht ..) (coreKept_ite (he ..) (coreKept_ite (he ..) (coreKept_ite (he ..) (coreKept_ite ?_
    (coreKept_ite (he ..) (coreKept_ite ?_ (coreKept_trans (countMctp_core ..) (he ..))))))))
  · split
    next h => exact coreKept_trans (coreKept_of_snd h (freeBytes_core ..)) (he ..)
  · split
    next h => exact coreKept_trans (coreKept_of_snd h (freeBytes_core ..)) (he ..)

@[simp] theorem monitorOp_core (x : Sensor) (s : State) : CoreKept s (monitorOp x s) := by
  have he : ∀ o t, CoreKept t (emit o t) := fun _ _ => rfl
  have hb : CoreKept s (emit (.pldmStatus false false) (countMctp s)) := coreKept_trans (countMctp_core ..) (he ..)
  have hm : ∀ o n, CoreKept s (emit o { s with free := n }) := fun _ _ => rfl
  unfold monitorOp
  extract_lets measured bad
  cases x with
  | numeric id =>
    exact coreKept_ite (he ..) (coreKept_ite (he ..) (coreKept_ite (he ..) (coreKept_ite (hm ..) hb)))
  | power => exact he ..
  | base c v => exact pldmBase_core ..
  | partition p => exact coreKept_ite (he ..) hb

@[simp] theorem plicLoad_core (o : Nat) (s : State) : CoreKept s (plicLoad o s).2 := by
  unfold plicLoad
  (repeat' split) <;> simp [CoreKept]

@[simp] theorem coreLoad_sound (n cause addr size : Nat) (s : State) : SoundKept s (coreLoad n cause addr size s) := by
  unfold coreLoad
  extract_lets bad word o
  have hfault : ∀ t, SoundKept t (coreFaults n cause addr t) := fun t => soundKept_of_core (coreFaults_core ..)
  have hdata : ∀ bs t, SoundKept t (emit (.coreData n bs) t) := fun bs t => soundKept_of_core rfl
  have hspace := spaceRead_sound addr (size / 64 + 2) size s
  have hbar := bar0Read_core (addr - coreBar0) size s
  have hbar4 := bar4ReadAs_core cause (.core n) (addr - coreBar4) size s
  have hplic := plicLoad_core (addr - 0x380000000000) s
  apply soundKept_ite (hfault s)
  apply soundKept_ite
  · split
    · next h => exact soundKept_trans (soundKept_of_snd h hspace) (hdata ..)
    · next h => exact soundKept_trans (soundKept_of_snd h hspace) (hfault _)
  apply soundKept_ite
  · split
    · next h => exact soundKept_trans (soundKept_of_core (coreKept_of_snd h hbar)) (hdata ..)
    · next h => exact soundKept_trans (soundKept_of_core (coreKept_of_snd h hbar)) (hfault _)
  apply soundKept_ite (soundKept_of_core hbar4)
  apply soundKept_ite
  · refine soundKept_ite ?_ (hfault s)
    split
    next h => exact soundKept_trans (soundKept_of_core (coreKept_of_snd h hplic)) (hdata ..)
  apply soundKept_ite
  · exact soundKept_ite (hfault s) (soundKept_ite (hdata ..) (hdata ..))
  exact soundKept_ite (hdata ..) (hfault s)

@[simp] theorem coreAmo_sound (n addr : Nat) (op : AmoOp) (size : Nat) (v : W64) (s : State) :
    SoundKept s (coreAmo n addr op size v s) := by
  have hspace := spaceRead_sound addr 2 size s
  have hfault : ∀ t, SoundKept t (coreFaults n 7 addr t) := fun t => soundKept_of_core (coreFaults_core ..)
  unfold coreAmo
  split
  · split
    · next h =>
      refine soundKept_trans (soundKept_of_snd h hspace) (soundKept_trans (soundKept_trans (spaceWrite_sound ..)
        (soundKept_of_core (endReserve_core (addr / 64) _))) (soundKept_of_core rfl))
    · next h => exact soundKept_trans (soundKept_of_snd h hspace) (hfault _)
  · exact hfault s

@[simp] theorem coreLr_sound (n addr size : Nat) (s : State) : SoundKept s (coreLr n addr size s) := by
  have hspace := spaceRead_sound addr 2 size s
  unfold coreLr
  split
  · split
    · next h => exact soundKept_trans (soundKept_of_snd h hspace) (soundKept_of_core rfl)
    · next h => exact soundKept_trans (soundKept_of_snd h hspace) (soundKept_of_core (coreFaults_core ..))
  · exact soundKept_of_core (coreFaults_core ..)

@[simp] theorem coreSc_sound (n addr : Nat) (bs : List Byte) (ok : Bool) (s : State) : SoundKept s (coreSc n addr bs ok s) := by
  unfold coreSc
  extract_lets s1
  have h1 : SoundKept s s1 := soundKept_of_core (modCore_core ..)
  have hspace := spaceWrite_sound addr 2 bs s1
  have hfault : ∀ t, SoundKept t (coreFaults n 7 addr t) := fun t => soundKept_of_core (coreFaults_core ..)
  split
  · split
    · refine soundKept_trans h1 ?_
      split
      · next h => exact soundKept_trans (soundKept_of_snd h hspace) (soundKept_of_core
          (coreKept_trans (endReserve_core (addr / 64) _) rfl))
      · next h => exact soundKept_trans (soundKept_of_snd h hspace) (hfault _)
    · exact soundKept_trans h1 (soundKept_of_core rfl)
  · exact hfault s

@[simp] theorem bootOp_sound (r : CmdRef) (addr size entry mask fails : Nat) (s : State) :
    SoundKept s (bootOp r addr size entry mask fails s) := by
  have hspace := spaceRead_sound addr (size / 64 + 2) size s
  unfold bootOp
  split
  · exact finish_sound ..
  · split
    · exact finishErr_sound ..
    · split
      · next h => exact soundKept_trans (soundKept_of_snd h hspace) (finishRec_sound ..)
      · next bs t h =>
        extract_lets blk has k go a b u
        refine soundKept_trans (soundKept_of_snd h hspace) ?_
        split
        · exact soundKept_trans (soundKept_of_core (rejectImage_core ..)) (finish_sound ..)
        · refine soundKept_trans (t := u) (soundKept_of_core rfl) ?_
          split
          · exact finishErr_sound ..
          · exact finishOk_sound ..

@[simp] theorem scanData_core (i : Jtag) (s : State) : CoreKept s (scanData i s).2 := by
  unfold scanData
  split <;> simp [CoreKept]

@[simp] theorem idle_sound (s : State) : SoundKept s (idle s) := by
  unfold idle
  extract_lets u
  have hu : SoundKept s u := by
    refine foldl_sound (fun t k => ?_) [0, 1, 2, 3] s
    exact writeCopies_sound k 256 t
  refine soundKept_trans hu (soundKept_ite (soundKept_of_core (coreKept_of_rim (advanceTo_rim ..))) (soundKept_ite ?_ ?_))
  · exact freqRestartOp_sound u
  · exact soundKept_of_core (advanceGtc_core ..)

@[simp] theorem awake_core (a : Agent) (a1 : State) : CoreKept a1 (awake a a1) := by
  unfold awake
  split <;> simp [CoreKept]

end Sys2Proof.Machine
end

section
/-! SUPPORT. A legal partition map and the canonical form of tier memory under the operations that write the map (R26), under the
accesses that may reach its register, and under every command and event. From these the invariant is settled. -/

-- One proof after another: many at a time need more memory than the check of the whole text has.
set_option Elab.async false

namespace Sys2Proof.Machine

/-- Between two states the legal map and the canonical form of tier memory, where they hold, go on to hold. -/
structure LegalKept (s t : State) : Prop where
  sound : Sound s → Sound t

theorem legalKept_of_sound {s t : State} (h : SoundKept s t) : LegalKept s t := by
  obtain ⟨hmap, hmem⟩ := h
  have hmap : t.partMap = s.partMap := hmap
  exact ⟨fun ⟨hparts, hs⟩ => ⟨⟨hmap ▸ hparts.1, hmap ▸ hparts.2⟩, hmem hs⟩⟩

theorem legalKept_of_core {s t : State} (h : CoreKept s t) : LegalKept s t := legalKept_of_sound (soundKept_of_core h)

theorem legalKept_refl (s : State) : LegalKept s s := ⟨id⟩

theorem next_legal {s t u : State} (h : (.next u : Host.Outcome State Fault Refusal) = .next t) (hk : LegalKept s u) : LegalKept s t :=
  Host.Outcome.next.inj h ▸ hk

theorem legalKept_trans {s t u : State} (h : LegalKept s t) (h' : LegalKept t u) : LegalKept s u := ⟨h'.sound ∘ h.sound⟩

/-- What a register write comes to (R392) goes on to be legal, where there is a state after it. -/
def WriteKept (s : State) : WOut → Prop
  | .done t | .partly t => LegalKept s t
  | .refused | .absent => True

theorem writeKept_ite {c : Prop} [Decidable c] {s : State} {v w : WOut} (hv : WriteKept s v) (hw : WriteKept s w) :
    WriteKept s (if c then v else w) := by
  split
  · exact hv
  · exact hw

theorem writeKept_done {s t : State} (h : CoreKept s t) : WriteKept s (.done t) := legalKept_of_core h

theorem writePartMap_legal (v : Nat) (s : State) : LegalKept s (writePartMap v s).2 := by
  unfold writePartMap
  extract_lets m ps
  split
  · constructor
    intro hs
    have hmem : SoundKept s (ps.foldl (fun s p => partReset p s) s) :=
      foldl_sound (f := fun s p => partReset p s) (fun t p => partReset_sound p t) ps s
    refine ⟨⟨?_, ?_⟩, hmem.2 hs.mem⟩
    · simp [m, partMapOf]
    · simp [m, partMapOf]
  · exact legalKept_refl _

theorem writeGlobal_kept (off v : Nat) (s : State) : WriteKept s (writeGlobal off v s) := by
  unfold writeGlobal
  refine writeKept_ite ?_ (writeKept_ite (writeKept_done rfl) (writeKept_ite (writeKept_done (resetCores_core ..)) ?_))
  · split
    · next h =>
      have hmap := writePartMap_legal v s
      rw [h] at hmap
      exact hmap
    · trivial
  · refine writeKept_ite (writeKept_ite (writeKept_done (coreKept_of_rim (signal_rim ..))) trivial) (writeKept_ite ?_ (writeKept_ite ?_ trivial))
    · extract_lets p f t
      refine writeKept_ite trivial (writeKept_done ?_)
      exact coreKept_trans (t := t) rfl (foldl_core (fun u b => satisfyOne_core ..) _ t)
    · exact writeKept_done (writeMsix_core ..)

theorem writeClock_kept (off v : Nat) (s : State) : WriteKept s (writeClock off v s) :=
  writeKept_ite (writeKept_done rfl) (writeKept_ite (writeKept_done rfl)
    (writeKept_ite (writeKept_done rfl) trivial))

theorem writeBand_kept (b off v : Nat) (s : State) : WriteKept s (writeBand b off v s) :=
  writeKept_ite (writeKept_done rfl) (writeKept_ite (writeKept_done rfl)
    (writeKept_ite (writeKept_done rfl) trivial))

theorem writePlinth_kept (k off v : Nat) (s : State) : WriteKept s (writePlinth k off v s) :=
  writeKept_ite (writeKept_done rfl) (writeKept_ite (writeKept_done rfl)
    (writeKept_ite (writeKept_done rfl) (writeKept_ite (writeKept_done rfl)
      (writeKept_ite (writeKept_done rfl) (writeKept_ite (writeKept_done rfl) trivial)))))

theorem writeLink_kept (l off v : Nat) (s : State) : WriteKept s (writeLink l off v s) :=
  writeKept_ite (writeKept_done rfl) (writeKept_ite (writeKept_done rfl) trivial)

theorem writeChan_kept (c off v : Nat) (s : State) : WriteKept s (writeChan c off v s) := by
  unfold writeChan
  extract_lets set
  have hset : ∀ f, WriteKept s (set f) := fun f => writeKept_ite (writeKept_done rfl) trivial
  clear_value set
  iterate 13 apply writeKept_ite (hset _)
  trivial

theorem writeRing_kept (n off v : Nat) (s : State) : WriteKept s (writeRing n off v s) := by
  have hset : LegalKept s (modRing n (writeRingCfg v) s) := legalKept_of_sound (soundKept_of_core rfl)
  exact writeKept_ite (writeKept_ite hset hset) (writeKept_ite (writeKept_done rfl) trivial)

theorem writeErr_kept (off v : Nat) (s : State) : WriteKept s (writeErr off v s) :=
  writeKept_ite (writeKept_done rfl) (writeKept_ite (writeKept_done rfl)
    (writeKept_ite (writeKept_done rfl) trivial))

theorem write32_kept (off v : Nat) (s : State) : WriteKept s (write32 off v s) := by
  unfold write32
  apply writeKept_ite
  · trivial
  apply writeKept_ite (writeGlobal_kept ..)
  apply writeKept_ite (writeClock_kept ..)
  apply writeKept_ite
  · exact writeKept_done rfl
  apply writeKept_ite (writeRing_kept ..)
  apply writeKept_ite (writeBand_kept ..)
  apply writeKept_ite (writePlinth_kept ..)
  apply writeKept_ite (writeLink_kept ..)
  apply writeKept_ite
  · exact writeKept_done rfl
  apply writeKept_ite (writeChan_kept ..)
  apply writeKept_ite (writeErr_kept ..)
  trivial

theorem write64_kept (off v : Nat) (s : State) : WriteKept s (write64 off v s) :=
  writeKept_ite trivial (writeKept_ite (writeKept_done rfl)
    (writeKept_ite (writeKept_ite trivial (writeKept_done rfl)) trivial))

theorem write4_kept (off v : Nat) (s : State) : WriteKept s (write4 off v s) :=
  writeKept_ite (write32_kept ..) (writeKept_ite (writeKept_ite (write64_kept ..) (writeKept_done rfl)) trivial)

theorem settleWrite_legal {s : State} {w : WOut} (hw : WriteKept s w) (a : Agent) (off v : Nat) :
    LegalKept s (settleWrite a off v s w) := by
  have hrefuse : ∀ t, LegalKept t (refuseReg a off v t) := fun t => legalKept_of_sound (soundKept_of_core (refuseReg_core ..))
  cases w with
  | done t => exact hw
  | partly t => exact legalKept_trans hw (hrefuse t)
  | refused => exact hrefuse s
  | absent => exact legalKept_of_sound (soundKept_of_core (missReg_core ..))

theorem writeReg_legal (a : Agent) (off size v : Nat) (s : State) : LegalKept s (writeReg a off size v s) := by
  unfold writeReg
  split
  · exact settleWrite_legal (write4_kept ..) ..
  · split
    · exact settleWrite_legal (write64_kept ..) ..
    · extract_lets none2 half
      have hhalf : ∀ o w t, LegalKept t (half o w t) := fun o w t => by
        unfold half
        split
        · exact legalKept_refl _
        · exact settleWrite_legal (write4_kept ..) ..
      split
      · exact legalKept_of_sound (soundKept_of_core (missReg_core ..))
      · exact legalKept_trans (hhalf _ _ s) (hhalf _ _ _)

theorem bar0Write_legal (a : Agent) (off size v : Nat) (s : State) : LegalKept s (bar0Write a off size v s) := by
  have hcore : ∀ {t}, CoreKept s t → LegalKept s t := fun h => legalKept_of_sound (soundKept_of_core h)
  unfold bar0Write
  split
  · split
    · exact hcore (hostRecord_core ..)
    · exact hcore (coreKept_trans (hostRecord_core ..) (coreFaults_core ..))
  · split
    · split
      · exact hcore (refuseReg_core ..)
      · exact writeReg_legal ..
    · split
      · exact writeReg_legal ..
      · split
        · exact hcore (refuseReg_core ..)
        · exact hcore (missReg_core ..)

theorem registerStore_legal (a : Agent) (off size v : Nat) (s : State) : LegalKept s (registerStore a off size v s) := by
  have hcore : ∀ {t}, CoreKept s t → LegalKept s t := fun h => legalKept_of_sound (soundKept_of_core h)
  unfold registerStore
  split
  · exact bar0Write_legal ..
  · split
    · exact hcore (bar4Write_core ..)
    · split
      · exact hcore (noBar_core ..)
      · exact hcore (coreFaults_core ..)

theorem coreStore_legal (n addr : Nat) (bs : List Byte) (s : State) : LegalKept s (coreStore n addr bs s) := by
  have hcore : ∀ {t}, CoreKept s t → LegalKept s t := fun h => legalKept_of_sound (soundKept_of_core h)
  have hspace := spaceWrite_sound addr (bs.length / 64 + 2) bs s
  unfold coreStore
  extract_lets fault size word o t
  have hfault : ∀ t, CoreKept t (fault t) := fun t => coreFaults_core ..
  split
  · exact hcore (hfault s)
  · split
    · split
      · next h => exact legalKept_of_sound (soundKept_trans (soundKept_of_snd h hspace) (soundKept_of_core (endReserve_core ..)))
      · next h => exact legalKept_of_sound (soundKept_trans (soundKept_of_snd h hspace) (soundKept_of_core (hfault _)))
    · split
      · exact bar0Write_legal ..
      · refine legalKept_of_sound ?_
        apply soundKept_ite (soundKept_of_core (bar4Write_core ..))
        apply soundKept_ite
        · apply soundKept_ite (soundKept_of_core (hfault s))
          apply soundKept_ite (soundKept_refl s)
          exact soundKept_ite (soundKept_of_core (plicComplete_core ..)) (soundKept_of_core rfl)
        · apply soundKept_ite
          · exact soundKept_ite (soundKept_of_core (hfault s)) (soundKept_ite (soundKept_refl s) (soundKept_of_core rfl))
          · exact soundKept_ite (soundKept_of_core (hfault s)) (soundKept_of_core (coreKept_trans (unpopulated_core ..) (hfault _)))

theorem partMapOk_of_reset {s : State} (h : s.partMap = [0, 0, 0, 0, 0, 0, 0, 0]) : PartMapOk s := by
  rw [PartMapOk, h]
  decide

theorem partResets_sound (s : State) : SoundKept s ([0, 1, 2, 3].foldl (fun s p => partReset p s) s) :=
  foldl_sound (f := fun s p => partReset p s) (fun t p => partReset_sound p t) [0, 1, 2, 3] s

theorem functionReset_legal (all : Bool) (s : State) : LegalKept s (functionReset all s) := by
  unfold functionReset
  extract_lets u v w x
  have hx : SoundKept s x := soundKept_trans (soundKept_of_core (coreKept_trans (t := v) (dropFlights_core all s) rfl))
    (soundKept_trans (partResets_sound v) (resetLinks_sound w))
  clear_value x
  exact ⟨fun hs => ⟨partMapOk_of_reset rfl, hx.2 hs.mem⟩⟩

theorem trainLinks_legal (s : State) : LegalKept s (trainLinks s) := legalKept_of_core (trainLinks_core s)

theorem flrOp_legal (s : State) : LegalKept s (flrOp s) := by
  unfold flrOp
  split
  · exact legalKept_refl s
  · split
    next u v hdraw =>
    have hv : LegalKept s v := legalKept_trans (legalKept_trans (functionReset_legal false s) (legalKept_of_core (noteCause_core ..)))
      (legalKept_of_core (coreKept_of_snd hdraw (takeFree_core _)))
    clear hdraw
    refine legalKept_trans hv (legalKept_trans ?_ (trainLinks_legal _))
    exact legalKept_of_core rfl

theorem perstReset_legal (all : Bool) (s : State) : LegalKept s (perstReset all s) := by
  unfold perstReset
  extract_lets u
  have hu : LegalKept s u := legalKept_trans (functionReset_legal all s) (legalKept_of_sound (soundKept_trans (undrain_sound _)
    (soundKept_of_core (noteCause_core 1 _))))
  clear_value u
  exact legalKept_trans hu (legalKept_of_core rfl)

theorem enterAux_legal (why : AuxWhy) (s : State) : LegalKept s (enterAux why s) := by
  unfold enterAux
  extract_lets u
  have hu : LegalKept s u := legalKept_trans (perstReset_legal true s) (legalKept_of_core (endActive_core .aux _))
  clear_value u
  exact legalKept_trans hu (legalKept_of_sound ⟨rfl, fun _ => memory_wf_reset⟩)

theorem perstOp_legal (s : State) : LegalKept s (perstOp s) := by
  refine legalKept_trans (t := { s with pcie := { s.pcie with perst := true } }) (legalKept_of_core rfl) ?_
  unfold perstOp
  extract_lets p u
  split
  · exact legalKept_refl u
  · exact perstReset_legal false u

theorem dlDownOp_legal (s : State) : LegalKept s (dlDownOp s) := by
  unfold dlDownOp
  split
  · exact legalKept_refl s
  · exact legalKept_trans (t := { s with pcie := { s.pcie with down := true } }) (legalKept_of_core rfl)
      (perstReset_legal ..)

theorem powerDown_legal (r : CmdRef) (target : Nat) (s : State) : LegalKept s (powerDown r target s) := by
  unfold powerDown
  split
  · exact legalKept_of_sound (soundKept_ite (finish_sound ..) (finishErrR_sound ..))
  · split
    · exact legalKept_of_sound (soundKept_trans (enterIdle_sound s) (finishOk_sound ..))
    · split
      · exact legalKept_of_sound (soundKept_trans (enterStandby_sound s) (finishOk_sound ..))
      · exact legalKept_trans (legalKept_of_sound (finishOk_sound r 3 s)) (enterAux_legal ..)

theorem powerOp_legal (r : CmdRef) (goal : PowerGoal) (s : State) : LegalKept s (powerOp r goal s) := by
  have hfinish : ∀ n t, LegalKept t (finishOk r n t) := fun n t => legalKept_of_sound (finishOk_sound ..)
  unfold powerOp
  extract_lets target done p active idle main
  have hidle : LegalKept s idle := by
    have hclocks : CoreKept active (if active.clk.mcc = 0 then startClocks active else startArith id (relock active)) := by
      split
      · exact startClocks_core active
      · exact coreKept_trans (relock_core active) (startArith_core ..)
    exact legalKept_of_sound (soundKept_trans (soundKept_of_core (beginActive_core s))
      (soundKept_trans (soundKept_of_core hclocks) (setTarget_sound ..)))
  have hmain : LegalKept s main := legalKept_of_core (mainSeen_core s)
  have hdone : LegalKept s done := hfinish 0 s
  clear_value idle main done
  split
  · exact hfinish target s
  · split
    · split
      · exact legalKept_trans hdone (legalKept_of_core rfl)
      · exact powerDown_legal r target s
    · refine legalKept_trans hidle ?_
      split
      · exact hfinish 0 idle
      · exact powerDown_legal r target idle
    · exact legalKept_of_sound (soundKept_trans (leaveStandby_sound ..) (soundKept_of_core (launch_core ..)))
    · refine legalKept_trans hmain ?_
      split
      · exact legalKept_of_sound (finishErrR_sound ..)
      · exact legalKept_of_core rfl

theorem foldl_legal {α : Type} {f : State → α → State} (h : ∀ s x, LegalKept s (f s x)) (l : List α) (s : State) :
    LegalKept s (l.foldl f s) := by
  induction l generalizing s with
  | nil => exact legalKept_refl s
  | cons x r ih => rw [List.foldl_cons]; exact legalKept_trans (h s x) (ih _)

theorem readyOp_legal (s : State) : LegalKept s (readyOp s) := by
  have hp : ∀ (q : Power) (x : State), CoreKept x { x with pwr := q } := fun _ _ => rfl
  unfold readyOp
  extract_lets fuses p u v sec w
  have hu : LegalKept s u := legalKept_of_core (coreKept_trans (advanceFuses_core s) (hp p fuses))
  have hv : LegalKept u v := by
    refine legalKept_trans (t := if u.clk.run = .running then setTarget (max u.pwr.cap u.pwr.pmLevel) u else u) ?_ (trainLinks_legal _)
    exact legalKept_of_sound (soundKept_ite (setTarget_sound ..) (soundKept_refl u))
  have hw : LegalKept v w := by
    unfold w
    split
    · exact legalKept_of_core (coreKept_trans (coreKept_trans (coreKept_trans (t := { v with sec := { v.sec with waitingImage := none } })
        rfl (dropWaiting_core _)) (takeFree_core _)) (asyncCommit_core ..))
    · exact legalKept_refl v
  clear_value v w
  split
  · exact legalKept_refl s
  · refine legalKept_trans (legalKept_trans (legalKept_trans hu hv) hw) (foldl_legal (fun t x => ?_) _ w)
    split
    · split
      · exact legalKept_of_sound (finishOk_sound ..)
      · exact powerDown_legal ..
    · exact legalKept_refl t

theorem warmOp_legal (failing : Option Nat) (s : State) : LegalKept s (warmOp failing s) := by
  unfold warmOp
  split
  · exact legalKept_refl s
  · split
    · exact legalKept_of_core rfl
    · extract_lets u armed v log pwr w x
      have hv : LegalKept s v := legalKept_trans (legalKept_of_core (advanceGtc_core ..))
        (legalKept_trans (functionReset_legal true u) (legalKept_of_core (noteCause_core ..)))
      have hw : LegalKept v w := by
        unfold w
        clear_value v
        refine legalKept_trans ?_ (trainLinks_legal _)
        exact legalKept_of_core rfl
      have hx : LegalKept w x := legalKept_of_core (preTest_core ..)
      clear_value v w x
      refine legalKept_trans (legalKept_trans hv (legalKept_trans hw hx)) (legalKept_of_sound ?_)
      exact soundKept_ite (romAttempt_sound ..) (flomorStart_sound ..)

theorem mainLost_legal (volts : Nat) (s : State) : LegalKept s (mainLost volts s) := by
  unfold mainLost
  split
  · exact legalKept_of_core (coreKept_trans (t := { s with pwr := { s.pwr with mainOk := false } }) rfl (railsWait_core _))
  · extract_lets u
    have hu : LegalKept s u := legalKept_trans (legalKept_of_core (moduleFatal_core ..)) (enterAux_legal ..)
    clear_value u
    exact legalKept_trans hu (legalKept_of_core (coreKept_trans (t := { u with pwr := { u.pwr with mainOk := false } }) rfl (noteCause_core ..)))

theorem mainEnOp_legal (high : Bool) (s : State) : LegalKept s (mainEnOp high s) := by
  unfold mainEnOp
  extract_lets p s1
  have h1 : LegalKept s s1 := legalKept_of_core rfl
  refine legalKept_trans h1 ?_
  split
  · exact legalKept_refl s1
  · split
    · exact legalKept_of_core (railsWait_core s1)
    · refine legalKept_trans (legalKept_of_core (takeFree_core s1)) (legalKept_trans ?_ (legalKept_of_core (noteCause_core ..)))
      exact legalKept_trans (legalKept_of_core (moduleFatal_core ..)) (enterAux_legal ..)

theorem tripOp_legal (die tenthC : Nat) (s : State) : LegalKept s (tripOp die tenthC s) := by
  unfold tripOp
  split
  · exact legalKept_refl s
  · refine legalKept_trans (legalKept_trans (legalKept_of_core (moduleFatal_core ..)) (enterAux_legal ..))
      (legalKept_of_core (noteCause_core ..))

theorem tamperOp_legal (s : State) : LegalKept s (tamperOp s) := by
  unfold tamperOp
  extract_lets u sec v p
  have hv : LegalKept s v := legalKept_of_core (coreKept_trans (coreKept_trans (zeroiseOp_core s)
    (t := { u with sec := { u.sec with tamper := true } }) rfl) (moduleFatal_core ..))
  clear_value v
  refine legalKept_trans hv ?_
  split
  · refine legalKept_trans ?_ (legalKept_of_core (dropFlights_core true _))
    exact legalKept_of_core rfl
  · exact enterAux_legal .held v

theorem porOp_legal (wireOpen : Bool) (failing : Option Nat) (s : State) : LegalKept s (porOp wireOpen failing s) := by
  unfold porOp
  extract_lets x u sec v
  have hu : LegalKept s u := ⟨fun _ => ⟨partMapOk_of_reset rfl, memory_wf_reset⟩⟩
  have hv : LegalKept u v := by
    unfold v
    split
    · exact legalKept_of_core (selfTestFails_core ..)
    · exact legalKept_of_core rfl
  clear_value u v
  refine legalKept_trans (legalKept_trans hu hv) ?_
  split
  · exact tamperOp_legal v
  · exact legalKept_refl v

theorem legalKept_ite {c : Prop} [Decidable c] {s t u : State} (ht : LegalKept s t) (hu : LegalKept s u) :
    LegalKept s (if c then t else u) := by
  split
  · exact ht
  · exact hu

theorem cfgPut_legal (off v ones : Nat) (s : State) : LegalKept s (cfgPut off v ones s) := by
  unfold cfgPut
  extract_lets put
  have hput : ∀ f, LegalKept s (put f) := fun f => legalKept_of_core rfl
  have hflush : ∀ t, LegalKept t (flushMsix (flushHeld t)) := fun t =>
    legalKept_of_core (coreKept_trans (flushHeld_core t) (flushMsix_core _))
  clear_value put
  apply legalKept_ite (legalKept_trans (hput _) (hflush _))
  iterate 3 apply legalKept_ite (hput _)
  apply legalKept_ite (legalKept_trans (hput _) (hflush _))
  apply legalKept_ite
  · exact legalKept_trans (hput _) (legalKept_ite (flrOp_legal _) (legalKept_refl _))
  iterate 2 apply legalKept_ite (hput _)
  apply legalKept_ite
  · refine legalKept_trans ?_ (legalKept_of_core (flushMsix_core _))
    exact legalKept_of_core rfl
  iterate 4 apply legalKept_ite (hput _)
  apply legalKept_ite
  · exact legalKept_ite (hput _) (legalKept_ite (legalKept_of_core (doeGo_core s)) (legalKept_refl s))
  iterate 2 apply legalKept_ite (hput _)
  exact legalKept_refl s

theorem cfgWrite_legal (off size v : Nat) (s : State) : LegalKept s (cfgWrite off size v s) := by
  unfold cfgWrite
  split
  · exact legalKept_refl s
  · exact cfgPut_legal ..
theorem announced_legal {s t : State} (h : LegalKept s t) : LegalKept s (announce s t) :=
  legalKept_trans h (legalKept_of_core (announce_core ..))

theorem agentRequest_legal {f : State → State} (hf : ∀ t, LegalKept t (f t)) (a : Agent) (q : HostReq) (s : State) :
    LegalKept s (agentRequest a q f s) := by
  unfold agentRequest
  split
  · unfold hostRequest
    exact legalKept_ite (legalKept_refl s) (legalKept_ite
      (legalKept_of_core (coreKept_trans (hostRecord_core ..) (unsupportedRequest_core ..))) (hf s))
  · split
    · exact legalKept_trans (legalKept_of_core (wakeCore_core ..)) (hf _)
    · exact legalKept_refl s

theorem cfgRequest_legal {f : State → State} (hf : ∀ t, LegalKept t (f t)) (s : State) : LegalKept s (cfgRequest f s) := by
  unfold cfgRequest
  exact legalKept_ite (legalKept_refl s) (legalKept_ite (legalKept_of_core rfl) (hf s))

theorem command_legal {f : CmdRef → State → State} (hf : ∀ r s, LegalKept s (f r s)) (h : CmdHdr) (c : CmdSpec) (s : State) :
    LegalKept s (command h c f s) := by
  obtain ⟨t, hc, ht⟩ := command_cases (f := f) (h := h) (c := c) (s := s) (fun _ hk => legalKept_of_sound hk)
    fun r u hu => legalKept_trans (legalKept_of_sound hu) (hf r u)
  exact hc ▸ announced_legal ht


theorem island_sound {f : Nat → Nat → State → State} (hf : ∀ p j s, SoundKept s (f p j s)) (t b : Nat) (s : State) :
    SoundKept s (island t b f s) := by
  refine soundKept_trans (soundKept_of_core (coreKept_of_rim (advanceTo_rim t s))) ?_
  simp only [island]
  split
  · exact hf ..
  · exact soundKept_refl _

theorem execStreamTransferIssue_legal {k : Fin 4} {engine : Fin 64} {s s' : State}
    (h : execStreamTransferIssue k engine s = .next s') : LegalKept s s' := by
  exact next_legal h (legalKept_ite (legalKept_of_core (issueTransfer_core ..)) (legalKept_refl s))

theorem execFetchWordArrival_legal {k : Fin 4} {ctx gen : Nat} {noise : Noise} {s s' : State}
    (h : execFetchWordArrival k ctx gen noise s = .next s') : LegalKept s s' := by
  exact next_legal h (legalKept_ite (legalKept_of_sound (wordArrives_sound ..)) (legalKept_refl s))

theorem execUpdateCountReached_legal {k : Fin 4} {ctx : Nat} {s s' : State}
    (h : execUpdateCountReached k ctx s = .next s') : LegalKept s s' := by
  exact next_legal h (legalKept_ite (legalKept_of_core (ucArrive_core ..)) (legalKept_refl s))

theorem execStoreWord_legal {k : Fin 4} {ctx : CtxMsg} {s s' : State}
    (h : execStoreWord k ctx s = .next s') : LegalKept s s' := by
  exact next_legal h (legalKept_ite (legalKept_of_sound (storeOne_sound ..)) (legalKept_refl s))

theorem execMcastGrant_legal {k : Fin 4} {ctx : Nat} {grant : Grant} {s s' : State}
    (h : execMcastGrant k ctx grant s = .next s') : LegalKept s s' := by
  exact next_legal h (legalKept_ite (legalKept_of_core (grantMcast_core ..)) (legalKept_refl s))

theorem execMcastTimeout_legal {k : Fin 4} {ctx : Nat} {s s' : State}
    (h : execMcastTimeout k ctx s = .next s') : LegalKept s s' := by
  exact next_legal h (legalKept_of_core (timeoutMcast_core ..))

theorem execDrainTokenReturn_legal {k : Fin 4} {ctx : Nat} {s s' : State}
    (h : execDrainTokenReturn k ctx s = .next s') : LegalKept s s' := by
  exact next_legal h (legalKept_of_core (tokenBack_core ..))

theorem execShardHandoff_legal {k : Fin 4} {ctx : CtxMsg} {s s' : State}
    (h : execShardHandoff k ctx s = .next s') : LegalKept s s' := by
  exact next_legal h (legalKept_ite (legalKept_of_core (handShard_core ..)) (legalKept_refl s))

theorem execChannelOpen_legal {h : CmdHdr} {chan : Nat} {s s' : State}
    (hx : execChannelOpen h chan s = .next s') : LegalKept s s' := by
  cases hx
  refine legalKept_of_sound (command_sound (fun r t => ?_) ..)
  refine soundKept_ite (finishErr_sound ..) (soundKept_ite (finish_sound ..) (soundKept_ite (finishErr_sound ..) ?_))
  refine soundKept_ite (finish_sound ..) (soundKept_ite (finishErr_sound ..) (soundKept_ite (finishErr_sound ..) ?_))
  exact soundKept_trans (openChan_sound ..) (finishOk_sound ..)

theorem execChannelClose_legal {h : CmdHdr} {chan : Nat} {s s' : State}
    (hx : execChannelClose h chan s = .next s') : LegalKept s s' := by
  cases hx
  exact legalKept_of_sound (command_sound (fun r t => soundKept_trans (soundKept_of_core (closeChan_core ..)) (finishOk_sound ..)) ..)

theorem execUnitFold_legal {c : Fin 1024} {s s' : State} (h : execUnitFold c s = .next s') : LegalKept s s' := by
  exact next_legal h (legalKept_of_core (foldOne_core ..))

theorem execDeadline_legal {c : Fin 1024} {s s' : State} (h : execDeadline c s = .next s') : LegalKept s s' := by
  exact next_legal h (legalKept_of_core (deadlineOp_core ..))

theorem execOptimiserStep_legal {c : Fin 1024} {s s' : State} (h : execOptimiserStep c s = .next s') : LegalKept s s' := by
  exact next_legal h (legalKept_of_sound (updateMany_sound ..))

theorem execParamTransfer_legal {c : Fin 1024} {s s' : State} (h : execParamTransfer c s = .next s') : LegalKept s s' := by
  exact next_legal h (legalKept_of_sound (transferOne_sound ..))

theorem execParamMulticastTimeout_legal {c : Fin 1024} {s s' : State}
    (h : execParamMulticastTimeout c s = .next s') : LegalKept s s' := by
  exact next_legal h (legalKept_of_core (transferTimeout_core ..))

theorem execLinkTrain_legal {h : CmdHdr} {link : Nat} {s s' : State}
    (hx : execLinkTrain h link s = .next s') : LegalKept s s' := by
  cases hx
  refine legalKept_of_sound (command_sound (fun r t => ?_) ..)
  refine soundKept_ite (finishErrR_sound ..) (soundKept_ite (finish_sound ..) (soundKept_of_core ?_))
  extract_lets wasParent v w
  have hv : CoreKept t v := coreKept_trans (linkReset_core ..) (noteCause_core ..)
  have hw : CoreKept v w := by
    unfold w
    split
    · exact chooseRoot_core v
    · exact rfl
  exact coreKept_trans (coreKept_trans hv hw) (coreKept_trans (startTraining_core ..) rfl)

theorem execLinkRecal_legal {h : CmdHdr} {link : Nat} {s s' : State}
    (hx : execLinkRecal h link s = .next s') : LegalKept s s' := by
  cases hx
  refine legalKept_of_sound (command_sound (fun r t => ?_) ..)
  refine soundKept_ite (finishErrR_sound ..) (soundKept_of_core ?_)
  exact coreKept_trans (sendTrain_core link (modLink link (fun x => { x with st := .recal, phase := 1, mode := 2 }) t)) rfl

theorem execLinkDrain_legal {h : CmdHdr} {link : Nat} {s s' : State}
    (hx : execLinkDrain h link s = .next s') : LegalKept s s' := by
  have hl : ∀ (r : CmdRef) (c : List Claim) (k : FlightKind) (f : Link → Link) (x : State), CoreKept x (launch r c k (modLink link f x)) :=
    fun _ _ _ _ _ => rfl
  cases hx
  refine legalKept_of_sound (command_sound (fun r t => ?_) ..)
  exact soundKept_ite (finish_sound ..) (soundKept_of_core (coreKept_trans (queueFrame_core link (.msg .quiesce) t) (hl ..)))

theorem execLaserOffline_legal {h : CmdHdr} {n : Nat} {s s' : State}
    (hx : execLaserOffline h n s = .next s') : LegalKept s s' := by
  cases hx
  refine legalKept_of_sound (command_sound (fun r t => ?_) ..)
  split
  · exact finishErrR_sound ..
  · exact soundKept_trans (soundKept_trans (noLight_sound n none t) (soundKept_of_core (modLaser_core ..))) (finishOk_sound ..)

theorem execLaserOnline_legal {h : CmdHdr} {n : Nat} {recognised : Bool} {s s' : State}
    (hx : execLaserOnline h n recognised s = .next s') : LegalKept s s' := by
  cases hx
  refine legalKept_of_sound (command_sound (fun r t => soundKept_ite ?_ ?_) ..)
  · exact soundKept_of_core (coreKept_trans (modLaser_core n (fun x => { x with st := 3 }) t) rfl)
  · exact soundKept_trans (soundKept_of_core (modLaser_core ..)) (finishErrR_sound ..)

theorem execFrameTransmit_legal {l : Fin 32} {s s' : State} (h : execFrameTransmit l s = .next s') : LegalKept s s' := by
  exact next_legal h (legalKept_of_core (transmit_core ..))

theorem execAck_legal {l : Fin 32} {seq : Nat} {s s' : State} (h : execAck l seq s = .next s') : LegalKept s s' := by
  exact next_legal h (announced_legal (legalKept_of_sound (ackOp_sound ..)))

theorem execNak_legal {l : Fin 32} {seq : Nat} {s s' : State} (h : execNak l seq s = .next s') : LegalKept s s' := by
  exact next_legal h (announced_legal (legalKept_of_sound (nakOp_sound ..)))

theorem execCredit_legal {l : Fin 32} {cls granted : Nat} {s s' : State}
    (h : execCredit l cls granted s = .next s') : LegalKept s s' := by
  exact next_legal h (legalKept_ite (legalKept_of_core rfl) (legalKept_refl s))

theorem execTimeReq_legal {l : Fin 32} {t1 t2 t3 : Nat} {s s' : State}
    (h : execTimeReq l t1 t2 t3 s = .next s') : LegalKept s s' := by
  exact next_legal h (legalKept_ite (legalKept_of_core (queueCtrl_core ..)) (legalKept_refl s))

theorem execTimeResp_legal {l : Fin 32} {t2 t3 t4 : Nat} {s s' : State}
    (h : execTimeResp l t2 t3 t4 s = .next s') : LegalKept s s' := by
  exact next_legal h (announced_legal (legalKept_ite (legalKept_of_core (timeOp_core ..)) (legalKept_refl s)))

theorem execRoot_legal {l : Fin 32} {hops prio id : Nat} {s s' : State}
    (h : execRoot l hops prio id s = .next s') : LegalKept s s' := by
  refine next_legal h ?_
  refine announced_legal (legalKept_ite (legalKept_of_core ?_) (legalKept_refl s))
  exact coreKept_trans (t := modLink l (fun x => { x with root := some (hops % 16, prio % 16, id % 2 ^ 48) }) s) rfl (chooseRoot_core _)

theorem execTrain_legal {l : Fin 32} {peerId peerLink version : Nat} {start : TrainStart} {s s' : State}
    (h : execTrain l peerId peerLink version start s = .next s') : LegalKept s s' := by
  exact next_legal h (announced_legal (legalKept_of_sound (trainFrame_sound ..)))

theorem execRed_legal {l : Fin 32} {seq chan gen offset : Nat} {body : List Byte} {s s' : State}
    (h : execRed l seq chan gen offset body s = .next s') : LegalKept s s' := by
  exact next_legal h (announced_legal (legalKept_of_sound (acceptFrame_sound (fun t => redBody_sound ..) ..)))

theorem execParam_legal {l : Fin 32} {seq chan gen offset : Nat} {body : List Byte} {s s' : State}
    (h : execParam l seq chan gen offset body s = .next s') : LegalKept s s' := by
  exact next_legal h (announced_legal (legalKept_of_sound (acceptFrame_sound (fun t => paramBody_sound ..) ..)))

theorem execQuiesce_legal {l : Fin 32} {seq : Nat} {s s' : State} (h : execQuiesce l seq s = .next s') : LegalKept s s' := by
  exact next_legal h (announced_legal (legalKept_of_sound (acceptMsg_sound (fun t => soundKept_of_core (quiesceOp_core ..)) ..)))

theorem execQuiesceOk_legal {l : Fin 32} {seq : Nat} {s s' : State}
    (h : execQuiesceOk l seq s = .next s') : LegalKept s s' := by
  refine next_legal h ?_
  refine announced_legal (legalKept_of_sound (acceptMsg_sound (fun t => soundKept_ite ?_ (soundKept_refl t)) ..))
  exact soundKept_trans (t := modLink l (fun x => { x with drainOk := true }) t) (soundKept_of_core rfl) (drainDoneCheck_sound ..)

theorem execQuiesceRefuse_legal {l : Fin 32} {seq : Nat} {s s' : State}
    (h : execQuiesceRefuse l seq s = .next s') : LegalKept s s' := by
  refine next_legal h ?_
  refine announced_legal (legalKept_of_sound (acceptMsg_sound (fun t => ?_) ..))
  exact soundKept_ite (drainEnds_sound ..) (soundKept_refl t)

theorem execFail_legal {l : Fin 32} {seq chan gen cause rank : Nat} {s s' : State}
    (h : execFail l seq chan gen cause rank s = .next s') : LegalKept s s' := by
  exact next_legal h (announced_legal (legalKept_of_sound (acceptMsg_sound (fun t => soundKept_of_core (failMsg_core ..)) ..)))

theorem execStepFail_legal {l : Fin 32} {seq chan gen cause rank : Nat} {s s' : State}
    (h : execStepFail l seq chan gen cause rank s = .next s') : LegalKept s s' := by
  exact next_legal h (announced_legal (legalKept_of_sound (acceptMsg_sound (fun t => soundKept_of_core (failMsg_core ..)) ..)))

theorem execNanReport_legal {l : Fin 32} {seq chan : Nat} {valid : Bool} {rank element : Nat} {s s' : State}
    (h : execNanReport l seq chan valid rank element s = .next s') : LegalKept s s' := by
  exact next_legal h (legalKept_of_sound (acceptMsg_sound (fun t => soundKept_of_core (nanMsg_core ..)) ..))

theorem execDrain_legal {l : Fin 32} {seq chan gen : Nat} {s s' : State}
    (h : execDrain l seq chan gen s = .next s') : LegalKept s s' := by
  exact next_legal h (announced_legal (legalKept_of_sound (acceptMsg_sound (fun t => soundKept_of_core (drainMsg_core ..)) ..)))

theorem execDrainDone_legal {l : Fin 32} {seq chan gen : Nat} {s s' : State}
    (h : execDrainDone l seq chan gen s = .next s') : LegalKept s s' := by
  exact next_legal h (announced_legal (legalKept_of_sound (acceptMsg_sound (fun t => soundKept_of_core (drainDoneMsg_core ..)) ..)))

theorem execCastAt_legal {l : Fin 32} {seq chan atGtc : Nat} {s s' : State}
    (h : execCastAt l seq chan atGtc s = .next s') : LegalKept s s' := by
  exact next_legal h (legalKept_of_sound (acceptMsg_sound (fun t => soundKept_of_core (castAtMsg_core ..)) ..))

theorem execError_legal {l : Fin 32} {seq : Nat} {entry : W64} {s s' : State}
    (h : execError l seq entry s = .next s') : LegalKept s s' := by
  refine next_legal h ?_
  refine legalKept_ite (legalKept_refl s) (legalKept_of_sound (acceptMsg_sound (fun t => ?_) ..))
  exact soundKept_of_core (coreKept_of_rim (logDeferred_rim ..))

theorem execRetryTimeout_legal {l : Fin 32} {s s' : State} (h : execRetryTimeout l s = .next s') : LegalKept s s' := by
  exact next_legal h (announced_legal (legalKept_of_sound (retryOp_sound ..)))

theorem execTrainingStateComplete_legal {l : Fin 32} {peerId peerLink version : Nat} {s s' : State}
    (h : execTrainingStateComplete l peerId peerLink version s = .next s') : LegalKept s s' := by
  exact next_legal h (announced_legal (legalKept_of_sound (trainNext_sound ..)))

theorem execTrainingStateTimeout_legal {l : Fin 32} {s s' : State}
    (h : execTrainingStateTimeout l s = .next s') : LegalKept s s' := by
  exact next_legal h (announced_legal (legalKept_of_sound (trainTimeout_sound ..)))

theorem execLossOfLock_legal {l : Fin 32} {s s' : State} (h : execLossOfLock l s = .next s') : LegalKept s s' := by
  exact next_legal h (announced_legal (legalKept_ite (legalKept_of_sound (enterRetrain_sound ..)) (legalKept_refl s)))

theorem execFecWindow_legal {l : Fin 32} {uncorrectable corrected rateExp : Nat} {s s' : State}
    (h : execFecWindow l uncorrectable corrected rateExp s = .next s') : LegalKept s s' := by
  refine next_legal h ?_
  refine legalKept_ite (legalKept_refl s) (legalKept_of_core (coreKept_trans ?_ (countFecUe_core ..)))
  exact rfl

theorem execRootAdvertisement_legal {s s' : State} (h : execRootAdvertisement  s = .next s') : LegalKept s s' := by
  refine next_legal h ?_
  refine announced_legal (legalKept_of_core (coreKept_trans (chooseRoot_core s) (foldl_core (fun t l => ?_) _ _)))
  split
  · exact queueCtrl_core ..
  · exact rfl

theorem execTimeExchange_legal {t1 : Nat} {s s' : State} (h : execTimeExchange t1 s = .next s') : LegalKept s s' := by
  refine next_legal h ?_
  split
  · exact legalKept_ite (legalKept_of_core (queueCtrl_core ..)) (legalKept_refl s)
  · exact legalKept_refl s

theorem execParentReselection_legal {s s' : State} (h : execParentReselection  s = .next s') : LegalKept s s' := by
  exact next_legal h (announced_legal (legalKept_of_core (chooseRoot_core ..)))

theorem execHoldoverExpiry_legal {s s' : State} (h : execHoldoverExpiry  s = .next s') : LegalKept s s' := by
  exact next_legal h (announced_legal (legalKept_ite (legalKept_of_core (coreKept_trans (setTime_core ..) (chooseRoot_core _))) (legalKept_refl s)))

theorem execLaserDegraded_legal {n : Fin 4} {wavelength : Fin 8} {outPwr : BitVec 8} {s s' : State}
    (h : execLaserDegraded n wavelength outPwr s = .next s') : LegalKept s s' := by
  refine next_legal h ?_
  refine announced_legal (legalKept_ite (legalKept_of_core ?_) (legalKept_refl s))
  exact coreKept_trans (modLaser_core ..) (coreKept_of_rim (logDeferred_rim ..))

theorem execLaserFailed_legal {n : Fin 4} {wavelength : Fin 8} {outPwr : BitVec 8} {s s' : State}
    (h : execLaserFailed n wavelength outPwr s = .next s') : LegalKept s s' := by
  exact next_legal h (announced_legal (legalKept_ite (legalKept_of_sound (laserFails_sound ..)) (legalKept_refl s)))

theorem execLaserRemoved_legal {n : Fin 4} {s s' : State} (h : execLaserRemoved n s = .next s') : LegalKept s s' := by
  exact next_legal h (announced_legal (legalKept_of_sound (laserGone_sound ..)))

theorem execLatchOpened_legal {n : Fin 4} {s s' : State} (h : execLatchOpened n s = .next s') : LegalKept s s' := by
  exact next_legal h (announced_legal (legalKept_of_sound (latchOpens_sound ..)))

theorem execWavelengthLock_legal {n : Fin 4} {s s' : State} (h : execWavelengthLock n s = .next s') : LegalKept s s' := by
  exact next_legal h (announced_legal (legalKept_of_core (laserLocked_core ..)))

theorem execWavelengthLockTimeout_legal {n : Fin 4} {absent : Bool} {s s' : State}
    (h : execWavelengthLockTimeout n absent s = .next s') : LegalKept s s' := by
  refine next_legal h ?_
  refine announced_legal (legalKept_ite (legalKept_refl s) (legalKept_of_sound ?_))
  exact soundKept_trans (soundKept_of_core (modLaser_core ..)) (noLaserOn_sound ..)

theorem execLinkDrainTimeout_legal {l : Fin 32} {s s' : State} (h : execLinkDrainTimeout l s = .next s') : LegalKept s s' := by
  exact next_legal h (announced_legal (legalKept_ite (legalKept_of_sound (drainEnds_sound ..)) (legalKept_refl s)))

theorem execCtrlUnknownKind_legal {l : Fin 32} {s s' : State} (h : execCtrlUnknownKind l s = .next s') : LegalKept s s' := by
  exact next_legal h (legalKept_ite (legalKept_of_core (violation_core ..)) (legalKept_refl s))

theorem execMsgUnknown_legal {l : Fin 32} {seq chan : Nat} {fault : MsgFault} {s s' : State}
    (h : execMsgUnknown l seq chan fault s = .next s') : LegalKept s s' := by
  refine next_legal h ?_
  split
  · exact legalKept_ite (legalKept_of_core (violRecord_core ..)) (legalKept_refl s)
  all_goals exact legalKept_of_sound (acceptMsg_sound (fun t => soundKept_of_core (violation_core ..)) ..)

theorem execSyncPulse_legal {found : MonFind} {s s' : State} (h : execSyncPulse found s = .next s') : LegalKept s s' := by
  exact next_legal h (legalKept_of_core (syncOp_core ..))

theorem execPllUnlock_legal {region : Fin 46} {s s' : State} (h : execPllUnlock region s = .next s') : LegalKept s s' := by
  exact next_legal h (announced_legal (legalKept_of_sound (unlockOp_sound ..)))

theorem execJccWrap_legal {p : Fin 4} {s s' : State} (h : execJccWrap p s = .next s') : LegalKept s s' := by
  exact next_legal h (legalKept_of_core (jccWrapOp_core ..))

theorem execFrequencyPause_legal {s s' : State} (h : execFrequencyPause  s = .next s') : LegalKept s s' := by
  exact next_legal h (legalKept_of_core (freqPauseOp_core ..))

theorem execFrequencyRestart_legal {s s' : State} (h : execFrequencyRestart  s = .next s') : LegalKept s s' := by
  exact next_legal h (announced_legal (legalKept_of_sound (freqRestartOp_sound ..)))

theorem execHoldRequest_legal {t : Nat} {p : Fin 4} {windows : List PortWindow} {s s' : State}
    (h : execHoldRequest t p windows s = .next s') : LegalKept s s' := by
  exact next_legal h (legalKept_of_core (holdRequestOp_core ..))

theorem execHoldDecision_legal {t : Nat} {p : Fin 4} {s s' : State}
    (h : execHoldDecision t p s = .next s') : LegalKept s s' := by
  exact next_legal h (legalKept_of_core (holdDecisionOp_core ..))

theorem execFlagUpdateApplied_legal {t : Nat} {p : Fin 4} {s s' : State}
    (h : execFlagUpdateApplied t p s = .next s') : LegalKept s s' := by
  exact next_legal h (legalKept_trans (legalKept_of_core (coreKept_of_rim (advanceTo_rim ..))) (legalKept_of_core (applyUpd_core ..)))

theorem execLoadMaquette_legal {h : CmdHdr} {part loc addr size : Nat} {img : Maquette} {s s' : State}
    (hx : execLoadMaquette h part loc addr size img s = .next s') : LegalKept s s' := by
  cases hx
  exact legalKept_of_sound (command_sound (fun r t => soundKept_ite (finishErr_sound ..) (bulkIn_sound (fun bs u =>
    soundKept_ite (loadOp_sound ..) (finish_sound ..)) ..)) ..)

theorem execBind_legal {h : CmdHdr} {part loc : Nat} {explicit : Bool} {table : List (Nat × Nat)} {report : BindReport} {s s' : State}
    (hx : execBind h part loc explicit table report s = .next s') : LegalKept s s' := by
  cases hx
  refine legalKept_of_sound (command_sound (fun r t => ?_) ..)
  exact soundKept_ite (bulkIn_sound (fun bs u => bindOp_sound ..) ..) (bindOp_sound ..)

theorem execRegionMapQuery_legal {h : CmdHdr} {part handle : Nat} {s s' : State}
    (hx : execRegionMapQuery h part handle s = .next s') : LegalKept s s' := by
  cases hx
  exact legalKept_of_sound (command_sound (fun r t => onRegion_sound (fun _ _ _ u => finishOk_sound ..) ..) ..)

theorem execRegionMapPin_legal {h : CmdHdr} {part handle : Nat} {s s' : State}
    (hx : execRegionMapPin h part handle s = .next s') : LegalKept s s' := by
  cases hx
  refine legalKept_of_sound (command_sound (fun r t => onRegion_sound (fun e key g u => ?_) ..) ..)
  extract_lets v
  have hv : SoundKept u v := soundKept_trans (endCopies_sound [key] u) (soundKept_of_core rfl)
  exact soundKept_trans hv (finishOk_sound ..)

theorem execRegionMapUnpin_legal {h : CmdHdr} {part handle : Nat} {s s' : State}
    (hx : execRegionMapUnpin h part handle s = .next s') : LegalKept s s' := by
  cases hx
  refine legalKept_of_sound (command_sound (fun r t => onRegion_sound (fun e key g u => ?_) ..) ..)
  exact soundKept_trans (t := modReg key (fun g => { g with pinned := g.pinFlag }) u) (soundKept_of_core rfl) (finishOk_sound ..)

theorem execRegionMapAttach_legal {h : CmdHdr} {part handle srcPart srcHandle : Nat} {s s' : State}
    (hx : execRegionMapAttach h part handle srcPart srcHandle s = .next s') : LegalKept s s' := by
  cases hx
  refine legalKept_of_sound (command_sound (fun r t => ?_) ..)
  extract_lets e g
  split
  · refine soundKept_ite (finish_sound ..) (soundKept_ite (finishErr_sound ..) ?_)
    exact soundKept_trans (t := modReg (regKey part handle) (fun x => { x with attached := some (srcPart, srcHandle) }) t)
      (soundKept_of_core rfl) (finishOk_sound ..)
  · exact finishErr_sound ..

theorem execRegionMigrate_legal {h : CmdHdr} {part handle tier device : Nat} {s s' : State}
    (hx : execRegionMigrate h part handle tier device s = .next s') : LegalKept s s' := by
  cases hx
  refine legalKept_of_sound (command_sound (fun r t => ?_) ..)
  refine soundKept_ite (finishErr_sound ..) (soundKept_ite (finish_sound ..) ?_)
  extract_lets v
  have hv : SoundKept t v := endCopies_sound [regKey part handle] t
  clear_value v
  refine soundKept_trans hv ?_
  split
  · exact finishErr_sound ..
  · exact soundKept_of_core rfl

theorem execMigrationUnitCopy_legal {p : Fin 4} {handle : Nat} {s s' : State}
    (h : execMigrationUnitCopy p handle s = .next s') : LegalKept s s' := by
  exact next_legal h (announced_legal (legalKept_of_sound (migrateUnit_sound ..)))

theorem execDimmOffline_legal {h : CmdHdr} {chan : Nat} {s s' : State}
    (hx : execDimmOffline h chan s = .next s') : LegalKept s s' := by
  cases hx
  refine legalKept_of_sound (command_sound (fun r t => soundKept_trans ?_ (drainCheckUnit_sound ..)) ..)
  exact soundKept_trans (t := modDev (16 + chan) (fun d => { d with st := 2 }) t) (soundKept_of_core rfl)
    (soundKept_trans (beginDrain_sound ..) (soundKept_of_core rfl))

theorem execDimmOnline_legal {h : CmdHdr} {chan : Nat} {found : Option DimmProbe} {s s' : State}
    (hx : execDimmOnline h chan found s = .next s') : LegalKept s s' := by
  cases hx
  refine legalKept_of_sound (command_sound (fun r t => soundKept_ite ?_ ?_) ..)
  · exact soundKept_trans (t := modDev (16 + chan) (fun d => { d with st := 1 }) t) (soundKept_of_core rfl) (finishOk_sound ..)
  · have htake := takeDimm_sound chan found t
    split
    · next h => exact soundKept_trans (soundKept_of_snd_snd h htake) (finishOk_sound ..)
    · next h => exact soundKept_trans (soundKept_of_snd_snd h htake) (finish_sound ..)
    · next h => exact soundKept_trans (soundKept_of_snd_snd h htake) (finishErrR_sound ..)

theorem execStackRetrain_legal {h : CmdHdr} {stack : Nat} {ok : Bool} {s s' : State}
    (hx : execStackRetrain h stack ok s = .next s') : LegalKept s s' := by
  cases hx
  refine legalKept_of_sound (command_sound (fun r t => soundKept_trans ?_ (drainCheckUnit_sound ..)) ..)
  exact soundKept_trans (t := modDev stack (fun d => { d with st := 2, cap := 36 }) t) (soundKept_of_core rfl)
    (soundKept_trans (beginDrain_sound ..) (soundKept_of_core rfl))

theorem execMemoryReadResponse_legal {reader : MemReader} {addr : Nat} {flips : Noise} {s s' : State}
    (h : execMemoryReadResponse reader addr flips s = .next s') : LegalKept s s' := by
  exact next_legal h (announced_legal (legalKept_of_sound (readResponse_sound ..)))

theorem execRefresh_legal {unit : Fin 28} {_bank : Nat} {s s' : State}
    (h : execRefresh unit _bank s = .next s') : LegalKept s s' := by
  exact next_legal h (legalKept_ite (legalKept_of_core rfl) (legalKept_refl s))

theorem execPhyCalibration_legal {unit : Fin 28} {s s' : State}
    (h : execPhyCalibration unit s = .next s') : LegalKept s s' := by
  exact next_legal h (legalKept_ite (legalKept_of_core (advanceGtc_core ..)) (legalKept_refl s))

theorem execPatrolScrub_legal {unit : Fin 28} {flips : List (Nat × Noise)} {s s' : State}
    (h : execPatrolScrub unit flips s = .next s') : LegalKept s s' := by
  exact next_legal h (legalKept_of_sound (scrubStep_sound ..))

theorem execTempHigh_legal {unit : Fin 28} {above : Bool} {s s' : State}
    (h : execTempHigh unit above s = .next s') : LegalKept s s' := by
  exact next_legal h (legalKept_of_core rfl)

theorem execDimmRemoved_legal {c : Fin 12} {s s' : State} (h : execDimmRemoved c s = .next s') : LegalKept s s' := by
  refine next_legal h ?_
  refine announced_legal (legalKept_ite (legalKept_refl s) (legalKept_ite (legalKept_of_core rfl) (legalKept_of_sound ?_)))
  exact soundKept_trans (soundKept_of_core (coreKept_trans (deviceGone_core ..) (sharedError_core ..))) (copiesLost_sound ..)

theorem execSharedUnitFailure_legal {u : SharedUnit} {s s' : State}
    (h : execSharedUnitFailure u s = .next s') : LegalKept s s' := by
  exact next_legal h (announced_legal (legalKept_of_sound (sharedFailure_sound u s)))

theorem execStart_legal {h : CmdHdr} {part : Nat} {jobSeed : W64} {atMcc : Nat} {s s' : State}
    (hx : execStart h part jobSeed atMcc s = .next s') : LegalKept s s' := by
  cases hx
  exact command_legal (fun r t => legalKept_of_sound (startOp_sound ..)) ..

theorem execStartAccepted_legal {p : Fin 4} {s s' : State} (h : execStartAccepted p s = .next s') : LegalKept s s' := by
  exact next_legal h (announced_legal (legalKept_of_sound (startAccept_sound ..)))

theorem execStartDrainTimeout_legal {p : Fin 4} {s s' : State}
    (h : execStartDrainTimeout p s = .next s') : LegalKept s s' := by
  exact next_legal h (announced_legal (legalKept_of_sound (startTimeout_sound ..)))

theorem execArmatureLeaveReset_legal {t : Nat} {p : Fin 4} {s s' : State}
    (h : execArmatureLeaveReset t p s = .next s') : LegalKept s s' := by
  exact next_legal h (legalKept_of_core (armLeave_core ..))

theorem execStartCountReached_legal {t : Nat} {p : Fin 4} {s s' : State}
    (h : execStartCountReached t p s = .next s') : LegalKept s s' := by
  exact next_legal h (announced_legal (legalKept_of_sound (startCount_sound ..)))

theorem execHold_legal {h : CmdHdr} {part : Nat} {s s' : State} (hx : execHold h part s = .next s') : LegalKept s s' := by
  cases hx
  exact command_legal (fun r t => legalKept_of_sound (holdOp_sound ..)) ..

theorem execPauseAtBoundary_legal {t : Nat} {p : Fin 4} {s s' : State}
    (h : execPauseAtBoundary t p s = .next s') : LegalKept s s' := by
  exact next_legal h (announced_legal (legalKept_of_sound (pauseAt_sound ..)))

theorem execResume_legal {h : CmdHdr} {part : Nat} {s s' : State} (hx : execResume h part s = .next s') : LegalKept s s' := by
  cases hx
  exact command_legal (fun r t => legalKept_of_sound (resumeOp_sound ..)) ..

theorem execResumeAtBoundary_legal {t : Nat} {p : Fin 4} {s s' : State}
    (h : execResumeAtBoundary t p s = .next s') : LegalKept s s' := by
  exact next_legal h (announced_legal (legalKept_of_sound (resumeBoundary_sound ..)))

theorem execCast_legal {h : CmdHdr} {part atGtc : Nat} {s s' : State}
    (hx : execCast h part atGtc s = .next s') : LegalKept s s' := by
  cases hx
  exact command_legal (fun r t => legalKept_of_sound (castOp_sound ..)) ..

theorem execCastAtBoundary_legal {t : Nat} {p : Fin 4} {s s' : State}
    (h : execCastAtBoundary t p s = .next s') : LegalKept s s' := by
  exact next_legal h (announced_legal (legalKept_of_sound (castBoundary_sound ..)))

theorem execAbort_legal {h : CmdHdr} {part : Nat} {s s' : State} (hx : execAbort h part s = .next s') : LegalKept s s' := by
  cases hx
  exact command_legal (fun r t => legalKept_of_sound (abortOp_sound ..)) ..

theorem execPartitionDone_legal {t : Nat} {p : Fin 4} {unfinished : List Nat} {s s' : State}
    (h : execPartitionDone t p unfinished s = .next s') : LegalKept s s' := by
  exact next_legal h (announced_legal (legalKept_of_sound (partDone_sound ..)))

theorem execFenceCell_legal {h : CmdHdr} {cell : Nat} {s s' : State}
    (hx : execFenceCell h cell s = .next s') : LegalKept s s' := by
  cases hx
  exact command_legal (fun r t => legalKept_of_sound (fenceOp_sound ..)) ..

theorem execFenceAtBoundary_legal {t : Nat} {p : Fin 4} {s s' : State}
    (h : execFenceAtBoundary t p s = .next s') : LegalKept s s' := by
  exact next_legal h (legalKept_of_sound (fenceBoundary_sound ..))

theorem execUnfenceCell_legal {h : CmdHdr} {cell : Nat} {pass : Bool} {s s' : State}
    (hx : execUnfenceCell h cell pass s = .next s') : LegalKept s s' := by
  cases hx
  exact command_legal (fun r t => legalKept_of_sound (unfenceOp_sound ..)) ..

theorem execRouterSelfTest_legal {b : Fin 32} {pass : Bool} {s s' : State}
    (h : execRouterSelfTest b pass s = .next s') : LegalKept s s' := by
  refine next_legal h ?_
  refine announced_legal (legalKept_ite ?_ (legalKept_refl s))
  refine legalKept_trans (t := modBand b (fun x => { x with ringChecks := 0 }) s) (legalKept_of_core rfl) ?_
  exact legalKept_ite (legalKept_refl _) (legalKept_of_core (bandLost_core ..))

theorem execDumpTensor_legal {h : CmdHdr} {part loc point step addr len : Nat} {s s' : State}
    (hx : execDumpTensor h part loc point step addr len s = .next s') : LegalKept s s' := by
  cases hx
  exact command_legal (fun r t => legalKept_of_sound (dumpOp_sound ..)) ..

theorem execDumpCopyComplete_legal {p : Fin 4} {s s' : State} (h : execDumpCopyComplete p s = .next s') : LegalKept s s' := by
  exact next_legal h (announced_legal (legalKept_of_sound (dumpDone_sound ..)))

theorem execDigestTapArm_legal {h : CmdHdr} {part loc tap addr entries : Nat} {s s' : State}
    (hx : execDigestTapArm h part loc tap addr entries s = .next s') : LegalKept s s' := by
  cases hx
  refine legalKept_of_sound (command_sound (fun r t => soundKept_ite (finishErr_sound ..) (soundKept_trans ?_ (finishOk_sound ..))) ..)
  exact soundKept_of_core rfl

theorem execDigestTapDisarm_legal {h : CmdHdr} {part loc tap : Nat} {s s' : State}
    (hx : execDigestTapDisarm h part loc tap s = .next s') : LegalKept s s' := by
  cases hx
  refine legalKept_of_sound (command_sound (fun r t => soundKept_ite (finishErr_sound ..) (soundKept_trans ?_ (finishOk_sound ..))) ..)
  exact soundKept_of_core rfl

theorem execDigestRecordRelease_legal {t : Nat} {b : Fin 32} {s s' : State}
    (h : execDigestRecordRelease t b s = .next s') : LegalKept s s' := by
  exact next_legal h (legalKept_of_sound (island_sound (fun p j u => digestOp_sound ..) ..))

theorem execPatinaSample_legal {gtc : Nat} {s s' : State} (h : execPatinaSample gtc s = .next s') : LegalKept s s' := by
  exact next_legal h (legalKept_of_core (sampleOp_core ..))

theorem execSetPowerState_legal {h : CmdHdr} {goal : PowerGoal} {s s' : State}
    (hx : execSetPowerState h goal s = .next s') : LegalKept s s' := by
  cases hx
  exact command_legal (fun r t => powerOp_legal ..) ..

theorem execSetFreqLevel_legal {h : CmdHdr} {level : Nat} {s s' : State}
    (hx : execSetFreqLevel h level s = .next s') : LegalKept s s' := by
  cases hx
  exact command_legal (fun r t => legalKept_of_sound (freqOp_sound ..)) ..

theorem execWarmReset_legal {failing : Option Nat} {s s' : State}
    (h : execWarmReset failing s = .next s') : LegalKept s s' := by
  exact next_legal h (announced_legal (warmOp_legal ..))

theorem execFlr_legal {s s' : State} (h : execFlr  s = .next s') : LegalKept s s' := by
  exact next_legal h (flrOp_legal ..)

theorem execPerstAsserted_legal {s s' : State} (h : execPerstAsserted  s = .next s') : LegalKept s s' := by
  exact next_legal h (perstOp_legal ..)

theorem execPerstDeasserted_legal {found : StartupFind} {failing : Option Nat} {s s' : State}
    (h : execPerstDeasserted found failing s = .next s') : LegalKept s s' := by
  exact next_legal h (legalKept_of_sound (perstEnds_sound ..))

theorem execDlDown_legal {s s' : State} (h : execDlDown  s = .next s') : LegalKept s s' := by
  exact next_legal h (dlDownOp_legal ..)

theorem execPor_legal {wireOpen : Bool} {failing : Option Nat} {s s' : State}
    (h : execPor wireOpen failing s = .next s') : LegalKept s s' := by
  exact next_legal h (porOp_legal ..)

theorem execMainRailsPowerUp_legal {found : StartupFind} {s s' : State}
    (h : execMainRailsPowerUp found s = .next s') : LegalKept s s' := by
  exact next_legal h (legalKept_of_sound (railsUp_sound ..))

theorem execReady_legal {s s' : State} (h : execReady  s = .next s') : LegalKept s s' := by
  exact next_legal h (announced_legal (readyOp_legal ..))

theorem execBackoffExpiry_legal {found : StartupFind} {s s' : State}
    (h : execBackoffExpiry found s = .next s') : LegalKept s s' := by
  exact next_legal h (legalKept_of_sound (backoffOver_sound ..))

theorem execRecoveryMessage_legal {img : FlomorImage} {found : StartupFind} {s s' : State}
    (h : execRecoveryMessage img found s = .next s') : LegalKept s s' := by
  exact next_legal h (legalKept_of_sound (recoverWith_sound ..))

theorem execRecoveryTimeout_legal {s s' : State} (h : execRecoveryTimeout  s = .next s') : LegalKept s s' := by
  exact next_legal h (legalKept_ite (legalKept_of_core (attemptFailed_core ..)) (legalKept_refl s))

theorem execMainInputLost_legal {volts : Nat} {s s' : State} (h : execMainInputLost volts s = .next s') : LegalKept s s' := by
  exact next_legal h (mainLost_legal ..)

theorem execMainInputRestored_legal {s s' : State} (h : execMainInputRestored  s = .next s') : LegalKept s s' := by
  exact next_legal h (legalKept_of_core (mainRestored_core ..))

theorem execThermalTrip_legal {die tenthC : Nat} {s s' : State}
    (h : execThermalTrip die tenthC s = .next s') : LegalKept s s' := by
  exact next_legal h (tripOp_legal ..)

theorem execMainEn_legal {high : Bool} {s s' : State} (h : execMainEn high s = .next s') : LegalKept s s' := by
  exact next_legal h (mainEnOp_legal ..)

theorem execCoverOpening_legal {s s' : State} (h : execCoverOpening  s = .next s') : LegalKept s s' := by
  exact next_legal h (tamperOp_legal ..)

theorem execPowerManagerWindow_legal {meanW hottest auxW : Nat} {s s' : State}
    (h : execPowerManagerWindow meanW hottest auxW s = .next s') : LegalKept s s' := by
  exact next_legal h (legalKept_of_sound (pmWindow_sound ..))

theorem execHoldupTest_legal {s s' : State} (h : execHoldupTest  s = .next s') : LegalKept s s' := by
  exact next_legal h (legalKept_ite (legalKept_refl s) (legalKept_of_core rfl))

theorem execHoldupTestComplete_legal {milliA dropMv fullMv : Nat} {s s' : State}
    (h : execHoldupTestComplete milliA dropMv fullMv s = .next s') : LegalKept s s' := by
  exact next_legal h (legalKept_of_sound (testDone_sound ..))

theorem execFlashCommitComplete_legal {s s' : State} (h : execFlashCommitComplete  s = .next s') : LegalKept s s' := by
  exact next_legal h (legalKept_of_core (commitRetry_core ..))

theorem execLifetimeCounterCommit_legal {s s' : State} (h : execLifetimeCounterCommit  s = .next s') : LegalKept s s' := by
  exact next_legal h (legalKept_of_core (lifeCommit_core ..))

theorem execAuxInputLost_legal {bankExhausted : Bool} {s s' : State}
    (h : execAuxInputLost bankExhausted s = .next s') : LegalKept s s' := by
  exact next_legal h (legalKept_of_core (auxLost_core ..))

theorem execGetVersion_legal {tr : Transport} {s s' : State} (h : execGetVersion tr s = .next s') : LegalKept s s' := by
  exact next_legal h (legalKept_ite (legalKept_of_core (coreKept_trans (setPhase_core ..) (answer_core ..))) (legalKept_refl s))

theorem execGetCapabilities_legal {tr : Transport} {s s' : State}
    (h : execGetCapabilities tr s = .next s') : LegalKept s s' := by
  refine next_legal h ?_
  refine legalKept_ite (legalKept_refl s) (legalKept_ite (legalKept_of_core ?_) (legalKept_of_core (spdmError_core ..)))
  exact coreKept_trans (setPhase_core ..) (answer_core ..)

theorem execNegotiateAlgorithms_legal {tr : Transport} {offered : List Nat} {s s' : State}
    (h : execNegotiateAlgorithms tr offered s = .next s') : LegalKept s s' := by
  refine next_legal h ?_
  refine legalKept_ite (legalKept_refl s) (legalKept_ite (legalKept_of_core (spdmError_core ..)) (legalKept_ite (legalKept_of_core ?_)
    (legalKept_of_core (spdmError_core ..))))
  exact coreKept_trans (coreKept_trans (setPhase_core ..) (setSuite_core ..)) (answer_core ..)

theorem execGetDigests_legal {tr : Transport} {s s' : State} (h : execGetDigests tr s = .next s') : LegalKept s s' := by
  exact next_legal h (legalKept_of_core (spdmRequest_core (fun t => answer_core ..) ..))

theorem execGetCertificate_legal {tr : Transport} {slot : Nat} {s s' : State}
    (h : execGetCertificate tr slot s = .next s') : LegalKept s s' := by
  refine next_legal h ?_
  refine legalKept_of_core (spdmRequest_core (fun t => ?_) ..)
  split
  · exact answer_core ..
  · exact spdmError_core ..

theorem execChallenge_legal {tr : Transport} {slot : Nat} {nonce : Nonce} {s s' : State}
    (h : execChallenge tr slot nonce s = .next s') : LegalKept s s' := by
  refine next_legal h ?_
  refine announced_legal (legalKept_of_core (spdmRequest_core (fun t => ?_) ..))
  split
  · exact withEntropy_core (fun u => coreKept_trans (drbgBytes_core 32 u) (answer_core ..)) ..
  · exact spdmError_core ..

theorem execGetMeasurements_legal {tr : Transport} {index : Nat} {nonce : Nonce} {s s' : State}
    (h : execGetMeasurements tr index nonce s = .next s') : LegalKept s s' := by
  exact next_legal h (announced_legal (legalKept_of_core (spdmRequest_core (fun t => measureOp_core ..) ..)))

theorem execKeyExchange_legal {tr : Transport} {share : KeyShare} {s s' : State}
    (h : execKeyExchange tr share s = .next s') : LegalKept s s' := by
  exact next_legal h (announced_legal (legalKept_of_core (spdmRequest_core (fun t => keyExchangeOp_core ..) ..)))

theorem execFinish_legal {tr : Transport} {session : FinishMsg} {s s' : State}
    (h : execFinish tr session s = .next s') : LegalKept s s' := by
  exact next_legal h (legalKept_of_core (spdmRequest_core (fun t => finishOp_core ..) ..))

theorem execHeartbeat_legal {tr : Transport} {session : SessionMsg} {s s' : State}
    (h : execHeartbeat tr session s = .next s') : LegalKept s s' := by
  exact next_legal h (legalKept_of_core (inSession_core (fun t => answer_core ..) ..))

theorem execKeyUpdate_legal {tr : Transport} {session : SessionMsg} {s s' : State}
    (h : execKeyUpdate tr session s = .next s') : LegalKept s s' := by
  exact next_legal h (legalKept_of_core (inSession_core (fun t => coreKept_trans (modSession_core ..) (answer_core ..)) ..))

theorem execEndSession_legal {tr : Transport} {session : SessionMsg} {s s' : State}
    (h : execEndSession tr session s = .next s') : LegalKept s s' := by
  exact next_legal h (legalKept_of_core (inSession_core (fun t => coreKept_trans (endSessionOp_core ..) (answer_core ..)) ..))

theorem execSetCertificate_legal {tr : Transport} {slot : Nat} {chain : List Byte} {leaf : CertLeaf} {s s' : State}
    (h : execSetCertificate tr slot chain leaf s = .next s') : LegalKept s s' := by
  exact next_legal h (legalKept_of_core (spdmRequest_core (fun t => setCertOp_core ..) ..))

theorem execSelfTest_legal {tr : Transport} {session : SessionMsg} {failing : Option Nat} {s s' : State}
    (h : execSelfTest tr session failing s = .next s') : LegalKept s s' := by
  refine next_legal h ?_
  refine announced_legal (legalKept_of_core (vendorRequest_core (fun x t => ?_) ..))
  split
  · exact answer_core ..
  · exact coreKept_trans (selfTestFails_core ..) (answer_core ..)

theorem execProvision_legal {tr : Transport} {session : SessionMsg} {keyHash : List Byte} {suite reqMaq reqApp readBackOk : Bool} {s s' : State}
    (h : execProvision tr session keyHash suite reqMaq reqApp readBackOk s = .next s') : LegalKept s s' := by
  exact next_legal h (legalKept_of_core (vendorRequest_core (fun x t => provisionOp_core ..) ..))

theorem execZeroise_legal {tr : Transport} {session : SessionMsg} {s s' : State}
    (h : execZeroise tr session s = .next s') : LegalKept s s' := by
  refine next_legal h ?_
  refine legalKept_of_core (vendorRequest_core (fun x t => ?_) ..)
  split
  · exact coreKept_trans (zeroiseOp_core t) (answer_core ..)
  · exact answer_core ..

theorem execDecommission_legal {tr : Transport} {session : SessionMsg} {s s' : State}
    (h : execDecommission tr session s = .next s') : LegalKept s s' := by
  refine next_legal h ?_
  refine legalKept_of_core (vendorRequest_core (fun x t => ?_) ..)
  split
  · exact coreKept_trans (coreKept_trans (zeroiseOp_core t) rfl) (answer_core ..)
  · exact answer_core ..

theorem execFwUpdate_legal {h : CmdHdr} {loc addr size : Nat} {img : FlomorImage} {flashOk : Bool} {s s' : State}
    (hx : execFwUpdate h loc addr size img flashOk s = .next s') : LegalKept s s' := by
  cases hx
  exact legalKept_of_sound (command_sound (fun r t => bulkIn_sound (fun bs u => updateOp_sound ..) ..) ..)

theorem execFwActivateLiveHandover_legal {h : CmdHdr} {accepts : Bool} {s s' : State}
    (hx : execFwActivateLiveHandover h accepts s = .next s') : LegalKept s s' := by
  cases hx
  exact command_legal (fun r t => legalKept_of_sound (activateOp_sound ..)) ..

theorem execFwActivateAtWarmReset_legal {h : CmdHdr} {s s' : State}
    (hx : execFwActivateAtWarmReset h s = .next s') : LegalKept s s' := by
  cases hx
  exact command_legal (fun r t => legalKept_of_sound (armOp_sound ..)) ..

theorem execPldmFirmwareUpdate_legal {img : FlomorImage} {flashOk : PldmFlag} {s s' : State}
    (h : execPldmFirmwareUpdate img flashOk s = .next s') : LegalKept s s' := by
  exact next_legal h (legalKept_ite (legalKept_of_core (pldmUpdate_core ..)) (legalKept_refl s))

theorem execActivateFirmware_legal {accepts : PldmFlag} {s s' : State}
    (h : execActivateFirmware accepts s = .next s') : LegalKept s s' := by
  exact next_legal h (legalKept_ite (legalKept_of_core (pldmActivate_core ..)) (legalKept_refl s))

theorem execQueryInfo_legal {h : CmdHdr} {kind : Nat} {s s' : State}
    (hx : execQueryInfo h kind s = .next s') : LegalKept s s' := by
  cases hx
  exact command_legal (fun r t => legalKept_of_sound (finishOk_sound ..)) ..

theorem execAppCoresBoot_legal {h : CmdHdr} {addr size entry mask selfTestFails : Nat} {s s' : State}
    (hx : execAppCoresBoot h addr size entry mask selfTestFails s = .next s') : LegalKept s s' := by
  cases hx
  exact command_legal (fun r t => legalKept_of_sound (bootOp_sound ..)) ..

theorem execCrDb_legal {a : Agent} {ring : Fin 16} {value : W32} {s s' : State}
    (h : execCrDb a ring value s = .next s') : LegalKept s s' := by
  exact next_legal h (agentRequest_legal (fun t => legalKept_of_core (bar4Write_core ..)) ..)

theorem execCrCfg_legal {a : Agent} {ring : Fin 16} {value : W32} {s s' : State}
    (h : execCrCfg a ring value s = .next s') : LegalKept s s' := by
  exact next_legal h (agentRequest_legal (fun t => bar0Write_legal ..) ..)

theorem execMbSlotWrite_legal {a : Agent} {m : Fin 64} {off : Nat} {bytes : List Byte} {s s' : State}
    (h : execMbSlotWrite a m off bytes s = .next s') : LegalKept s s' := by
  exact next_legal h (agentRequest_legal (fun t => legalKept_of_core (bar4Write_core ..)) ..)

theorem execMbCommit_legal {a : Agent} {m : Fin 64} {s s' : State} (h : execMbCommit a m s = .next s') : LegalKept s s' := by
  exact next_legal h (agentRequest_legal (fun t => legalKept_of_core (bar4Read_core ..)) ..)

theorem execMbRelease_legal {a : Agent} {m : Fin 64} {value : W32} {s s' : State}
    (h : execMbRelease a m value s = .next s') : LegalKept s s' := by
  exact next_legal h (agentRequest_legal (fun t => legalKept_of_core (bar4Write_core ..)) ..)

theorem execMbCfg_legal {a : Agent} {m : Fin 64} {value : W32} {s s' : State}
    (h : execMbCfg a m value s = .next s') : LegalKept s s' := by
  exact next_legal h (agentRequest_legal (fun t => legalKept_of_core (bar4Write_core ..)) ..)

theorem execGlbPartMap_legal {a : Agent} {value : W32} {s s' : State}
    (h : execGlbPartMap a value s = .next s') : LegalKept s s' := by
  exact next_legal h (announced_legal (agentRequest_legal (fun t => bar0Write_legal ..) ..))

theorem execGlbApBase_legal {a : Agent} {value : W64} {s s' : State}
    (h : execGlbApBase a value s = .next s') : LegalKept s s' := by
  exact next_legal h (agentRequest_legal (fun t => bar0Write_legal ..) ..)

theorem execGlbAppCtl_legal {a : Agent} {value : W32} {s s' : State}
    (h : execGlbAppCtl a value s = .next s') : LegalKept s s' := by
  exact next_legal h (agentRequest_legal (fun t => bar0Write_legal ..) ..)

theorem execGlbAppIrq_legal {a : Agent} {value : W32} {s s' : State}
    (h : execGlbAppIrq a value s = .next s') : LegalKept s s' := by
  exact next_legal h (agentRequest_legal (fun t => bar0Write_legal ..) ..)

theorem execGlbFlag_legal {a : Agent} {p : Fin 4} {f : Fin 64} {value : W32} {s s' : State}
    (h : execGlbFlag a p f value s = .next s') : LegalKept s s' := by
  exact next_legal h (agentRequest_legal (fun t => bar0Write_legal ..) ..)

theorem execErrSts_legal {a : Agent} {value : W32} {s s' : State} (h : execErrSts a value s = .next s') : LegalKept s s' := by
  exact next_legal h (agentRequest_legal (fun t => bar0Write_legal ..) ..)

theorem execArrNum_legal {a : Agent} {b : Fin 32} {pos : Fin 128} {value : W32} {s s' : State}
    (h : execArrNum a b pos value s = .next s') : LegalKept s s' := by
  exact next_legal h (agentRequest_legal (fun t => bar0Write_legal ..) ..)

theorem execD3hot_legal {enter : Bool} {s s' : State} (h : execD3hot enter s = .next s') : LegalKept s s' := by
  refine next_legal h ?_
  refine legalKept_ite ?_ (legalKept_refl s)
  refine legalKept_trans (t := { s with pcie := { s.pcie with d3hot := enter } }) (legalKept_of_core rfl) ?_
  exact legalKept_ite (legalKept_refl _) (legalKept_of_core (coreKept_trans (flushHeld_core _) (flushMsix_core _)))

theorem execMsixUnmask_legal {vector : Option (Fin 256)} {s s' : State}
    (h : execMsixUnmask vector s = .next s') : LegalKept s s' := by
  exact next_legal h (legalKept_ite (legalKept_refl s) (legalKept_of_core (unmaskOp_core ..)))

theorem execRegisterWrite_legal {a : Agent} {off size : Nat} {value : W64} {s s' : State}
    (h : execRegisterWrite a off size value s = .next s') : LegalKept s s' := by
  refine next_legal h ?_
  refine announced_legal (legalKept_ite ?_ ?_)
  · exact cfgRequest_legal (fun t => cfgWrite_legal ..) s
  · exact agentRequest_legal (fun t => registerStore_legal ..) ..

theorem execBar2Read_legal {off len : Nat} {s s' : State} (h : execBar2Read off len s = .next s') : LegalKept s s' := by
  refine next_legal h ?_
  refine legalKept_ite (cfgRequest_legal (fun t => ?_) s) (legalKept_of_sound ?_)
  · exact legalKept_of_core rfl
  · exact hostRequest_sound (fun t => hostLoad_sound ..) ..

theorem execBar2Write_legal {off : Nat} {bytes : List Byte} {s s' : State}
    (h : execBar2Write off bytes s = .next s') : LegalKept s s' := by
  exact next_legal h (legalKept_of_sound (hostRequest_sound (fun t => writeBar2_sound ..) ..))

theorem execUnsupportedRequest_legal {requester addr : Nat} {s s' : State}
    (h : execUnsupportedRequest requester addr s = .next s') : LegalKept s s' := by
  refine next_legal h ?_
  refine legalKept_ite (legalKept_of_core ?_) (legalKept_refl s)
  exact coreKept_trans (coreKept_of_rim (logDeferred_rim ..)) (unsupportedRequest_core ..)

theorem execMalformedTlp_legal {requester addr : Nat} {s s' : State}
    (h : execMalformedTlp requester addr s = .next s') : LegalKept s s' := by
  refine next_legal h ?_
  refine legalKept_ite (legalKept_of_core ?_) (legalKept_refl s)
  exact coreKept_trans (aerError_core ..) (coreKept_of_rim (logDeferred_rim ..))

theorem execPoisonedWrite_legal {requester bar addr : Nat} {first4 : W32} {s s' : State}
    (h : execPoisonedWrite requester bar addr first4 s = .next s') : LegalKept s s' := by
  refine next_legal h ?_
  refine legalKept_ite (legalKept_of_core ?_) (legalKept_refl s)
  extract_lets u
  have hu : CoreKept s u := by
    unfold u
    split
    · exact countRefused_core s
    · exact rfl
  exact coreKept_trans hu (coreKept_trans (aerError_core ..) (coreKept_of_rim (logDeferred_rim ..)))

theorem execUnexpectedCompletion_legal {requester : Nat} {s s' : State}
    (h : execUnexpectedCompletion requester s = .next s') : LegalKept s s' := by
  refine next_legal h ?_
  refine legalKept_ite (legalKept_of_core ?_) (legalKept_refl s)
  exact coreKept_trans (aerError_core ..) (coreKept_of_rim (logDeferred_rim ..))

theorem execDmaError_legal {engine : Fin 8} {rd : DmaRead} {hostAddr : Nat} {s s' : State}
    (h : execDmaError engine rd hostAddr s = .next s') : LegalKept s s' := by
  exact next_legal h (legalKept_ite (legalKept_of_sound (dmaFails_sound ..)) (legalKept_refl s))

theorem execCompletionTimeout_legal {engine : Fin 8} {rd : DmaRead} {hostAddr : Nat} {s s' : State}
    (h : execCompletionTimeout engine rd hostAddr s = .next s') : LegalKept s s' := by
  refine next_legal h ?_
  refine legalKept_ite (legalKept_of_sound ?_) (legalKept_refl s)
  exact soundKept_trans (soundKept_of_core (aerError_core ..)) (dmaFails_sound ..)

theorem execDoeObject_legal {typ : DoeType} {len : Nat} {whileBusy : Bool} {s s' : State}
    (h : execDoeObject typ len whileBusy s = .next s') : LegalKept s s' := by
  exact next_legal h (legalKept_ite (legalKept_of_core (doeOp_core ..)) (legalKept_refl s))

theorem execMergedMessage_legal {vector : Fin 256} {s s' : State}
    (h : execMergedMessage vector s = .next s') : LegalKept s s' := by
  exact next_legal h (legalKept_of_core (mergedOp_core ..))

theorem execApplicationCoreAccess_legal {core : Fin 32} {addr : Nat} {op : CoreOp} {s s' : State}
    (h : execApplicationCoreAccess core addr op s = .next s') : LegalKept s s' := by
  refine next_legal h ?_
  refine legalKept_ite (legalKept_trans (legalKept_of_core (wakeCore_core core s)) ?_) (legalKept_refl s)
  split
  · exact legalKept_of_sound (coreLoad_sound ..)
  · exact coreStore_legal ..
  · exact legalKept_of_sound (coreAmo_sound ..)
  · exact legalKept_of_sound (coreLoad_sound ..)
  · exact legalKept_of_sound (coreLr_sound ..)
  · exact legalKept_of_sound (coreSc_sound ..)
  · exact legalKept_of_core (modCore_core ..)
  · exact legalKept_of_core (coreWfi_core ..)
  · exact legalKept_of_core (coreInterrupt_core ..)

theorem execPcieLinkRetrain_legal {rate width : Nat} {flit : Bool} {s s' : State}
    (h : execPcieLinkRetrain rate width flit s = .next s') : LegalKept s s' := by
  exact next_legal h (legalKept_ite (legalKept_of_core rfl) (legalKept_refl s))

theorem execMctpControl_legal {command : Nat} {eid : MctpEid} {s s' : State}
    (h : execMctpControl command eid s = .next s') : LegalKept s s' := by
  exact next_legal h (legalKept_ite (legalKept_of_core (mctpOp_core ..)) (legalKept_refl s))

theorem execMctpBadPacket_legal {s s' : State} (h : execMctpBadPacket  s = .next s') : LegalKept s s' := by
  exact next_legal h (legalKept_of_core (countMctp_core ..))

theorem execVdmCommandPacket_legal {opcode loc : Nat} {tag : MctpTag} {s s' : State}
    (h : execVdmCommandPacket opcode loc tag s = .next s') : LegalKept s s' := by
  exact next_legal h (legalKept_ite (legalKept_of_core (mgmtCommand_core ..)) (legalKept_refl s))

theorem execVdmBar0Read_legal {off : Nat} {width : MctpWidth} {s s' : State}
    (h : execVdmBar0Read off width s = .next s') : LegalKept s s' := by
  exact next_legal h (legalKept_ite (legalKept_of_core (mgmtRead_core ..)) (legalKept_refl s))

theorem execPldmMonitoring_legal {query : PldmQuery} {s s' : State}
    (h : execPldmMonitoring query s = .next s') : LegalKept s s' := by
  exact next_legal h (legalKept_ite (legalKept_of_core (monitorOp_core ..)) (legalKept_refl s))

theorem execIdent_legal {s s' : State} (h : execIdent  s = .next s') : LegalKept s s' := by
  exact next_legal h (legalKept_of_core rfl)

theorem execPldmIdentify_legal {on : PldmFlag} {s s' : State} (h : execPldmIdentify on s = .next s') : LegalKept s s' := by
  exact next_legal h (legalKept_ite (legalKept_of_core rfl) (legalKept_refl s))

theorem execBoundaryScanInstruction_legal {i : Jtag} {s s' : State}
    (h : execBoundaryScanInstruction i s = .next s') : LegalKept s s' := by
  refine next_legal h ?_
  refine legalKept_of_core (coreKept_trans (t := { s with board := { s.board with jtag := tapLoads s i } }) rfl ?_)
  exact coreKept_trans (scanData_core ..) rfl

theorem frameRow_legal (i : Instr) (s : State) : LegalKept s (frameRow i s) := by
  cases i
  case ack => exact execAck_legal rfl
  case nak => exact execNak_legal rfl
  case credit => exact execCredit_legal rfl
  case timeReq l t1 t2 t3 => exact execTimeReq_legal (t1 := t1) rfl
  case timeResp => exact execTimeResp_legal rfl
  case root => exact execRoot_legal rfl
  case ctrlUnknownKind => exact execCtrlUnknownKind_legal rfl
  case train => exact execTrain_legal rfl
  case red => exact execRed_legal rfl
  case param => exact execParam_legal rfl
  case fail l n c g k r => exact execFail_legal (cause := k) rfl
  case stepFail l n c g k r => exact execStepFail_legal (cause := k) rfl
  case nanReport => exact execNanReport_legal rfl
  case drain => exact execDrain_legal rfl
  case drainDone => exact execDrainDone_legal rfl
  case castAt => exact execCastAt_legal rfl
  case quiesce => exact execQuiesce_legal rfl
  case quiesceOk => exact execQuiesceOk_legal rfl
  case quiesceRefuse => exact execQuiesceRefuse_legal rfl
  case error => exact execError_legal rfl
  case msgUnknown => exact execMsgUnknown_legal rfl
  case crcFailure => exact legalKept_of_core (badFrame_core ..)
  all_goals exact legalKept_refl s

theorem receiveFrame_legal (l : Fin 32) (frac : Nat × Nat) (bs : List Byte) (s : State) :
    LegalKept s (receiveFrame l frac bs s) :=
  foldl_legal (fun t i => frameRow_legal i t) (frameCommands l frac bs) s

theorem execCrcFailure_legal {l : Fin 32} {kind : FrameFail} {s s' : State} (h : execCrcFailure l kind s = .next s') :
    LegalKept s s' := by
  refine next_legal h ?_
  split
  · exact legalKept_ite (receiveFrame_legal ..) (legalKept_refl s)
  · exact legalKept_of_core (badFrame_core ..)

/-- Whatever the command or event, the legal map and the canonical form of memory go on. -/
theorem exec_legal {c : Instr} {s t : State} (h : exec c s = .next t) : LegalKept s t := by
  by_cases hc : islandEvent c = true
  · exact legalKept_of_core (coreKept_of_rim (exec_rim hc h))
  · cases c with
    | streamTransferIssue => exact execStreamTransferIssue_legal h
    | fetchWordArrival => exact execFetchWordArrival_legal h
    | updateCountReached => exact execUpdateCountReached_legal h
    | storeWord => exact execStoreWord_legal h
    | mcastGrant => exact execMcastGrant_legal h
    | mcastTimeout => exact execMcastTimeout_legal h
    | drainTokenReturn => exact execDrainTokenReturn_legal h
    | shardHandoff => exact execShardHandoff_legal h
    | channelOpen => exact execChannelOpen_legal h
    | channelClose => exact execChannelClose_legal h
    | unitFold => exact execUnitFold_legal h
    | deadline => exact execDeadline_legal h
    | optimiserStep => exact execOptimiserStep_legal h
    | paramTransfer => exact execParamTransfer_legal h
    | paramMulticastTimeout => exact execParamMulticastTimeout_legal h
    | linkTrain => exact execLinkTrain_legal h
    | linkRecal => exact execLinkRecal_legal h
    | linkDrain => exact execLinkDrain_legal h
    | laserOffline => exact execLaserOffline_legal h
    | laserOnline => exact execLaserOnline_legal h
    | frameTransmit => exact execFrameTransmit_legal h
    | ack => exact execAck_legal h
    | nak => exact execNak_legal h
    | credit => exact execCredit_legal h
    | timeReq l t1 t2 t3 => exact execTimeReq_legal (t1 := t1) h
    | timeResp => exact execTimeResp_legal h
    | root => exact execRoot_legal h
    | train => exact execTrain_legal h
    | red => exact execRed_legal h
    | param => exact execParam_legal h
    | quiesce => exact execQuiesce_legal h
    | quiesceOk => exact execQuiesceOk_legal h
    | quiesceRefuse => exact execQuiesceRefuse_legal h
    | fail l n c g k r => exact execFail_legal (cause := k) h
    | stepFail l n c g k r => exact execStepFail_legal (cause := k) h
    | nanReport => exact execNanReport_legal h
    | drain => exact execDrain_legal h
    | drainDone => exact execDrainDone_legal h
    | castAt => exact execCastAt_legal h
    | error => exact execError_legal h
    | retryTimeout => exact execRetryTimeout_legal h
    | trainingStateComplete => exact execTrainingStateComplete_legal h
    | trainingStateTimeout => exact execTrainingStateTimeout_legal h
    | lossOfLock => exact execLossOfLock_legal h
    | fecWindow => exact execFecWindow_legal h
    | rootAdvertisement => exact execRootAdvertisement_legal h
    | timeExchange => exact execTimeExchange_legal h
    | parentReselection => exact execParentReselection_legal h
    | holdoverExpiry => exact execHoldoverExpiry_legal h
    | laserDegraded => exact execLaserDegraded_legal h
    | laserFailed => exact execLaserFailed_legal h
    | laserRemoved => exact execLaserRemoved_legal h
    | latchOpened => exact execLatchOpened_legal h
    | wavelengthLock => exact execWavelengthLock_legal h
    | wavelengthLockTimeout => exact execWavelengthLockTimeout_legal h
    | linkDrainTimeout => exact execLinkDrainTimeout_legal h
    | ctrlUnknownKind => exact execCtrlUnknownKind_legal h
    | msgUnknown => exact execMsgUnknown_legal h
    | syncPulse => exact execSyncPulse_legal h
    | pllUnlock => exact execPllUnlock_legal h
    | jccWrap => exact execJccWrap_legal h
    | frequencyPause => exact execFrequencyPause_legal h
    | frequencyRestart => exact execFrequencyRestart_legal h
    | holdRequest => exact execHoldRequest_legal h
    | holdDecision => exact execHoldDecision_legal h
    | crcFailure => exact execCrcFailure_legal h
    | flagUpdateApplied => exact execFlagUpdateApplied_legal h
    | loadMaquette => exact execLoadMaquette_legal h
    | bind => exact execBind_legal h
    | regionMapQuery => exact execRegionMapQuery_legal h
    | regionMapPin => exact execRegionMapPin_legal h
    | regionMapUnpin => exact execRegionMapUnpin_legal h
    | regionMapAttach => exact execRegionMapAttach_legal h
    | regionMigrate => exact execRegionMigrate_legal h
    | migrationUnitCopy => exact execMigrationUnitCopy_legal h
    | dimmOffline => exact execDimmOffline_legal h
    | dimmOnline => exact execDimmOnline_legal h
    | stackRetrain => exact execStackRetrain_legal h
    | memoryReadResponse => exact execMemoryReadResponse_legal h
    | refresh unit bank => exact execRefresh_legal (_bank := bank) h
    | phyCalibration => exact execPhyCalibration_legal h
    | patrolScrub => exact execPatrolScrub_legal h
    | tempHigh => exact execTempHigh_legal h
    | dimmRemoved => exact execDimmRemoved_legal h
    | sharedUnitFailure => exact execSharedUnitFailure_legal h
    | start => exact execStart_legal h
    | startAccepted => exact execStartAccepted_legal h
    | startDrainTimeout => exact execStartDrainTimeout_legal h
    | armatureLeaveReset => exact execArmatureLeaveReset_legal h
    | startCountReached => exact execStartCountReached_legal h
    | hold => exact execHold_legal h
    | pauseAtBoundary => exact execPauseAtBoundary_legal h
    | resume => exact execResume_legal h
    | resumeAtBoundary => exact execResumeAtBoundary_legal h
    | cast => exact execCast_legal h
    | castAtBoundary => exact execCastAtBoundary_legal h
    | abort => exact execAbort_legal h
    | partitionDone => exact execPartitionDone_legal h
    | fenceCell => exact execFenceCell_legal h
    | fenceAtBoundary => exact execFenceAtBoundary_legal h
    | unfenceCell => exact execUnfenceCell_legal h
    | routerSelfTest => exact execRouterSelfTest_legal h
    | dumpTensor => exact execDumpTensor_legal h
    | dumpCopyComplete => exact execDumpCopyComplete_legal h
    | digestTapArm => exact execDigestTapArm_legal h
    | digestTapDisarm => exact execDigestTapDisarm_legal h
    | digestRecordRelease => exact execDigestRecordRelease_legal h
    | patinaSample => exact execPatinaSample_legal h
    | setPowerState => exact execSetPowerState_legal h
    | setFreqLevel => exact execSetFreqLevel_legal h
    | warmReset => exact execWarmReset_legal h
    | flr => exact execFlr_legal h
    | perstAsserted => exact execPerstAsserted_legal h
    | perstDeasserted => exact execPerstDeasserted_legal h
    | dlDown => exact execDlDown_legal h
    | por => exact execPor_legal h
    | mainRailsPowerUp => exact execMainRailsPowerUp_legal h
    | ready => exact execReady_legal h
    | backoffExpiry => exact execBackoffExpiry_legal h
    | recoveryMessage => exact execRecoveryMessage_legal h
    | recoveryTimeout => exact execRecoveryTimeout_legal h
    | mainInputLost => exact execMainInputLost_legal h
    | mainInputRestored => exact execMainInputRestored_legal h
    | thermalTrip => exact execThermalTrip_legal h
    | mainEn => exact execMainEn_legal h
    | coverOpening => exact execCoverOpening_legal h
    | powerManagerWindow => exact execPowerManagerWindow_legal h
    | holdupTest => exact execHoldupTest_legal h
    | holdupTestComplete => exact execHoldupTestComplete_legal h
    | flashCommitComplete => exact execFlashCommitComplete_legal h
    | lifetimeCounterCommit => exact execLifetimeCounterCommit_legal h
    | auxInputLost => exact execAuxInputLost_legal h
    | getVersion => exact execGetVersion_legal h
    | getCapabilities => exact execGetCapabilities_legal h
    | negotiateAlgorithms => exact execNegotiateAlgorithms_legal h
    | getDigests => exact execGetDigests_legal h
    | getCertificate => exact execGetCertificate_legal h
    | challenge => exact execChallenge_legal h
    | getMeasurements => exact execGetMeasurements_legal h
    | keyExchange => exact execKeyExchange_legal h
    | finish => exact execFinish_legal h
    | heartbeat => exact execHeartbeat_legal h
    | keyUpdate => exact execKeyUpdate_legal h
    | endSession => exact execEndSession_legal h
    | setCertificate => exact execSetCertificate_legal h
    | selfTest => exact execSelfTest_legal h
    | provision => exact execProvision_legal h
    | zeroise => exact execZeroise_legal h
    | decommission => exact execDecommission_legal h
    | fwUpdate => exact execFwUpdate_legal h
    | fwActivateLiveHandover => exact execFwActivateLiveHandover_legal h
    | fwActivateAtWarmReset => exact execFwActivateAtWarmReset_legal h
    | pldmFirmwareUpdate => exact execPldmFirmwareUpdate_legal h
    | activateFirmware => exact execActivateFirmware_legal h
    | queryInfo => exact execQueryInfo_legal h
    | appCoresBoot => exact execAppCoresBoot_legal h
    | crDb => exact execCrDb_legal h
    | crCfg => exact execCrCfg_legal h
    | mbSlotWrite => exact execMbSlotWrite_legal h
    | mbCommit => exact execMbCommit_legal h
    | mbRelease => exact execMbRelease_legal h
    | mbCfg => exact execMbCfg_legal h
    | glbPartMap => exact execGlbPartMap_legal h
    | glbApBase => exact execGlbApBase_legal h
    | glbAppCtl => exact execGlbAppCtl_legal h
    | glbAppIrq => exact execGlbAppIrq_legal h
    | glbFlag => exact execGlbFlag_legal h
    | errSts => exact execErrSts_legal h
    | arrNum => exact execArrNum_legal h
    | d3hot => exact execD3hot_legal h
    | msixUnmask => exact execMsixUnmask_legal h
    | registerWrite => exact execRegisterWrite_legal h
    | bar2Read => exact execBar2Read_legal h
    | bar2Write => exact execBar2Write_legal h
    | unsupportedRequest => exact execUnsupportedRequest_legal h
    | malformedTlp => exact execMalformedTlp_legal h
    | poisonedWrite => exact execPoisonedWrite_legal h
    | unexpectedCompletion => exact execUnexpectedCompletion_legal h
    | dmaError => exact execDmaError_legal h
    | completionTimeout => exact execCompletionTimeout_legal h
    | doeObject => exact execDoeObject_legal h
    | mergedMessage => exact execMergedMessage_legal h
    | applicationCoreAccess => exact execApplicationCoreAccess_legal h
    | pcieLinkRetrain => exact execPcieLinkRetrain_legal h
    | mctpControl => exact execMctpControl_legal h
    | mctpBadPacket => exact execMctpBadPacket_legal h
    | vdmCommandPacket => exact execVdmCommandPacket_legal h
    | vdmBar0Read => exact execVdmBar0Read_legal h
    | pldmMonitoring => exact execPldmMonitoring_legal h
    | ident => exact execIdent_legal h
    | pldmIdentify => exact execPldmIdentify_legal h
    | boundaryScanInstruction => exact execBoundaryScanInstruction_legal h
    | _ => exact absurd rfl hc

theorem step_legal {s t : State} (h : step s = .next t) : LegalKept s t := by
  unfold step at h
  split at h
  · exact Host.Outcome.next.inj h ▸ legalKept_of_sound (idle_sound s)
  · next c rest _ =>
    exact legalKept_trans (t := { s with pending := rest }) (legalKept_of_core rfl) (exec_legal h)

/-- Settles O5: an operation that writes the partition map writes a legal one, and memory is written by canonical stores only. -/
theorem everyStepKeepsSound : Obligations.EveryStepKeepsSound :=
  fun _ _ hs h => (step_legal h).sound hs

end Sys2Proof.Machine
end

section
/-! SUPPORT. Where an event of an island does nothing, and what follows of the events that only let time pass (R46, R49, R170). -/

-- One proof after another: many at a time need more memory than the check of the whole text has.
set_option Elab.async false

namespace Sys2Proof.Machine

/-- An event of an island that is not live only lets time pass. -/
theorem island_idle {t b : Nat} {s : State} (h : ¬ Live t b s) (f : Nat → Nat → State → State) :
    island t b f s = advanceTo t s := by
  rw [island]
  refine if_neg fun hc => h ?_
  simp only [Bool.and_eq_true, beq_iff_eq, decide_eq_true_eq] at hc
  obtain ⟨⟨⟨hr, hb⟩, hp⟩, hi⟩ := hc
  exact ⟨hr, hb, hp, hi⟩

theorem sequencer_idle {t b : Nat} {s : State} (h : ¬ Live t b s) (f : Nat → Nat → State → State) :
    sequencer t b f s = advanceTo t s := island_idle h _

theorem cellEvent_idle {t b q : Nat} {s : State} (h : ¬ Live t b s) (f : Nat → Nat → Nat → State → State) :
    cellEvent t b q f s = advanceTo t s := island_idle h _

/-- After its END a sequencer has no operations. -/
theorem sequencer_ended {t b : Nat} {s : State} (h : (getBand (advanceTo t s) b).seqState ≠ 1) (f : Nat → Nat → State → State) :
    sequencer t b f s = advanceTo t s := by
  by_cases hl : Live t b s
  · rw [sequencer, island_live hl, if_neg h]
  · exact sequencer_idle hl f

theorem events_of_idle_island {t : Nat} {b : Fin 32} {q : Fin 128} {s : State} (h : ¬ Live t b s) :
    (∀ f, Host.Outcome.next (island t b f s) = (.next (advanceTo t s) : Host.Outcome State Fault Refusal)) ∧
    (∀ f, Host.Outcome.next (sequencer t b f s) = (.next (advanceTo t s) : Host.Outcome State Fault Refusal)) ∧
    (∀ f, Host.Outcome.next (cellEvent t b q f s) = (.next (advanceTo t s) : Host.Outcome State Fault Refusal)) :=
  ⟨fun f => congrArg _ (island_idle h f), fun f => congrArg _ (sequencer_idle h f), fun f => congrArg _ (cellEvent_idle h f)⟩

/-- An event of a live cell whose operation asks for its predicate, which is false. -/
theorem cellEvent_unpredicated {t b q : Nat} {pr : Option Pred} {s : State} (h : CellLive t b q s)
    (hp : predOk (getCell (advanceTo t s) (cellAt t b q s)) (jccAt t b s) pr = false) (f g : Nat → Nat → Nat → State → State) :
    cellEvent t b q (fun p j cell u => if predOk (getCell u cell) j pr then f p j cell u else g p j cell u) s =
      g (partOf (advanceTo t s) b) (jccAt t b s) (cellAt t b q s) (advanceTo t s) := by
  rw [cellEvent_live h, if_neg (by rw [hp]; exact Bool.false_ne_true)]

/-- Settles O44: an island that is not live, a sequencer that has ended and an operation whose predicate is false have no effect. -/
theorem eventsThatOnlyLetTimePass : Obligations.EventsThatOnlyLetTimePass := by
  refine ⟨fun t b q s h => ?_, fun t b q pr s h hp => ?_, fun t b s h => ?_⟩
  · obtain ⟨hi, hs, hc⟩ := events_of_idle_island (q := q) h
    refine ⟨fun _ _ _ _ => hc _, fun _ _ _ _ => hc _, fun _ _ _ _ _ _ _ => hc _, hi _, fun _ => hs _, ?_, fun _ => hi _, hc _, hc _,
      hc _, hc _, fun _ => hs _, hs _, hi _, hs _, fun _ _ => hc _, fun _ => hc _, fun _ _ => hc _, fun _ _ => hc _, fun _ _ => hc _,
      fun _ _ => hc _, fun _ _ _ => hc _, fun _ _ _ => hc _, fun _ _ _ => hc _, fun _ _ => hc _, hc _, fun _ _ _ => hs _,
      fun _ => hi _, fun _ => hi _, hs _, hi _, fun _ _ _ _ => hs _, hi _⟩
    intro inj
    cases inj with
    | take => exact hs _
    | place => exact hi _
  · have hc : ∀ f : Nat → Nat → Nat → State → State, Host.Outcome.next (cellEvent t b q (fun p j cell u => if predOk (getCell u cell) j pr then f p j cell u else u) s) =
        (.next (advanceTo t s) : Host.Outcome State Fault Refusal) := fun f =>
      congrArg _ (cellEvent_unpredicated h hp f fun _ _ _ u => u)
    exact ⟨fun _ _ => hc _, fun _ _ => hc _, fun _ _ => hc _, fun _ => hc _, fun _ => hc _, fun _ => hc _, fun d _ _ _ _ =>
      congrArg _ (cellEvent_unpredicated h hp _ fun p j cell u => emissionGhost p j cell q d .staged u)⟩
  · have hs : ∀ f, Host.Outcome.next (sequencer t b f s) = (.next (advanceTo t s) : Host.Outcome State Fault Refusal) := fun f =>
      congrArg _ (sequencer_ended h f)
    exact ⟨fun _ => hs _, fun _ _ _ _ _ _ _ => hs _, fun _ _ _ => hs _, fun _ => hs _, hs _, fun _ _ _ _ => hs _, hs _, hs _⟩

end Sys2Proof.Machine
end

section
/-! SUPPORT. The band queues, descriptors on their way to the cells, bundles, flags and waits (R161 to R176), and the lanes that leave
the ring (R58). From these the claims about them are settled. -/

-- One proof after another: many at a time need more memory than the check of the whole text has.
set_option Elab.async false

namespace Sys2Proof.Machine

/-- An operation of an Armature core that executes takes place (R168). -/
theorem armature_runs {t b : Nat} {s : State} (h : ArmRuns t b s) (f : Nat → Band → State → State) :
    armature t b f s = f (partOf (advanceTo t s) b) (getBand (advanceTo t s) b) (advanceTo t s) := by
  obtain ⟨hb, hp, ha, hr⟩ := h
  simp only [armature, hb, hp, ha, hr, beq_self_eq_true, Bool.and_true, decide_true, if_true]

/-- Settles O23: the lanes that stay are those that the filter of `removeLanes` keeps. -/
theorem laneRemovalByAge : Obligations.LaneRemovalByAge := by
  intro t b s h
  refine ⟨_, congrArg Host.Outcome.next (island_live h _), fun l => ?_⟩
  rw [getBand_modBand, removeLanes, List.mem_filter]
  refine and_congr_right fun _ => ?_
  split
  · next h0 => simp [h0]
  · next h0 => simp [h0]

theorem bundleTaken_of_fits {s : State} {b cell slot : Nat} {ops : List BundleOp} (hp : (getBand s b).perCell = false)
    (hs : (getBand s b).seqState = 1) (hf : bundleFits (getCell s cell).wide ops = true) : bundleTaken s b cell slot ops = true := by
  rw [bundleTaken, hp, hf, issuedBefore, hs]
  rfl

theorem cellFault_sfCount (p j cell code : Nat) (f : SFault → SFault) (s : State) :
    (getPart (cellFault p j cell code f s) p).sfCount = satAdd 0xFFFF (getPart s p).sfCount 1 := by
  rw [cellFault, schedFault, getPart_modPart]
  rfl

/-- Settles O19: a bundle in its cycle is performed, or counted where another comes before it. -/
theorem bundlesIssue : Obligations.BundlesIssue := by
  intro t b q slot sk order ops s h hslot hp hs hf
  have hop : cellEvent t b q (fun p j cell s => if (slot + skewOf q sk) % 2 ^ 48 = j then bundleOp p j b cell q slot order ops s else s) s =
      bundleOp (partOf (advanceTo t s) b) (jccAt t b s) b (cellAt t b q s) q slot order ops (advanceTo t s) :=
    (cellEvent_live h _).trans (if_pos hslot)
  have ht := bundleTaken_of_fits (slot := slot) hp hs hf
  rw [bundleOp, ht, Bool.not_true, if_neg Bool.false_ne_true] at hop
  refine ⟨fun hr => ?_, fun hr => ?_⟩
  · rw [hr, if_neg Bool.false_ne_true] at hop
    exact congrArg Host.Outcome.next hop
  · rw [hr, if_pos rfl] at hop
    exact ⟨_, congrArg Host.Outcome.next hop, cellFault_sfCount .., rfl⟩

theorem getQ_enqueue (mcc : Nat) (n : QName) (tag : Nat) (body : QBody) (bd : Band) :
    getQ (enqueue mcc n tag body bd) n =
      getQ bd n ++ [{ tag := tag % 16, seq := tget 0 bd.pushes (qCode n) % 256, at_ := mcc, body := body }] := by
  cases n <;> rfl

theorem enqueue_arm (mcc : Nat) (n : QName) (tag : Nat) (body : QBody) (bd : Band) : (enqueue mcc n tag body bd).arm = bd.arm := by
  cases n <;> rfl

/-- What neither the queues, nor the core, nor its pushes hold stays as it is when a queue is released. -/
theorem unstall_keeps {α : Type} (g : Band → α) (hq : ∀ n bd l, g (setQ bd n l) = g bd)
    (ha : ∀ bd arm pu, g { bd with arm := arm, pushes := pu } = g bd) (mcc : Nat) (n : QName) (rest : List QEntry) (bd : Band) :
    g (unstall mcc n (setQ bd n rest)) = g bd := by
  refine Eq.trans ?_ (hq n bd rest)
  generalize setQ bd n rest = x
  unfold unstall
  split
  · split
    · exact ((ha ..).trans (hq ..)).trans (ha x _ x.pushes)
    · rfl
  · rfl

theorem unstall_deliveries (mcc : Nat) (n : QName) (rest : List QEntry) (bd : Band) :
    (unstall mcc n (setQ bd n rest)).deliveries = bd.deliveries :=
  unstall_keeps _ (fun n _ _ => by cases n <;> rfl) (fun _ _ _ => rfl) ..

theorem unstall_runs (mcc : Nat) (n : QName) (rest : List QEntry) (bd : Band) :
    (unstall mcc n (setQ bd n rest)).outRun = bd.outRun ∧ (unstall mcc n (setQ bd n rest)).inRuns = bd.inRuns :=
  ⟨unstall_keeps _ (fun n _ _ => by cases n <;> rfl) (fun _ _ _ => rfl) ..,
    unstall_keeps _ (fun n _ _ => by cases n <;> rfl) (fun _ _ _ => rfl) ..⟩

/-- The entry at the front of a queue that is old enough and bears the tag of the cycle is taken. -/
theorem takeEntry_due {p j b : Nat} {n : QName} {e : QEntry} {rest : List QEntry} {s : State} (hq : getQ (getBand s b) n = e :: rest)
    (hm : e.at_ + 3 ≤ s.clk.mcc) (ht : e.tag = j % 16) :
    takeEntry p j b n s = (some e, setBand b (unstall s.clk.mcc n (setQ (getBand s b) n rest)) s) := by
  simp only [takeEntry, hq]
  rw [if_neg (Nat.not_lt.2 hm), if_neg (not_not.2 ht)]

/-- A run entry that is due begins its run, where its side of the port has none. -/
theorem portRunOp_due {p j b : Nat} {e : QEntry} {rest : List QEntry} {r : PortRun} {s : State} (hq : (getBand s b).qPort = e :: rest)
    (hm : e.at_ + 3 ≤ s.clk.mcc) (ht : e.tag = j % 16) (hb : e.body = .port r) :
    (r.outbound = true → (getBand s b).outRun = none → (getBand (portRunOp p j b s) b).outRun =
      some { stream := r.stream % 8, left := r.words, from_ := (j + 2) % 2 ^ 48 }) ∧
    (r.outbound = false → tget none (getBand s b).inRuns (r.stream % 8) = none →
      tget none (getBand (portRunOp p j b s) b).inRuns (r.stream % 8) =
        some { stream := r.stream % 8, left := r.words, from_ := (j + 2) % 2 ^ 48 }) := by
  obtain ⟨ho, hi⟩ := unstall_runs s.clk.mcc .port rest (getBand s b)
  rw [portRunOp, takeEntry_due (n := .port) hq hm ht]
  dsimp only
  rw [hb]
  dsimp only
  rw [getBand_setBand, ho, hi]
  refine ⟨fun hout hn => ?_, fun hin hn => ?_⟩
  · rw [if_pos hout, hn, if_neg (by decide), getBand_setBand]
  · rw [if_neg (by rw [hin]; decide), hn, if_neg (by decide), getBand_setBand, tget_tset_same]

/-- Settles O16: a push appends its entry or stalls the core, and what takes an entry takes the one that is due. -/
theorem bandQueues : Obligations.BandQueues := by
  refine fun t b s => ⟨fun n tag body h hl => ?_, fun n tag body h hl => ?_, fun v e rest h hs hq hm ht => ?_,
    fun r e rest h hs hq hm ht hb => ?_⟩
  · refine ⟨_, congrArg Host.Outcome.next (armature_runs h _), ?_⟩
    rw [getBand_setBand, pushOp, if_neg (Nat.not_le.2 hl)]
    exact ⟨getQ_enqueue .., enqueue_arm ..⟩
  · refine ⟨_, congrArg Host.Outcome.next (armature_runs h _), ?_⟩
    rw [getBand_setBand, pushOp, if_pos hl]
    exact ⟨rfl, rfl, by cases n <;> rfl⟩
  · refine ⟨_, congrArg Host.Outcome.next (sequencer_live h hs _), ?_⟩
    rw [releaseQueueOp, takeEntry_due hq hm ht]
    rw [getBand_modBand, getBand_setBand, unstall_deliveries]
  · obtain ⟨ho, hi⟩ := portRunOp_due (p := partOf (advanceTo t s) b) hq hm ht hb
    have hrun : ∃ u, exec (.portRunEntry t b) s = .next u ∧
        u = portRunOp (partOf (advanceTo t s) b) (jccAt t b s) b (advanceTo t s) :=
      ⟨_, congrArg Host.Outcome.next (sequencer_live h hs _), rfl⟩
    obtain ⟨u, hx, rfl⟩ := hrun
    exact ⟨fun hout hn => ⟨_, hx, ho hout hn⟩, fun hin hn => ⟨_, hx, hi hin hn⟩⟩

end Sys2Proof.Machine
end

section
/-! SUPPORT. The registers of a cell, the delivery of descriptors, and the flags, waits and ends of the Armature cores (R161 to R176). From
these the claims about them are settled. -/

-- One proof after another: many at a time need more memory than the check of the whole text has.
set_option Elab.async false

namespace Sys2Proof.Machine

/-- The delivery of a descriptor to one position changes the bands and the fences of no cell. -/
theorem deliverTo_keeps (p j b : Nat) (d : Delivery) (s : State) (pos : Nat) :
    (deliverTo p j b d s pos).bands = s.bands ∧ (deliverTo p j b d s pos).fence = s.fence := by
  refine ⟨?_, (rimKept_fields (deliverTo_rim p j b d s pos)).2.2.2.2.2.2.2.2.2.2.2.2.2.2.2.2.2.1⟩
  exact pred_ite (P := fun t => t.bands = s.bands) rfl (pred_ite (P := fun t => t.bands = s.bands) rfl rfl)

/-- It changes no other cell. -/
theorem deliverTo_other {p j b : Nat} {d : Delivery} {s : State} {pos x : Nat} (h : x ≠ pos) :
    getCell (deliverTo p j b d s pos) (cellOf b x) = getCell s (cellOf b x) := by
  have hc : cellOf b pos ≠ cellOf b x := by
    rw [cellOf, cellOf]
    omega
  have hset : ∀ v, getCell (setCell (cellOf b pos) v s) (cellOf b x) = getCell s (cellOf b x) := fun v => tget_tset_other _ _ _ hc
  exact pred_ite (P := fun t => getCell t (cellOf b x) = getCell s (cellOf b x)) rfl
    (pred_ite (P := fun t => getCell t (cellOf b x) = getCell s (cellOf b x)) rfl (hset _))

/-- A cell that takes part and has room gets the descriptor. -/
theorem deliverTo_room {p j b : Nat} {d : Delivery} {s : State} {pos : Nat} (hf : s.fence.contains (cellOf b pos) = false)
    (hi : (getBand s b).idle.contains pos = false) :
    (d.vector = true → (getCell s (cellOf b pos)).vecFifo.length < 5 → (getCell (deliverTo p j b d s pos) (cellOf b pos)).vecFifo =
      (getCell s (cellOf b pos)).vecFifo ++ [{ d.entry with got := some j }]) ∧
    (d.vector = false → (getCell s (cellOf b pos)).arrayFifo.length < 5 → (getCell (deliverTo p j b d s pos) (cellOf b pos)).arrayFifo =
      (getCell s (cellOf b pos)).arrayFifo ++ [{ d.entry with got := some j }]) := by
  rw [deliverTo, hf, hi, Bool.or_self, if_neg Bool.false_ne_true]
  refine ⟨fun hv hl => ?_, fun hv hl => ?_⟩
  · rw [hv, if_pos rfl, if_neg (Nat.not_le.2 hl), getCell_setCell, if_pos rfl]
  · rw [hv, if_neg Bool.false_ne_true, if_neg (Nat.not_le.2 hl), getCell_setCell, if_neg Bool.false_ne_true]

theorem foldl_deliverTo_keeps (p j b : Nat) (d : Delivery) (l : List Nat) (s : State) :
    (l.foldl (deliverTo p j b d) s).bands = s.bands ∧ (l.foldl (deliverTo p j b d) s).fence = s.fence := by
  induction l generalizing s with
  | nil => exact ⟨rfl, rfl⟩
  | cons x r ih =>
    obtain ⟨hb, hf⟩ := deliverTo_keeps p j b d s x
    obtain ⟨hb', hf'⟩ := ih (deliverTo p j b d s x)
    exact ⟨hb'.trans hb, hf'.trans hf⟩

theorem foldl_deliverTo_other {p j b : Nat} {d : Delivery} {l : List Nat} {x : Nat} (h : x ∉ l) (s : State) :
    getCell (l.foldl (deliverTo p j b d) s) (cellOf b x) = getCell s (cellOf b x) := by
  induction l generalizing s with
  | nil => rfl
  | cons y r ih =>
    rw [List.mem_cons, not_or] at h
    exact (ih h.2 _).trans (deliverTo_other h.1)

/-- Delivered to every position, a descriptor reaches a cell as it reaches it alone. -/
theorem foldl_deliverTo_at {p j b : Nat} {d : Delivery} {l : List Nat} {pos : Nat} (hn : l.Nodup) (hm : pos ∈ l) (s : State) :
    ∃ u, u.bands = s.bands ∧ u.fence = s.fence ∧ getCell u (cellOf b pos) = getCell s (cellOf b pos) ∧
      getCell (l.foldl (deliverTo p j b d) s) (cellOf b pos) = getCell (deliverTo p j b d u pos) (cellOf b pos) := by
  obtain ⟨l1, l2, rfl⟩ := List.append_of_mem hm
  obtain ⟨-, hn2, hd⟩ := List.nodup_append.1 hn
  have h1 : pos ∉ l1 := fun h => hd pos h pos List.mem_cons_self rfl
  have h2 : pos ∉ l2 := (List.nodup_cons.1 hn2).1
  obtain ⟨hb, hf⟩ := foldl_deliverTo_keeps p j b d l1 s
  refine ⟨l1.foldl (deliverTo p j b d) s, hb, hf, foldl_deliverTo_other h1 s, ?_⟩
  rw [List.foldl_append, List.foldl_cons]
  exact foldl_deliverTo_other h2 _

/-- Each cell that takes part and has room gets a descriptor that goes to every position. -/
theorem foldl_deliverTo_room {p j b : Nat} {d : Delivery} {l : List Nat} {pos : Nat} (hn : l.Nodup) (hm : pos ∈ l) {s : State}
    (hf : s.fence.contains (cellOf b pos) = false) (hi : (getBand s b).idle.contains pos = false) :
    (d.vector = true → (getCell s (cellOf b pos)).vecFifo.length < 5 →
      (getCell (l.foldl (deliverTo p j b d) s) (cellOf b pos)).vecFifo =
        (getCell s (cellOf b pos)).vecFifo ++ [{ d.entry with got := some j }]) ∧
    (d.vector = false → (getCell s (cellOf b pos)).arrayFifo.length < 5 →
      (getCell (l.foldl (deliverTo p j b d) s) (cellOf b pos)).arrayFifo =
        (getCell s (cellOf b pos)).arrayFifo ++ [{ d.entry with got := some j }]) := by
  obtain ⟨u, hub, huf, huc, he⟩ := foldl_deliverTo_at (p := p) (j := j) (b := b) (d := d) hn hm s
  rw [he, ← huc]
  exact deliverTo_room (by rw [huf]; exact hf) (by rw [getBand, hub]; exact hi)

/-- A delivery that is due is over, and has gone to every cell that takes part and has room. -/
theorem fifoDeliveryOp_due {p j b : Nat} {v : Bool} {d : Delivery} {s : State}
    (hd : (getBand s b).deliveries.filter (fun x => x.at_ == j && x.vector == v) = [d]) :
    d.vector = v ∧ (∀ x ∈ (getBand (fifoDeliveryOp p j b v s) b).deliveries, ¬ (x.at_ = j ∧ x.vector = v)) ∧
    ∀ pos < 128, s.fence.contains (cellOf b pos) = false → (getBand s b).idle.contains pos = false →
      (d.vector = true → (getCell s (cellOf b pos)).vecFifo.length < 5 → (getCell (fifoDeliveryOp p j b v s) (cellOf b pos)).vecFifo =
        (getCell s (cellOf b pos)).vecFifo ++ [{ d.entry with got := some j }]) ∧
      (d.vector = false → (getCell s (cellOf b pos)).arrayFifo.length < 5 → (getCell (fifoDeliveryOp p j b v s) (cellOf b pos)).arrayFifo =
        (getCell s (cellOf b pos)).arrayFifo ++ [{ d.entry with got := some j }]) := by
  rw [fifoDeliveryOp, hd, List.foldl_cons, List.foldl_nil]
  have hb := getBand_modBand b (fun bd => { bd with deliveries := bd.deliveries.filter (fun d => !(d.at_ == j && d.vector == v)) }) s
  refine ⟨?_, fun x hx hc => ?_, fun pos hpos hf hi => ?_⟩
  · have hm : d ∈ (getBand s b).deliveries.filter (fun x => x.at_ == j && x.vector == v) := hd ▸ List.mem_singleton_self d
    simp only [List.mem_filter, Bool.and_eq_true, beq_iff_eq] at hm
    exact hm.2.2
  · rw [getBand, (foldl_deliverTo_keeps ..).1] at hx
    have hx : x ∈ (getBand (modBand b _ s) b).deliveries := hx
    rw [hb] at hx
    simp [hc.1, hc.2] at hx
  · exact foldl_deliverTo_room (s := modBand b _ s) List.nodup_range (List.mem_range.2 hpos) hf (by rw [hb]; exact hi)

/-- Settles O17: the one delivery that is due goes to every position, and each gets it by itself. -/
theorem descriptorsReachEveryCell : Obligations.DescriptorsReachEveryCell := by
  intro t b v d s h hd
  obtain ⟨rfl, hdel, hcell⟩ := fifoDeliveryOp_due (p := partOf (advanceTo t s) b) hd
  exact ⟨_, congrArg Host.Outcome.next (island_live h _), hdel, hcell⟩

/-- Values written at several indices are read there. -/
theorem tget_foldl_tset {α : Type} [DecidableEq α] (d : α) (f : Nat → α) {l : List Nat} {i : Nat} (t : Tbl α)
    (h : i ∈ l ∨ tget d t i = f i) : tget d (l.foldl (fun t a => tset d t a (f a)) t) i = f i := by
  induction l generalizing t with
  | nil => exact h.resolve_left List.not_mem_nil
  | cons a r ih =>
    refine ih _ ?_
    by_cases ha : a = i
    · exact .inr (by rw [ha, tget_tset_same])
    · rw [tget_tset_other _ _ _ ha]
      exact h.imp_left fun hm => (List.mem_cons.1 hm).resolve_left (Ne.symm ha)

theorem seedCell_gens (job : W64) (lcell : Nat) (salt : W32) (c : Cell) (a : Nat) (h : a < 5) :
    tget unseeded (seedCell job lcell salt c).gens a = seedGen job lcell a salt :=
  tget_foldl_tset unseeded (fun a => seedGen job lcell a salt) _ (.inl (List.mem_range.2 h))

/-- An operation of a live cell whose predicate is true takes place. -/
theorem cellEvent_predicated {t b q : Nat} {pr : Option Pred} {s : State} (h : CellLive t b q s)
    (hp : predOk (getCell (advanceTo t s) (cellAt t b q s)) (jccAt t b s) pr = true) (f g : Nat → Nat → Nat → State → State) :
    cellEvent t b q (fun p j cell u => if predOk (getCell u cell) j pr then f p j cell u else g p j cell u) s =
      f (partOf (advanceTo t s) b) (jccAt t b s) (cellAt t b q s) (advanceTo t s) := by
  rw [cellEvent_live h, if_pos hp]

theorem counterOp_new {j cell q i : Nat} {s : State} (h : (getCell s cell).ctrSink.contains (j, i) = false) (o : CtrOp) :
    (tget ctDef (getCell (counterOp j cell q i o s) cell).ct i).new = match o with
      | .set r => BitVec.ofNat 32 (relVal (2 ^ 32) q r)
      | .add r => ctAt (getCell s cell) j i + BitVec.ofNat 32 (relVal (2 ^ 32) q r)
      | .copy k => ctAt (getCell s cell) j k := by
  rw [counterOp, getCell_modCell, if_neg (by rw [h]; exact Bool.false_ne_true), tget_tset_same]
  rfl

/-- Settles O18: each operation of a live cell writes the register that it names. -/
theorem cellRegisters : Obligations.CellRegisters := by
  intro t b q pr s h hp
  have hx := fun f g => congrArg (Host.Outcome.next : State → Host.Outcome State Fault Refusal) (cellEvent_predicated h hp f g)
  refine ⟨fun i r hs => ⟨⟨_, hx _ _, counterOp_new hs _⟩, ⟨_, hx _ _, counterOp_new hs _⟩, fun k => ⟨_, hx _ _, counterOp_new hs _⟩⟩,
    fun i g => ⟨_, hx _ _, ?_⟩, fun v => ⟨⟨_, hx _ _, ?_⟩, ⟨_, hx _ _, ?_⟩⟩, fun w hr => ⟨_, hx _ _, ?_⟩,
    fun salt he => ⟨_, hx _ _, ?_⟩⟩
  · rw [comparatorOp, getCell_modCell, tget_tset_same]
    exact ⟨rfl, rfl⟩
  · rw [laneRegOp, getCell_modCell]
    exact ⟨rfl, rfl⟩
  · rw [laneRegOp, getCell_modCell]
    exact ⟨rfl, rfl⟩
  · rw [modeSetOp, if_neg (by rw [hr]; exact Bool.false_ne_true), getCell_modCell]
    exact ⟨rfl, rfl, rfl⟩
  · rw [seedOnce, if_neg (by rw [he]; exact Bool.false_ne_true), seedOp, getCell_modCell]
    exact seedCell_gens _ _ _ _

end Sys2Proof.Machine
end

section
/-! SUPPORT. Flags, waits, ends and watchdogs of the Armature cores (R168 to R176). -/

-- One proof after another: many at a time need more memory than the check of the whole text has.
set_option Elab.async false

namespace Sys2Proof.Machine

/-- The update at the front of the queue is applied in a later cycle than its own (R172). -/
theorem applyUpd_due {p : Nat} {u : FlagUpd} {rest : List FlagUpd} {s : State} (hu : (getPart s p).updates = u :: rest)
    (ht : u.at_ < s.clk.mcc) (hr : s.clk.run = .running) :
    getPart (applyUpd p s) p = { getPart s p with
      updates := rest
      flags := tset {} (getPart s p).flags u.flag {
        value := if u.add then (getFlag (getPart s p) u.flag).value + u.v else u.v, setter := some u.band, setGtc := s.clk.gtc } } := by
  rw [applyUpd, hu]
  dsimp only
  rw [if_neg (fun h => h.elim (Nat.not_le.2 ht) (· hr)), getPart, satisfy_parts]
  exact getPart_modPart ..

theorem endSequencer_band (p j b : Nat) (s : State) : (getBand (endSequencer p j b s) b).seqState = 2 := by
  have h := congrArg Band.seqState (getBand_modBand b (fun bd => { bd with seqState := 2, seqEnd := some j }) s)
  exact pred_ite (P := fun t => (getBand t b).seqState = 2) h h

/-- A watchdog asks for a cast at the boundary of a fault (R175). -/
theorem watchdogOp_cast {p b : Nat} {s : State} (h : (getPart s p).pendCast = none) :
    ∃ c, (getPart (watchdogOp p b s) p).pendCast = some c ∧ c.fault = true ∧ c.wd = [b] ∧ c.at_ = some (faultBoundary s) := by
  rw [watchdogOp, getPart_modPart]
  dsimp only
  rw [h, Option.map_none, if_neg (by decide), askCast, h]
  exact ⟨_, rfl, rfl, rfl, rfl⟩

/-- Settles O20: each event of a core that executes writes the band and the partition as its rule says. -/
theorem flagsWaitsAndEnds : Obligations.FlagsWaitsAndEnds := by
  refine ⟨fun t s => ⟨fun b f v h => ⟨⟨_, congrArg Host.Outcome.next (armature_runs h _), ?_⟩,
      ⟨_, congrArg Host.Outcome.next (armature_runs h _), ?_⟩⟩, fun b f eq v h => ⟨_, congrArg Host.Outcome.next (armature_runs h _), ?_⟩,
      fun p u rest hu ht hr => ⟨_, rfl, ?_⟩, fun b hw hs hr => ⟨_, congrArg Host.Outcome.next (if_pos ⟨hw, hs, hr⟩), ?_⟩,
      fun b h => congrArg Host.Outcome.next (armature_runs h _)⟩,
    fun t b s => ⟨fun h hs => ⟨_, congrArg Host.Outcome.next (sequencer_live h hs _), endSequencer_band ..⟩,
      fun h => ⟨_, congrArg Host.Outcome.next (armature_runs h _), ?_⟩, fun h => ⟨_, congrArg Host.Outcome.next (armature_runs h _), ?_⟩,
      fun hp hw hc => ?_⟩⟩
  · rw [getPart_modPart]
  · rw [getPart_modPart]
  · rw [getBand_setBand]
    exact ⟨rfl, rfl, rfl, rfl, rfl⟩
  · rw [applyUpd_due hu ht hr]
    exact ⟨rfl, by rw [getFlag, tget_tset_same], by rw [getFlag, tget_tset_same], by rw [getFlag, tget_tset_same]⟩
  · rw [getBand_setBand]
  · rw [getBand_setBand]
  · rw [getBand, jobFatal_bands]
    exact congrArg (fun x : Band => x.arm.st) (getBand_setBand ..)
  · obtain ⟨c, h1, h2, h3, h4⟩ := watchdogOp_cast (b := b) hc
    exact ⟨_, c, congrArg Host.Outcome.next (if_pos ⟨hp, hw⟩), h1, h2, h3, h4⟩

end Sys2Proof.Machine
end

section
/-! SUPPORT. The band head and the seam column (R63 to R69). -/

-- One proof after another: many at a time need more memory than the check of the whole text has.
set_option Elab.async false

namespace Sys2Proof.Machine

/-- The counters hold nothing of a band. -/
theorem getBand_with_patina (b : Nat) (x : Patina) (s : State) : getBand { s with patina := x } b = getBand s b := rfl

/-- A word on a legal track of an idle seam is in flight (R66). -/
theorem seamPlaceOp_placed {p j b dst track tag : Nat} {lanes : List (Nat × List Byte × BitVec 16)} {s : State}
    (ho : (getBand s b).seamOut = some (j, lanes)) (ht : trackOk b dst track = true) (hr : routeOk s p b dst = true) (he : s.seam = []) :
    (getBand (seamPlaceOp p j b dst track tag s) b).seamOut = none ∧ (seamPlaceOp p j b dst track tag s).seam =
      [{ src := b, dst := dst, track := track, placedAt := j, tag := tag % 16, lanes := lanes }] := by
  rw [seamPlaceOp, ho]
  dsimp only
  rw [ht, hr, if_neg (by simp), if_neg]
  · exact ⟨congrArg Band.seamOut (getBand_modBand b (fun bd => { bd with seamOut := none }) s), by rw [modBand_seam, he, List.nil_append]⟩
  · rw [modBand_seam, he]
    exact Bool.false_ne_true

/-- The one word that arrives with the TAG of the cycle is taken off the seam, for the head or for its queue (R68). -/
theorem seamArriveOp_one {p j b : Nat} {w : SeamWord} {s : State}
    (hw : s.seam.filter (fun x => x.dst == b && ageAt j x.placedAt == (seamLatency x.src b : Int)) = [w]) (ht : w.tag = j % 16) (i : Bool) :
    getBand (seamArriveOp p j b i s) b =
        (if i then { getBand s b with seamGot := some (j, w) } else { getBand s b with seamQueue := (getBand s b).seamQueue ++ [w] }) ∧
      w ∉ (seamArriveOp p j b i s).seam := by
  rw [seamArriveOp, hw]
  have h1 : minOf ([w].map SeamWord.lastTrack) = some w.lastTrack := rfl
  have h2 : [w].find? (fun x => x.lastTrack == w.lastTrack) = some w := by simp
  have h3 : [w].find? (fun x => decide (x ≠ w)) = none := by simp
  dsimp only
  rw [h1]
  dsimp only
  rw [h2]
  dsimp only
  rw [h3, if_neg (not_not.2 ht)]
  have hn : w ∉ s.seam.filter (fun x => !([w].contains x)) := by simp
  cases i with
  | false => rw [if_neg Bool.false_ne_true, if_neg Bool.false_ne_true]; exact ⟨getBand_modBand .., hn⟩
  | true => rw [if_pos rfl, if_pos rfl]; exact ⟨getBand_modBand .., hn⟩

/-- Settles O25: the two operations of the seam column do what R66 to R69 say. -/
theorem seamCarriesWords : Obligations.SeamCarriesWords := by
  refine fun t b s h => ⟨fun dst track tag lanes hs ho ht hr he => ?_, fun w hw ht => ?_⟩
  · exact ⟨_, congrArg Host.Outcome.next (sequencer_live h hs _), seamPlaceOp_placed ho ht hr he⟩
  · have hex : ∀ i, exec (.seamArrival t b i) s = Host.Outcome.next (seamArriveOp (partOf (advanceTo t s) b) (jccAt t b s) b i (advanceTo t s)) :=
      fun i => congrArg Host.Outcome.next (island_live h _)
    obtain ⟨hg, hgs⟩ := seamArriveOp_one (p := partOf (advanceTo t s) b) hw ht true
    obtain ⟨hq, hqs⟩ := seamArriveOp_one (p := partOf (advanceTo t s) b) hw ht false
    exact ⟨⟨_, hex true, by rw [hg, if_pos rfl], hgs⟩, ⟨_, hex false, by rw [hq, if_neg Bool.false_ne_true], hqs⟩⟩

/-- The word at the front of the stream of a run is popped (R63). -/
theorem popOne_run {p j b x : Nat} {r : CurRun} {w : PortWord} {rest : List PortWord} {s : State}
    (hr : tget none (getBand s b).inRuns x = some r) (ha : 0 ≤ ageAt j r.from_)
    (hw : tget [] (getBand s b).inStreams x = w :: rest) (ht : w.tag = j % 16) :
    getBand (popOne p j b x s) b = { getBand s b with
      inStreams := tset [] (getBand s b).inStreams x rest
      inRuns := tset none (getBand s b).inRuns x (if r.left ≤ 1 then none else some { r with left := r.left - 1 })
      popped := some (j, w), used := (getBand s b).used.map (fun n => { n with run := some r }) } := by
  rw [popOne]
  dsimp only
  rw [hr]
  dsimp only
  rw [if_neg (not_lt.2 ha), hw]
  dsimp only
  rw [if_neg (not_not.2 ht)]
  rw [getBand_with_patina, getBand_modBand]

/-- The first pop of a cycle, of one stream, takes its word (R63). -/
theorem popOp_first {p j b x : Nat} {s : State} (hu : ∀ n, (getBand s b).used = some n → n.cyc ≠ j) :
    popOp p j b [x] s =
      popOne p j b x (modBand b (fun bd => { bd with used := some { cyc := j, stream := x, run := none, ovf := false } }) s) := by
  have h1 : minOf [x] = some x := rfl
  have h2 : minOf ([x].erase x) = none := by rw [List.erase_cons_head]; rfl
  have h3 : (getBand s b).used.filter (fun n => n.cyc == j) = none := by
    rw [Option.filter_eq_none_iff]
    exact fun n hn => by simpa using hu n hn
  rw [popOp, h1]
  dsimp only
  rw [h2, h3]
  rfl

/-- The lanes of an injection whose slots are free join the ring (R64). -/
theorem injectTake_free {p j b : Nat} {src : InjSrc} {cw ccw : Bool} {lanes : List Nat} {laps tcw tccw : Nat} {s : State}
    (hm : ∀ m ∈ (getBand s b).lanes, m.emitted = true ∨ m.birth ≠ (j + 129) % 2 ^ 48) :
    ∃ new, (getBand (injectTake p j b src cw ccw lanes laps tcw tccw s) b).lanes = (getBand s b).lanes ++ new ∧
      new.map (fun l => (l.ccw, l.idx, l.dest, l.data)) =
        (injectData (getBand s b) j src cw ccw lanes laps).map (fun x => (x.1, x.2.1, x.2.2.2.1, x.2.2.2.2)) ∧
      ∀ l ∈ new, l.birth = (j + 129) % 2 ^ 48 ∧ l.placed = false ∧ l.emitted = false := by
  have hc : ∀ l : Lane, ((getBand s b).lanes.any fun m =>
      !m.emitted && m.birth == (j + 129) % 2 ^ 48 && m.ccw == l.ccw && m.idx == l.idx) = false := by
    refine fun l => List.any_eq_false.2 fun m hmem => ?_
    obtain h | h := hm m hmem
    · simp [h]
    · rw [beq_eq_false_iff_ne.2 h]
      simp
  rw [injectTake]
  dsimp only
  simp only [hc, Bool.not_false, List.filter_true]
  rw [List.find?_eq_none.2 (fun _ _ => Bool.false_ne_true)]
  refine ⟨_, congrArg Band.lanes (getBand_modBand b _ s), ?_, fun l hl => ?_⟩
  · rw [List.map_map]
    rfl
  · obtain ⟨x, -, rfl⟩ := List.mem_map.1 hl
    exact ⟨rfl, rfl, rfl⟩

/-- A lane that is alone at its place enters its free slot (R64). -/
theorem injectPlace_free {p j b : Nat} {l : Lane} {s : State}
    (hl : (getBand s b).lanes.filter (fun x => x.places (getBand s b).rot j) = [l])
    (hf : laneAt (getBand s b) j l.ccw l.idx (if l.ccw then 0 else 127) = none) :
    { l with placed := true } ∈ (getBand (injectPlace p j b s) b).lanes := by
  rw [injectPlace, hl, List.foldl_cons, List.foldl_nil, placeOne]
  rw [hf, getBand_setBand]
  exact List.mem_append_right _ (List.mem_singleton.2 rfl)

/-- One lane of a legal index is what the release sorts by ring and index. -/
theorem sort_single {l : Lane} (h : l.idx < 8) :
    (List.range 16).flatMap (fun k => [l].filter (fun x => x.ccw == decide (k ≥ 8) && x.idx == k % 8)) = [l] := by
  have hk : ∀ (c : Bool) (i : Fin 8), (List.range 16).flatMap (fun k =>
      if (c == decide (k ≥ 8) && (i : Nat) == k % 8) = true then [()] else []) = [()] := by decide
  have := congrArg (List.map fun _ => l) (hk l.ccw ⟨l.idx, h⟩)
  rw [List.map_flatMap] at this
  refine Eq.trans ?_ this
  congr 1
  funext k
  rw [List.filter_cons, List.filter_nil, apply_ite (List.map fun _ => l)]
  rfl

/-- A lane that went to its unit is not on the ring any more. -/
theorem not_mem_taken {l0 : Lane} {l : List Lane} {due : List Lane} (hd : due = [l0]) : l0 ∉ l.filter (fun x => !(due.contains x)) := by
  subst hd
  simp

/-- A lane whose time has come, as `releaseOp` tests it: behind those that are good, or noted as the error that it is (R65). -/
def releaseLane (p j b : Nat) (noise : List (Dir × Nat × Noise)) (a : State × List (Nat × Nat × List Byte × BitVec 16 × Bool)) (l0 : Lane) :
    State × List (Nat × Nat × List Byte × BitVec 16 × Bool) :=
  let n := match noise.find? (fun x => (x.1 == .ccw) == l0.ccw && x.2.1 == l0.idx) with
    | some x => x.2.2
    | none => []
  let (l, valid) := l0.flip j n
  if !valid || laneCheck l.data l.dest l.tag l.life ≠ l.check then (ringCheck p j b 0x80 0xFF l0.idx l0.ccw a.1, a.2)
  else if l.tag ≠ j % 16 then
    (headFault p j b 0x0205 (fun f => { f with lane := l0.idx, ccw := l0.ccw, cmp := j % 16, tag := l.tag }) a.1, a.2)
  else (a.1, a.2 ++ [(l.dest, l0.idx, l.data, l.check, l0.ccw)])

/-- What the units take of the lanes that are good, as `releaseOp` hands them over (R65). -/
def releaseUnits (p j b : Nat) (a : State × List (Nat × Nat × List Byte × BitVec 16 × Bool)) : State :=
  let unit := fun (u : Nat) => fitUnit (u == 2) ((a.2.filter (·.1 == u)).map (·.2)) []
  let ovf := fun (u : Nat) (s : State) => match (unit u).2 with
    | some (i, c) => headFault p j b 0x0206 (fun f => { f with lane := i, ccw := c }) s
    | none => s
  let port := (unit 1).1
  let s := ovf 1 a.1
  let s := if port = [] then s else
    let s := modBand b (fun bd => { bd with outAt := some j, tap := bd.tap.map (fun t => port.foldl (fun t x => tapLane j x.2.1 t) t) }) s
    outWord p j b (port.map (fun x => (x.1, x.2.1))) s
  let row := (unit 2).1
  let s := ovf 2 s
  let s := if row = [] then s else modBand b (fun bd => { bd with rowIn := [(j, row.map (fun x => (x.1, x.2.1)))] }) s
  let sm := (unit 3).1
  let s := ovf 3 s
  if sm = [] then s
  else modBand b (fun bd => { bd with seamOut := some (j, sm.map (fun x => (x.1, x.2.1, x.2.2.1))) }) s

/-- The release, by its parts. -/
theorem releaseOp_eq {p j b : Nat} {noise : List (Dir × Nat × Noise)} {due : List Lane} {s : State}
    (hd : (getBand s b).lanes.filter (fun x => x.placed && x.dest != 0 && x.age j == 128) = due) :
    releaseOp p j b noise s = releaseUnits p j b
      (((List.range 16).flatMap (fun k => due.filter (fun l => l.ccw == decide (k ≥ 8) && l.idx == k % 8))).foldl (releaseLane p j b noise)
        (setBand b { getBand s b with lanes := (getBand s b).lanes.filter (fun l => !(due.contains l)) } s, [])) := by
  subst hd
  rfl

theorem releaseLane_good {p j b : Nat} {l0 l : Lane} {a : State × List (Nat × Nat × List Byte × BitVec 16 × Bool)}
    (hf : l0.flip j [] = (l, true)) (hc : laneCheck l.data l.dest l.tag l.life = l.check) (ht : l.tag = j % 16) :
    releaseLane p j b [] a l0 = (a.1, a.2 ++ [(l.dest, l0.idx, l.data, l.check, l0.ccw)]) := by
  rw [releaseLane, List.find?_nil]
  dsimp only
  rw [hf]
  dsimp only
  rw [if_neg (by simp [hc]), if_neg (not_not.2 ht)]

/-- The one lane whose time has come, with its CHECK and its TAG, is what the units are handed (R65). -/
theorem releaseOp_one {p j b : Nat} {l0 l : Lane} {s : State}
    (hd : (getBand s b).lanes.filter (fun x => x.placed && x.dest != 0 && x.age j == 128) = [l0]) (hi : l0.idx < 8)
    (hf : l0.flip j [] = (l, true)) (hc : laneCheck l.data l.dest l.tag l.life = l.check) (ht : l.tag = j % 16) :
    ∃ bd : Band, l0 ∉ bd.lanes ∧ bd.outRun = (getBand s b).outRun ∧
      releaseOp p j b [] s = releaseUnits p j b (setBand b bd s, [(l.dest, l0.idx, l.data, l.check, l0.ccw)]) := by
  refine ⟨{ getBand s b with lanes := (getBand s b).lanes.filter (fun l => !([l0].contains l)) }, not_mem_taken rfl, rfl, ?_⟩
  rw [releaseOp_eq hd, sort_single hi, List.foldl_cons, List.foldl_nil, releaseLane_good hf hc ht, List.nil_append]

theorem releaseUnits_row (p j b i : Nat) (d : List Byte) (c : BitVec 16) (w : Bool) (s : State) :
    releaseUnits p j b (s, [(2, i, d, c, w)]) = modBand b (fun bd => { bd with rowIn := [(j, [(i, d)])] }) s := rfl

theorem releaseUnits_seam (p j b i : Nat) (d : List Byte) (c : BitVec 16) (w : Bool) (s : State) :
    releaseUnits p j b (s, [(3, i, d, c, w)]) = modBand b (fun bd => { bd with seamOut := some (j, [(i, d, c)]) }) s := rfl

theorem releaseUnits_port (p j b i : Nat) (d : List Byte) (c : BitVec 16) (w : Bool) (s : State) :
    releaseUnits p j b (s, [(1, i, d, c, w)]) =
      outWord p j b [(i, d)] (modBand b (fun bd => { bd with outAt := some j, tap := bd.tap.map (tapLane j d) }) s) := rfl

/-- The word of a run that has begun leaves by the port, and the ring is as it was (R65). -/
theorem outWord_run {p j b : Nat} {lanes : List (Nat × List Byte)} {r : CurRun} {s : State} (hr : (getBand s b).outRun = some r)
    (ha : 0 ≤ ageAt j r.from_) : (getBand (outWord p j b lanes s) b).lanes = (getBand s b).lanes ∧
      (getBand (outWord p j b lanes s) b).outAt = (getBand s b).outAt := by
  rw [outWord]
  dsimp only
  rw [hr]
  dsimp only
  rw [if_neg (not_lt.2 ha), getBand_with_patina, getBand_setBand]
  exact ⟨rfl, rfl⟩

/-- Settles O24: each operation of the head moves the words as R63 to R65 say. -/
theorem headMovesWords : Obligations.HeadMovesWords := by
  refine fun t b s h => ⟨fun x r w rest hs hu hr ha hw ht => ?_, fun src cw ccw lanes laps tcw tccw hs hm => ?_, fun l hl hf => ?_,
    fun l0 l hd hi hf hc ht => ?_⟩
  · refine ⟨_, congrArg Host.Outcome.next (sequencer_live h hs _), ?_⟩
    rw [popOp_first hu, popOne_run (by rw [getBand_modBand]; exact hr) ha (by rw [getBand_modBand]; exact hw) ht, getBand_modBand]
    exact ⟨rfl, tget_tset_same .., tget_tset_same ..⟩
  · obtain ⟨new, h1, h2, h3⟩ := injectTake_free hm
    exact ⟨_, new, congrArg Host.Outcome.next (sequencer_live h hs _), h1, h2, h3⟩
  · exact ⟨_, congrArg Host.Outcome.next (island_live h _), injectPlace_free hl hf⟩
  · obtain ⟨bd, hn, hr, he⟩ := releaseOp_one (p := partOf (advanceTo t s) b) hd hi hf hc ht
    have hex : exec (.headRelease t b []) s = Host.Outcome.next _ := congrArg Host.Outcome.next (island_live h _)
    rw [he] at hex
    refine ⟨fun h1 hrun => ?_, fun h2 => ?_, fun h3 => ?_⟩
    · obtain ⟨r, hrun, ha⟩ := hrun
      rw [h1, releaseUnits_port] at hex
      obtain ⟨e1, e2⟩ := outWord_run (p := partOf (advanceTo t s) b) (lanes := [(l0.idx, l.data)])
        (s := modBand b (fun bd => { bd with outAt := some (jccAt t b s), tap := bd.tap.map (tapLane (jccAt t b s) l.data) })
          (setBand b bd (advanceTo t s))) (by rw [getBand_modBand, getBand_setBand]; exact hr.trans hrun) ha
      refine ⟨_, hex, ?_⟩
      rw [e1, e2, getBand_modBand, getBand_setBand]
      exact ⟨hn, rfl⟩
    · rw [h2, releaseUnits_row] at hex
      refine ⟨_, hex, ?_⟩
      rw [getBand_modBand, getBand_setBand]
      exact ⟨hn, rfl⟩
    · rw [h3, releaseUnits_seam] at hex
      refine ⟨_, hex, ?_⟩
      rw [getBand_modBand, getBand_setBand]
      exact ⟨hn, rfl⟩

end Sys2Proof.Machine
end

section
/-! SUPPORT. What a capture delivers and an emission sends out, and what a bank write puts into the scratchpad (R61). -/

-- One proof after another: many at a time need more memory than the check of the whole text has.
set_option Elab.async false

namespace Sys2Proof.Machine

/-- A write that keeps its port is done (R61). -/
theorem bankOp_kept {p j cell code order bank : Nat} {w : Bool} {s : State}
    (h : portLoser (getCell s cell) j w code (order + 1) [bank] = none) : (bankOp p j cell w code order bank s).1 = true := by
  rw [bankOp]
  dsimp only
  rw [h]
  cases w <;> rfl

/-- Settles O22: the bytes are put into the scratchpad as a run that does not pass its end. -/
theorem captureIntoABank : Obligations.CaptureIntoABank := by
  intro p j cell q ccw a data s hl hp i hi
  have hk := bankOp_kept (p := p) (order := 0) hp
  have hfit : spAddrOf (getCell s cell) j q a / 64 * 64 + data.length ≤ 0x80000 := by
    have : spAddrOf (getCell s cell) j q a < 0x80000 := Nat.mod_lt _ (by omega)
    omega
  rw [deliver]
  dsimp only
  rw [hk, Bool.and_self, if_pos rfl, modCell, getCell_setCell, spWrite]
  dsimp only
  rw [puts_spread_mem _ _ hfit, readByte_writeBytes_inside _ _ _ _ hi]

/-- What is kept by a step is kept by the steps of a list. -/
theorem foldl_keeps {α β γ : Type} {g : β → γ} {f : β → α → β} (h : ∀ s x, g (f s x) = g s) (l : List α) (s : β) :
    g (l.foldl f s) = g s := by
  induction l generalizing s with
  | nil => rfl
  | cons x r ih => exact (ih _).trans (h s x)

theorem cellFaults_keeps {γ : Type} {g : State → γ} {p j cell code : Nat} (h : ∀ s, g (cellFault p j cell code id s) = g s) (n : Nat) :
    ∀ s, g (cellFaults p j cell code n s) = g s := by
  induction n with
  | zero => exact fun _ => rfl
  | succ n ih => exact fun s => (ih _).trans (h s)

/-- A capture that captures nothing leaves the bands alone, whatever ports it asks for (R162). -/
theorem deliver_off_bands (p j cell q : Nat) (ccw : Bool) (dest : CapDest) (s : State) :
    (deliver p j cell q ccw false dest [] s).bands = s.bands := by
  cases dest with
  | tile reg block lane es =>
    exact pred_ite (P := fun t => t.bands = s.bands) rfl (cellFaults_keeps (g := State.bands) (fun _ => rfl) _ _)
  | bank a =>
    have hb : ∀ bank, (bankOp p j cell true (if ccw then 0xD else 0xC) 0 bank s).2.bands = s.bands := by
      intro bank
      rw [bankOp]
      dsimp only
      split
      · rfl
      · rw [if_pos rfl]
        refine foldl_keeps (g := State.bands) ?_ _ _
        exact fun _ _ => rfl
    rw [deliver]
    dsimp only
    rw [Bool.and_false, if_neg Bool.false_ne_true]
    exact hb _
  | weight => rfl
  | rowStream => rfl

/-- A capture takes the lane of its slot that is valid, whole, bound for the cells, old enough and of the cycle (R61). -/
theorem captureTake_good {p j cell q idx : Nat} {ccw : Bool} {noise : Noise} {l0 l : Lane} {s : State}
    (hl : laneSeen (getBand s (cell / 128)) j ccw idx (cell % 128) = some l0) (hf : l0.flip j noise = (l, true))
    (hc : laneCheck l.data l.dest l.tag l.life = l.check) (hd : l.dest = 0) (ha : 0 ≤ l.age j) (ht : ringTime ccw j q = l.tag) :
    captureTake p j cell q idx ccw noise s = (some l.data, s) := by
  rw [captureTake]
  dsimp only
  rw [hl]
  dsimp only
  rw [hf]
  dsimp only
  rw [if_neg (by decide), if_neg (not_not.2 hc), if_neg (not_not.2 hd), if_neg (not_lt.2 ha), if_neg (not_not.2 ht)]

/-- What a read of the scratchpad returns is what the cell holds. -/
theorem spReadWord_congr {p j cell a : Nat} {s t : State} (hs : (getCell t cell).sp = (getCell s cell).sp)
    (he : (getCell t cell).spErr = (getCell s cell).spErr) : (spReadWord p j cell a t).1 = (spReadWord p j cell a s).1 := by
  have h : ∀ w half, spDecode (getCell t cell) j w half = spDecode (getCell s cell) j w half := by
    intro w half
    rw [spDecode, spDecode, spErrOf, spErrOf, hs, he]
  have hr : ∀ u, (spReadWord p j cell a u).1 = (spDecode (getCell u cell) j (a % 0x80000 / 64) 0).1 ++
      (spDecode (getCell u cell) j (a % 0x80000 / 64) 1).1 := fun _ => rfl
  rw [hr, hr, h, h]

/-- Reads taken back leave what `g` sees of the cell, which holds neither requests, nor emissions, nor chunks. -/
theorem takeBackReads_keeps {γ : Type} {g : Cell → γ}
    (hg : ∀ (c : Cell) (r : List BankReq) (q : List PendChunk), g { c with reqs := r, chunkQ := q } = g c)
    (he : ∀ (c : Cell) (e : List EmitNote), g { c with emits := e } = g c) (p j cell code : Nat) (banks : List Nat) (s : State) :
    g (getCell (takeBackReads p j cell code banks s) cell) = g (getCell s cell) := by
  have hu : ∀ gone u, g (getCell (unemit j cell gone u) cell) = g (getCell u cell) := by
    intro gone u
    refine pred_ite (P := fun t => g (getCell t cell) = g (getCell u cell)) rfl ?_
    exact (congrArg g (getCell_modCell cell (fun c => { c with emits := c.emits.filter (fun x => !(x.cyc == j && gone x)) }) u)).trans
      (he ..)
  refine pred_ite (P := fun t => g (getCell t cell) = g (getCell s cell)) rfl ?_
  refine (hu ..).trans ?_
  rw [getCell_modCell]
  refine (hg ..).trans (foldl_keeps (g := fun t => g (getCell t cell)) ?_ _ _)
  exact fun _ _ => rfl

/-- A read that keeps its port leaves the scratchpad and its errors as they are. -/
theorem bankOp_read {p j cell code order bank : Nat} {s : State}
    (h : portLoser (getCell s cell) j false code (order + 1) [bank] = none) :
    (getCell (bankOp p j cell false code order bank s).2 cell).sp = (getCell s cell).sp ∧
      (getCell (bankOp p j cell false code order bank s).2 cell).spErr = (getCell s cell).spErr := by
  rw [bankOp]
  dsimp only
  rw [h]
  dsimp only
  rw [if_neg Bool.false_ne_true, getCell_modCell]
  exact ⟨takeBackReads_keeps (g := Cell.sp) (fun _ _ _ => rfl) (fun _ _ => rfl) ..,
    takeBackReads_keeps (g := Cell.spErr) (fun _ _ _ => rfl) (fun _ _ => rfl) ..⟩

/-- What an emission sends out, of each source that keeps its port (R61). -/
theorem emissionData_kept {p j cell q : Nat} {ccw : Bool} {src : EmSrc} {x : List Byte} {s : State}
    (h : match src with
      | .staged => ∃ r, (getCell s cell).staged = x :: r
      | .sp a => portLoser (getCell s cell) j false 0xF (b2n ccw + 1) [bankOf (spAddrOf (getCell s cell) j q a / 64 * 64)] = none ∧
          x = (spReadWord p j cell (spAddrOf (getCell s cell) j q a / 64 * 64) s).1
      | .tile reg block ln es => passTileRead (getCell s cell) j reg = false ∧ (j, reg) ∉ (getCell s cell).tileReads ∧
          x = tileLane (getCell s cell) j reg block ln es false) :
    (emissionData p j cell q ccw true src s).1 = some x := by
  cases src with
  | staged =>
    obtain ⟨r, hr⟩ := h
    rw [emissionData, hr]
  | sp a =>
    obtain ⟨hp, hx⟩ := h
    obtain ⟨hs, he⟩ := bankOp_read (p := p) hp
    rw [emissionData]
    dsimp only
    rw [bankOp_kept hp, Bool.and_self, if_pos rfl, hx]
    exact congrArg some (spReadWord_congr hs he)
  | tile reg block ln es =>
    obtain ⟨hp, hr, hx⟩ := h
    have hn : ((getCell s cell).tileReads.filter (fun r => r.1 = j ∧ r.2 = reg)).length = 0 := by
      rw [List.length_eq_zero_iff, List.filter_eq_nil_iff]
      intro r hm hj
      obtain ⟨h1, h2⟩ := of_decide_eq_true hj
      exact hr (h1 ▸ h2 ▸ hm)
    rw [emissionData, tileReadOp]
    dsimp only
    rw [hp, if_neg Bool.false_ne_true, if_pos hn, hx]
    rfl

/-- An emission from a free slot puts its lane behind the others (R61). -/
theorem emissionOp_free {p j cell q lane dest laps : Nat} {d : Dir} {tag : Rel} {src : EmSrc} {x : List Byte} {s : State}
    (hf : laneAt (getBand s (cell / 128)) j (d == .ccw) lane (cell % 128) = none)
    (hx : (emissionData p j cell q (d == .ccw) true src s).1 = some x) :
    ∃ l, l ∈ (getBand (emissionOp p j cell q d lane dest laps tag src s) (cell / 128)).lanes ∧ l.data = x ∧ l.ccw = (d == .ccw) ∧
      l.origin = cell % 128 ∧ l.idx = lane ∧ l.dest = dest ∧ l.birth = j ∧ l.tag = relVal 16 q tag ∧
      l.life = (if dest = 0 then 128 * laps - 1 else 127) ∧ l.check = laneCheck x dest l.tag l.life := by
  rw [emissionOp]
  dsimp only
  rw [hf]
  dsimp only
  generalize emissionData p j cell q (d == .ccw) true src s = y at hx
  obtain ⟨o, tile, bank, u⟩ := y
  obtain rfl : o = some x := hx
  dsimp only
  rw [getBand_modBand]
  exact ⟨_, List.mem_append_right _ (List.mem_singleton.2 rfl), rfl, rfl, rfl, rfl, rfl, rfl, rfl, rfl, rfl⟩

/-- Settles O21: the lane of its slot is delivered, and the lane of an emission is on the ring; without the predicate neither is. -/
theorem captureAndEmission : Obligations.CaptureAndEmission := by
  refine fun t b q d pr s h => ⟨fun hp => ⟨fun dest noise l0 l hl hf hc hd ha ht => ?_, fun lane dest laps tag src x hf hx => ?_⟩,
    fun hp => ⟨fun dest noise => ?_, fun lane dest laps tag => ?_⟩⟩
  · have hex : exec (.capture t b q d dest noise pr) s = Host.Outcome.next _ :=
      congrArg Host.Outcome.next (cellEvent_predicated h hp _ _)
    rw [hex, captureOp, captureTake_good hl hf hc hd ha ht]
  · obtain ⟨l, hl⟩ := emissionOp_free (dest := dest) (laps := laps) (tag := tag) hf (emissionData_kept hx)
    exact ⟨_, l, congrArg Host.Outcome.next (cellEvent_predicated h hp _ _), hl⟩
  · refine ⟨_, congrArg Host.Outcome.next (cellEvent_unpredicated h hp _ _), ?_⟩
    rw [getBand, deliver_off_bands, getBand]
  · exact congrArg Host.Outcome.next (cellEvent_unpredicated h hp _ _)

end Sys2Proof.Machine
end

section
/-! SUPPORT. Row passes, weights and swaps of the matrix arrays (R83 to R95). -/

-- One proof after another: many at a time need more memory than the check of the whole text has.
set_option Elab.async false

namespace Sys2Proof.Machine

theorem memChange_cells {s t : State} (h : MemChange s t) : t.cells = s.cells := by
  obtain ⟨_, _, _, _, _, _, _, _, rfl, -⟩ := h
  rfl

/-- What a read of the scratchpad notes is not in the cell (R183). -/
theorem spUncorrectable_cells (p j cell a : Nat) (s : State) : (spUncorrectable p j cell a true s).cells = s.cells := by
  have h := jobFatal_cells p 0x0309 (some (cell / 128)) (bandCtx s j cell (bankOf a) (a / 1024) 0) .otherFatal (some j) s
  exact pred_ite (P := fun t => t.cells = s.cells) ((memChange_cells (memChange_advise ..)).trans h) h

theorem spReadWord_cells (p j cell a : Nat) (s : State) : (spReadWord p j cell a s).2.cells = s.cells := by
  have hn : ∀ (e : Ecc) (u : State), (match e with
      | .clean => u
      | .corrected _ _ => spCorrected j cell (a % 0x80000 / 64 * 64) u
      | .uncorrectable => spUncorrectable p j cell (a % 0x80000 / 64 * 64) true u).cells = u.cells := fun e u => match e with
    | .clean => rfl
    | .corrected _ _ => memChange_cells (memChange_spCorrected ..)
    | .uncorrectable => spUncorrectable_cells ..
  exact (hn _ _).trans (hn _ _)

theorem visible_cons {j : Nat} {e : QEntry} {rest : List QEntry} (h : e.got ≠ some j) : visible j (e :: rest) = e :: visible j rest := by
  rw [visible, List.filter_cons_of_pos (by simpa using h), visible]

/-- A pass of a legal descriptor starts where no rows of another are entering (R83). -/
theorem passStartOp_free {p j cell q : Nat} {on : Bool} {e : QEntry} {rest : List QEntry} {d : PassDesc} {s : State}
    (hq : (getCell s cell).arrayFifo = e :: rest) (hb : e.body = .array d) (hg : e.got ≠ some j)
    (hok : passOk (getCell s cell).wide d = true) (hbusy : passBusy (getCell s cell) ((j + 3) % 2 ^ 48) = false) :
    ∃ ps, (getCell (passStartOp p j cell q e.seq on s) cell).passes = (getCell s cell).passes.filter (fun x =>
        !(decide (ageAt j x.e0 ≥ 0) && decide ((ageAt j x.e0).toNat ≥ x.cycles))) ++ [ps] ∧ ps.d = d ∧ ps.e0 = (j + 3) % 2 ^ 48 ∧
      ps.performed = on ∧ (getCell (passStartOp p j cell q e.seq on s) cell).arrayFifo = rest := by
  rw [passStartOp, hq, visible_cons hg]
  dsimp only
  rw [if_neg (not_not.2 rfl), hb]
  dsimp only
  rw [hok, if_neg (by decide), hbusy, if_neg Bool.false_ne_true, getCell_modCell, getCell_modCell, hq]
  exact ⟨_, rfl, rfl, rfl, rfl, rfl⟩

/-- The seed operations and swaps of the cycle leave what `g` sees of the cell, which holds neither weights nor generators. -/
theorem bringForward_keeps {γ : Type} {g : Cell → γ}
    (hg : ∀ (c : Cell) (n : Tbl W64) (r : Tbl (Option Block)) (h : Tbl (Option Shadow)) (e : List (Nat × Bool)),
      g { c with gens := n, resident := r, shadow := h, early := e } = g c) (p j cell b q : Nat) (s : State) :
    g (getCell (bringForward p j cell b q s) cell) = g (getCell s cell) := by
  have hm : ∀ (f : Cell → Cell) (u : State), (∀ c, g (f c) = g c) → g (getCell (modCell cell f u) cell) = g (getCell u cell) :=
    fun f u h => by rw [getCell_modCell, h]
  have hs : ∀ m u, g (getCell (swapOp p j cell m u) cell) = g (getCell u cell) := fun m u =>
    pred_ite (P := fun t => g (getCell t cell) = g (getCell u cell)) rfl (hm _ _ fun c => hg c c.gens _ _ c.early)
  have hd : ∀ salt u, g (getCell (seedOp p cell q salt u) cell) = g (getCell u cell) := fun salt u => by
    rw [seedOp, hm]
    exact fun c => by rw [seedCell]; exact hg c _ c.resident c.shadow c.early
  have hn : ∀ (x : Bool) u, g (getCell (modCell cell (fun c => { c with early := (j, x) :: c.early.filter (·.1 == j) }) u) cell) =
      g (getCell u cell) := fun x u => hm _ _ fun c => hg c c.gens c.resident c.shadow _
  rw [bringForward]
  refine foldl_keeps (g := fun t => g (getCell t cell)) (fun u o => ?_) _ _
  dsimp only
  split
  · split
    · rfl
    · rw [hn, hd]
  · split
    · rfl
    · rw [hn, hs]
  · rfl

theorem bringForward_passes (p j cell b q : Nat) (s : State) :
    (getCell (bringForward p j cell b q s) cell).passes = (getCell s cell).passes :=
  bringForward_keeps (g := Cell.passes) (fun _ _ _ _ _ => rfl) ..

theorem bringForward_vec (p j cell b q : Nat) (s : State) :
    (getCell (bringForward p j cell b q s) cell).vec = (getCell s cell).vec :=
  bringForward_keeps (g := Cell.vec) (fun _ _ _ _ _ => rfl) ..

/-- An entry cycle counts in the passes it is of (R92). -/
theorem entryCycle_counts (p j cell : Nat) (ps : Pass) (n : Nat) (s : State) :
    ∀ x ∈ (getCell (entryCycle p j cell ps n s) cell).passes, x.e0 = ps.e0 → x.n = n + 1 := by
  rw [entryCycle, getCell_modCell]
  intro x hx he
  obtain ⟨y, -, rfl⟩ := List.mem_map.1 hx
  by_cases hy : (y.e0 == ps.e0) = true
  · rw [if_pos hy]
  · rw [if_neg hy] at he
    exact absurd (beq_iff_eq.2 he) hy

theorem stepOrder_single {c : Cell} {st : Step} (w : Bool) (h : c.steps = [st]) : stepOrder c w st = 0 := by
  rw [stepOrder, h]
  cases w <;> simp

/-- The partial sums of the one step that is due are read (R86). -/
theorem partialSumReadOp_one {p j cell a : Nat} {st : Step} {s : State} (hs : (getCell s cell).steps = [st]) (hr : st.readAt = j)
    (ha : st.inAddr = some a) (hp : st.performed = true) (hk : portLoser (getCell s cell) j false st.array 0 [bankOf a] = none) :
    (getCell (partialSumReadOp p j cell [] s) cell).steps = [{ st with psum := some (spReadWord p j cell a s).1 }] := by
  have hd : [st].filter (fun x => decide (x.readAt = j)) = [st] := List.filter_cons_of_pos (l := []) (decide_eq_true hr)
  have hc : getCell (spReadWord p j cell a s).2 cell = getCell s cell := by rw [getCell, spReadWord_cells, getCell]
  rw [partialSumReadOp, hs, hd]
  dsimp only [List.head?_cons, Option.bind_some]
  rw [ha]
  dsimp only
  rw [if_pos rfl, List.foldl_cons, List.foldl_nil, psumRead]
  dsimp only
  rw [ha]
  dsimp only
  rw [stepOrder_single false hs, hk]
  dsimp only
  rw [hp, if_neg (by decide), getCell_modCell, hc, hs]
  exact congrArg (fun x => [x]) ((if_pos (beq_self_eq_true st)).trans (by rw [ha, hp]))

/-- The output of the one step that is due is written and the step is over (R94). -/
theorem outputWriteOp_one {p j cell : Nat} {st : Step} {s : State} (hs : (getCell s cell).steps = [st]) (hw : st.writeAt = j)
    (ho : st.ok = true) (hp : st.performed = true) (ha : st.inAddr = none)
    (hk : portLoser (getCell s cell) j true st.array 0 [bankOf st.outAddr] = none) :
    (getCell (outputWriteOp p j cell s) cell).steps = [] ∧ (getCell (outputWriteOp p j cell s) cell).sp =
      (getCell s cell).sp.puts j (spread 0x80000 st.outAddr (stepWord st (zeros 64)).1) := by
  have hd : [st].filter (fun x => decide (x.writeAt = j)) = [st] := List.filter_cons_of_pos (l := []) (decide_eq_true hw)
  have hn : [st].filter (fun x => decide (x.writeAt ≠ j)) = [] := List.filter_cons_of_neg (l := []) (by simpa using hw)
  have he : [st].filter (·.ok) = [st] := List.filter_cons_of_pos (l := []) ho
  rw [outputWriteOp, hs, hd]
  rw [he, List.foldl_cons, List.foldl_nil, getCell_modCell, List.foldl_cons, List.foldl_nil, outWrite]
  dsimp only
  rw [ho, if_neg (by decide), stepOrder_single true hs, hk]
  dsimp only
  rw [hp, if_neg (by decide), ha]
  dsimp only
  rw [getCell_modCell]
  exact ⟨(congrArg (List.filter _) hs).trans hn, rfl⟩

/-- Of four full shadows each becomes resident (R88). -/
theorem swapOp_full {p j cell a : Nat} {s : State} (ha : a < 4)
    (h : ∀ i < 4, ∃ sh, tget none (getCell s cell).shadow i = some sh ∧ sh.full = true) :
    tget none (getCell (swapOp p j cell 15 s) cell).shadow a = none ∧
      (tget none (getCell (swapOp p j cell 15 s) cell).resident a).isSome = true := by
  have hn : (if (getCell s cell).wide then (List.range 4).filter (fun a => bitOf 15 a) else [0, 1, 2, 3]) = [0, 1, 2, 3] := by
    split
    · decide
    · rfl
  have hm : a ∈ [0, 1, 2, 3] := by
    simp only [List.mem_cons, List.not_mem_nil, or_false]
    omega
  rw [swapOp, hn, if_neg]
  · rw [getCell_modCell, tget_foldl_tset none (fun _ => none) _ (.inl hm), tget_foldl_tset none _ _ (.inl hm)]
    obtain ⟨sh, h1, -⟩ := h a ha
    rw [h1]
    exact ⟨rfl, rfl⟩
  · rw [Bool.not_eq_true, Bool.not_eq_false', List.all_eq_true]
    intro i hi
    obtain ⟨sh, h1, h2⟩ := h i (by simp only [List.mem_cons, List.not_mem_nil, or_false] at hi; omega)
    rw [h1]
    exact h2

/-- A chunk whose read keeps its port is on its way (R87). -/
theorem weightChunkOp_sp {p j cell q k : Nat} {ar : Option Nat} {tr : Bool} {f : OpFmt} {a : SpAddr} {s : State}
    (h : portLoser (getCell s cell) j false 7 (ar.getD 0 + 1) [bankOf (spAddrOf (getCell s cell) j q a / 64 * 64)] = none) :
    ∃ x, x ∈ (getCell (weightChunkOp p j cell q ar k tr f (.sp a) true s) cell).chunkQ ∧ x.at_ = (j + 2) % 2 ^ 48 ∧ x.array = ar ∧
      x.chunk = k ∧ x.transposed = tr ∧ x.fmt = f := by
  rw [weightChunkOp]
  dsimp only
  rw [bankOp_kept h, Bool.not_true, Bool.or_self, if_neg Bool.false_ne_true, chunkOp, getCell_modCell]
  exact ⟨_, List.mem_append_right _ (List.mem_singleton.2 rfl), rfl, rfl, rfl, rfl, rfl⟩

/-- Settles O26: each operation of the arrays writes the cell as R83 to R95 say. -/
theorem arrayPasses : Obligations.ArrayPasses := by
  refine fun t b q pr s h => ⟨fun e rest d hq hb hg hok hbusy => ?_, fun ps hps => ?_, fun st a hs hr ha hp hk => ?_,
    fun st hs hw ho hp ha hk => ?_, fun a hp ha he hf => ?_, fun ar k tr f a hp hk => ?_⟩
  · obtain ⟨ps, hps⟩ := passStartOp_free hq hb hg hok hbusy
    exact ⟨_, ps, congrArg Host.Outcome.next (cellEvent_live h _), hps⟩
  · refine ⟨_, congrArg Host.Outcome.next (cellEvent_live h _), ?_⟩
    rw [rowEntryOp, bringForward_passes, hps]
    exact entryCycle_counts _ _ _ _ _ _
  · exact ⟨_, congrArg Host.Outcome.next (cellEvent_live h _), partialSumReadOp_one hs hr ha hp hk⟩
  · exact ⟨_, congrArg Host.Outcome.next (cellEvent_live h _), outputWriteOp_one hs hw ho hp ha hk⟩
  · refine ⟨_, congrArg Host.Outcome.next ((cellEvent_live h _).trans ((if_pos hp).trans (if_neg ?_))), swapOp_full ha hf⟩
    rw [he]
    exact Bool.false_ne_true
  · obtain ⟨x, hx⟩ := weightChunkOp_sp (p := partOf (advanceTo t s) b) (k := k) (tr := tr) (f := f) hk
    refine ⟨_, x, congrArg Host.Outcome.next (cellEvent_live h _), ?_⟩
    rw [List.foldl_cons, List.foldl_nil, hp]
    exact hx

end Sys2Proof.Machine
end

section
/-! SUPPORT. Vector descriptors (R118 to R129). -/

-- One proof after another: many at a time need more memory than the check of the whole text has.
set_option Elab.async false

namespace Sys2Proof.Machine

/-- What the words of a descriptor leave of its run: the descriptor, its start, its words, and the count of those issued (R119). -/
def runOf (v : VecRun) : VecDesc × Nat × Nat × Nat := (v.d, v.start, v.words, v.issued)

theorem runOf_ite {c : Prop} [Decidable c] {α : Type} {r : VecDesc × Nat × Nat × Nat} {x y : VecRun × α} (hx : runOf x.1 = r)
    (hy : runOf y.1 = r) : runOf (if c then x else y).1 = r :=
  iteInduction (motive := fun z : VecRun × α => runOf z.1 = r) (fun _ => hx) fun _ => hy

theorem compressOuts_run (v : VecRun) (vals : List (Option W32)) (tys : List Bool) (gen : W64) (at_ : Nat) (last : Bool) (flags : Nat) :
    runOf (compressOuts v vals tys gen at_ last flags).1 = runOf v := rfl

theorem mxOuts_run (v : VecRun) (red : Bool) (w : Nat) (vals : List (Option W32)) (act : List Bool) (gen : W64) (at_ : Nat) (last : Bool)
    (flags : Nat) : runOf (mxOuts v red w vals act gen at_ last flags).1 = runOf v :=
  runOf_ite (runOf_ite rfl rfl) (runOf_ite rfl rfl)

theorem noResult_run (v : VecRun) (gen : W64) (at_ : Nat) (ctr : Option (Nat × W32)) (last : Bool) (flags : Nat) :
    runOf (noResult v gen at_ ctr last flags).1 = runOf v := by
  rw [noResult]
  split
  · exact compressOuts_run ..
  · rfl

theorem resultWord_run (v : VecRun) (n : Nat) (vals : List (Option W32)) (gen : W64) (at_ : Nat) (ctr : Option (Nat × W32)) (last : Bool)
    (flags : Nat) : runOf (resultWord v n vals gen at_ ctr last flags).1 = runOf v := by
  refine runOf_ite (mxOuts_run ..) ?_
  split
  · exact compressOuts_run ..
  · rfl
  · rfl

theorem emitResults_run (v : VecRun) (axis : Axis) (rs : List W32) (gen : W64) (at_ : Nat) (last : Bool) (flags : Nat) :
    runOf (emitResults v axis rs gen at_ last flags).1 = runOf v := by
  cases axis with
  | words => exact resultWord_run ..
  | lanes => exact runOf_ite (resultWord_run ..) (noResult_run ..)

theorem reduceWord_run (v : VecRun) (o : RedOp) (axis : Axis) (g : Nat) (vals : List (Option W32)) (tys : List Bool) (gen : W64)
    (at_ : Nat) (last : Bool) (flags : Nat) : runOf (reduceWord v o axis g vals tys gen at_ last flags).1 = runOf v :=
  runOf_ite (noResult_run ..) (emitResults_run ..)

theorem chainOn_run (v : VecRun) (x : VecWord) : runOf (chainOn v x).1 = runOf v := by
  rw [chainOn]
  dsimp only
  split
  · exact reduceWord_run ..
  · refine runOf_ite (mxOuts_run ..) ?_
    split
    · exact compressOuts_run ..
    · refine runOf_ite rfl ?_
      split <;> rfl

/-- A word that goes through the chain leaves the run what it is (R120 to R126). -/
theorem chainWord_run (v : VecRun) (x : VecWord) : runOf (chainWord v x).1 = runOf v :=
  runOf_ite (chainOn_run ..) (chainOn_run ..)

theorem spReadWords_cells (p j cell a n : Nat) (s : State) : (spReadWords p j cell a n s).2.cells = s.cells := by
  induction n generalizing a s with
  | zero => rfl
  | succ n ih => exact (ih ..).trans (spReadWord_cells ..)

theorem vecWordsAt_cells (p j cell a n : Nat) (on : Bool) (s : State) : (vecWordsAt p j cell a n on s).2.cells = s.cells := by
  cases on with
  | false => rfl
  | true => exact spReadWords_cells ..

theorem expandElems_cells (p j cell : Nat) (v : VecRun) (o : VOperand) (n count : Nat) (s : State) :
    (expandElems p j cell v o n count s).2.cells = s.cells := by
  rw [expandElems]
  split
  · refine iteInduction (motive := fun x : List W32 × State => x.2.cells = s.cells) (fun _ => rfl) fun _ => ?_
    refine foldl_keeps (g := fun x : List W32 × State => x.2.cells) (fun x k => ?_) _ _
    exact pred_ite (P := fun t => t.cells = x.2.cells) (vecWordsAt_cells ..) rfl
  · rfl

section
variable {γ : Type} {g : Cell → γ} (hg : ∀ (c : Cell) (r : List BankReq) (q : List PendChunk), g { c with reqs := r, chunkQ := q } = g c)
  (he : ∀ (c : Cell) (e : List EmitNote), g { c with emits := e } = g c)
include hg he

/-- The reads of an operand leave what `g` sees of the cell, which holds neither requests, nor emissions, nor chunks. -/
theorem vecReadSp_keeps (p j cell a n code order : Nat) (on : Bool) (s : State) :
    g (getCell (vecReadSp p j cell a n code order on s).2 cell) = g (getCell s cell) := by
  rw [vecReadSp]
  split
  · rfl
  · refine Eq.trans ?_ (takeBackReads_keeps hg he p j cell code (banksFrom a n) s)
    exact congrArg (fun x => g (tget {} x cell)) (vecWordsAt_cells ..)

theorem readBcast_keeps (p j cell q : Nat) (on : Bool) (clash : Nat → Bool) (k : Nat) (o : VOperand) (s : State) :
    g (getCell (readBcast p j cell q on clash k o s).2 cell) = g (getCell s cell) := by
  rw [readBcast]
  split
  · exact vecReadSp_keeps hg he ..
  · exact vecReadSp_keeps hg he ..
  · rfl
  · rfl
  · rfl

end

/-- A legal descriptor starts where the one before issues no words any more (R118). -/
theorem vecStartOp_free {p j cell q : Nat} {on : Bool} {e : QEntry} {rest : List QEntry} {d : VecDesc} {s : State}
    (hq : (getCell s cell).vecFifo = e :: rest) (hb : e.body = .vector d) (hok : vecOk d = true) (hg : e.got ≠ some j)
    (hbusy : vecBusy (getCell s cell) j = false) :
    ∃ v, (getCell (vecStartOp p j cell q e.seq on s) cell).vec = some v ∧ v.d = d ∧ v.start = j ∧ v.words = vecWords d ∧
      v.performed = on ∧ (getCell (vecStartOp p j cell q e.seq on s) cell).vecFifo = rest := by
  have hv : ∀ clash k o u, (getCell (readBcast p j cell q on clash k o u).2 cell).vec = (getCell u cell).vec := fun clash k o u =>
    readBcast_keeps (g := Cell.vec) (fun _ _ _ => rfl) (fun _ _ => rfl) ..
  have hr : ∀ clash k o u, (getCell (readBcast p j cell q on clash k o u).2 cell).vecFifo = (getCell u cell).vecFifo := fun clash k o u =>
    readBcast_keeps (g := Cell.vecFifo) (fun _ _ _ => rfl) (fun _ _ => rfl) ..
  have hf : ∀ n u, getCell (cellFaults p j cell 0x020A n u) cell = getCell u cell :=
    cellFaults_keeps (g := fun u => getCell u cell) fun _ => rfl
  rw [vecStartOp, hq, visible_cons hg]
  dsimp only
  rw [if_neg (not_not.2 rfl), hb]
  dsimp only
  rw [hok, if_neg (by decide), hbusy, if_neg Bool.false_ne_true, getCell_modCell]
  dsimp only
  rw [hv, hv, hv, hr, hr, hr, hf, getCell_modCell, getCell_modCell, hq]
  exact ⟨_, rfl, rfl, rfl, rfl, rfl, rfl⟩

/-- The expand stream that waits gives its word to the chain, or nothing does (R124). -/
theorem expandOne_shape (p j cell : Nat) (old : Bool) (s : State) : expandOne p j cell old s = s ∨
    ∃ v v' x u, u.cells = s.cells ∧ (if old then (getCell s cell).vecOld else (getCell s cell).vec) = some v ∧ v.held.isSome = true ∧
      runOf v' = runOf v ∧ expandOne p j cell old s = modCell cell (putRun old (chainWord v' x)) u := by
  rw [expandOne]
  dsimp only
  split
  · exact .inl rfl
  · next v hv =>
    split
    · exact .inl rfl
    · next x hx =>
      have hs : v.held.isSome = true := by rw [hx]; rfl
      split
      · exact .inl rfl
      · split
        · refine .inr ⟨v, _, _, _, ?_, hv, hs, ?_, rfl⟩
          · rfl
          · rfl
        · split
          · refine .inr ⟨v, _, _, _, ?_, hv, hs, ?_, rfl⟩
            · rfl
            · rfl
          · refine .inr ⟨v, _, _, _, ?_, hv, hs, ?_, rfl⟩
            · exact expandElems_cells ..
            · rfl

/-- The expand streams that wait leave the active descriptor its run. -/
theorem expandDue_vec {p j cell : Nat} {v : VecRun} {s : State} (h : (getCell s cell).vec = some v) :
    ∃ v', (getCell (expandDue p j cell s) cell).vec = some v' ∧ runOf v' = runOf v := by
  have ho : (getCell (expandOne p j cell true s) cell).vec = some v := by
    obtain he | ⟨_, v', x, u, hu, -, -, -, he⟩ := expandOne_shape p j cell true s
    · rw [he, h]
    · rw [he, getCell_modCell, putRun]
      dsimp only
      rw [if_pos rfl, getCell, hu, ← h, getCell]
  rw [expandDue]
  obtain he | ⟨w, v', x, u, -, hv, -, hr, he⟩ := expandOne_shape p j cell false (expandOne p j cell true s)
  · exact ⟨v, by rw [he, ho], rfl⟩
  · rw [if_neg Bool.false_ne_true, ho] at hv
    obtain rfl := Option.some.inj hv
    rw [he, getCell_modCell, putRun]
    exact ⟨_, rfl, (chainWord_run ..).trans hr⟩

/-- With no word of an expand stream that waits, nothing is done. -/
theorem expandDue_none {p j cell : Nat} {s : State}
    (h : ∀ v, (getCell s cell).vec = some v ∨ (getCell s cell).vecOld = some v → v.held = none) : expandDue p j cell s = s := by
  have he : ∀ old, expandOne p j cell old s = s := by
    intro old
    obtain he | ⟨v, _, _, _, -, hv, hh, -, -⟩ := expandOne_shape p j cell old s
    · exact he
    · have hn : v.held = none := by
        cases old with
        | false => exact h v (.inl hv)
        | true => exact h v (.inr hv)
      rw [hn] at hh
      exact absurd hh (by decide)
  rw [expandDue, he, he]

/-- A word of the active descriptor counts (R119). -/
theorem issueWord_counts (p j cell : Nat) (v : VecRun) (w : Nat) (s : State) :
    ∃ v', (getCell (issueWord p j cell v w s) cell).vec = some v' ∧ runOf v' = (v.d, v.start, v.words, w + 1) := by
  refine pred_ite (P := fun t => ∃ v', (getCell t cell).vec = some v' ∧ runOf v' = (v.d, v.start, v.words, w + 1)) ?_ ?_
  · rw [getCell_modCell]
    exact ⟨_, rfl, rfl⟩
  · rw [getCell_modCell, putRun]
    exact ⟨_, rfl, chainWord_run ..⟩

/-- A run of words issues the word that is due (R119). -/
theorem vecIssueOp_due {p j cell : Nat} {v : VecRun} {s : State} (h : (getCell s cell).vec = some v) (h0 : 0 ≤ ageAt j v.start)
    (hw : (ageAt j v.start).toNat < v.words) : ∃ v', (getCell (vecIssueOp p j cell s) cell).vec = some v' ∧
      v'.issued = (ageAt j v.start).toNat + 1 ∧ v'.d = v.d := by
  obtain ⟨v1, h1, hr⟩ := expandDue_vec (p := p) (j := j) h
  obtain ⟨hd, hst, hwd, -⟩ : v1.d = v.d ∧ v1.start = v.start ∧ v1.words = v.words ∧ v1.issued = v.issued := by
    simpa only [runOf, Prod.mk.injEq] using hr
  rw [vecIssueOp, h1]
  dsimp only
  rw [if_neg (by rw [hst, hwd]; omega), hst]
  obtain ⟨v2, h2, hr2⟩ := issueWord_counts p j cell v1 (ageAt j v.start).toNat (expandDue p j cell s)
  simp only [runOf, Prod.mk.injEq] at hr2
  exact ⟨v2, h2, hr2.2.2.2, hr2.1.trans hd⟩

theorem addReqs_keeps {γ : Type} {g : Cell → γ} (hg : ∀ (c : Cell) (r : List BankReq), g { c with reqs := r } = g c) (j code order : Nat)
    (banks : List Nat) (c : Cell) : g (banks.foldl (fun c b => addReq j true code order b c) c) = g c :=
  foldl_keeps (g := g) (fun _ _ => hg ..) ..

/-- The one result that is due, and keeps its ports, is written (R128). -/
theorem vecWriteOp_one {p j cell : Nat} {o : VecOut} {s : State} (hd : expandDue p j cell s = s) (ho : (getCell s cell).vecOuts = [o])
    (ha : o.at_ = j) (hp : o.performed = true) (ht : o.tile = false) (hk : portLoser (getCell s cell) j true 8 o.sub o.banks = none) :
    (getCell (vecWriteOp p j cell s) cell).vecOuts = [] ∧
      (getCell (vecWriteOp p j cell s) cell).sp = (getCell s cell).sp.puts j o.bytes ∧
      (getCell (vecWriteOp p j cell s) cell).staged = (getCell s cell).staged ++ o.ring := by
  have hdue : [o].filter (fun o => decide (o.at_ = j)) = [o] := List.filter_cons_of_pos (l := []) (decide_eq_true ha)
  have hrest : [o].filter (fun o => decide (o.at_ ≠ j)) = [] := List.filter_cons_of_neg (l := []) (by simpa using ha)
  have hord : outOrder [o] o = o.sub := by
    rw [outOrder, List.findIdx_cons, beq_self_eq_true, cond_true, Nat.mul_zero, Nat.zero_add]
  have hs := addReqs_keeps (g := Cell.sp) (fun _ _ => rfl) j 8 o.sub o.banks (getCell s cell)
  have hst := addReqs_keeps (g := Cell.staged) (fun _ _ => rfl) j 8 o.sub o.banks (getCell s cell)
  have hvo := addReqs_keeps (g := Cell.vecOuts) (fun _ _ => rfl) j 8 o.sub o.banks (getCell s cell)
  rw [vecWriteOp, hd, ho, hdue, List.foldl_cons, List.foldl_nil, hord, writeOut, hk, hp, if_neg (by decide), ht]
  rw [if_neg (by decide), if_neg Bool.false_ne_true, getCell_modCell, getCell_modCell, getCell_modCell, getCell_modCell]
  generalize List.foldl (fun c b => addReq j true 8 o.sub b c) (getCell s cell) o.banks = c at hs hst hvo ⊢
  refine ⟨?_, ?_, ?_⟩
  · refine (congrArg (List.filter _) ?_).trans hrest
    rw [← ho, ← hvo]
    cases o.ctr <;> rfl
  · rw [← hs]
    cases o.ctr <;> rfl
  · rw [← hst]
    cases o.ctr <;> rfl

/-- R180: a request of its own cycle, code and order takes no port from a request. -/
theorem portLoser_addReq_same (c : Cell) (j : Nat) (write : Bool) (code order bank : Nat) (banks : List Nat) :
    portLoser (addReq j write code order bank c) j write code order banks = portLoser c j write code order banks := by
  rw [portLoser, portsAt_addReq, portLoser, portsAt]
  simp only [List.foldl_append, List.foldl_cons, lt_self_iff_false, or_self, false_and, and_false, if_false]

/-- The operation status word that is due, and keeps its port, is written (R129). -/
theorem statusWordOp_one {p j cell a : Nat} {w : W32} {s : State} (h : (getCell s cell).vecStatus = [(j, a, some w)])
    (hk : portLoser (getCell s cell) j true 0xE 0 [bankOf a] = none) :
    (getCell (statusWordOp p j cell s) cell).vecStatus = [] ∧ (getCell (statusWordOp p j cell s) cell).sp =
      (getCell s cell).sp.puts j (spread 0x80000 a (leBytes 4 w.toNat)) := by
  have hdue : [(j, a, some w)].filter (fun x => decide (x.1 = j)) = [(j, a, some w)] := List.filter_cons_of_pos (l := []) (decide_eq_true rfl)
  have hrest : [(j, a, some w)].filter (fun x => decide (x.1 ≠ j)) = [] := List.filter_cons_of_neg (l := []) (by simp)
  have hi : [(j, a, some w)].findIdx (· == (j, a, some w)) = 0 := by rw [List.findIdx_cons, beq_self_eq_true, cond_true]
  rw [statusWordOp, h, hdue, List.foldl_cons, List.foldl_nil]
  dsimp only
  rw [hi, getCell_modCell, getCell_modCell, portLoser_addReq_same, hk]
  dsimp only
  rw [getCell_modCell, getCell_modCell]
  exact ⟨(congrArg (List.filter _) h).trans hrest, rfl⟩

/-- Settles O27: a descriptor starts, its words issue, and its results and its status are written in their cycles. -/
theorem vectorDescriptors : Obligations.VectorDescriptors := by
  refine fun t b q pr s h => ⟨fun e rest d hq hb hok hg hbusy => ?_, fun v hv hp h0 hw => ?_, fun o ho ha hp ht hh hk => ?_,
    fun a w hs hk => ?_⟩
  · obtain ⟨v, hv⟩ := vecStartOp_free hq hb hok hg hbusy
    exact ⟨_, v, congrArg Host.Outcome.next (cellEvent_live h _), hv⟩
  · obtain ⟨v', hv'⟩ := vecIssueOp_due (p := partOf (advanceTo t s) b)
      ((bringForward_vec (partOf (advanceTo t s) b) (jccAt t b s) (cellAt t b q s) b q (advanceTo t s)).trans hv) h0 hw
    exact ⟨_, v', congrArg Host.Outcome.next (cellEvent_live h _), hv'⟩
  · exact ⟨_, congrArg Host.Outcome.next (cellEvent_live h _), vecWriteOp_one (expandDue_none hh) ho ha hp ht hk⟩
  · exact ⟨_, congrArg Host.Outcome.next (cellEvent_live h _), statusWordOp_one hs hk⟩

end Sys2Proof.Machine
end

section
/-! SUPPORT. Descriptors of the row engine (R132 to R141). -/

-- One proof after another: many at a time need more memory than the check of the whole text has.
set_option Elab.async false

namespace Sys2Proof.Machine

/-- What a group leaves of the row engine: its descriptor, the groups carried out, the cycle of the last, and the lanes that wait. -/
def rowKeep (bd : Band) : Option (RowDesc × Nat × Nat) × List (Nat × List (Nat × List Byte)) :=
  (bd.row.map (fun r => (r.d, r.count, r.lastAt)), bd.rowIn)

theorem rowKeep_of_map {bd bd' : Band} {f : RowRun → RowRun} (hr : bd'.row = bd.row.map f) (hi : bd'.rowIn = bd.rowIn)
    (hf : ∀ r, (f r).d = r.d ∧ (f r).count = r.count ∧ (f r).lastAt = r.lastAt) : rowKeep bd' = rowKeep bd := by
  rw [rowKeep, rowKeep, hr, hi]
  cases bd.row with
  | none => rfl
  | some r =>
    obtain ⟨h1, h2, h3⟩ := hf r
    rw [Option.map_some, Option.map_some, Option.map_some, h1, h2, h3]

theorem rowNote_keep (flags : Nat) (bd : Band) : rowKeep (rowNote flags bd) = rowKeep bd :=
  rowKeep_of_map rfl rfl fun _ => ⟨rfl, rfl, rfl⟩

theorem band_ite {γ : Type} {g : Band → γ} {x : γ} {c : Prop} [Decidable c] {a b : Band} (ha : g a = x) (hb : g b = x) :
    g (if c then a else b) = x :=
  iteInduction (motive := fun y : Band => g y = x) (fun _ => ha) fun _ => hb

theorem rowCount_keep (st : Nat) (bd : Band) : rowKeep (rowCount st bd) = rowKeep bd := by
  have h1 := band_ite (g := rowKeep) (c := st &&& fEmpty ≠ 0) (a := { bd with rowEmpty := satAdd 0xFFFF bd.rowEmpty 1 }) (b := bd) rfl rfl
  rw [rowCount]
  generalize (if st &&& fEmpty ≠ 0 then { bd with rowEmpty := satAdd 0xFFFF bd.rowEmpty 1 } else bd) = b1 at h1 ⊢
  have h2 := band_ite (g := rowKeep) (c := st &&& fInfRow ≠ 0) (a := { b1 with rowInf := satAdd 0xFFFF b1.rowInf 1 }) (b := b1) h1 h1
  exact band_ite (g := rowKeep) h2 h2

theorem mergeOne_keep (k : Option RowKind) (d : RowDesc) (bOf : Nat → W32 × W32) (bd : Band) (i : Nat) :
    rowKeep (mergeOne k d bOf bd i) = rowKeep bd := rowNote_keep ..

theorem sideOne_keep (d : RowDesc) (bd : Band) (i : Nat) : rowKeep (sideOne d bd i) = rowKeep bd := by
  rw [sideOne]
  split
  · exact (rowNote_keep ..).trans (rowCount_keep ..)
  · exact mergeOne_keep ..
  · exact rowNote_keep ..
  · rfl

theorem sideStep_keep (j age : Nat) (bd : Band) : rowKeep (sideStep j age bd) = rowKeep bd := by
  rw [sideStep]
  split
  · rfl
  · refine band_ite rfl ?_
    extract_lets b1 b2
    have h1 : rowKeep b1 = rowKeep bd := foldl_keeps (g := rowKeep) (fun _ _ => sideOne_keep ..) _ bd
    refine Eq.trans (rowKeep_of_map (bd := b2) rfl rfl fun _ => ⟨rfl, rfl, rfl⟩) (Eq.trans ?_ h1)
    dsimp only [b2]
    split
    · exact foldl_keeps (g := rowKeep) (fun _ _ => mergeOne_keep ..) _ _
    · rfl

/-- A group that is carried out leaves the descriptor and its counts as they are (R134 to R139). -/
theorem rowGroup_keep (d : RowDesc) (g j lat : Nat) (lanes : List (List Byte)) (bd : Band) :
    rowKeep (rowGroup d g j lat lanes bd) = rowKeep bd := by
  rw [rowGroup]
  dsimp only
  split
  · exact rowNote_keep ..
  · exact rowNote_keep ..
  · exact rowNote_keep ..
  · exact (rowNote_keep ..).trans (band_ite (rowCount_keep ..) rfl)
  · refine foldl_keeps (g := rowKeep) ?_ _ _
    exact fun _ _ => rfl
  · exact (sideStep_keep ..).trans (rowKeep_of_map rfl rfl fun _ => ⟨rfl, rfl, rfl⟩)
  · rfl

theorem rowGroup_row {d : RowDesc} {g j lat : Nat} {lanes : List (List Byte)} {bd : Band} {r : RowRun} (hr : bd.row = some r) :
    ∃ r', (rowGroup d g j lat lanes bd).row = some r' ∧ r'.d = r.d ∧ r'.count = r.count ∧ r'.lastAt = r.lastAt ∧
      (rowGroup d g j lat lanes bd).rowIn = bd.rowIn := by
  obtain ⟨h1, h2⟩ := Prod.mk.inj (rowGroup_keep d g j lat lanes bd)
  rw [hr, Option.map_some, Option.map_eq_some_iff] at h1
  obtain ⟨r', h1, h3⟩ := h1
  simp only [Prod.mk.injEq] at h3
  exact ⟨r', h1, h3.1, h3.2.1, h3.2.2, h2⟩

/-- The engine is free at the drain point of its descriptor, which counts (R140). -/
theorem rowDrainOp_due {j b d : Nat} {r : RowRun} {s : State} (hr : (getBand s b).row = some r) (hd : r.drainAt = some d)
    (ha : 0 ≤ ageAt j d) : (getBand (rowDrainOp j b s) b).row = none ∧
      (getBand (rowDrainOp j b s) b).rowDescs = satAdd 0xFFFF (getBand s b).rowDescs 1 := by
  have hs : ∀ (u : State), getBand u b = { getBand s b with row := none, rowDescs := satAdd 0xFFFF (getBand s b).rowDescs 1 } →
      (getBand u b).row = none ∧ (getBand u b).rowDescs = satAdd 0xFFFF (getBand s b).rowDescs 1 := fun u h => by
    rw [h]
    exact ⟨rfl, rfl⟩
  rw [rowDrainOp, hr]
  dsimp only
  rw [hd]
  dsimp only
  rw [if_neg (not_lt.2 ha)]
  apply hs
  split
  · exact getBand_setBand ..
  · exact getBand_setBand ..

theorem rowDrainOp_free {j b : Nat} {s : State} (h : (getBand s b).row = none) : rowDrainOp j b s = s := by
  rw [rowDrainOp, h]

/-- What neither the queues, nor the core, nor its pushes hold, of the band at a side operation. -/
theorem rowSide_row (d : RowDesc) (j : Nat) (bd : Band) : (rowSide d j bd).row = bd.row := by
  rw [rowSide]
  split <;> rfl

/-- The free engine takes the legal descriptor at the front of its queue (R132). -/
theorem rowConsumeOp_due {p j b : Nat} {e : QEntry} {rest : List QEntry} {d : RowDesc} {s : State} (hr : (getBand s b).row = none)
    (hq : (getBand s b).qRow = e :: rest) (hm : e.at_ + 3 ≤ s.clk.mcc) (ht : e.tag = j % 16) (hb : e.body = .row d)
    (hok : rowOk d = true) : ∃ r, (getBand (rowConsumeOp p j b s) b).row = some r ∧ r.d = d ∧ r.start = j ∧ r.count = 0 := by
  rw [rowConsumeOp, rowDrainOp_free hr, takeEntry_due (n := .row) hq hm ht, hr]
  dsimp only
  rw [hb]
  dsimp only
  rw [hok, if_neg (by decide), if_neg (by decide), getBand_modBand, rowSide_row]
  exact ⟨_, rfl, rfl, rfl, rfl⟩

/-- A group with the lanes it needs is carried out (R134). -/
theorem rowReleaseOp_due {p j b : Nat} {r : RowRun} {s : State} (hr : (getBand s b).row = some r) (hc : r.count < rowGroups r.d)
    (ha : 1 ≤ ageAt j r.start)
    (hl : (((getBand s b).rowIn.filter (fun x => x.1 == j)).flatMap (fun x => x.2.map (·.2))).length = groupLanes r.d r.count) :
    ∃ r', (getBand (rowReleaseOp p j b s) b).row = some r' ∧ r'.d = r.d ∧ r'.count = r.count + 1 ∧ r'.lastAt = j ∧
      (getBand (rowReleaseOp p j b s) b).rowIn = [] := by
  rw [rowReleaseOp]
  dsimp only
  rw [hr]
  dsimp only
  rw [if_neg (not_or.2 ⟨Nat.not_le.2 hc, not_lt.2 ha⟩), if_neg (by rw [hl]; exact lt_irrefl _), if_neg (by rw [hl]; exact lt_irrefl _),
    getBand_modBand, getBand_modBand, getBand_setBand]
  exact rowGroup_row (r := { r with count := r.count + 1, lastAt := j, drainAt := _ }) rfl

/-- Settles O28: the engine takes a descriptor, carries out a group and drains as R132 to R140 say. -/
theorem rowEngineDescriptors : Obligations.RowEngineDescriptors := by
  refine fun t b s h => ⟨fun e rest d hs hr hq hm ht hb hok => ?_, fun r hr hc ha hl => ?_, fun r d hr hd ha => ?_⟩
  · obtain ⟨r, hr'⟩ := rowConsumeOp_due (p := partOf (advanceTo t s) b) hr hq hm ht hb hok
    exact ⟨_, r, congrArg Host.Outcome.next (sequencer_live h hs _), hr'⟩
  · obtain ⟨r', hr'⟩ := rowReleaseOp_due (p := partOf (advanceTo t s) b) hr hc ha hl
    exact ⟨_, r', congrArg Host.Outcome.next (island_live h _), hr'⟩
  · exact ⟨_, congrArg Host.Outcome.next (island_live h _), rowDrainOp_due hr hd ha⟩

end Sys2Proof.Machine
end

section
/-! SUPPORT. What the passing of time leaves as it is, and the replies of commands that land (R28, R49, R309). -/

-- One proof after another: many at a time need more memory than the check of the whole text has.
set_option Elab.async false

namespace Sys2Proof.Machine

theorem state_ite {γ : Type} {g : State → γ} {x : γ} {c : Prop} [Decidable c] {a b : State} (ha : g a = x) (hb : g b = x) :
    g (if c then a else b) = x :=
  pred_ite (P := fun t => g t = x) ha hb

section
variable {γ : Type} {g : State → γ}
  (hf : ∀ p f s, g (schedFault p f s) = g s)
include hf

section
variable (hb : ∀ (s : State) (bands : Tbl Band) (cells : Tbl Cell), g { s with bands := bands, cells := cells } = g s)
include hb

/-- What time does to the cells and the row engines shows in no `g` that sees neither them nor schedule faults. -/
theorem closeCells_keeps (s : State) : g (closeCells s) = g s := by
  have hfault : ∀ p (l : List QEntry) cell u, g (match l.drop 4 with
      | [] => u
      | e :: _ => cellFault p (e.got.getD (getPart u p).jcc) cell 0x021A id u) = g u := fun p l cell u => by
    split
    · rfl
    · exact hf ..
  refine foldl_keeps (g := g) (fun u cell => state_ite rfl ?_) _ s
  exact (hb _ _ (tset {} _ cell _)).trans ((hfault ..).trans (hfault ..))

theorem settleCells_keeps (s : State) : g (settleCells s) = g s := by
  have hc : ∀ (f : Cell → Cell) cell u, g (modCell cell f u) = g u := fun f cell u => hb u u.bands _
  have ha : ∀ p cell x u, g (applyChunk p cell x u) = g u := fun p cell x u => by
    rw [applyChunk]
    split
    · rfl
    · split
      · exact hf ..
      · exact hc ..
  have hl : ∀ p cell all (l : List PendChunk) u, g (settleList p cell all l u) = g u := fun p cell all l => by
    induction l with
    | nil => exact fun _ => rfl
    | cons x r ih => exact fun u => (ih _).trans (state_ite (hf ..) (ha ..))
  exact foldl_keeps (g := g) (fun u cell => state_ite rfl (state_ite rfl ((hl ..).trans (hc ..)))) _ s

theorem settleRows_keeps (s : State) : g (settleRows s) = g s := by
  refine foldl_keeps (g := g) (fun u b => ?_) _ s
  dsimp only
  split
  · rfl
  · exact hb u _ u.cells

end

variable (hu : ∀ (s : State) (clk : Clock) (bands : Tbl Band) (cells : Tbl Cell) (patina : Patina) (fab : Fabric),
    g { s with clk := clk, bands := bands, cells := cells, patina := patina, fab := fab } = g s)
  (ht : ∀ (s : State) (m d : Nat), g { s with parts := [0, 1, 2, 3].foldl (fun t p => tmod {} t p (Part.tick m d)) s.parts } = g s)
  (hh : ∀ p s, g (holdDecide p s) = g s)
include hu ht hh

theorem tickOn_keeps (d : Nat) (s : State) : g (tickOn d s) = g s := by
  have hb : ∀ (s : State) (bands : Tbl Band) (cells : Tbl Cell), g { s with bands := bands, cells := cells } = g s :=
    fun s _ _ => hu s s.clk _ _ s.patina s.fab
  have hp : ∀ k live u, g (passSamples k live u) = g u := fun k live u => state_ite (hu u u.clk u.bands u.cells _ u.fab) rfl
  refine (settleRows_keeps hf hb _).trans ((settleCells_keeps hf hb _).trans ?_)
  rw [tickAll]
  refine (hp ..).trans ?_
  rw [← ht s s.clk.mcc d]
  generalize [0, 1, 2, 3].foldl (fun t p => tmod {} t p (Part.tick s.clk.mcc d)) s.parts = ps
  apply hu { s with parts := ps }

theorem advanceCycles_keeps (d : Nat) (s : State) : g (advanceCycles d s) = g s := by
  have hs : ∀ d u, g (decideHolds (tickOn d u)) = g u := fun d u =>
    (state_ite (foldl_keeps (g := g) (fun s p => hh p s) _ _) rfl).trans (tickOn_keeps hf hu ht hh d u)
  have hc := closeCells_keeps hf (fun s _ _ => hu s s.clk _ _ s.patina s.fab) s
  exact state_ite rfl (state_ite ((hs ..).trans hc) (state_ite ((hs ..).trans ((hs ..).trans hc))
    ((hs ..).trans ((hs ..).trans ((hs ..).trans hc)))))

theorem advanceTo_keeps (t : Nat) (s : State) : g (advanceTo t s) = g s := by
  have ha := fun d => advanceCycles_keeps hf hu ht hh d s
  have hp : g (runToPause s) = g s := by
    refine (hu _ _ _ _ _ _).trans ((hu _ _ _ _ _ _).trans (state_ite rfl ?_))
    exact (tickOn_keeps hf hu ht hh ..).trans ((closeCells_keeps hf (fun s _ _ => hu s s.clk _ _ s.patina s.fab) _).trans (ha _))
  exact state_ite (state_ite hp (ha _)) rfl

theorem toBoundary_keeps {k a : Nat} {s t : State} (h : toBoundary k a s = some t) : g t = g s := by
  rw [toBoundary] at h
  dsimp only at h
  split at h
  · exact nomatch h
  · split at h
    · obtain rfl := Option.some.inj h
      exact advanceTo_keeps hf hu ht hh _ s
    · exact nomatch h

end

/-- A state without its clocks, partitions, bands, cells, counters and fabric time. -/
def restView (s : State) : State := { s with clk := {}, parts := [], bands := [], cells := [], patina := {}, fab := {} }

theorem restView_update (s : State) (clk : Clock) (parts : Tbl Part) (bands : Tbl Band) (cells : Tbl Cell) (patina : Patina) (fab : Fabric) :
    restView { s with clk := clk, parts := parts, bands := bands, cells := cells, patina := patina, fab := fab } = restView s := rfl

theorem modPart_rest (p : Nat) (f : Part → Part) (s : State) : restView (modPart p f s) = restView s :=
  restView_update s s.clk _ s.bands s.cells s.patina s.fab

theorem schedFault_rest (p : Nat) (f : SFault) (s : State) : restView (schedFault p f s) = restView s :=
  restView_update s s.clk _ s.bands s.cells _ s.fab

theorem holdDecide_rest (p : Nat) (s : State) : restView (holdDecide p s) = restView s := by
  refine state_ite rfl (state_ite ((modPart_rest ..).trans (modPart_rest ..)) ?_)
  exact (modPart_rest ..).trans ((restView_update _ _ _ _ _ _ _).trans (modPart_rest ..))

/-- Time changes the clocks, partitions, bands, cells, counters and fabric time, and nothing else. -/
theorem advanceTo_rest (t : Nat) (s : State) : restView (advanceTo t s) = restView s :=
  advanceTo_keeps schedFault_rest (fun s clk _ _ _ _ => restView_update s clk s.parts ..)
    (fun s _ _ => restView_update s s.clk _ s.bands s.cells s.patina s.fab) holdDecide_rest t s

theorem toBoundary_rest {k a : Nat} {s t : State} (h : toBoundary k a s = some t) : restView t = restView s :=
  toBoundary_keeps schedFault_rest (fun s clk _ _ _ _ => restView_update s clk s.parts ..)
    (fun s _ _ => restView_update s s.clk _ s.bands s.cells s.patina s.fab) holdDecide_rest h

/-- The state of a partition, and the count at which it stands unless it runs. -/
def standOf (p : Nat) (s : State) : PState × Nat := ((getPart s p).st, if (getPart s p).st = .running then 0 else (getPart s p).jcc)

theorem getPart_modPart_cases (p i : Nat) (f : Part → Part) (s : State) :
    getPart (modPart i f s) p = if i = p then f (getPart s p) else getPart s p := by
  by_cases h : i = p
  · rw [if_pos h, h, getPart_modPart]
  · rw [if_neg h]
    exact tget_tset_other _ _ _ h

theorem standOf_modPart {p i : Nat} {f : Part → Part} {s : State} (h : (f (getPart s i)).st = (getPart s i).st ∧
    ((getPart s i).st ≠ .running → (f (getPart s i)).jcc = (getPart s i).jcc)) : standOf p (modPart i f s) = standOf p s := by
  rw [standOf, standOf, getPart_modPart_cases]
  split
  · next hi =>
    subst hi
    rw [h.1]
    congr 1
    exact ite_congr rfl (fun _ => rfl) h.2
  · rfl

theorem tget_foldl_tmod {α : Type} [DecidableEq α] (d : α) (f : α → α) {l : List Nat} (hl : l.Nodup) (t : Tbl α) (i : Nat) :
    tget d (l.foldl (fun t a => tmod d t a f) t) i = if i ∈ l then f (tget d t i) else tget d t i := by
  induction l generalizing t with
  | nil => rfl
  | cons a r ih =>
    obtain ⟨ha, hr⟩ := List.nodup_cons.1 hl
    rw [List.foldl_cons, ih hr]
    by_cases h : a = i
    · subst h
      rw [if_neg ha, if_pos List.mem_cons_self, tmod, tget_tset_same]
    · rw [tmod, tget_tset_other _ _ _ h]
      simp only [List.mem_cons, Ne.symm h, false_or]

/-- A partition that does not run stands where it is (R49). -/
theorem tick_idle {m d : Nat} {q : Part} (h : q.st ≠ .running) : Part.tick m d q = q := by
  rw [Part.tick, Part.islandRuns, if_neg (by simp [h]), if_neg (fun hr => h hr.1)]

theorem tick_st (m d : Nat) (q : Part) : (Part.tick m d q).st = q.st := by
  rw [Part.tick]
  exact iteInduction (motive := fun x : Part => x.st = q.st) (fun _ => rfl)
    fun _ => iteInduction (motive := fun x : Part => x.st = q.st) (fun _ => rfl) fun _ => rfl

theorem ticked_stand (p : Nat) (s : State) (m d : Nat) :
    standOf p { s with parts := [0, 1, 2, 3].foldl (fun t p => tmod {} t p (Part.tick m d)) s.parts } = standOf p s := by
  rw [standOf, standOf, getPart, tget_foldl_tmod _ _ (by decide)]
  split
  · rw [← getPart, tick_st]
    congr 1
    refine ite_congr rfl (fun _ => rfl) fun h => ?_
    rw [tick_idle h]
  · rfl

/-- A unit of a hold shows in no `h` that sees nothing of holds. -/
theorem holdUnit_part {γ : Type} {h : Part → γ} (hh : ∀ (q : Part) (held : Bool) (units now band : Nat) (out : Bool),
    h { q with held := held, holdUnits := units, holdNow := now, holdBand := band, holdOut := out } = h q)
    (p i : Nat) (rs : List (Nat × Bool × Bool)) (s : State) : h (getPart (holdUnit i rs s) p) = h (getPart s p) := by
  rw [holdUnit, getPart_modPart_cases]
  refine iteInduction (motive := fun x : Part => h x = h (getPart s p)) (fun _ => ?_) fun _ => rfl
  exact iteInduction (motive := fun x : Part => h x = h (getPart s p)) (fun _ => hh _ (getPart s p).held _ _ (getPart s p).holdBand (getPart s p).holdOut)
    fun _ => hh (getPart s p) true _ _ _ _

theorem holdDecide_stand (p i : Nat) (s : State) : standOf p (holdDecide i s) = standOf p s := by
  have hd : standOf p (modPart i (fun q => { q with decided := some s.clk.mcc }) s) = standOf p s := standOf_modPart ⟨rfl, fun _ => rfl⟩
  refine state_ite rfl (state_ite ((standOf_modPart ?_).trans hd) (Eq.trans ?_ hd))
  · exact iteInduction (motive := fun x : Part => x.st = _ ∧ (_ → x.jcc = _)) (fun _ => ⟨rfl, fun _ => rfl⟩) fun _ => ⟨rfl, fun _ => rfl⟩
  · exact holdUnit_part (h := fun q => (q.st, if q.st = .running then 0 else q.jcc)) (fun _ _ _ _ _ _ => rfl) ..

theorem toBoundary_stand (p : Nat) {k a : Nat} {s t : State} (h : toBoundary k a s = some t) : standOf p t = standOf p s :=
  toBoundary_keeps (g := standOf p) (fun _ _ _ => standOf_modPart ⟨rfl, fun _ => rfl⟩) (fun _ _ _ _ _ _ => rfl) (ticked_stand p)
    (holdDecide_stand p) h

/-- A partition that does not run has the same count at a boundary that is reached (R49). -/
theorem toBoundary_jcc {p k a : Nat} {s t : State} (h : toBoundary k a s = some t) (hs : (getPart s p).st ≠ .running) :
    (getPart t p).jcc = (getPart s p).jcc := by
  obtain ⟨h1, h2⟩ := Prod.mk.inj (toBoundary_stand p h)
  rwa [if_neg (by rw [h1]; exact hs), if_neg hs] at h2

theorem tickOn_mcc (d : Nat) (s : State) : (tickOn d s).clk.mcc = (s.clk.mcc + d) % 2 ^ 64 := by
  have hf : ∀ p f s, (schedFault p f s).clk = s.clk := fun _ _ _ => rfl
  have hs := (settleRows_keeps (g := State.clk) hf (fun _ _ _ => rfl) (settleCells (tickAll d s))).trans
    (settleCells_keeps (g := State.clk) hf (fun _ _ _ => rfl) (tickAll d s))
  rw [tickOn, hs]
  exact state_ite (g := fun t => t.clk.mcc) rfl rfl

theorem holdDecide_clk (p : Nat) (s : State) : (holdDecide p s).clk = s.clk := state_ite rfl (state_ite rfl rfl)

theorem decideHolds_clk (s : State) : (decideHolds s).clk = s.clk :=
  state_ite (foldl_keeps (g := State.clk) (fun s p => holdDecide_clk p s) _ _) rfl

theorem advanceCycles_mcc (d : Nat) (s : State) (h : d ≠ 0) : (advanceCycles d s).clk.mcc = (s.clk.mcc + d) % 2 ^ 64 := by
  have hs : ∀ d u, (decideHolds (tickOn d u)).clk.mcc = (u.clk.mcc + d) % 2 ^ 64 := fun d u => by rw [decideHolds_clk, tickOn_mcc]
  have hc : (closeCells s).clk = s.clk := closeCells_keeps (g := State.clk) (fun _ _ _ => rfl) (fun _ _ _ => rfl) s
  rw [advanceCycles, if_neg h]
  dsimp only
  rw [hc]
  generalize 64 - s.clk.mcc % 64 = k
  split
  · rw [hs, hc]
  · next h1 =>
    split
    · rw [hs, hs, hc, Nat.mod_add_mod, Nat.add_assoc, Nat.add_sub_cancel' (Nat.le_of_not_le h1)]
    · next h2 =>
      rw [hs, hs, hs, hc, Nat.mod_add_mod, Nat.add_assoc, Nat.mod_add_mod, Nat.add_assoc, Nat.sub_sub, ← Nat.add_assoc k,
        Nat.add_sub_cancel' (Nat.le_of_not_le h2)]

/-- A boundary that is reached is one: the count is a multiple of the boundary's, and the clocks run (R28). -/
theorem toBoundary_mcc {k a : Nat} {s t : State} (h : toBoundary k a s = some t) (hk : k ∣ 2 ^ 64) (h0 : 0 < k) :
    t.clk.mcc % k = 0 ∧ t.clk.run = .running := by
  rw [toBoundary] at h
  dsimp only at h
  split at h
  · exact nomatch h
  · split at h
    · next hr =>
      obtain rfl := Option.some.inj h
      refine ⟨?_, hr⟩
      have hd : k ∣ roundUp s.clk.mcc k := Dvd.intro_left _ rfl
      have hle : s.clk.mcc ≤ roundUp s.clk.mcc k := by
        have h1 := Nat.div_add_mod (s.clk.mcc + k - 1) k
        have h2 := Nat.mod_lt (s.clk.mcc + k - 1) h0
        rw [roundUp, Nat.mul_comm]
        omega
      generalize roundUp s.clk.mcc k = n at *
      rw [advanceTo] at hr ⊢
      split at hr
      · next hn =>
        rw [if_pos hn]
        rw [runCycles] at hr ⊢
        split at hr
        · exact (ClkRun.noConfusion (show ClkRun.pause = .running from hr) : False).elim
        · next hp =>
          rw [if_neg hp, advanceCycles_mcc _ _ (by omega), Nat.mod_mod_of_dvd _ hk]
          refine Nat.mod_eq_zero_of_dvd ?_
          rwa [Nat.add_sub_cancel' (by omega)]
      · next hn =>
        rw [if_neg hn]
        have : s.clk.mcc = n := by
          have := not_and.1 hn hr
          omega
        rw [this]
        exact Nat.mod_eq_zero_of_dvd hd
    · exact nomatch h

theorem completes_out {s t : State} (h : Completes s t) : s.out <:+ t.out := by
  obtain ⟨_, _, _, _, _, _, _, _, _, _, _, o, rfl, -⟩ := h
  exact List.suffix_append o s.out

theorem completes_fields {s t : State} (h : Completes s t) : t.clk = s.clk ∧ t.parts = s.parts ∧ t.bands = s.bands ∧ t.cells = s.cells := by
  obtain ⟨_, _, _, _, _, _, _, _, _, _, _, _, rfl, -⟩ := h
  exact ⟨rfl, rfl, rfl, rfl⟩

/-- A reply stands whatever else completes before and after it (R292, R309). -/
theorem replied_between {r : CmdRef} {st : Status} {v : Nat} {s t u w : State} (h1 : Completes s t) (h : Replied r st v t u)
    (h2 : Completes u w) : Replied r st v s w := by
  obtain ⟨p, hp, h⟩ := h
  refine ⟨p, ?_, h⟩
  obtain hp | ⟨hq, hp⟩ := hp
  · refine .inl (sent_of_suffix (completes_out h1) ?_)
    obtain ⟨a, b, e⟩ := hp
    obtain ⟨o, ho⟩ := completes_out h2
    exact ⟨o ++ a, b, by rw [← ho, e, List.append_assoc, List.append_assoc, List.append_assoc, List.cons_append]⟩
  · refine .inr ⟨?_, ?_⟩
    · obtain ⟨_, _, _, _, _, _, _, _, _, _, _, _, rfl, -⟩ := h1
      exact hq
    · obtain ⟨_, _, _, _, _, _, _, _, _, _, _, _, rfl, -⟩ := h2
      exact List.mem_append_left _ hp

section
variable {k : FlightKind} {f : CmdRef → State → State} {st : Status} {v : Nat} (hc : ∀ r s, Completes s (f r s))
include hc

theorem foldl_completes (l : List Flight) (s : State) : Completes s (l.foldl (fun s x => f (refOf x) s) s) := by
  induction l generalizing s with
  | nil => exact completes_refl s
  | cons x r ih => exact completes_trans (hc ..) (ih _)

theorem land_completes (p : FlightKind → Bool) (s : State) : Completes s (land p f s) := foldl_completes hc ..

/-- Every command of the kind that lands is replied to (R309). -/
theorem land_replied (hf : ∀ r s, Replied r st v s (f r s)) {s : State} {x : Flight} (hx : x ∈ s.flights) (hk : x.kind = k) :
    Replied (refOf x) st v s (land (fun y => y == k) f s) := by
  have hm : x ∈ s.flights.filter (fun y => y.kind == k) := List.mem_filter.2 ⟨hx, beq_iff_eq.2 hk⟩
  obtain ⟨l1, l2, hl⟩ := List.append_of_mem hm
  rw [land, hl, List.foldl_append, List.foldl_cons]
  exact replied_between (foldl_completes hc ..) (hf ..) (foldl_completes hc ..)

end

theorem land_ok_replied {k : FlightKind} {v : Nat} {s : State} {x : Flight} (hx : x ∈ s.flights) (hk : x.kind = k) :
    Replied (refOf x) .ok v s (land (fun y => y == k) (fun r s => finishOk r v s) s) :=
  land_replied (fun _ _ => finish_completes ..) (fun _ _ => finish_replied ..) hx hk

theorem land_ok_completes (p : FlightKind → Bool) (v : Nat) (s : State) : Completes s (land p (fun r s => finishOk r v s) s) :=
  land_completes (fun _ _ => finish_completes ..) p s

/-- A reply from a state with the same outputs is one from `s`. -/
theorem replied_of_rest {r : CmdRef} {st : Status} {v : Nat} {s t u : State} (h : restView t = restView s) (hr : Replied r st v t u) :
    Replied r st v s u := by
  have ho : t.out = s.out := (congrArg State.out h :)
  have hp : t.pcie = s.pcie := (congrArg State.pcie h :)
  obtain ⟨p, hp', h⟩ := hr
  refine ⟨p, hp'.imp (fun ⟨a, b, e⟩ => ⟨a, b, by rw [e, ho]⟩) (fun ⟨hq, hm⟩ => ⟨?_, hm⟩), h⟩
  rw [quiet, ← hp]
  exact hq

theorem waiting_announce {r : CmdRef} {k : FlightKind} {s t : State} (h : Waiting r k t) : Waiting r k (announce s t) := by
  obtain ⟨x, hx, h⟩ := h
  exact ⟨x, by rwa [announce_flights], h⟩

theorem waiting_launch (r : CmdRef) (cl : List Claim) (k : FlightKind) (s : State) : Waiting r k (launch r cl k s) :=
  ⟨_, List.mem_append_right _ (List.mem_singleton.2 rfl), rfl, rfl⟩

end Sys2Proof.Machine
end

section
/-! SUPPORT. HOLD and RESUME with their boundaries (R49, R50). -/

-- One proof after another: many at a time need more memory than the check of the whole text has.
set_option Elab.async false

namespace Sys2Proof.Machine

/-- A command whose parameters are in range is carried out where nothing turns it away. -/
theorem command_inRange {h : CmdHdr} {c : CmdSpec} {f : CmdRef → State → State} {s : State} {q : Prop} [Decidable q] (ha : Accepted h c s)
    (hq : q) : command h { c with params := decide q } f s = announce s (f (slotOf h c.op s) (taken h s)) :=
  command_accepted h { c with params := decide q } f s ha (decide_eq_true hq)

theorem nextBoundary_taken (h : CmdHdr) (s : State) : nextBoundary (taken h s) = nextBoundary s := by
  rw [nextBoundary, taken_clk, nextBoundary]

/-- HOLD of a partition that runs waits for the boundary (R49). -/
theorem holdOp_running {r : CmdRef} {p : Nat} {s : State} (h : (getPart s p).st = .running) :
    holdOp r p s = launch r [] (.hold p) (modPart p (fun q => { q with pauseAt := some (q.pauseAt.getD (nextBoundary s)) }) s) :=
  if_pos h

/-- At its boundary a partition that runs is paused, and the HOLDs that wait for it end (R49). -/
theorem pauseAt_due {t p a : Nat} {s u : State} (ha : (getPart (advanceTo t s) p).pauseAt = some a)
    (hs : (getPart (advanceTo t s) p).st = .running) (hb : toBoundary 64 a (advanceTo t s) = some u) :
    pauseAt t p s = land (fun k => k == .hold p) (fun r s => finishOk r (getPart u p).jcc s)
      (modPart p (fun q => { endHold q with st := .paused, pauseAt := none }) u) := by
  rw [pauseAt, ha]
  dsimp only
  rw [if_neg (not_not.2 hs), hb]

theorem endHold_jcc (q : Part) : (endHold q).jcc = q.jcc :=
  iteInduction (motive := fun x : Part => x.jcc = q.jcc) (fun _ => rfl) fun _ => rfl

/-- Words that waited for a partition go to the bands and their contexts. -/
theorem deliverParked_keeps {γ : Type} {g : State → γ}
    (hg : ∀ (s : State) (bands : Tbl Band) (pl : Tbl Plinth), g { s with bands := bands, plinths := pl } = g s) (p : Nat) (s : State) :
    g (deliverParked p s) = g s := by
  have hb : ∀ b x w u, g (putInbound b x w u) = g u := fun b x w u => hg u _ u.plinths
  have hc : ∀ k n f u, g (modCtx k n f u) = g u := fun k n f u => hg u u.bands _
  have hm : ∀ k n u, g (deliverMcast k n u) = g u := by
    intro k n u
    rw [deliverMcast]
    dsimp only
    split
    · rfl
    · refine state_ite ((hc ..).trans ((foldl_keeps (g := g) (fun u b => ?_) _ _).trans (hc ..))) rfl
      exact foldl_keeps (g := g) (fun u w => hb ..) _ _
  refine (foldl_keeps (g := g) (fun u x => foldl_keeps (g := g) (fun u e => state_ite (hm ..) rfl) _ _) _ _).trans ?_
  refine foldl_keeps (g := g) (fun u x => foldl_keeps (g := g) (fun u e => state_ite ?_ rfl) _ _) _ _
  exact (hc ..).trans ((hc ..).trans (foldl_keeps (g := g) (fun u w => hb ..) _ _))

/-- RESUME of a partition that is paused, or cast without a fault, waits for the boundary (R50). -/
theorem resumeOp_accepted {r : CmdRef} {p : Nat} {s : State}
    (h : (getPart s p).st = .paused ∨ ((getPart s p).st = .cast ∧ (getPart s p).faultCast = false)) :
    (resumeOp r p s).parts = (modPart p (fun q => { q with resumeAt := some (nextBoundary s) }) s).parts ∧
      Waiting r (.resume p) (resumeOp r p s) := by
  rw [resumeOp]
  dsimp only
  rw [if_pos h]
  have hp := deliverParked_keeps (g := State.parts) (fun _ _ _ => rfl) p
  have hf := deliverParked_keeps (g := State.flights) (fun _ _ _ => rfl) p
  split
  · rw [hp, Waiting, hf]
    exact ⟨rfl, waiting_launch ..⟩
  · exact ⟨rfl, waiting_launch ..⟩

/-- What a boundary at which partition `p` begins or goes on to run comes to: besides bands and counters only `p` has changed. -/
def Resumed (p : Nat) (u w : State) : Prop :=
  restView w = restView u ∧ w.clk = u.clk ∧ (getPart w p).st = .running ∧ (getPart w p).resumeAt = none ∧ (getPart w p).cut = none ∧
    (getPart w p).jcc = (getPart u p).jcc

theorem holdUnit_rest (p : Nat) (rs : List (Nat × Bool × Bool)) (s : State) : restView (holdUnit p rs s) = restView s :=
  (modPart_rest ..).trans (restView_update ..)

theorem resumed_holdUnit {p : Nat} {u w : State} (h : Resumed p u w) (rs : List (Nat × Bool × Bool)) : Resumed p u (holdUnit p rs w) := by
  obtain ⟨hr, hc, hs, ha, hcut, hj⟩ := h
  have hp := holdUnit_part (h := fun q => (q.st, q.resumeAt, q.cut, q.jcc)) (fun _ _ _ _ _ _ => rfl) p p rs w
  simp only [Prod.mk.injEq] at hp
  obtain ⟨h1, h2, h3, h4⟩ := hp
  exact ⟨(holdUnit_rest ..).trans hr, hc, h1.trans hs, h2.trans ha, h3.trans hcut, h4.trans hj⟩

/-- At its boundary the partition resumes, and the RESUMEs that wait for it end (R50). -/
theorem resumeBoundary_due {t p a : Nat} {s u : State} (ha : (getPart (advanceTo t s) p).resumeAt = some a)
    (hb : toBoundary 64 a (advanceTo t s) = some u)
    (hs : (getPart (advanceTo t s) p).st = .paused ∨ (getPart (advanceTo t s) p).st = .cast)
    (hf : (getPart (advanceTo t s) p).pendFatal = none) (hm : u.log.modFatal = false) :
    ∃ w, Resumed p u w ∧ resumeBoundary t p s =
      land (fun k => k == .resume p) (fun r v => finishOk r (getPart (advanceTo t s) p).jcc v) w := by
  have hgo : ∀ (bs : List Nat) (bd : Tbl Band), restView (bs.foldl (retest p) { u with bands := bd }) = restView u ∧
      (bs.foldl (retest p) { u with bands := bd }).clk = u.clk ∧ (bs.foldl (retest p) { u with bands := bd }).parts = u.parts := by
    intro bs bd
    have hr : ∀ v b, (fun x : State => (restView x, x.clk, x.parts)) (retest p v b) = (restView v, v.clk, v.parts) := fun v b =>
      state_ite (g := fun x : State => (restView x, x.clk, x.parts)) rfl rfl
    have h := foldl_keeps (g := fun x : State => (restView x, x.clk, x.parts)) hr bs { u with bands := bd }
    simp only [Prod.mk.injEq] at h
    exact h
  rw [resumeBoundary, ha]
  dsimp only
  rw [if_neg (by rw [← not_or, not_not]; exact hs), hb]
  dsimp only
  rw [hm, if_neg Bool.false_ne_true, hf]
  refine ⟨_, ?_, rfl⟩
  have hw : ∀ v, restView v = restView u ∧ v.clk = u.clk ∧ v.parts = u.parts → Resumed p u (modPart p (fun x => { x with
      st := .running, resumeAt := none, decided := some u.clk.mcc, faultCast := false, faulted := false, cut := none }) v) := by
    rintro v ⟨h1, h2, h3⟩
    rw [Resumed, getPart_modPart, getPart, h3]
    exact ⟨(modPart_rest ..).trans h1, h2, rfl, rfl, rfl, rfl⟩
  refine (fun hv => pred_ite (P := Resumed p u) hv (resumed_holdUnit hv _)) (hw _ ?_)
  exact pred_ite (P := fun v => restView v = restView u ∧ v.clk = u.clk ∧ v.parts = u.parts) (hgo _ _) ⟨rfl, rfl, rfl⟩

/-- What has landed of `s` after time and a write of the partitions. -/
theorem landed {s u : State} {t a k : Nat} (hb : toBoundary k a (advanceTo t s) = some u) : restView u = restView s :=
  (toBoundary_rest hb).trans (advanceTo_rest t s)

theorem flights_of_rest {s u : State} (h : restView u = restView s) : u.flights = s.flights := (congrArg State.flights h :)

/-- Settles O9, with the boundary as what `toBoundary` reaches and the replies as what lands there. -/
theorem holdAndResume : Obligations.HoldAndResume := by
  refine fun s => ⟨fun h part hp ha hs => ?_, fun t p a u hpa hs hb => ?_, fun h part hp ha hs => ?_, fun t p a u hra hb hs hf hm => ?_⟩
  · have hs' : (getPart (taken h s) part).st = .running := by rw [getPart_taken, hs]
    refine ⟨_, congrArg Host.Outcome.next ((command_inRange ha hp).trans (congrArg (announce s) (holdOp_running hs'))), ?_⟩
    rw [getPart_announce, getPart_launch, getPart_modPart, getPart_taken, nextBoundary_taken]
    exact ⟨rfl, hs, waiting_announce (waiting_launch ..)⟩
  · obtain ⟨h0, -⟩ := toBoundary_mcc hb (by decide) (by decide)
    obtain ⟨hclk, hparts, -⟩ := completes_fields (land_ok_completes (fun k => k == .hold p) (getPart u p).jcc
      (modPart p (fun q => { endHold q with st := .paused, pauseAt := none }) u))
    refine ⟨_, congrArg (fun x => Host.Outcome.next (announce s x)) (pauseAt_due hpa hs hb), h0, ?_, ?_⟩
    · rw [announce_clk, hclk]
      rfl
    · rw [getPart_announce, getPart, hparts, ← getPart, getPart_modPart]
      refine ⟨rfl, rfl, endHold_jcc _, fun x hx hk => replied_announce (replied_of_rest (landed hb) ?_)⟩
      exact land_ok_replied (by rwa [modPart_flights, flights_of_rest (landed hb)]) hk
  · have hs' : (getPart (taken h s) part).st = .paused ∨ ((getPart (taken h s) part).st = .cast ∧ (getPart (taken h s) part).faultCast = false) := by
      rwa [getPart_taken]
    obtain ⟨h1, h2⟩ := resumeOp_accepted (r := slotOf h 0x14 s) hs'
    refine ⟨_, congrArg Host.Outcome.next (command_inRange ha hp), ?_⟩
    rw [getPart_announce, getPart, h1, ← getPart, getPart_modPart, getPart_taken, nextBoundary_taken]
    exact ⟨rfl, rfl, waiting_announce h2⟩
  · obtain ⟨h0, -⟩ := toBoundary_mcc hb (by decide) (by decide)
    obtain ⟨w, ⟨hr, hc, h1, h2, h3, h4⟩, he⟩ := resumeBoundary_due hra hb hs hf hm
    obtain ⟨hclk, hparts, -⟩ := completes_fields (land_ok_completes (fun k => k == .resume p) (getPart (advanceTo t s) p).jcc w)
    have hni : (getPart (advanceTo t s) p).st ≠ .running := by
      obtain hs | hs := hs <;> rw [hs] <;> decide
    refine ⟨_, congrArg (fun x => Host.Outcome.next (announce s x)) he, h0, ?_, ?_⟩
    · rw [announce_clk, hclk, hc]
    · rw [getPart_announce, getPart, hparts, ← getPart]
      refine ⟨h1, h2, h3, h4.trans (toBoundary_jcc hb hni), fun x hx hk => replied_announce (replied_of_rest (hr.trans (landed hb)) ?_)⟩
      exact land_ok_replied (by rwa [flights_of_rest (hr.trans (landed hb))]) hk

end Sys2Proof.Machine
end

section
/-! SUPPORT. CAST and its boundary (R374 to R376). -/

-- One proof after another: many at a time need more memory than the check of the whole text has.
set_option Elab.async false

namespace Sys2Proof.Machine

theorem completes_parts {s t : State} (h : Completes s t) : t.parts = s.parts := (completes_fields h).2.1

theorem finishErr_land_completes (p : FlightKind → Bool) (st : Status) (k o d : Nat) (s : State) :
    Completes s (land p (fun r s => finishErr r st k o d s) s) :=
  land_completes (fun _ _ => finishErr_completes ..) p s

theorem waitRecord_parts (p : Nat) (c : PendCast) (first : Bool) (s : State) (b : Nat) : (waitRecord p c first s b).parts = s.parts := by
  refine state_ite rfl (state_ite (state_ite (writeRec_parts ..) (state_ite rfl (writeRec_parts ..))) ?_)
  exact state_ite rfl (writeRec_parts ..)

theorem faultRecords_parts (p : Nat) (c : PendCast) (s : State) : (faultRecords p c s).parts = s.parts := by
  rw [faultRecords]
  exact foldl_keeps (g := fun a : Bool × State => a.2.parts) (fun _ _ => writeRec_parts ..) _ _

theorem storeCapture_parts (p : Nat) (s : State) : (storeCapture p s).parts = s.parts := by
  rw [storeCapture]
  split
  · exact completes_parts (completes_mem (memChange_memWrite ..))
  · rfl

/-- A cast leaves the partition CAST with its cut, at the count it has (R374 to R376). -/
theorem takeCast_part (p : Nat) (c : PendCast) (s : State) :
    (getPart (takeCast p c s) p).st = .cast ∧ (getPart (takeCast p c s) p).faultCast = c.fault ∧
      (getPart (takeCast p c s) p).cut.isSome = true ∧ (getPart (takeCast p c s) p).pendCast = none ∧
      (getPart (takeCast p c s) p).jcc = (getPart s p).jcc := by
  have hw : ∀ first u, (if c.fault then (boundBands s p).foldl (waitRecord p c first) u else u).parts = u.parts := fun first u =>
    state_ite (foldl_keeps (g := State.parts) (fun _ _ => waitRecord_parts ..) _ _) rfl
  generalize ht : takeCast p c s = t
  unfold takeCast at ht
  extract_lets q i bs s1 s2 s3 first capture s4 s5 s6 s7 s8 at ht
  have h4 : s4.parts = s.parts := (hw false s2).trans ((faultRecords_parts ..).trans (hw true s))
  have h6 : s6.parts = s5.parts := by
    dsimp only [s6]
    split
    · exact state_ite rfl rfl
    · rfl
  have h8 : s8.parts = s7.parts := completes_parts (land_completes (fun _ _ => finish_completes ..) ..)
  have h9 : t.parts = s8.parts := by
    rw [← ht]
    exact completes_parts (finishErr_land_completes ..)
  have hp : getPart t p = getPart s5 p := by
    rw [getPart, h9, h8, storeCapture_parts, h6, ← getPart]
  have hj : getPart s4 p = getPart s p := by rw [getPart, h4, getPart]
  rw [hp, getPart_modPart, hj]
  exact ⟨rfl, rfl, rfl, rfl, endHold_jcc _⟩

/-- A cast is asked for no later than its own boundary (R374). -/
theorem askCast_at {c : PendCast} {b : Nat} (hc : c.at_ = some b) (q : Part) :
    ∃ d, (askCast c q).pendCast = some d ∧ ∃ x, d.at_ = some x ∧ x ≤ b := by
  rw [askCast]
  split
  · exact ⟨c, rfl, b, hc, le_refl _⟩
  · next d hd =>
    refine ⟨_, rfl, ?_⟩
    dsimp only
    rw [hc]
    cases d.at_ with
    | none => exact ⟨b, rfl, le_refl _⟩
    | some x => exact ⟨min b x, rfl, Nat.min_le_left ..⟩

/-- A cast at a time is asked for no later than that (R375). -/
theorem askGtc_le (g : Nat) (c : CastCause) (q : Part) : ∃ x d, (askGtc g c q).castGtc = some (x, d) ∧ x ≤ g := by
  rw [askGtc]
  dsimp only
  split
  · split
    · next h => exact ⟨_, _, rfl, h⟩
    · exact ⟨_, _, rfl, le_refl _⟩
  · exact ⟨_, _, rfl, le_refl _⟩

theorem queueFrame_keeps {γ : Type} {g : State → γ} (hg : ∀ (s : State) (l : Tbl Link), g { s with links := l } = g s) (l : Nat) (f : Frame)
    (s : State) : g (queueFrame l f s) = g s :=
  state_ite (hg ..) rfl

theorem sendCastAt_keeps {γ : Type} {g : State → γ}
    (hg : ∀ (s : State) (l : Tbl Link) (seen : List Nat), g { s with links := l, castSeen := seen } = g s) (p a : Nat) (s : State) :
    g (sendCastAt p a s) = g s :=
  (foldl_keeps (g := g) (fun u x => state_ite (foldl_keeps (g := g)
    (fun u l => queueFrame_keeps (fun s l => hg s l s.castSeen) l _ u) _ u) rfl) _ _).trans (hg s s.links _)

/-- CAST of a partition that runs or is paused asks for its cast and waits (R374, R375). -/
theorem castOp_asks {r : CmdRef} {p a : Nat} {fab : Bool} {s : State} (h : (getPart s p).st = .running ∨ (getPart s p).st = .paused) :
    (getPart (castOp r p fab a s) p = if a ≤ s.clk.gtc then
        askCast { at_ := some (nextBoundary s), cause := if fab then .fabricCommand else .command, fault := false, atGtc := a } (getPart s p)
      else askGtc a (if fab then .fabricCommand else .command) (getPart s p)) ∧ Waiting r (.cast p) (castOp r p fab a s) := by
  have hk : ∀ u, (if fab then sendCastAt p a s else s) = u → u.parts = s.parts ∧ u.clk = s.clk := fun u hu =>
    hu ▸ pred_ite (P := fun u => u.parts = s.parts ∧ u.clk = s.clk)
      ⟨sendCastAt_keeps (g := State.parts) (fun _ _ _ => rfl) .., sendCastAt_keeps (g := State.clk) (fun _ _ _ => rfl) ..⟩ ⟨rfl, rfl⟩
  rw [castOp]
  dsimp only
  rw [if_neg (by rintro ⟨h1, h2, -⟩; exact h.elim h1 h2)]
  generalize hu : (if fab then sendCastAt p a s else s) = u
  obtain ⟨hp, hc⟩ := hk u hu
  refine ⟨?_, waiting_launch ..⟩
  rw [getPart_launch, getPart_modPart, nextBoundary, nextBoundary, hc, getPart, hp, ← getPart]

/-- Settles O10: CAST asks for a cast, and the boundary of one that is due takes it. -/
theorem castTakesACut : Obligations.CastTakesACut := by
  refine fun s => ⟨fun h part a hp ha hb hs hl => ?_, fun h part a hp ha hs hl hal => ?_, fun t p c h0 hs hr hd hf => ?_⟩
  · have hs' : (getPart (taken h s) part).st = .running ∨ (getPart (taken h s) part).st = .paused := by rwa [getPart_taken]
    obtain ⟨h1, h2⟩ := castOp_asks (r := slotOf h 0x15 s) (a := a) (fab := bitOf h.flags 1) hs'
    obtain ⟨d, hd, hx⟩ := askCast_at (c := { at_ := some (nextBoundary s), cause := if bitOf h.flags 1 then .fabricCommand else .command, fault := false, atGtc := a }) rfl (getPart s part)
    refine ⟨_, d, congrArg Host.Outcome.next (command_accepted h _ _ s ha ?_), ?_, hx, waiting_announce h2⟩
    · rw [decide_eq_true hp, castTimeOk, hb]
      rfl
    · rw [getPart_announce, h1, taken_clk, if_pos hl, nextBoundary_taken, getPart_taken, hd]
  · have hs' : (getPart (taken h s) part).st = .running ∨ (getPart (taken h s) part).st = .paused := by rwa [getPart_taken]
    obtain ⟨h1, h2⟩ := castOp_asks (r := slotOf h 0x15 s) (a := a) (fab := bitOf h.flags 1) hs'
    obtain ⟨x, d, hd, hx⟩ := askGtc_le a (if bitOf h.flags 1 then .fabricCommand else .command) (getPart s part)
    refine ⟨_, x, d, congrArg Host.Outcome.next (command_accepted h _ _ s ha ?_), ?_, hx, waiting_announce h2⟩
    · rw [decide_eq_true hp, castTimeOk, decide_eq_true hl, hal, Bool.and_self, Bool.or_true, Bool.and_self]
    · rw [getPart_announce, h1, taken_clk, if_neg (by omega), getPart_taken, hd]
  · obtain ⟨h1, h2, h3, h4, h5⟩ := takeCast_part p c (advanceTo t s)
    have he : castBoundary t p s = land (fun k => k == .resume p) (fun r s =>
        if s.log.modFatal then finishFatal r s else finishErr r .partitionState 1 p 0 s) (takeCast p c (advanceTo t s)) := by
      rw [castBoundary]
      dsimp only
      rw [if_neg (by rw [not_or, not_or, not_and_or, not_not, not_not, not_not, not_not]; exact ⟨h0, hs, hr⟩), hd]
      dsimp only
      rw [hf]
    refine ⟨_, congrArg (fun x => Host.Outcome.next (announce s x)) he, ?_⟩
    have hl := completes_parts (land_completes (f := fun r s => if s.log.modFatal then finishFatal r s else finishErr r .partitionState 1 p 0 s)
      (fun r u => pred_ite (P := Completes u) (finish_completes ..) (finishErr_completes ..)) (fun k => k == .resume p)
      (takeCast p c (advanceTo t s)))
    rw [getPart_announce, getPart, hl, ← getPart]
    exact ⟨h1, h2, h3, h4, h5⟩

end Sys2Proof.Machine
end

section
/-! SUPPORT. START (O8): a start that lands together with the end of a copy on its ring has no status of its own. -/

-- One proof after another: many at a time need more memory than the check of the whole text has.
set_option Elab.async false

namespace Sys2Proof.Machine

/-- A partition whose JCC 0 falls now. Its START and a REGION_MIGRATE of its only region wait on one ring, and the copy of that
region, which the start cuts off, has not ended. -/
def startOverCopy : State := {
  rings := [(0, { enable := true, tail := 2 })]
  clk := { run := .running }
  pcie := { cmd := 6 }
  parts := [(0, { startAt := some 0 })]
  regions := [(1, { bound := true, target := some ([], 0) })]
  flights := [{ ring := 0, slot := 0, opcode := 0x12, tag := 7, irq := false, claims := [], kind := .start 0 },
    { ring := 0, slot := 1, opcode := 0x30, tag := 8, irq := false, claims := [], kind := .migrate 0 1 }] }

/-- An answer OK among what went out. -/
def Out.isOk : Out → Bool
  | .status p => decide (p.status = .ok)
  | _ => false

theorem isOk_of_replied {r : CmdRef} {v : Nat} {s t : State} (hq : quiet s = false) (h : Replied r .ok v s t) :
    t.out.any Out.isOk = true := by
  obtain ⟨p, hp | ⟨hn, -⟩, -, hs, -⟩ := h
  · obtain ⟨a, b, hab⟩ := hp
    simp [hab, Out.isOk, hs]
  · simp [hq] at hn

/-- The copy's end answers BUSY and takes every flight of ring 0 away, the START's too. -/
theorem startOverCopy_answers : (announce startOverCopy (startCount 0 0 startOverCopy)).out.any Out.isOk = false := by decide

theorem exec_startCountReached (t' : Nat) (p : Fin 4) (s : State) :
    exec (.startCountReached t' p) s = .next (announce s (startCount t' p s)) := rfl

/-- Refutes O8: the clause of JCC 0 promises an OK to every START that waits, but when the start cuts off a copy whose
REGION_MIGRATE waits on the same ring, the answer to that command takes the START off the ring unanswered. -/
theorem not_startRunsAPartition : ¬ Obligations.StartRunsAPartition := by
  unfold Obligations.StartRunsAPartition
  intro h
  obtain ⟨-, -, -, -, hstart⟩ := h startOverCopy
  obtain ⟨t, ht, -, -, -, -, -, -, -, hreply⟩ := hstart 0 0 0 startOverCopy rfl rfl rfl
  obtain rfl : announce startOverCopy (startCount 0 0 startOverCopy) = t := Host.Outcome.next.inj ((exec_startCountReached 0 0 _).symm.trans ht)
  have hok := isOk_of_replied rfl (hreply _ (List.mem_cons_self ..) rfl)
  rw [startOverCopy_answers] at hok
  exact Bool.false_ne_true hok

end Sys2Proof.Machine

end

section
/-! SUPPORT. Answers of commands: what goes out is not taken back, and an answer leaves the work of the module alone (R306, R309). -/

-- One proof after another: many at a time need more memory than the check of the whole text has.
set_option Elab.async false

namespace Sys2Proof.Machine

/-- A state without what the taking, the end and the announcement of a command change. -/
def workView (s : State) : State := { s with
  rings := [], flights := [], mgmt := [], pcie := {}, mem := [], memErr := [], poison := [], patina := {}, devs := [], log := {}
  msix := {}, out := [] }

theorem workView_completes {s t : State} (h : Completes s t) : workView t = workView s := by
  obtain ⟨_, _, _, _, _, _, _, _, _, _, _, _, rfl, -⟩ := h
  rfl

theorem workView_taken (h : CmdHdr) (s : State) : workView (taken h s) = workView s := by
  obtain ⟨_, _, _, _, _, _, _, _, _, _, _, e, -⟩ := taken_takes h s
  rw [e]
  rfl

theorem workView_announce (t s : State) : workView (announce t s) = workView s := by
  obtain ⟨_, _, h⟩ := announce_shape t s
  rw [h]
  rfl

/-- What went out or waits for D0 is not taken back, and whether the host hears the module stays. -/
def Later (s t : State) : Prop := s.out <:+ t.out ∧ quiet t = quiet s ∧ s.pcie.held <+: t.pcie.held

theorem later_of_eq {s t : State} (ho : t.out = s.out) (hp : t.pcie = s.pcie) : Later s t := by
  rw [Later, quiet, quiet, ho, hp]
  exact ⟨List.suffix_refl _, rfl, List.prefix_refl _⟩

theorem later_trans {s t u : State} (h : Later s t) (h' : Later t u) : Later s u :=
  ⟨h.1.trans h'.1, h'.2.1.trans h.2.1, h.2.2.trans h'.2.2⟩

theorem later_completes {s t : State} (h : Completes s t) : Later s t := by
  obtain ⟨_, _, _, _, _, _, _, _, _, _, _, _, rfl, -⟩ := h
  exact ⟨List.suffix_append .., rfl, List.prefix_append ..⟩

theorem later_taken (h : CmdHdr) (s : State) : Later s (taken h s) := by
  obtain ⟨_, _, _, _, _, _, _, _, _, _, _, e, -⟩ := taken_takes h s
  rw [e]
  exact ⟨List.suffix_append .., rfl, List.prefix_append ..⟩

theorem replied_later {r : CmdRef} {st : Status} {v : Nat} {s t u w : State} (h1 : Later s t) (h : Replied r st v t u)
    (h2 : Later u w) : Replied r st v s w := by
  obtain ⟨p, hp, h⟩ := h
  refine ⟨p, hp.imp (fun hs => sent_of_suffix h1.1 ?_) (fun hw => ⟨h1.2.1.symm.trans hw.1, h2.2.2.subset hw.2⟩), h⟩
  obtain ⟨a, b, e⟩ := hs
  obtain ⟨o, ho⟩ := h2.1
  exact ⟨o ++ a, b, by rw [← ho, e, List.append_assoc, List.append_assoc, List.append_assoc, List.cons_append]⟩

/-- The answer that a taken command has at its end is the command's (R309). -/
theorem replied_command {r : CmdRef} {st : Status} {v : Nat} {h : CmdHdr} {s u w : State} (h1 : Later (taken h s) u)
    (h2 : Replied r st v u w) : Replied r st v s (announce s w) :=
  replied_announce (replied_later (later_trans (later_taken h s) h1) h2 (later_of_eq rfl rfl))

theorem replied_taken {r : CmdRef} {st : Status} {v : Nat} {h : CmdHdr} {s w : State} (h2 : Replied r st v (taken h s) w) :
    Replied r st v s (announce s w) :=
  replied_command (later_of_eq rfl rfl) h2

theorem finishErr_replied (r : CmdRef) (st : Status) (k o d : Nat) (s : State) : Replied r st 0 s (finishErr r st k o d s) :=
  replied_between (completes_mem (memChange_log (writeRec_shape _ s))) (finish_replied ..) (completes_refl _)

theorem memChange_flights {s t : State} (h : MemChange s t) : t.flights = s.flights := by
  obtain ⟨_, _, _, _, _, _, _, _, rfl, -⟩ := h
  rfl

theorem finish_flights (r : CmdRef) (st : Status) (v i : Nat) (s : State) :
    (finish r st v i s).flights = s.flights.filter (fun f => f.ring != r.ring) := by
  have he : ∀ (x : HostSend) (t : State), (emitHost x t).flights = t.flights := fun x t => state_ite rfl rfl
  have hs : ∀ (g : CmdRing) (p : StatusPkt) (t : State), (storeStatus g p t).flights = t.flights := fun g p t =>
    state_ite (g := State.flights) (memChange_flights (memChange_trans (memChange_moveMem ..) (memChange_memWrite ..)))
      ((memChange_flights (memChange_log (logRec_shape ..))).trans rfl)
  unfold finish
  exact state_ite (g := State.flights) ((signal_flights ..).trans (state_ite ((hs ..).trans (state_ite (he ..) rfl)) (state_ite (he ..) rfl)))
    (state_ite ((hs ..).trans (state_ite (he ..) rfl)) (state_ite (he ..) rfl))

theorem finishErr_flights (r : CmdRef) (st : Status) (k o d : Nat) (s : State) :
    (finishErr r st k o d s).flights = s.flights.filter (fun f => f.ring != r.ring) :=
  (finish_flights ..).trans (congrArg _ (writeRec_flights ..))

end Sys2Proof.Machine

end

section
/-! SUPPORT. ABORT, the end of a job, and commands in a state that Table 1.5 does not allow (R28, R170). -/

-- One proof after another: many at a time need more memory than the check of the whole text has.
set_option Elab.async false

namespace Sys2Proof.Machine

theorem endDumps_later (p : Nat) (all : Bool) (s : State) : Later s (endDumps p all s) :=
  later_trans (t := modPart p (fun q => { q with dump := q.dump.filter (fun d => !(all || !d.copying)) }) s) (later_of_eq rfl rfl)
    (later_completes (foldl_completes (f := fun r s => finishErr r .timeout 1 p 0 s) (fun _ _ => finishErr_completes ..) ..))

/-- ABORT ends what waits for the partition and gives the answer (R28). -/
theorem abortOp_bound {r : CmdRef} {p : Nat} {s : State} (h : (getPart s p).st ∈ [PState.running, .paused, .cast, .done]) :
    ∃ w, abortOp r p s = finishOk r 0 w ∧ Later s w ∧ (getPart w p).st = .bound ∧ (getPart w p).faultCast = false ∧
      (getPart w p).cut = none := by
  simp only [List.mem_cons, List.not_mem_nil, or_false] at h
  have hb : ∀ bs v, Later v (bandResets bs v) := fun bs v => pred_ite (P := Later v) (later_of_eq rfl rfl) (later_of_eq rfl rfl)
  have hl := fun u => finishErr_land_completes (fun k => k == .hold p || k == .cast p) .partitionState 1 p 0 u
  rw [abortOp]
  dsimp only
  rw [if_pos h]
  refine ⟨_, rfl, ?_, ?_⟩
  · refine later_trans ?_ (later_completes (hl _))
    exact later_trans (endDumps_later p false s) (later_trans (later_of_eq rfl rfl : Later _ (releaseContexts p _))
      (later_trans (hb ..) (later_of_eq rfl rfl)))
  · rw [getPart, completes_parts (hl _), ← getPart, getPart_modPart]
    exact ⟨rfl, rfl, rfl⟩

/-- A command that ends with an error in its log record changes none of the work. -/
theorem command_turnedAway {h : CmdHdr} {c : CmdSpec} {f : CmdRef → State → State} {s : State} {st : Status} {k o d : Nat}
    (ha : Accepted h c s) (hp : c.params = true)
    (hf : f (slotOf h c.op s) (taken h s) = finishErr (slotOf h c.op s) st k o d (taken h s)) :
    Replied (slotOf h c.op s) st 0 s (command h c f s) ∧ workView (command h c f s) = workView s ∧
      (command h c f s).flights = s.flights.filter (fun x => x.ring != h.ring) := by
  rw [command_accepted h c f s ha hp, hf, announce_flights, finishErr_flights, taken_flights]
  exact ⟨replied_taken (finishErr_replied ..),
    (workView_announce ..).trans ((workView_completes (finishErr_completes ..)).trans (workView_taken ..)), rfl⟩

theorem mem_boundBands {s : State} {p b : Nat} (h : b ∈ boundBands s p) : b < 32 := by
  rw [boundBands, bandsOf, List.mem_filter, List.mem_filter, List.mem_range] at h
  exact h.1.1

theorem boundBands_congr {s t : State} (hp : t.partMap = s.partMap) (hb : ∀ b, (getBand t b).bound = (getBand s b).bound) (p : Nat) :
    boundBands t p = boundBands s p := by
  have h1 : partOf t = partOf s := funext fun b => by rw [partOf, hp, partOf]
  rw [boundBands, boundBands, bandsOf, bandsOf, h1, funext hb]

/-- With its last sequencer the count of a partition runs to the first hold boundary after (R170). -/
theorem endSequencer_last {p j b : Nat} {s : State} (h : ∀ x ∈ boundBands s p, x ≠ b → (getBand s x).seqState = 2) :
    (getPart (endSequencer p j b s) p).endJcc = some ((j + (64 - s.clk.mcc % 64)) % 2 ^ 48) := by
  have hg : ∀ x, getBand (modBand b (fun bd => { bd with seqState := 2, seqEnd := some j }) s) x =
      if x = b then { getBand s b with seqState := 2, seqEnd := some j } else getBand s x := fun x => by
    split
    · next e => rw [e, getBand_modBand]
    · next e => exact getBand_modBand_other _ s (Ne.symm e)
  have hb := boundBands_congr (s := s) (t := modBand b (fun bd => { bd with seqState := 2, seqEnd := some j }) s) rfl (fun x => by
    rw [hg]
    split
    · next e => rw [e]
    · rfl) p
  rw [endSequencer]
  rw [hb, if_pos (List.all_eq_true.2 fun x hx => ?_), getPart_modPart]
  · rfl
  · rw [hg, beq_iff_eq]
    split
    · rfl
    · next hne => exact h x hx hne

theorem doneBand_parts (p : Nat) (un : List Nat) (s : State) (b : Nat) : (doneBand p un s b).parts = s.parts := by
  have h : (if (getBand s b).arm.st = .done then s
      else logDeferred 0x0304 (some b) (some p) (headCtx s p) (modBand b (fun x => { x with
        armPc := if x.arm.st = .running then s.clk.mcc + 1 else x.armPc
        arm := { x.arm with st := .halted, haltedFrom := .halted } }) s)).parts = s.parts :=
    state_ite (g := State.parts) rfl (logDeferred_parts ..)
  exact state_ite (g := State.parts) ((logDeferred_parts ..).trans h) h

theorem migrationPass_parts (s : State) : (migrationPass s).parts = s.parts := by
  have h : ∀ t : State, (passNext t).parts = t.parts := fun t => by
    rw [passNext]
    split
    · rfl
    · split <;> rfl
  exact h _

/-- A job that has ended is DONE at its boundary (R170). -/
theorem partDone_done {t p : Nat} {un : List Nat} {s : State} (h0 : (advanceTo t s).clk.mcc % 64 = 0)
    (hs : (getPart (advanceTo t s) p).st = .running) (hr : (advanceTo t s).clk.run = .running)
    (he : (getPart (advanceTo t s) p).endJcc = some (getPart (advanceTo t s) p).jcc)
    (hd : castDue (advanceTo t s) (getPart (advanceTo t s) p) = none) (hf : faultAsked (getPart (advanceTo t s) p) = none) :
    (getPart (partDone t p un s) p).st = .done ∧ (getPart (partDone t p un s) p).doneJcc = (getPart (advanceTo t s) p).jcc ∧
      (getPart (partDone t p un s) p).pauseAt = none := by
  have hn : ¬((advanceTo t s).clk.mcc % 64 ≠ 0 ∨ (getPart (advanceTo t s) p).st ≠ .running ∨
      (getPart (advanceTo t s) p).endJcc ≠ some (getPart (advanceTo t s) p).jcc ∨ (advanceTo t s).clk.run ≠ .running ∨
      (castDue (advanceTo t s) (getPart (advanceTo t s) p)).isSome ∨ (faultAsked (getPart (advanceTo t s) p)).isSome) := by
    simp [h0, hs, hr, he, hd, hf]
  have hj : ∀ l, getPart (List.foldl (doneBand p un) (advanceTo t s) l) p = getPart (advanceTo t s) p := fun l => by
    rw [getPart, foldl_keeps (g := State.parts) (doneBand_parts p un), ← getPart]
  rw [partDone]
  dsimp only
  rw [if_neg hn, getPart, migrationPass_parts, completes_parts (finishErr_land_completes ..), ← getPart, getPart_modPart, hj]
  exact ⟨rfl, rfl, rfl⟩

theorem turnedAway_parts {s t : State} (h : workView t = workView s) :
    t.parts = s.parts ∧ t.bands = s.bands ∧ t.cells = s.cells ∧ t.regions = s.regions ∧ t.chans = s.chans ∧ t.partMap = s.partMap :=
  ⟨(congrArg State.parts h :), (congrArg State.bands h :), (congrArg State.cells h :), (congrArg State.regions h :),
    (congrArg State.chans h :), (congrArg State.partMap h :)⟩

theorem bindOp_turnedAway {r : CmdRef} {p loc i : Nat} {e bad : Bool} {tb : List (Nat × Nat)} {s : State}
    (h : (getPart s p).st ≠ .loaded) : bindOp r p loc e tb i bad s = finishErr r .partitionState 1 p 0 s := by
  rw [bindOp]
  split
  · next hs _ => exact absurd hs h
  · rfl

/-- Settles O11: ABORT brings back to BOUND, Table 1.5 turns commands away, and a job ends at a boundary. -/
theorem abortAndDone : Obligations.AbortAndDone := by
  refine fun s => ⟨fun h part hp ha hs => ?_, fun h part c op hp hc => ?_, fun t b hl hq hx => ?_, fun t p un h0 hs hr he hd hf => ?_⟩
  · obtain ⟨w, hw, hl, h1, h2, h3⟩ := abortOp_bound (r := slotOf h 0x16 s) (s := taken h s) (p := part) (by rwa [getPart_taken])
    refine ⟨_, congrArg Host.Outcome.next ((command_inRange ha hp).trans (congrArg (announce s) hw)), ?_⟩
    rw [getPart_announce, finishOk, getPart, completes_parts (finish_completes ..), ← getPart]
    exact ⟨h1, h2, h3, replied_command hl (finish_replied ..)⟩
  · have hend : ∀ (x : CmdSpec) (f : CmdRef → State → State) (q : Bool) (k o d : Nat), Accepted h x s → q = true → x.op = op →
        f (slotOf h op s) (taken h s) = finishErr (slotOf h op s) .partitionState k o d (taken h s) →
        exec c s = .next (command h { x with params := q } f s) → ∃ t, exec c s = .next t ∧ Replied (slotOf h op s) .partitionState 0 s t ∧
          t.parts = s.parts ∧ t.bands = s.bands ∧ t.cells = s.cells ∧ t.regions = s.regions ∧ t.chans = s.chans ∧
          t.flights = s.flights.filter (fun x => x.ring != h.ring) ∧ t.partMap = s.partMap := by
      rintro x f q k o d ha hx rfl hf he
      obtain ⟨h1, h2, h3⟩ := command_turnedAway (c := { x with params := q }) ha hx hf
      obtain ⟨e1, e2, e3, e4, e5, e6⟩ := turnedAway_parts h2
      exact ⟨_, he, h1, e1, e2, e3, e4, e5, h3, e6⟩
    obtain ⟨loc, addr, size, img, rfl, rfl, hz, hl, hb, hs, ha⟩ | ⟨loc, rep, rfl, rfl, hl, hr, hs, ha⟩ |
      ⟨seed, a, rfl, rfl, h0, hlt, hs, ha⟩ | ⟨rfl, rfl, hs, hst, ha⟩ | ⟨rfl, rfl, hs, ha⟩ | ⟨a, rfl, rfl, hs, hst, hct, ha⟩ |
      ⟨rfl, rfl, hs, ha⟩ := hc
    · refine hend _ _ _ 1 part 1 ha ?_ rfl (if_pos ?_) rfl
      · rw [decide_eq_true (⟨hp, hz⟩ : part < 4 ∧ 1 ≤ size), hl, hb]
        rfl
      · simpa using hs
    · have ha' : Accepted h {
          op := 0x11, fields := [(8, 1, part), (9, 1, loc), (10, 1, b2n false), (16, 8, rep.table), (24, 8, rep.addr)], loc := some loc
          claims := partClaims s part, modFatal := true } s := by
        rw [hr]
        exact ha
      refine hend _ _ _ 1 part 0 ha' ?_ rfl ?_ rfl
      · rw [decide_eq_true hp, hl, hr]
        rfl
      · exact bindOp_turnedAway (by rwa [getPart_taken])
    · refine hend _ _ _ 1 part 0 ha (decide_eq_true ⟨hp, h0, hlt⟩) rfl (if_pos ?_) rfl
      simpa using hs
    · refine hend _ _ _ 1 part 0 ha (decide_eq_true hp) rfl ?_ rfl
      rw [holdOp, getPart_taken, if_neg hs, starting, taken_flights, ← starting, hst]
      rfl
    · refine hend _ _ _ 1 part 0 ha (decide_eq_true hp) rfl (if_neg ?_) rfl
      rw [getPart_taken]
      simp only [List.mem_cons, List.not_mem_nil, or_false, not_or] at hs
      rintro (h1 | ⟨h1, h2⟩)
      · simp [h1] at hs
      · simp [h1, h2] at hs
    · refine hend _ _ _ 1 part 0 ha ?_ rfl (if_pos ?_) rfl
      · rw [decide_eq_true hp, hct]
        rfl
      · simpa [starting, taken_flights, and_assoc] using And.intro hs hst
    · refine hend _ _ _ 1 part 0 ha (decide_eq_true hp) rfl (if_neg ?_) rfl
      simpa using hs
  · exact ⟨_, congrArg Host.Outcome.next (sequencer_live hl hq _), endSequencer_last hx⟩
  · refine ⟨_, rfl, ?_⟩
    rw [getPart_announce]
    exact partDone_done h0 hs hr he hd hf

end Sys2Proof.Machine

end

section
/-! SUPPORT. Links, lasers and channels: what the faults of channels and the choice of a root leave of the ports (R233, R244, R245). -/

-- One proof after another: many at a time need more memory than the check of the whole text has.
set_option Elab.async false

namespace Sys2Proof.Machine

/-- The ports' states and sequence numbers, the laser modules, and the clocks but for the state of fabric time: what the work of
channels and of fabric time keeps. -/
def portView (s : State) : (Nat → LinkSt × Nat × Nat) × Tbl Laser × Clock :=
  (fun l => ((getLink s l).st, (getLink s l).txSeq, (getLink s l).rxSeq), s.lasers, { s.clk with timeState := 0 })

def Served (s t : State) : Prop := portView t = portView s ∧ Later s t

theorem served_of_eq {s t : State} (hl : t.links = s.links) (hs : t.lasers = s.lasers) (hc : t.clk = s.clk) (h : Later s t) : Served s t := by
  refine ⟨?_, h⟩
  simp only [portView, getLink, hl, hs, hc]

theorem served_refl (s : State) : Served s s := ⟨rfl, later_of_eq rfl rfl⟩

theorem served_trans {s t u : State} (h : Served s t) (h' : Served t u) : Served s u := ⟨h'.1.trans h.1, later_trans h.2 h'.2⟩

theorem served_foldl {α : Type} {f : State → α → State} (h : ∀ s x, Served s (f s x)) (l : List α) (s : State) : Served s (l.foldl f s) := by
  induction l generalizing s with
  | nil => exact served_refl s
  | cons x r ih => exact served_trans (h s x) (ih _)

theorem served_completes {s t : State} (h : Completes s t) : Served s t :=
  served_of_eq (congrArg State.links (workView_completes h) :) (congrArg State.lasers (workView_completes h) :)
    (congrArg State.clk (workView_completes h) :) (later_completes h)

theorem served_logRec (r : ErrRec) (s : State) : Served s (logRec r s).1 := served_completes (completes_mem (memChange_log (logRec_shape ..)))

theorem served_logDeferred (code : Nat) (u p : Option Nat) (ctx : List (Nat × Nat)) (s : State) : Served s (logDeferred code u p ctx s) :=
  served_logRec ..

theorem served_modLink (l : Nat) {f : Link → Link} (s : State)
    (hf : ∀ x, (f x).st = x.st ∧ (f x).txSeq = x.txSeq ∧ (f x).rxSeq = x.rxSeq) : Served s (modLink l f s) := by
  refine ⟨Prod.ext (funext fun k => ?_) rfl, later_of_eq rfl rfl⟩
  obtain rfl | h := eq_or_ne l k
  · obtain ⟨h1, h2, h3⟩ := hf (getLink s l)
    simp only [portView, getLink_modLink, h1, h2, h3]
  · simp only [portView, getLink_modLink_other _ _ h]

theorem served_queueFrame (l : Nat) (f : Frame) (s : State) : Served s (queueFrame l f s) :=
  pred_ite (P := Served s) (served_modLink l s fun _ => ⟨rfl, rfl, rfl⟩) (served_refl s)

theorem served_freeBody (l cls : Nat) (s : State) : Served s (freeBody l cls s) :=
  served_trans (served_modLink l (f := fun x => { x with
    creditFrom := if [0, 1, 2].all (fun c => uncredited x c == 0) then s.clk.gtc else x.creditFrom
    given := tset 0 x.given cls (tget 0 x.given cls + 1) }) s fun _ => ⟨rfl, rfl, rfl⟩) (served_modLink l _ fun _ => by split <;> exact ⟨rfl, rfl, rfl⟩)

theorem served_freeBodies (l cls n : Nat) (s : State) : Served s (freeBodies l cls n s) := by
  induction n generalizing s with
  | zero => exact served_refl s
  | succ n ih => exact served_trans (served_freeBody l cls s) (ih _)

theorem served_jobFatal (p code : Nat) (u : Option Nat) (ctx : List (Nat × Nat)) (c : CastCause) (j : Option Nat) (s : State) :
    Served s (jobFatal p code u ctx c j s) := by
  obtain ⟨_, _, _, _, h⟩ := jobFatal_shape p code u ctx c j s
  rw [h]
  exact served_of_eq rfl rfl rfl ⟨List.suffix_append .., rfl, List.prefix_refl _⟩

theorem served_modCtx (k n : Nat) (f : Ctx → Ctx) (s : State) : Served s (modCtx k n f s) := served_of_eq rfl rfl rfl (later_of_eq rfl rfl)
theorem served_modChan (c : Nat) (f : Chan → Chan) (s : State) : Served s (modChan c f s) := served_of_eq rfl rfl rfl (later_of_eq rfl rfl)
theorem served_modReg (c : Nat) (f : Region → Region) (s : State) : Served s (modReg c f s) := served_of_eq rfl rfl rfl (later_of_eq rfl rfl)

theorem served_ctxFault (k n code low mask word e : Nat) (s : State) : Served s (ctxFault k n code low mask word e s) :=
  served_trans (served_modCtx ..) (served_jobFatal ..)

theorem served_failWaiters (s : State) : Served s (failWaiters s) := by
  refine served_foldl (fun s (x : Nat × Plinth) => served_foldl (fun s e => ?_) x.2.ctxs s) ..
  exact pred_ite (P := Served s) (served_ctxFault ..) (served_refl s)

theorem served_freeHeld (ch : Chan) (s : State) : Served s (freeHeld ch s) := by
  have h := served_foldl (fun s l => served_freeBodies l 0 (tget {} ch.edgeQ l).red.length s) (chChildren ch) s
  unfold freeHeld
  split
  · exact served_trans h (served_freeBodies ..)
  · exact h

theorem served_chanFault (c cause link rank det unit : Nat) (step : Bool) (s : State) :
    Served s (chanFault c cause link rank det unit step s) := by
  have h0 := served_logDeferred 0x0701 (some c) none (chanCtx (getChan s c) cause link rank unit 0) s
  generalize ht : chanFault c cause link rank det unit step s = t
  unfold chanFault at ht
  extract_lets ch s1 s2 s3 s4 at ht
  rw [← ht]
  refine served_trans ?_ (served_trans (served_freeHeld ..) (served_modChan ..))
  refine pred_ite (P := Served s) (served_trans h0 ?_) h0
  have h2 : Served s1 s2 := by
    dsimp only [s2]
    split
    · exact served_trans (served_modReg ..) (served_failWaiters _)
    · exact served_refl _
  have h3 : Served s2 s3 := by
    dsimp only [s3]
    split
    · exact served_queueFrame ..
    · exact served_refl _
  exact served_trans h2 (served_trans h3 (served_foldl (fun _ _ => served_queueFrame ..) ..))

theorem served_drainCheck (c : Nat) (s : State) : Served s (drainCheck c s) := by
  have hq := fun (ls : List Nat) f s => served_foldl (fun s l => served_queueFrame l f s) ls s
  unfold drainCheck
  refine pred_ite (P := Served s) ?_ (served_refl s)
  split
  · exact served_trans (hq ..) (served_modChan ..)
  · exact pred_ite (P := Served s) (served_trans (hq ..) (served_modChan ..))
      (pred_ite (P := Served s) (served_refl s) (served_trans (served_queueFrame ..) (served_modChan ..)))

theorem served_edgeDrained (c l : Nat) (s : State) : Served s (edgeDrained c l s) :=
  served_trans (served_modChan ..) (served_drainCheck ..)

theorem served_chansLost (l : Nat) (s : State) : Served s (chansLost l s) := by
  refine served_foldl (fun s x => ?_) s.chans s
  refine pred_ite (P := Served s) (served_refl s) ?_
  split
  · exact served_chanFault ..
  · exact served_chanFault ..
  · exact served_refl s

theorem served_chansLinkLost (l : Nat) (s : State) : Served s (chansLinkLost l s) :=
  served_trans (served_chansLost l s) (served_foldl (fun s (x : Nat × Chan) => served_edgeDrained x.1 l s) ..)

theorem served_fab (f : Fabric) (s : State) : Served s { s with fab := f } := served_of_eq rfl rfl rfl (later_of_eq rfl rfl)

theorem served_setParent (v : Option Nat) (s : State) : Served s (setParent v s) :=
  served_trans (served_foldl (fun s l => served_modLink l (f := fun x => { x with parent := v == some l }) s fun _ => ⟨rfl, rfl, rfl⟩)
    (List.range 32) s) (served_fab ..)

theorem served_setTime (k : Nat) (s : State) : Served s (setTime k s) := ⟨rfl, later_of_eq rfl rfl⟩

theorem served_chooseRoot (s : State) : Served s (chooseRoot s) := by
  have hf : ∀ (k : Nat) (f : Fabric) (s : State), Served s (setTime k { s with fab := f }) := fun _ _ _ =>
    served_trans (served_fab ..) (served_setTime ..)
  unfold chooseRoot
  dsimp only
  split
  · have h1 := fun (f : Fabric) v => served_trans (served_fab f s) (served_setParent v _)
    exact pred_ite (P := Served s) (served_trans (h1 ..) (served_setTime ..))
      (pred_ite (P := Served s) (served_trans (h1 ..) (served_setTime ..)) (h1 ..))
  · have h1 : Served s (setParent none s) := served_setParent ..
    refine pred_ite (P := Served s) (pred_ite (P := Served s) (served_trans h1 ?_) (served_trans h1 (hf ..)))
      (pred_ite (P := Served s) h1 (served_trans h1 ?_)) <;> split <;> exact hf ..

end Sys2Proof.Machine

end

section
/-! SUPPORT. Laser modules and the service commands of links (R233, R244, R245, R408). -/

-- One proof after another: many at a time need more memory than the check of the whole text has.
set_option Elab.async false

namespace Sys2Proof.Machine

theorem served_lasers {s t : State} (h : Served s t) : t.lasers = s.lasers := congrArg (fun v => v.2.1) h.1
theorem served_run {s t : State} (h : Served s t) : { t.clk with timeState := 0 } = { s.clk with timeState := 0 } :=
  congrArg (fun v => v.2.2) h.1
theorem served_st {s t : State} (h : Served s t) (l : Nat) : (getLink t l).st = (getLink s l).st :=
  congrArg (fun v => (v.1 l).1) h.1

theorem finishRecR_completes (r : CmdRef) (st : Status) (i : Option Nat) (k o d v : Nat) (s : State) :
    Completes s (finishRecR r st i k o d v s) := by
  cases i with
  | none => exact completes_trans (completes_mem (memChange_log (writeRec_shape _ s))) (finish_completes ..)
  | some n => exact finish_completes ..

theorem noLaserOn_served (n : Nat) (i : Option Nat) (s : State) : Served s (noLaserOn n i s) :=
  served_completes (land_completes (f := fun r s => finishRecR r .fault i 8 n 0 (getLaser s n).st s)
    (fun _ _ => finishRecR_completes ..) ..)

theorem endLinkCmds_served (l st : Nat) (i : Option Nat) (s : State) : Served s (endLinkCmds l st i s) := by
  have h := fun (st' : Status) (k : FlightKind) (u : State) => served_completes (land_completes (f := fun r s => finishRecR r st' i 7 l st st s)
    (fun _ _ => finishRecR_completes ..) (fun k' => k' == k) u)
  exact served_trans (h ..) (h ..)

theorem served_noteCause (b : Nat) (s : State) : Served s (noteCause b s) := served_of_eq rfl rfl rfl (later_of_eq rfl rfl)

/-- The reset of a link leaves its state DOWN and the other links as they were. -/
theorem linkReset_served (l : Nat) (s : State) :
    (getLink (linkReset l s) l).st = .down ∧ (getLink (linkReset l s) l).txSeq = 0 ∧
    (getLink (linkReset l s) l).rxSeq = 0 ∧ (∀ k, k ≠ l → (getLink (linkReset l s) k).st = (getLink s k).st) ∧
    (linkReset l s).lasers = s.lasers ∧ Later s (linkReset l s) := by
  have hc := served_chansLinkLost l s
  refine ⟨?_, ?_, ?_, fun k hk => ?_, (served_lasers hc :), later_trans hc.2 (later_of_eq rfl rfl)⟩
  · rw [linkReset, getLink_modLink]
  · rw [linkReset, getLink_modLink]
    rfl
  · rw [linkReset, getLink_modLink]
    rfl
  · rw [linkReset, getLink_modLink_other _ _ (Ne.symm hk)]
    exact served_st hc k

/-- What a loss of the light of a link does (R245). -/
def unlight (i : Option Nat) (s : State) (l : Nat) : State :=
  let wasParent := (getLink s l).parent
  let s := endLinkCmds l 10 i (modLink l (fun x => { x with st := .noLight }) (linkReset l s))
  if wasParent then chooseRoot s else s

theorem noLight_eq (n : Nat) (i : Option Nat) (s : State) : noLight n i s = (laserLinks n).foldl (unlight i) s := rfl

theorem unlight_st (i : Option Nat) (s : State) (l : Nat) : (getLink (unlight i s l) l).st = .noLight ∧
    (∀ k, k ≠ l → (getLink (unlight i s l) k).st = (getLink s k).st) ∧ (unlight i s l).lasers = s.lasers ∧ Later s (unlight i s l) := by
  obtain ⟨-, -, -, hk, hl, hr⟩ := linkReset_served l s
  have hs : Served (modLink l (fun x => { x with st := .noLight }) (linkReset l s)) (unlight i s l) :=
    have h := endLinkCmds_served l 10 i (modLink l (fun x => { x with st := .noLight }) (linkReset l s))
    pred_ite (P := Served _) (served_trans h (served_chooseRoot _)) h
  refine ⟨?_, fun k hne => ?_, (served_lasers hs).trans hl, later_trans hr (later_trans (later_of_eq rfl rfl) hs.2)⟩
  · rw [served_st hs, getLink_modLink]
  · rw [served_st hs, getLink_modLink_other _ _ (Ne.symm hne), hk k hne]

theorem foldl_unlight (i : Option Nat) (ls : List Nat) (s : State) : (∀ l ∈ ls, (getLink (ls.foldl (unlight i) s) l).st = .noLight) ∧
    (ls.foldl (unlight i) s).lasers = s.lasers ∧ Later s (ls.foldl (unlight i) s) := by
  induction ls using List.reverseRecOn with
  | nil => exact ⟨fun l hl => absurd hl List.not_mem_nil, rfl, later_of_eq rfl rfl⟩
  | append_singleton r x ih =>
    obtain ⟨h1, h2, h3⟩ := ih
    obtain ⟨u1, u2, u3, u4⟩ := unlight_st i (r.foldl (unlight i) s) x
    rw [List.foldl_append]
    refine ⟨fun l hl => ?_, u3.trans h2, later_trans h3 u4⟩
    obtain rfl | hne := eq_or_ne l x
    · exact u1
    · exact (u2 l hne).trans (h1 l ((List.mem_append.1 hl).resolve_right fun hx => hne (List.mem_singleton.1 hx)))

theorem getLaser_modLaser (n : Nat) (f : Laser → Laser) (s : State) : getLaser (modLaser n f s) n = f (getLaser s n) := tget_tmod_same ..

theorem laserFails_dark (n w : Nat) (pwr : BitVec 8) (s : State) : (getLaser (laserFails n w pwr s) n).st = 5 ∧
    (getLaser (laserFails n w pwr s) n).outPwr = pwr ∧ ∀ l ∈ laserLinks n, (getLink (laserFails n w pwr s) l).st = .noLight := by
  obtain ⟨h1, h2, -⟩ := foldl_unlight (laserRec 0x0605 n pwr w s).2 (laserLinks n)
    (modLaser n (fun x => { x with st := 5, outPwr := pwr }) (laserRec 0x0605 n pwr w s).1)
  have hs : Served _ (laserFails n w pwr s) := noLaserOn_served n (laserRec 0x0605 n pwr w s).2 (noLight n (laserRec 0x0605 n pwr w s).2
    (modLaser n (fun x => { x with st := 5, outPwr := pwr }) (laserRec 0x0605 n pwr w s).1))
  rw [noLight_eq] at hs
  rw [getLaser, served_lasers hs, h2, ← getLaser, getLaser_modLaser]
  exact ⟨rfl, rfl, fun l hl => (served_st hs l).trans (h1 l hl)⟩

theorem linkFailed_lasers (l k : Nat) (s : State) : (linkFailed l k s).lasers = s.lasers := by
  have hc := served_chansLinkLost l (logRec (mkRec s .deferred 0x0601 (some l) none [(0, k), (1, (getLink s l).mode)]) s).1
  have hr := fun u => served_lasers (served_chooseRoot u)
  have hon : ∀ (n : Nat) (u : State), (laserOnCheck n u).lasers = u.lasers := fun n u =>
    state_ite (served_lasers (served_completes (land_completes (fun _ _ => finish_completes ..) ..))) rfl
  have h0 : (logRec (mkRec s .deferred 0x0601 (some l) none [(0, k), (1, (getLink s l).mode)]) s).1.lasers = s.lasers :=
    served_lasers (served_logRec ..)
  refine (hon ..).trans ((served_lasers (endLinkCmds_served ..)).trans ((served_lasers (served_noteCause ..)).trans ?_))
  exact (state_ite (g := State.lasers) (hr _) rfl).trans ((served_lasers hc).trans h0)

/-- A module that is removed is ABSENT (R245). -/
theorem laserGone_absent (n : Nat) (s : State) : (getLaser (laserGone n s) n).st = 0 := by
  unfold laserGone
  split
  · next h => exact h
  · extract_lets ls
    generalize (if ls = [] then (s, none) else laserRec 0x0606 n (getLaser s n).outPwr 0 s) = r
    obtain ⟨u, i⟩ := r
    have h := foldl_keeps (g := State.lasers) (f := fun s l => if (getLink s l).st = .failed then s
        else linkFailed l 6 (modLink l (fun x => { x with st := .retrain, mode := 0, retrains := satAdd 0xFFFF x.retrains 1 }) s))
      (fun u l => state_ite rfl (linkFailed_lasers ..)) ls (noLaserOn n i (modLaser n (fun x => { x with st := 0 }) u))
    refine (congrArg (fun l => (tget {} l n).st) h).trans ?_
    rw [served_lasers (noLaserOn_served ..), ← getLaser, getLaser_modLaser]

theorem startTraining_lasers (l m : Nat) (s : State) : (startTraining l m s).lasers = s.lasers := state_ite rfl rfl

theorem getLaser_announce (t s : State) (n : Nat) : getLaser (announce t s) n = getLaser s n := by rw [getLaser, announce_lasers, getLaser]

theorem laserLocked_online {n : Nat} {s : State} (h : (getLaser s n).st = 3) : (getLaser (laserLocked n s) n).st = 1 := by
  rw [laserLocked, if_neg (not_not.2 h)]
  dsimp only
  rw [getLaser, foldl_keeps (g := State.lasers) (fun u l => state_ite (startTraining_lasers ..) rfl), ← getLaser, getLaser_modLaser]

theorem noLaserOn_st (n : Nat) (i : Option Nat) (v : Laser → Laser) (s : State) :
    getLaser (noLaserOn n i (modLaser n v s)) n = v (getLaser s n) := by
  rw [getLaser, served_lasers (noLaserOn_served ..), ← getLaser, getLaser_modLaser]

/-- Nothing is announced where nothing changes. -/
theorem announce_self (s : State) : announce s s = s := by simp [announce]

/-- Settles O35: each event of a laser module leads to the state of its rule. -/
theorem laserModuleEvents : Obligations.LaserModuleEvents := by
  refine fun n w pwr s => ⟨fun hl => ⟨?_, ?_⟩, ?_, fun h => ?_, fun h => ?_, fun h => ?_, fun h => ?_, fun h => ⟨?_, ?_, ?_⟩⟩
  · refine ⟨_, congrArg (fun x => Host.Outcome.next (announce s x)) (if_pos hl), ?_⟩
    rw [getLaser_announce, announce_links, getLaser, logDeferred_lasers, ← getLaser, getLaser_modLaser, logDeferred_links]
    exact ⟨rfl, rfl, rfl⟩
  · refine ⟨_, congrArg (fun x => Host.Outcome.next (announce s x)) (if_pos hl), ?_⟩
    rw [getLaser_announce]
    obtain ⟨h1, h2, h3⟩ := laserFails_dark n w pwr s
    exact ⟨h1, h2, fun l hm => by rw [getLink_announce]; exact h3 l hm⟩
  · exact ⟨_, rfl, (congrArg Laser.st (getLaser_announce ..)).trans (laserGone_absent ..)⟩
  · refine ⟨_, rfl, (congrArg Laser.st (getLaser_announce ..)).trans ?_⟩
    rw [latchOpens, h]
    exact laserGone_absent ..
  · refine ⟨_, rfl, ?_⟩
    rw [getLaser_announce, latchOpens, h]
    obtain ⟨h1, -, h3⟩ := laserFails_dark n 0 (getLaser s n).outPwr s
    exact ⟨h1, fun l hm => by rw [getLink_announce]; exact h3 l hm⟩
  · refine ⟨_, rfl, ?_⟩
    rw [getLaser_announce, announce_links, latchOpens, h]
    refine ⟨congrArg Laser.st (noLaserOn_st ..), ?_⟩
    exact (congrArg State.links (workView_completes (land_completes (f := fun r s => finishRecR r .fault none 8 n 0 (getLaser s n).st s)
      (fun _ _ => finishRecR_completes ..) _ _)) :)
  · simp only [List.mem_cons, List.not_mem_nil, or_false, not_or] at h
    obtain ⟨h1, h2, h3⟩ := h
    have he : latchOpens n s = s := by
      unfold latchOpens
      split
      · next e => exact absurd e h1
      · next e => exact absurd e h2
      · next e => exact absurd e h3
      · rfl
    exact congrArg Host.Outcome.next ((congrArg (announce s) he).trans (announce_self s))
  · exact ⟨_, rfl, (congrArg Laser.st (getLaser_announce ..)).trans (laserLocked_online h)⟩
  · refine ⟨_, congrArg (fun x => Host.Outcome.next (announce s x)) (if_neg (not_not.2 h)), ?_⟩
    rw [getLaser_announce, noLaserOn_st]
    rfl
  · refine ⟨_, congrArg (fun x => Host.Outcome.next (announce s x)) (if_neg (not_not.2 h)), ?_⟩
    rw [getLaser_announce, noLaserOn_st]
    rfl

end Sys2Proof.Machine

end

section
/-! SUPPORT. Service commands of links and lasers (R244, R245). -/

-- One proof after another: many at a time need more memory than the check of the whole text has.
set_option Elab.async false

namespace Sys2Proof.Machine

theorem getLaser_taken (h : CmdHdr) (s : State) (n : Nat) : getLaser (taken h s) n = getLaser s n := by rw [getLaser, taken_lasers, getLaser]

theorem modLaser_links (n : Nat) (f : Laser → Laser) (s : State) : (modLaser n f s).links = s.links := rfl

theorem litLaser_congr {s t : State} (h : t.lasers = s.lasers) (n : Nat) : litLaser t n = litLaser s n := by
  rw [litLaser, litLaser, getLaser, getLaser, h]

theorem startTraining_lit {l m : Nat} {s : State} (h : litLaser s (l / 8) = true) :
    getLink (startTraining l m s) l = { getLink s l with st := .optical, mode := m, phase := 1 } := by
  rw [startTraining, if_pos h, getLink_modLink]

theorem command_params {h : CmdHdr} {c : CmdSpec} {f : CmdRef → State → State} {s : State} {q : Bool} (ha : Accepted h c s) (hq : q = true) :
    command h { c with params := q } f s = announce s (f (slotOf h c.op s) (taken h s)) :=
  command_accepted h { c with params := q } f s ha hq

theorem getLink_sendTrain (l k : Nat) (s : State) : getLink (sendTrain l s) k = getLink s k := rfl

/-- LINK_TRAIN resets the link and trains it (R244). -/
theorem retrained {l : Nat} {s : State} (hl : litLaser s (l / 8) = true) (m : State → Nat) :
    let u := noteCause 6 (linkReset l s)
    let v := if (getLink s l).parent then chooseRoot u else u
    (getLink (startTraining l (m v) v) l).st = .optical ∧ (getLink (startTraining l (m v) v) l).txSeq = 0 ∧
      (getLink (startTraining l (m v) v) l).rxSeq = 0 := by
  intro u v
  obtain ⟨-, h1, h2, -, h4, -⟩ := linkReset_served l s
  have hv : Served u v := pred_ite (P := Served u) (served_chooseRoot u) (served_refl u)
  have hp : (getLink v l).txSeq = (getLink u l).txSeq ∧ (getLink v l).rxSeq = (getLink u l).rxSeq :=
    Prod.mk.inj (congrArg (fun x => (x.1 l).2) hv.1)
  rw [startTraining_lit ((litLaser_congr ((served_lasers hv).trans h4) _).trans hl)]
  exact ⟨rfl, hp.1.trans h1, hp.2.trans h2⟩

/-- Settles O31: each service command begins what its rule says. -/
theorem linkAndLaserCommands : Obligations.LinkAndLaserCommands := by
  refine fun h s => ⟨fun l hl ha hlit hr => ?_, fun l hl ha hs => ?_, fun l hl ha hs hr => ?_, fun n hn ha hs => ?_, fun n hn ha hs => ?_⟩
  · have hlit' : litLaser (taken h s) (l / 8) = true := (litLaser_congr (taken_lasers h s) _).trans hlit
    obtain ⟨h1, h2, h3⟩ := retrained hlit' (bestMode · l)
    refine ⟨_, congrArg Host.Outcome.next ((command_inRange ha hl).trans (congrArg (announce s) ((if_neg ?_).trans (if_neg ?_)))), ?_⟩
    · rw [hlit']
      exact Bool.false_ne_true
    · rw [routesOver, taken_chans, ← routesOver, hr]
      exact Bool.false_ne_true
    · rw [getLink_announce, getLink_launch]
      exact ⟨h1, h2, h3, waiting_announce (waiting_launch ..)⟩
  · refine ⟨_, congrArg Host.Outcome.next ((command_inRange ha hl).trans (congrArg (announce s) (if_neg ?_))), ?_⟩
    · rw [getLink_taken, not_not]
      exact hs
    · rw [getLink_announce, getLink_launch, getLink_sendTrain, getLink_modLink]
      exact ⟨rfl, waiting_announce (waiting_launch ..)⟩
  · have hq : getLink (queueFrame l (.msg .quiesce) (taken h s)) l =
        { getLink s l with queue := (getLink s l).queue ++ [.msg .quiesce] } := by
      rw [queueFrame]
      dsimp only
      rw [getLink_taken, if_pos (.inl hs), getLink_modLink, getLink_taken]
    refine ⟨_, congrArg Host.Outcome.next ((command_params ha ?_).trans (congrArg (announce s) (if_neg ?_))), ?_⟩
    · rw [decide_eq_true hl, hs]
      rfl
    · rw [routesOver, taken_chans, ← routesOver, hr]
      exact Bool.false_ne_true
    · rw [getLink_announce, getLink_launch, getLink_modLink, hq]
      exact ⟨rfl, hs, rfl, waiting_announce (waiting_launch ..)⟩
  · obtain ⟨h1, h2, h3⟩ := foldl_unlight none (laserLinks n) (taken h s)
    rw [← noLight_eq] at h1 h3
    have hf : (laserLinks n).find? (fun l => !([LinkSt.down, .drained, .failed, .noLight].contains (getLink (taken h s) l).st)) = none :=
      List.find?_eq_none.2 fun l hm => by
        rw [getLink_taken, Bool.not_eq_true', Bool.not_eq_false, List.contains_iff_mem]
        exact hs l hm
    refine ⟨announce s (finishOk (slotOf h 0x92 s) 4 (modLaser n (fun x => { x with st := 4 }) (noLight n none (taken h s)))),
      congrArg Host.Outcome.next ((command_inRange ha hn).trans (congrArg (announce s) ?_)), ?_, ?_⟩
    · dsimp only
      rw [hf]
    · rw [getLaser_announce, finishOk, getLaser, finish_lasers, ← getLaser, getLaser_modLaser]
    · refine ⟨fun l hm => ?_, ?_⟩
      · rw [getLink_announce, finishOk, getLink, finish_links, modLaser_links, ← getLink]
        exact h1 l hm
      · have hm : ∀ u, Later u (modLaser n (fun x => { x with st := 4 }) u) := fun _ => later_of_eq rfl rfl
        rw [finishOk]
        exact replied_command (later_trans h3 (hm _)) (finish_replied ..)
  · refine ⟨_, congrArg Host.Outcome.next (command_inRange ha ⟨hn, hs⟩), ?_⟩
    rw [getLaser_announce]
    exact ⟨(congrArg Laser.st (getLaser_modLaser n (fun x => { x with st := 3 }) (taken h s)) :), waiting_announce (waiting_launch ..)⟩

end Sys2Proof.Machine

end

section
/-! SUPPORT. The management controller and the board (R319, R398, R406). -/

-- One proof after another: many at a time need more memory than the check of the whole text has.
set_option Elab.async false

namespace Sys2Proof.Machine

theorem sent_emit_of {o : Out} {s t : State} (h : t.out = s.out) : Sent o s (emit o t) := ⟨[], [], congrArg (o :: ·) h⟩

/-- Over a bus that is up a request runs; over one that is not it does nothing. -/
theorem bus_up {b : MctpBus} {s u : State} (h : busUp s b = true) : Host.Outcome.next (if busUp s b then u else s) =
    (Host.Outcome.next u : Host.Outcome State Fault Refusal) := congrArg Host.Outcome.next (if_pos h)
theorem bus_down {b : MctpBus} {s u : State} (h : busUp s b = false) : Host.Outcome.next (if busUp s b then u else s) =
    (Host.Outcome.next s : Host.Outcome State Fault Refusal) := congrArg Host.Outcome.next (if_neg (by rw [h]; exact Bool.false_ne_true))

/-- MCTP control messages 2 to 5 are answered (Table 15.8). -/
theorem mctpOp_answers {c e : Nat} (s : State) (h : 2 ≤ c ∧ c ≤ 5) : ∃ bs, Sent (.mctpAnswer c true bs) s (mctpOp c e s) := by
  rw [mctpOp]
  dsimp only
  rw [if_neg (by omega), if_neg (by omega)]
  split
  · exact ⟨_, sent_emit_of rfl⟩
  · split
    · exact ⟨_, sent_emit_of rfl⟩
    · split
      · exact ⟨_, sent_emit_of rfl⟩
      · exact ⟨_, sent_emit_of rfl⟩

/-- What a scan through the register of an instruction gives (Tables 21.4, 21.5). -/
theorem scanData_bits (j : Jtag) (s : State) : (scanData j s).2.out = s.out ∧ (scanData j s).2.board = s.board ∧
    (j = .idcode → (scanData j s).1 = (List.range 32).map (bitOf (idcode s))) ∧ (j = .bypass → (scanData j s).1 = [false]) ∧
    (j = .samplePreload ∨ j = .extest → (scanData j s).1.length = 40 ∧ (scanData j s).1[34]? = some (!s.pcie.perst)) := by
  have hpins : (chainPins.zipWith (fun p k => (pinLevel (takeFree s).2 p).getD (bitOf (takeFree s).1.toNat k))
      (List.range chainPins.length)).length = 40 ∧ (chainPins.zipWith (fun p k => (pinLevel (takeFree s).2 p).getD
      (bitOf (takeFree s).1.toNat k)) (List.range chainPins.length))[34]? = some (!s.pcie.perst) := ⟨rfl, rfl⟩
  cases j with
  | bypass => exact ⟨rfl, rfl, nofun, fun _ => rfl, nofun⟩
  | idcode => exact ⟨rfl, rfl, fun _ => rfl, nofun, nofun⟩
  | samplePreload => exact ⟨rfl, rfl, nofun, nofun, fun _ => hpins⟩
  | extest => exact ⟨rfl, rfl, nofun, nofun, fun _ => hpins⟩

theorem tapLoads_extest {s : State} (h : s.pcie.perst = false) : tapLoads s .extest = .bypass := by
  rw [tapLoads, h]
  rfl

theorem mgmtRead_data {off width : Nat} {bs : List Byte} {s u : State} (hp : s.pwr.st ≠ .aux) (h : bar0Read off width s = (some bs, u)) :
    Sent (.vdmData (BitVec.ofNat 64 (leNat bs))) s (mgmtRead off width s) := by
  have ho : u.out = s.out := by
    have hs : u = (bar0Read off width s).2 := by rw [h]
    rw [hs, bar0Read]
    split
    · rfl
    · split
      · rfl
      · exact state_ite (g := State.out) rfl rfl
  rw [mgmtRead, if_neg (by simp [hp]), h]
  exact sent_emit_of ho

/-- Settles O58: what arrives over a bus that is up is answered as its rule says, and the board's events as theirs. -/
theorem managementAndBoard : Obligations.ManagementAndBoard := by
  refine fun s => ⟨fun bus e hb h1 h2 => ⟨_, bus_up hb, ?_⟩, fun bus c e hb => ⟨fun h => ?_, fun h => ⟨_, bus_up hb, ?_⟩⟩, fun bus a b c on x img hb i hi => ?_,
    ⟨_, rfl, rfl, rfl⟩, fun bus hb => ⟨fun op loc tag => ⟨fun h => ⟨_, bus_up hb, ?_⟩, fun h => ⟨_, bus_up hb, ?_⟩⟩,
      fun off w bs u hp h => ⟨_, bus_up hb, mgmtRead_data hp h⟩, ⟨_, bus_up hb, sent_emit_of rfl⟩, ⟨_, bus_up hb, sent_emit_of rfl⟩,
      fun p hp => ⟨_, bus_up hb, ?_⟩, fun v => ⟨_, bus_up hb, rfl⟩, fun on => bus_up hb⟩, rfl, fun i => ?_⟩
  · rw [mctpOp]
    dsimp only
    rw [if_neg (by omega), if_pos rfl, if_neg (by omega)]
    exact ⟨rfl, sent_emit_of rfl⟩
  · obtain ⟨bs, hs⟩ := mctpOp_answers (e := e) s h
    exact ⟨_, bs, bus_up hb, hs⟩
  · rw [mctpOp, if_pos h]
    exact ⟨sent_emit_of rfl, rfl⟩
  · simp only [List.mem_cons, List.not_mem_nil, or_false] at hi
    rcases hi with rfl | rfl | rfl | rfl | rfl | rfl | rfl <;> exact bus_down hb
  · rw [mgmtCommand, if_neg (by omega)]
  · rw [mgmtCommand, if_pos h]
    exact ⟨rfl, sent_emit_of rfl⟩
  · rw [monitorOp, if_pos hp]
    exact sent_emit_of rfl
  · obtain ⟨h1, h2, h3, h4, h5⟩ := scanData_bits (tapLoads s i) { s with board := { s.board with jtag := tapLoads s i } }
    refine ⟨_, rfl, (congrArg Board.jtag h2 :), fun hp he => ?_, _, sent_emit_of h1, h3, h4, h5⟩
    rw [he] at h2 ⊢
    exact (congrArg Board.jtag h2 :).trans (tapLoads_extest hp)

end Sys2Proof.Machine

end

section
/-! SUPPORT. One tick of time (O2): a schedule fault of the cycle itself lets a partition run on that had come to its end. -/

-- One proof after another: many at a time need more memory than the check of the whole text has.
set_option Elab.async false

namespace Sys2Proof.Machine

/-- Partition 0 stands at the end of its job, and the FIFO of a cell of it holds five descriptors, one too many. -/
def overrunAtEnd : State := {
  clk := { run := .running }
  parts := [(0, { st := .running, endJcc := some 0 })]
  cells := [(0, { arrayFifo := List.replicate 5 { tag := 0, seq := 0, at_ := 0, body := .port { outbound := false, stream := 0, words := 0 } } })] }

/-- The overrun is a schedule fault, so the partition's count goes on to the boundary of that fault (R163). -/
theorem overrunAtEnd_ticks : (getPart (idle overrunAtEnd) 0).jcc = 1 := by decide

/-- Refutes O2: the partition of `overrunAtEnd` does not run before the tick, and its count moves on all the same. -/
theorem not_emptyQueueIsOneTick : ¬ Obligations.EmptyQueueIsOneTick := by
  unfold Obligations.EmptyQueueIsOneTick
  intro h
  obtain ⟨-, hrun⟩ := h overrunAtEnd rfl (by decide) (by decide) (by decide)
  obtain ⟨t, ht, -, -, -, -, hstay⟩ := hrun rfl (fun hp => absurd hp (by decide))
  have he : step overrunAtEnd = .next (idle overrunAtEnd) := rfl
  obtain rfl : idle overrunAtEnd = t := Host.Outcome.next.inj (he.symm.trans ht)
  exact absurd (overrunAtEnd_ticks.symm.trans (hstay 0 (by decide) (by decide))) (by decide)

end Sys2Proof.Machine

end

section
/-! SUPPORT. Monitors, the sync pulse, the wrap of JCC and the pause of a frequency change (R28, R38 to R44). -/

-- One proof after another: many at a time need more memory than the check of the whole text has.
set_option Elab.async false

namespace Sys2Proof.Machine

theorem logCorrected_clk (code : Nat) (u p : Option Nat) (ctx : List (Nat × Nat)) (s : State) : (logCorrected code u p ctx s).clk = s.clk := by
  obtain ⟨_, _, _, h⟩ := logCorrected_shape code u p ctx s
  rw [h]

theorem clockFatal_clk (code r : Nat) (ps : List Nat) (ctx : List (Nat × Nat)) (s : State) : (clockFatal code r ps ctx s).clk = s.clk :=
  state_ite (logDeferred_clk ..) (foldl_keeps (g := State.clk) (fun _ _ => jobFatal_clk ..) ps s)

/-- What the monitors find shows in no part of the clocks but their sticky bits, their runs of breaches and what is to be realigned. -/
theorem monitored_clk {γ : Type} {h : Clock → γ} (hh : ∀ (c : Clock) (j d f k : Bool) (r : Nat) (a : List (Nat × Nat)) (b : Tbl Nat),
    h { c with stsJitter := j, stsDuty := d, stsSkewFail := f, stsSkewCorr := k, stsRegion := r, realign := a, breach := b } = h c)
    (found : MonFind) (s : State) : h (monitored found s).clk = h s.clk := by
  have hb : ∀ code fs runs u, (breaches code fs runs u).clk = u.clk := fun code fs runs u =>
    foldl_keeps (g := State.clk) (fun v x => state_ite (clockFatal_clk ..) (logDeferred_clk ..)) fs u
  have hk : ∀ u x, h (skewFound u x).clk = h u.clk := fun u x =>
    state_ite (g := fun v : State => h v.clk) ((congrArg h (clockFatal_clk ..)).trans (hh u.clk _ _ _ _ _ _ _))
      (state_ite (g := fun v : State => h v.clk) ((congrArg h (logCorrected_clk ..)).trans (hh u.clk _ _ _ _ _ _ _)) rfl)
  generalize ht : monitored found s = t
  unfold monitored at ht
  extract_lets j d runs s1 s2 s3 at ht
  have h1 : s1.clk = s.clk := (hb ..).trans (hb ..)
  have h2 : h s2.clk = h s1.clk := by
    dsimp only [s2]
    split
    · exact hh s1.clk _ _ _ _ _ _ _
    · rfl
  have h3 : h s3.clk = h s2.clk := by
    dsimp only [s3]
    split
    · exact hh s2.clk _ _ _ _ _ _ _
    · rfl
  rw [← ht, foldl_keeps (g := fun v : State => h v.clk) hk]
  exact (hh s3.clk s3.clk.stsJitter s3.clk.stsDuty s3.clk.stsSkewFail s3.clk.stsSkewCorr s3.clk.stsRegion s3.clk.realign runs).trans
    (h3.trans (h2.trans (congrArg h h1)))

theorem compareCopies_clk {γ : Type} {h : Clock → γ} (hh : ∀ (c : Clock) (p : Bool) (r : Nat) (t : Tbl Nat),
    h { c with stsSlip := p, stsRegion := r, copies := t } = h c) (s : State) : h (compareCopies s).clk = h s.clk := by
  have hs : ∀ u r, h (slipFound u r).clk = h u.clk := fun u r =>
    (congrArg h (state_ite (g := State.clk) (logDeferred_clk ..) (clockFatal_clk ..))).trans (hh u.clk _ _ u.clk.copies)
  exact (foldl_keeps (g := fun v : State => h v.clk) hs _ _).trans (hh s.clk s.clk.stsSlip s.clk.stsRegion _)

/-- The sync pulse captures the counts (R28). -/
theorem syncOp_captures {found : MonFind} {s : State} (hr : s.clk.run = .running) (ha : (advanceTo (nextPulse s) s).clk.run = .running) :
    (syncOp found s).clk.syncMcc = (advanceTo (nextPulse s) s).clk.mcc ∧ (syncOp found s).clk.syncGtc = (advanceTo (nextPulse s) s).clk.gtc ∧
      (syncOp found s).clk.pulse = some (syncOp found s).clk.syncMcc := by
  rw [syncOp, if_neg (not_not.2 hr)]
  dsimp only
  rw [if_neg (not_not.2 ha)]
  generalize advanceTo (nextPulse s) s = u
  have h := fun v => (compareCopies_clk (h := fun c => (c.syncMcc, c.syncGtc, c.pulse)) (fun _ _ _ _ => rfl) (monitored found v)).trans
    (monitored_clk (h := fun c => (c.syncMcc, c.syncGtc, c.pulse)) (fun _ _ _ _ _ _ _ _ => rfl) found v)
  simp only [Prod.mk.injEq] at h
  obtain ⟨h1, h2, h3⟩ := h { u with clk := { u.clk with
      breach := if u.clk.pulse.map (· + 4096) == some u.clk.mcc then u.clk.breach else []
      pulse := some u.clk.mcc, syncMcc := u.clk.mcc, syncGtc := u.clk.gtc, realign := []
      copies := moveCopies found.slips u.clk.copies } }
  exact ⟨h1, h2, h3.trans (congrArg some h1.symm)⟩

theorem moduleFatal_clk (code : Nat) (u : Option Nat) (ctx : List (Nat × Nat)) (s : State) : (moduleFatal code u ctx s).clk = s.clk := by
  rw [moduleFatal, moduleFatalOf]
  refine state_ite (g := State.clk) (writeRec_clk ..) ?_
  refine (foldl_keeps (g := State.clk) ?_ _ _).trans (writeRec_clk ..)
  exact fun _ _ => rfl

/-- The clocks but for the state of fabric time. -/
def lockView (s : State) : Clock := { s.clk with timeState := 0 }

theorem linkReset_lock (l : Nat) (s : State) : lockView (linkReset l s) = lockView s := (served_run (served_chansLinkLost l s) :)

/-- A PLL that loses lock is noted (R39). -/
theorem unlockOp_noted {r : Nat} {s : State} (h : regionRuns s r = true) :
    (unlockOp r s).clk.stsUnlock = true ∧ (unlockOp r s).clk.stsRegion = r := by
  have hl : ∀ i u (l : Nat), lockView (if (getLink u l).st = .down then u else endLinkCmds l 0 i (linkReset l u)) = lockView u := fun i u l =>
    state_ite (g := lockView) rfl ((served_run (endLinkCmds_served ..)).trans (linkReset_lock ..))
  have hc : lockView (unlockOp r s) = { s.clk with stsUnlock := true, stsRegion := r, timeState := 0 } := by
    have he : unlockOp r s = _ := if_neg (by rw [h]; exact Bool.false_ne_true)
    rw [he]
    refine state_ite (g := lockView) ?_ (congrArg (fun c : Clock => { c with timeState := 0 }) (clockFatal_clk ..))
    exact (foldl_keeps (g := lockView) (hl _) _ _).trans (congrArg (fun c : Clock => { c with timeState := 0 }) (moduleFatal_clk ..))
  exact ⟨(congrArg Clock.stsUnlock hc :), (congrArg Clock.stsRegion hc :)⟩

theorem tickOn_level (d : Nat) (s : State) : (tickOn d s).clk.curLevel = s.clk.curLevel := by
  have hf : ∀ p f s, (schedFault p f s).clk = s.clk := fun _ _ _ => rfl
  have hs := (settleRows_keeps (g := State.clk) hf (fun _ _ _ => rfl) (settleCells (tickAll d s))).trans
    (settleCells_keeps (g := State.clk) hf (fun _ _ _ => rfl) (tickAll d s))
  have hp : (passPulses d s.fab s.clk).curLevel = s.clk.curLevel := by
    rw [passPulses]
    split <;> rfl
  rw [tickOn, hs, tickAll, passSamples]
  split
  · exact hp
  · exact hp

theorem closeCells_clk (s : State) : (closeCells s).clk = s.clk := closeCells_keeps (g := State.clk) (fun _ _ _ => rfl) (fun _ _ _ => rfl) s

theorem advanceCycles_level (d : Nat) (s : State) : (advanceCycles d s).clk.curLevel = s.clk.curLevel := by
  have hs : ∀ d u, (decideHolds (tickOn d u)).clk.curLevel = u.clk.curLevel := fun d u => by rw [decideHolds_clk, tickOn_level]
  have hc := congrArg Clock.curLevel (closeCells_clk s)
  rw [advanceCycles]
  split
  · rfl
  · dsimp only
    generalize 64 - (closeCells s).clk.mcc % 64 = k
    split
    · rw [hs, hc]
    · split
      · rw [hs, hs, hc]
      · rw [hs, hs, hs, hc]

/-- A frequency change stops the clocks at its boundary (R42). -/
theorem runToPause_stops {s : State} (h : s.clk.mcc ≤ s.clk.freqAt) (hb : s.clk.freqAt < 2 ^ 64) :
    (runToPause s).clk.run = .pause ∧ (runToPause s).clk.mcc = s.clk.freqAt ∧ (runToPause s).clk.curLevel = s.clk.curLevel := by
  refine ⟨rfl, ?_, ?_⟩
  · refine Eq.trans (b := (if s.clk.freqAt - s.clk.mcc = 0 then s else tickOn 1 (closeCells (advanceCycles (s.clk.freqAt - s.clk.mcc - 1) s))).clk.mcc)
      rfl ?_
    split
    · omega
    · rw [tickOn_mcc, closeCells_clk]
      obtain h1 | h1 := Nat.eq_zero_or_pos (s.clk.freqAt - s.clk.mcc - 1)
      · rw [h1, advanceCycles, if_pos rfl, Nat.mod_eq_of_lt] <;> omega
      · rw [advanceCycles_mcc _ _ (by omega), Nat.mod_add_mod, Nat.mod_eq_of_lt] <;> omega
  · refine state_ite (g := fun t => t.clk.curLevel) rfl ((tickOn_level ..).trans ?_)
    exact (congrArg Clock.curLevel (closeCells_clk _)).trans (advanceCycles_level ..)

theorem modPart_part {γ : Type} {h : Part → γ} {f : Part → Part} (hf : ∀ q, h (f q) = h q) (p i : Nat) (s : State) :
    h (getPart (modPart i f s) p) = h (getPart s p) := by
  rw [getPart_modPart_cases]
  split
  · exact hf _
  · rfl

/-- A decision about a hold shows in no `h` that sees nothing of holds. -/
theorem holdDecide_part {γ : Type} {h : Part → γ} (hh : ∀ (q : Part) (held : Bool) (units now band last : Nat) (out : Bool) (d : Option Nat),
    h { q with held := held, holdUnits := units, holdNow := now, holdBand := band, holdOut := out, holdLast := last, decided := d } = h q)
    (p i : Nat) (s : State) : h (getPart (holdDecide i s) p) = h (getPart s p) := by
  have hd := modPart_part (f := fun q => { q with decided := some s.clk.mcc })
    (fun q => hh q q.held q.holdUnits q.holdNow q.holdBand q.holdLast q.holdOut _) p i s
  refine state_ite (g := fun t => h (getPart t p)) rfl (state_ite (g := fun t => h (getPart t p)) ((modPart_part (f := endHold) (fun q => ?_) p i _).trans hd)
    ((holdUnit_part (fun q a b c d e => hh q a b c d q.holdLast e q.decided) p i _ _).trans hd))
  exact iteInduction (motive := fun x : Part => h x = h q) (fun _ => hh q false q.holdUnits 0 q.holdBand q.holdNow q.holdOut q.decided) fun _ => rfl

theorem getPart_tickAll (d p : Nat) (s : State) (hp : p < 4) :
    getPart (tickAll d s) p = Part.tick s.clk.mcc d (getPart s p) := by
  have hl : ∀ g live u, (passSamples g live u).parts = u.parts := fun _ _ _ => state_ite rfl rfl
  rw [tickAll, getPart, hl, tget_foldl_tmod _ _ (by decide), if_pos (by simp; omega), getPart]

/-- What the runs of the array and the vector engines do in a span shows in no `h` that sees no schedule faults. -/
theorem tickOn_part {γ : Type} {h : Part → γ} (hh : ∀ (q : Part) (n f : Nat) (b : List Nat) (l : List (SFault × Nat)),
    h { q with sfCount := n, sfFirst := f, sfBands := b, sfaults := l } = h q) {p : Nat} (hp : p < 4) (d : Nat) (s : State) :
    h (getPart (tickOn d (closeCells s)) p) = h (Part.tick s.clk.mcc d (getPart (closeCells s) p)) ∧
      h (getPart (closeCells s) p) = h (getPart s p) := by
  have hf : ∀ i f u, h (getPart (schedFault i f u) p) = h (getPart u p) := fun i f u => modPart_part (fun q => hh q _ _ _ _) p i _
  have hb : ∀ (u : State) (bands : Tbl Band) (cells : Tbl Cell), h (getPart { u with bands := bands, cells := cells } p) = h (getPart u p) :=
    fun _ _ _ => rfl
  rw [← closeCells_clk s, ← getPart_tickAll d p _ hp]
  exact ⟨(settleRows_keeps (g := fun u => h (getPart u p)) hf hb _).trans (settleCells_keeps (g := fun u => h (getPart u p)) hf hb _),
    closeCells_keeps (g := fun u => h (getPart u p)) hf hb s⟩

/-- A count that comes to its end goes on from 0, and this is noted (R45). -/
theorem tick_wraps {q : Part} {m d : Nat} (hs : q.st = .running) (hh : q.held = false) (he : q.endJcc = none) (hd : d = 2 ^ 48 - q.jcc)
    (h64 : d ≤ 64) (hj : q.jcc < 2 ^ 48) : (Part.tick m d q).jcc = 0 ∧ (Part.tick m d q).wrap = true := by
  have hr : ∀ n, q.runFor n = min n (64 - q.jcc % 64) := fun n => by rw [Part.runFor, he]
  have hi : q.islandRuns = true := by
    rw [Part.islandRuns, hs, hh, hr]
    simp only [decide_true, Bool.not_false, Bool.true_and, beq_iff_eq]
    omega
  rw [Part.tick, if_pos hi, hr]
  have hsum : q.jcc + min d (64 - q.jcc % 64) = 2 ^ 48 := by omega
  rw [hsum]
  exact ⟨rfl, Bool.or_true _⟩

/-- JCC goes on from 0 after its last value (R45). -/
theorem jccWrapOp_wraps {p : Nat} {s : State} (hp : p < 4) (hr : s.clk.run = .running) (hc : s.clk.pendingChange = false)
    (hi : (getPart s p).islandRuns = true) (hj : (getPart s p).jcc < 2 ^ 48) (he : (getPart s p).endJcc = none)
    (hk : 2 ^ 48 - (getPart s p).jcc ≤ 64 - s.clk.mcc % 64) :
    (getPart (jccWrapOp p s) p).jcc = 0 ∧ (getPart (jccWrapOp p s) p).wrap = true := by
  obtain ⟨d, hd⟩ : ∃ d, d = 2 ^ 48 - (getPart s p).jcc := ⟨_, rfl⟩
  have hadv : jccWrapOp p s = decideHolds (tickOn d (closeCells s)) := by
    rw [jccWrapOp, hi, hr, if_pos (show (true && ClkRun.running == ClkRun.running) = true from rfl), ← hd, advanceTo, if_pos ⟨hr, by omega⟩, Nat.add_sub_cancel_left, runCycles, pauseWithin, hc, Bool.false_and,
      if_neg Bool.false_ne_true, advanceCycles, if_neg (by omega)]
    dsimp only
    rw [closeCells_clk, if_pos (by omega)]
  have hdec : ∀ u, ((getPart (decideHolds u) p).jcc, (getPart (decideHolds u) p).wrap) = ((getPart u p).jcc, (getPart u p).wrap) := fun u =>
    state_ite (g := fun t => ((getPart t p).jcc, (getPart t p).wrap)) (foldl_keeps (g := fun t => ((getPart t p).jcc, (getPart t p).wrap))
      (fun v i => holdDecide_part (h := fun q => (q.jcc, q.wrap)) (fun _ _ _ _ _ _ _ _ => rfl) p i v) _ _) rfl
  obtain ⟨h1, -⟩ := tickOn_part (h := fun q => (q.jcc, q.wrap)) (fun _ _ _ _ _ => rfl) hp d s
  obtain ⟨-, h2⟩ := tickOn_part (h := fun q => (q.st, q.held, q.endJcc, q.jcc)) (fun _ _ _ _ _ => rfl) hp d s
  simp only [Prod.mk.injEq] at h2
  obtain ⟨e1, e2, e3, e4⟩ := h2
  rw [Part.islandRuns, Bool.and_eq_true, Bool.and_eq_true, decide_eq_true_iff, Bool.not_eq_true'] at hi
  obtain ⟨⟨hst, hheld⟩, -⟩ := hi
  obtain ⟨w1, w2⟩ := tick_wraps (m := s.clk.mcc) (d := d) (e1.trans hst) (e2.trans hheld) (e3.trans he) (by rw [e4, hd]) (by omega) (by rw [e4]; exact hj)
  obtain ⟨x1, x2⟩ := Prod.mk.inj ((hdec (tickOn d (closeCells s))).trans h1)
  rw [hadv]
  exact ⟨x1.trans w1, x2.trans w2⟩

/-- After a frequency change the clocks run at the new level, and the counts of the partitions stand where they stood (R43). -/
theorem freqRestartOp_runs {s : State} (hr : s.clk.run = .pause) (hq : s.clk.queuedTgt = none) :
    (freqRestartOp s).clk.run = .running ∧ (freqRestartOp s).clk.curLevel = s.clk.tgtLevel ∧
      (freqRestartOp s).clk.pendingChange = false ∧ (freqRestartOp s).clk.pauses = satAdd 0xFFFF s.clk.pauses 1 ∧
      (freqRestartOp s).clk.mcc = s.clk.mcc ∧ (freqRestartOp s).clk.gtc ≤ max s.clk.gtc (s.clk.pauseGtc + 40000) ∧
      ∀ p, (getPart (freqRestartOp s) p).jcc = (getPart s p).jcc ∧ (getPart (freqRestartOp s) p).st = (getPart s p).st := by
  have hd : ∀ u, (freqDone u).clk = u.clk ∧ (freqDone u).parts = u.parts := fun u =>
    pred_ite (P := fun v => v.clk = u.clk ∧ v.parts = u.parts) ⟨rfl, rfl⟩
      (have h := completes_fields (land_completes (f := fun r s => finishOk r s.clk.curLevel s) (fun _ _ => finish_completes ..)
        (fun k => k == .setFreq) u)
       ⟨h.1, h.2.1⟩)
  have hf : ∀ u, ([0, 1, 2, 3].foldl (fun s p => holdDecide p s) u).clk = u.clk ∧ ∀ p, ((getPart ([0, 1, 2, 3].foldl (fun s p => holdDecide p s) u) p).jcc,
      (getPart ([0, 1, 2, 3].foldl (fun s p => holdDecide p s) u) p).st) = ((getPart u p).jcc, (getPart u p).st) := fun u =>
    ⟨foldl_keeps (g := State.clk) (fun v i => holdDecide_clk i v) _ _,
      fun p => foldl_keeps (g := fun t => ((getPart t p).jcc, (getPart t p).st))
        (fun v i => holdDecide_part (h := fun q => (q.jcc, q.st)) (fun _ _ _ _ _ _ _ _ => rfl) p i v) _ _⟩
  have hs : ∀ g live u, (passSamples g live u).clk = u.clk ∧ (passSamples g live u).parts = u.parts := fun g live u =>
    pred_ite (P := fun v => v.clk = u.clk ∧ v.parts = u.parts) ⟨rfl, rfl⟩ ⟨rfl, rfl⟩
  have he : freqRestartOp s = _ := if_neg (not_not.2 hr)
  rw [he]
  dsimp only [takeFree]
  have ha : ∀ f u, startArith f (relock u) = { relock u with clk := { f (relock u).clk with run := .running } } := fun _ _ => if_pos rfl
  rw [hq, ha]
  dsimp only
  generalize hu : passSamples _ _ _ = u
  have h1 := (hs _ _ _).1.symm.trans (congrArg State.clk hu)
  have h2 := (hs _ _ _).2.symm.trans (congrArg State.parts hu)
  obtain ⟨hc, hp⟩ := hf (freqDone u)
  rw [hc, (hd u).1, ← h1]
  refine ⟨rfl, rfl, rfl, rfl, rfl, ?_, fun p => ?_⟩
  · have hv : (Config.freeValue s.free).toNat % 40001 ≤ 40000 := Nat.lt_succ_iff.1 (Nat.mod_lt _ (by decide))
    refine (Nat.mod_le _ _).trans (max_le_max_left _ ?_)
    exact Nat.add_le_add_left hv _
  · obtain ⟨e1, e2⟩ := Prod.mk.inj (hp p)
    rw [e1, e2, getPart, (hd u).2, ← h2]
    exact ⟨rfl, rfl⟩

/-- Settles O42: R28, R39 and R41 to R45, event by event. -/
theorem clockEvents : Obligations.ClockEvents := by
  unfold Obligations.ClockEvents
  intro s
  refine ⟨fun f hr ha => ⟨_, rfl, syncOp_captures hr ha⟩, fun r h => ⟨_, rfl, by rw [announce_clk]; exact unlockOp_noted h⟩,
    fun p hr hc hi hj he hk => ⟨_, rfl, jccWrapOp_wraps p.isLt hr hc hi hj he hk⟩, fun hp hr h hb => ⟨_, rfl, ?_⟩,
    fun hr hq hg => ⟨_, rfl, ?_⟩⟩
  · rw [freqPauseOp, if_pos (beq_iff_eq.2 hr), if_pos (by rw [pauseWithin, hp]; exact decide_eq_true ⟨h, by omega⟩)]
    exact runToPause_stops h hb
  · obtain ⟨h1, h2, h3, h4, h5, h6, h7⟩ := freqRestartOp_runs hr hq
    rw [announce_clk]
    simp only [getPart_announce]
    exact ⟨h1, h2, h3, h4, h5, h6, fun p => h7 p⟩

end Sys2Proof.Machine

end

section
/-! SUPPORT. Requests for holds and their decisions (R46, R47). -/

-- One proof after another: many at a time need more memory than the check of the whole text has.
set_option Elab.async false

namespace Sys2Proof.Machine

/-- What a decision about a hold looks at, and the units that the partition has been held. -/
def holdView (q : Part) : PState × Option Nat × List (Nat × Bool × Bool) × Option Nat × Option Nat × Nat :=
  (q.st, q.reqFor, q.reqs, q.decided, q.pauseAt, q.holdUnits % 2 ^ 64)

theorem tick_holdView (m : Nat) (q : Part) : holdView (Part.tick m 1 q) = holdView q := by
  rw [Part.tick]
  refine iteInduction (motive := fun x : Part => holdView x = holdView q) (fun _ => rfl)
    fun _ => iteInduction (motive := fun x : Part => holdView x = holdView q) (fun _ => ?_) fun _ => rfl
  rw [holdView, Part.moreUnits, Nat.add_sub_cancel, Nat.sub_self, Nat.add_zero, Nat.mod_mod, holdView]

theorem holdDecide_other {p i : Nat} (h : i ≠ p) (s : State) : getPart (holdDecide i s) p = getPart s p := by
  have hm : ∀ f u, getPart (modPart i f u) p = getPart u p := fun f u => tget_tset_other _ _ _ h
  have hu : ∀ rs u, getPart (holdUnit i rs u) p = getPart u p := fun rs u => tget_tset_other _ _ _ h
  exact state_ite (g := fun t => getPart t p) rfl (state_ite (g := fun t => getPart t p) ((hm ..).trans (hm ..)) ((hu ..).trans (hm ..)))

/-- At a boundary each partition is decided for itself (R46). -/
theorem decideHolds_part {p : Nat} (hp : p < 4) {s : State} (h : s.clk.mcc % 64 = 0) :
    ∃ u, getPart u p = getPart s p ∧ u.clk = s.clk ∧ getPart (decideHolds s) p = getPart (holdDecide p u) p := by
  have hn : ([0, 1, 2, 3] : List Nat).Nodup := by decide
  obtain ⟨l1, l2, hl⟩ := List.append_of_mem (show p ∈ [0, 1, 2, 3] by simp; omega)
  rw [hl, List.nodup_middle, List.nodup_cons, List.mem_append, not_or] at hn
  obtain ⟨⟨h1, h2⟩, -⟩ := hn
  have hk : ∀ (l : List Nat) u, p ∉ l → getPart (l.foldl (fun s p => holdDecide p s) u) p = getPart u p := fun l => by
    induction l with
    | nil => exact fun _ _ => rfl
    | cons i r ih =>
      intro u hm
      rw [List.mem_cons, not_or] at hm
      exact (ih _ hm.2).trans (holdDecide_other (Ne.symm hm.1) u)
  refine ⟨l1.foldl (fun s p => holdDecide p s) s, hk _ _ h1, foldl_keeps (g := State.clk) (fun v i => holdDecide_clk i v) _ _, ?_⟩
  rw [decideHolds, if_pos h, hl, List.foldl_append, List.foldl_cons]
  exact hk _ _ h2

/-- Whether a cast is due rests on the clocks and the partition, and on nothing of its holds. -/
theorem castDue_clk {s t : State} (h : s.clk = t.clk) (q : Part) : castDue s q = castDue t q := by
  have he : ∀ v, castDue v q = castDue { clk := v.clk } q := fun _ => rfl
  rw [he s, he t, h]

theorem holdUnit_holds (p : Nat) (rs : List (Nat × Bool × Bool)) (s : State) : (getPart (holdUnit p rs s) p).held = true ∧
    (getPart (holdUnit p rs s) p).holdUnits = ((getPart s p).holdUnits + 1) % 2 ^ 64 := by
  rw [holdUnit, getPart_modPart]
  exact iteInduction (motive := fun x : Part => x.held = true ∧ x.holdUnits = ((getPart s p).holdUnits + 1) % 2 ^ 64) (fun h => ⟨h, rfl⟩)
    fun _ => ⟨rfl, rfl⟩

/-- With nothing in the way a partition is held at a boundary, unless its window was found covered (R46, R47). -/
theorem holdDecide_decides {p : Nat} {s : State} (hb : s.clk.mcc % 64 = 0) (hr : s.clk.run = .running) (hs : (getPart s p).st = .running)
    (hd : (getPart s p).decided ≠ some s.clk.mcc) (hp : (getPart s p).pauseAt ≠ some s.clk.mcc) (hc : castDue s (getPart s p) = none)
    (he : (getPart s p).endJcc ≠ some (getPart s p).jcc) :
    (windowCovered (getPart s p) s.clk.mcc = false → (getPart (holdDecide p s) p).held = true ∧
        (getPart (holdDecide p s) p).holdUnits = ((getPart s p).holdUnits + 1) % 2 ^ 64) ∧
      (windowCovered (getPart s p) s.clk.mcc = true → (getPart (holdDecide p s) p).held = false ∧
        (getPart (holdDecide p s) p).holdUnits = (getPart s p).holdUnits) := by
  have hn : holdDecide p s = _ := if_neg (by rw [hc]; simp [hb, hr, hs, hd, hp, he])
  rw [hn]
  refine ⟨fun hw => ?_, fun hw => ?_⟩
  · rw [if_neg (by rw [hw]; exact Bool.false_ne_true)]
    obtain ⟨h1, h2⟩ := holdUnit_holds p (reqsAt (getPart s p) s.clk.mcc) (modPart p (fun q => { q with decided := some s.clk.mcc }) s)
    rw [getPart_modPart] at h2
    exact ⟨h1, h2⟩
  · rw [if_pos hw, getPart_modPart, getPart_modPart, endHold]
    exact iteInduction (motive := fun x : Part => x.held = false ∧ x.holdUnits = _) (fun _ => ⟨rfl, rfl⟩)
      fun h => ⟨Bool.eq_false_iff.2 h, rfl⟩

/-- The cycle before a boundary leads to its decision (R28, R46). -/
theorem advanceTo_next {s : State} {t : Nat} (hm : s.clk.mcc = t) (hr : s.clk.run = .running) (h : (advanceTo (t + 1) s).clk.run = .running) :
    advanceTo (t + 1) s = decideHolds (tickOn 1 (closeCells s)) := by
  have ha : advanceTo (t + 1) s = runCycles 1 s := by rw [advanceTo, if_pos ⟨hr, by omega⟩, hm, Nat.add_sub_cancel_left]
  have hk : 1 ≤ 64 - (closeCells s).clk.mcc % 64 := by omega
  rw [ha, runCycles] at h ⊢
  split
  · next hp =>
    rw [if_pos hp] at h
    exact nomatch (show ClkRun.pause = .running from h)
  · rw [advanceCycles, if_neg (by decide)]
    exact if_pos hk

/-- The requests for a boundary are those of the bound ports of the partition that lack words or space (R46). -/
theorem holdRequestOp_asks {t p : Nat} (ws : List PortWindow) {s : State} (hm : (advanceTo t s).clk.mcc = t)
    (hr : (advanceTo t s).clk.run = .running) (hs : (getPart (advanceTo t s) p).st = .running) (h64 : (t + 40) % 64 = 0) :
    (getPart (holdRequestOp t p ws s) p).reqFor = some (t + 40) ∧ (getPart (holdRequestOp t p ws s) p).reqs =
      (ws.map (portAsks (advanceTo t s))).filter (fun x => partOf s x.1 = p && (getBand (advanceTo t s) x.1).bound && (x.2.1 || x.2.2)) := by
  have hp : ∀ b, partOf (advanceTo t s) b = partOf s b := fun b =>
    congrArg (fun m : List Nat => m.getD (groupOf b) 4) (congrArg State.partMap (advanceTo_rest t s) :)
  have ho : holdRequestOp t p ws s = modPart p (fun q => { q with
      reqFor := some (t + 40), reqs := (ws.map (portAsks (advanceTo t s))).filter (fun x =>
        partOf (advanceTo t s) x.1 = p && (getBand (advanceTo t s) x.1).bound && (x.2.1 || x.2.2)) }) (advanceTo t s) :=
    (if_neg (by simp [hm, hr, h64])).trans (if_pos (.inl hs))
  rw [ho, getPart_modPart]
  simp only [hp, true_and]

/-- The decision of a boundary, made in the cycle before it. -/
theorem holdDecisionOp_decides {t p : Nat} (hp4 : p < 4) {s : State} (hm : (advanceTo t s).clk.mcc = t)
    (hr : (advanceTo t s).clk.run = .running) (hs : (getPart (advanceTo t s) p).st = .running)
    (hn : (advanceTo (t + 1) (advanceTo t s)).clk.run = .running) (hd : (getPart (advanceTo t s) p).decided ≠ some (t + 1))
    (hlt : t + 1 < 2 ^ 64) (h64 : (t + 1) % 64 = 0) (hp : (getPart (advanceTo t s) p).pauseAt = none)
    (hc : castDue (advanceTo (t + 1) (advanceTo t s)) (getPart (advanceTo (t + 1) (advanceTo t s)) p) = none)
    (he : (getPart (advanceTo (t + 1) (advanceTo t s)) p).endJcc ≠ some (getPart (advanceTo (t + 1) (advanceTo t s)) p).jcc) :
    (windowCovered (getPart (advanceTo t s) p) (t + 1) = false → (getPart (holdDecisionOp t p s) p).held = true ∧
        (getPart (holdDecisionOp t p s) p).holdUnits = ((getPart (advanceTo t s) p).holdUnits + 1) % 2 ^ 64) ∧
      (windowCovered (getPart (advanceTo t s) p) (t + 1) = true → (getPart (holdDecisionOp t p s) p).held = false ∧
        (getPart (holdDecisionOp t p s) p).holdUnits % 2 ^ 64 = (getPart (advanceTo t s) p).holdUnits % 2 ^ 64) := by
  have ho : holdDecisionOp t p s = holdDecide p (advanceTo (t + 1) (advanceTo t s)) := if_neg (by simp [hm, h64, hs])
  rw [ho]
  generalize advanceTo t s = u at *
  have ha := advanceTo_next hm hr hn
  rw [ha] at hn hc he ⊢
  obtain ⟨w, hw⟩ : ∃ w, w = tickOn 1 (closeCells u) := ⟨_, rfl⟩
  rw [← hw] at hn hc he ⊢
  have hmw : w.clk.mcc = t + 1 := by rw [hw, tickOn_mcc, closeCells_clk, hm, Nat.mod_eq_of_lt hlt]
  have hv : holdView (getPart w p) = holdView (getPart u p) := by
    obtain ⟨h1, h2⟩ := tickOn_part (h := holdView) (fun _ _ _ _ _ => rfl) hp4 1 u
    rw [hw, h1, tick_holdView, h2]
  obtain ⟨x, hx, hxc, hxd⟩ := decideHolds_part hp4 (s := w) (by rw [hmw, h64])
  rw [← hx] at hv
  rw [decideHolds_clk, ← hxc] at hn
  rw [← hxc] at hmw
  have hk : ∀ {γ : Type} {h : Part → γ}, (∀ (q : Part) (held : Bool) (units now band last : Nat) (out : Bool) (d : Option Nat),
      h { q with held := held, holdUnits := units, holdNow := now, holdBand := band, holdOut := out, holdLast := last, decided := d } = h q) →
      h (getPart (decideHolds w) p) = h (getPart x p) := fun hh => by rw [hxd, holdDecide_part hh]
  rw [castDue_clk (decideHolds_clk w), ← castDue_clk hxc, hk (h := castDue x) (fun _ _ _ _ _ _ _ _ => rfl)] at hc
  have hj := hk (h := fun q => (q.endJcc, q.jcc)) (fun _ _ _ _ _ _ _ _ => rfl)
  obtain ⟨he1, he2⟩ := Prod.mk.inj hj
  rw [he1, he2] at he
  simp only [holdView, Prod.mk.injEq] at hv
  obtain ⟨v1, v2, v3, v4, v5, v6⟩ := hv
  have hcov : windowCovered (getPart x p) (t + 1) = windowCovered (getPart u p) (t + 1) := by rw [windowCovered, v2, v3, windowCovered]
  obtain ⟨d1, d2⟩ := holdDecide_decides (p := p) (s := x) (by rw [hmw, h64]) hn (v1.trans hs) (by rw [hmw, v4]; exact hd)
    (by rw [v5, hp]; exact nofun) hc he
  rw [hmw, hcov] at d1 d2
  have hdec : (getPart (decideHolds w) p).decided = some (decideHolds w).clk.mcc := by
    have hn' : holdDecide p x = _ := if_neg (by rw [hmw, hc, hn, v1, v4, v5, hp, hs]; simp [h64, hd, he])
    rw [hxd, decideHolds_clk, ← hxc, hn']
    refine state_ite (g := fun t => (getPart t p).decided) ?_ ?_
    · rw [getPart_modPart, getPart_modPart]
      exact iteInduction (motive := fun y : Part => y.decided = _) (fun _ => rfl) fun _ => rfl
    · rw [holdUnit_part (h := Part.decided) (fun _ _ _ _ _ _ => rfl), getPart_modPart]
  have hid : holdDecide p (decideHolds w) = decideHolds w := if_pos (.inr (.inr (.inr (.inl hdec))))
  rw [hid, hxd]
  refine ⟨fun hw => ⟨(d1 hw).1, ?_⟩, fun hw => ⟨(d2 hw).1, ?_⟩⟩
  · rw [(d1 hw).2]
    omega
  · rw [(d2 hw).2, v6]

/-- Settles O43: the requests are the filtered list, and the decision falls in the step of time to the boundary. -/
theorem holdsAtBoundaries : Obligations.HoldsAtBoundaries := by
  unfold Obligations.HoldsAtBoundaries
  intro t p s hm hr hs
  refine ⟨fun ws h64 => ⟨_, rfl, ?_⟩, fun hn hd hlt h64 hp hc he => ?_⟩
  · obtain ⟨h1, h2⟩ := holdRequestOp_asks ws hm hr hs h64
    rw [h2]
    have hin : ∀ w ∈ ws, partOf s w.band = p → (getBand (advanceTo t s) w.band).bound = true →
        ((portAsks (advanceTo t s) w).2.1 || (portAsks (advanceTo t s) w).2.2) = true → portAsks (advanceTo t s) w ∈
          (ws.map (portAsks (advanceTo t s))).filter (fun x => partOf s x.1 = p && (getBand (advanceTo t s) x.1).bound && (x.2.1 || x.2.2)) :=
      fun w hw hq hb ha => List.mem_filter.2 ⟨List.mem_map_of_mem hw, Bool.and_eq_true_iff.2 ⟨Bool.and_eq_true_iff.2 ⟨decide_eq_true hq, hb⟩, ha⟩⟩
    refine ⟨h1, fun w hw hq hb ⟨k, hk, hl⟩ => ?_, fun w hw hq hb ⟨k, hk, hl⟩ => ?_, fun x hx => ?_⟩
    · have ha : (portAsks (advanceTo t s) w).2.1 = true := List.any_eq_true.2 ⟨k, hk, decide_eq_true hl⟩
      exact ⟨_, hin w hw hq hb (Bool.or_eq_true_iff.2 (.inl ha)), rfl, ha⟩
    · have ha : (portAsks (advanceTo t s) w).2.2 = true := List.any_eq_true.2 ⟨k, hk, decide_eq_true hl⟩
      exact ⟨_, hin w hw hq hb (Bool.or_eq_true_iff.2 (.inr ha)), rfl, ha⟩
    · obtain ⟨hx, hc⟩ := List.mem_filter.1 hx
      obtain ⟨w, hw, rfl⟩ := List.mem_map.1 hx
      obtain ⟨hc, ha⟩ := Bool.and_eq_true_iff.1 hc
      exact ⟨w, hw, rfl, of_decide_eq_true (Bool.and_eq_true_iff.1 hc).1, Bool.or_eq_true_iff.1 ha⟩
  · obtain ⟨h1, h2⟩ := holdDecisionOp_decides p.isLt hm hr hs hn hd hlt h64 hp hc he
    refine ⟨fun ho => ⟨_, rfl, h1 ?_⟩, fun hw => ⟨_, rfl, h2 hw⟩⟩
    obtain ho | ho := ho
    · rw [reqsAt] at ho
      rw [windowCovered]
      split at ho
      · rw [Bool.and_eq_false_iff]
        exact .inr (Bool.eq_false_iff.2 fun h => ho (List.isEmpty_iff.1 h))
      · exact absurd rfl ho
    · exact ho

end Sys2Proof.Machine

end

section
/-! SUPPORT. The hold-up bank and commits to flash (R335 to R338). -/

-- One proof after another: many at a time need more memory than the check of the whole text has.
set_option Elab.async false

namespace Sys2Proof.Machine

/-- What is known of the hold-up bank, and the commits that wait until more is. -/
def bankView (s : State) : Bool × Bool × Nat × Option Nat × List Commit :=
  (s.pwr.testing, s.pwr.valid, s.pwr.energy, s.pwr.testGtc, s.pwr.waiting)

theorem applyCommit_keeps (c : Commit) (s : State) : bankView (applyCommit c s) = bankView s ∧ (applyCommit c s).patina = s.patina ∧
    (applyCommit c s).pwr.deferred = s.pwr.deferred ∧ ∀ p, (applyCommit c { s with pwr := p }).flash = (applyCommit c s).flash := by
  cases c <;> exact ⟨rfl, rfl, rfl, fun _ => rfl⟩

/-- What a band's commits come to is noted in the band (R74). -/
def bandSettled (c : Commit) (s : State) : State :=
  match commitBand c with
  | some b => settlePersist b s
  | none => s

theorem bandSettled_keeps {γ : Type} {g : State → γ} (hg : ∀ (s : State) (t : Tbl Band), g { s with bands := t } = g s) (c : Commit) (s : State) :
    g (bandSettled c s) = g s := by
  rw [bandSettled]
  split
  · exact hg s _
  · rfl

theorem flashCommit_keeps (c : Commit) (s : State) :
    bankView (flashCommit c s).2 = bankView s ∧ (flashCommit c s).2.patina = s.patina := by
  rw [flashCommit]
  refine iteInduction (motive := fun x : Option Nat × State => bankView x.2 = bankView s ∧ x.2.patina = s.patina) (fun _ => ?_) fun _ => ?_
  · obtain ⟨h1, h2, -⟩ := applyCommit_keeps c { s with pwr := { s.pwr with deferred := s.pwr.deferred.filter (fun d => !sameObject c d) } }
    exact ⟨h1, h2⟩
  · refine ⟨(bandSettled_keeps (g := bankView) (fun _ _ => rfl) c _).trans ?_, (bandSettled_keeps (g := State.patina) (fun _ _ => rfl) c _).trans (writeRec_patina ..)⟩
    rw [bankView, writeRec_pwr]
    rfl

theorem asyncCommit_patina (c : Commit) (s : State) : (asyncCommit c s).patina = s.patina :=
  state_ite (g := State.patina) (bandSettled_keeps (g := State.patina) (fun _ _ => rfl) c _) (flashCommit_keeps ..).2

/-- Once the bank is known no commit waits for it (R336). -/
theorem settleWaiting_bank (s : State) : bankView (settleWaiting s) = bankView { s with pwr := { s.pwr with waiting := [] } } := by
  refine foldl_keeps (g := bankView) (fun t c => ?_) _ _
  have hf : ∀ r st v i u, bankView (finish r st v i u) = bankView u := fun r st v i u => by rw [bankView, finish_pwr, bankView]
  have hc : ∀ i u, bankView ((u.flights.filter (fun x => match x.kind with
      | .flash d _ | .pldm d => d == c
      | _ => false)).foldl (fun s x => match x.kind, i with
    | .flash _ v, none => if commitOk c then finishOk (refOf x) v s else finishErr (refOf x) .fault 0 0 0 s
    | .flash _ v, some i => finish (refOf x) .holdupLow v i s
    | .pldm _, i => emit (.pldmStatus (i.isNone && commitOk c) false) { s with flights := s.flights.filter (fun y => y != x) }
    | _, _ => s) u) = bankView u := fun i u => foldl_keeps (g := bankView) (fun u x => by
      split
      · exact state_ite (g := bankView) (hf ..) (by rw [bankView, finishErr_pwr, bankView])
      · exact hf ..
      · rfl
      · rfl) _ _
  split
  · refine state_ite (g := bankView) ?_ rfl
    exact (applyCommit_keeps ..).1
  · exact (hc ..).trans ((bandSettled_keeps (g := bankView) (fun _ _ => rfl) c _).trans (flashCommit_keeps c t).1)

/-- Settles O49: what the bank and the flash hold after each event. -/
theorem holdupAndCommits : Obligations.HoldupAndCommits := by
  unfold Obligations.HoldupAndCommits
  intro s
  refine ⟨fun h => ?_, fun h => ?_, fun milliA dropMv fullMv h hd => ⟨_, rfl, ?_⟩, fun c rest hr ht => ⟨_, rfl, ?_⟩, fun h => ?_,
    fun hs hr ha => ⟨_, rfl, ?_⟩, fun e => ⟨_, rfl, rfl, rfl⟩, fun need h => ?_⟩
  · exact congrArg Host.Outcome.next (if_neg (by rw [h]; exact Bool.false_ne_true))
  · exact congrArg Host.Outcome.next (if_pos (by rw [h]; rfl))
  · have he : ∀ u, energyOf milliA dropMv fullMv u = (min 0xFFFF (9 * milliA * (fullMv * fullMv - 64000000) / (20 * dropMv * 1000000)), u) :=
      fun _ => if_neg (by omega)
    rw [testDone, h, he]
    have hb := settleWaiting_bank { s with pwr := { s.pwr with
      energy := min 0xFFFF (9 * milliA * (fullMv * fullMv - 64000000) / (20 * dropMv * 1000000)), valid := true, testing := false
      testGtc := some s.clk.gtc } }
    simp only [bankView, Prod.mk.injEq] at hb
    obtain ⟨h1, h2, h3, h4, h5⟩ := hb
    exact ⟨h1, h2, h3, h4, h5⟩
  · rw [commitRetry, hr, ht]
    obtain ⟨-, -, h1, h2⟩ := applyCommit_keeps c { s with pwr := { s.pwr with deferred := rest } }
    have hb : ∀ u, (signal 90 (bandSettled c u)).pwr = u.pwr ∧ (signal 90 (bandSettled c u)).flash = u.flash := fun u => by
      rw [signal_pwr, signal_flash]
      exact ⟨bandSettled_keeps (g := State.pwr) (fun _ _ => rfl) c u, bandSettled_keeps (g := State.flash) (fun _ _ => rfl) c u⟩
    obtain ⟨e1, e2⟩ := hb (applyCommit c { s with pwr := { s.pwr with deferred := rest } })
    exact ⟨(congrArg (fun p : Power => p.deferred) e1).trans h1, e2.trans (h2 s.pwr).symm⟩
  · exact congrArg Host.Outcome.next (if_pos (.inr (.inr h)))
  · rw [lifeCommit, if_neg (by simp [hs, hr, ha])]
    dsimp only
    rw [asyncCommit_patina]
    exact ⟨rfl, rfl, rfl⟩
  · rw [mayCommit, h, Bool.not_true, Bool.and_false, Bool.false_and]

end Sys2Proof.Machine

end

section
/-! SUPPORT. Opening and closing of channels (R253 to R258): what channels do to each other's state, and the copies that end beside them. -/

-- One proof after another: many at a time need more memory than the check of the whole text has.
set_option Elab.async false

namespace Sys2Proof.Machine

/-- A state without what commands, copies of regions and commits to flash change. -/
def asideView (s : State) : State := { workView s with pwr := {}, flash := {}, bands := [], regions := [] }

/-- A step that commands, copies of regions and commits to flash make. -/
def Aside (s t : State) : Prop := asideView t = asideView s ∧ Later s t

theorem aside_trans {s t u : State} (h : Aside s t) (h' : Aside t u) : Aside s u := ⟨h'.1.trans h.1, later_trans h.2 h'.2⟩

theorem aside_of_eq {s t : State} (h : asideView t = asideView s) (ho : t.out = s.out) (hp : t.pcie = s.pcie) : Aside s t :=
  ⟨h, later_of_eq ho hp⟩

theorem aside_refl (s : State) : Aside s s := aside_of_eq rfl rfl rfl

theorem aside_foldl {α : Type} {f : State → α → State} (h : ∀ s x, Aside s (f s x)) (l : List α) (s : State) : Aside s (l.foldl f s) := by
  induction l generalizing s with
  | nil => exact aside_refl s
  | cons x r ih => exact aside_trans (h s x) (ih _)

theorem aside_completes {s t : State} (h : Completes s t) : Aside s t :=
  ⟨congrArg (fun u : State => { u with pwr := {}, flash := {}, bands := [], regions := [] }) (workView_completes h), later_completes h⟩

theorem aside_bandSettled (c : Commit) (s : State) : Aside s (bandSettled c s) := by
  rw [bandSettled]
  split
  · exact aside_of_eq rfl rfl rfl
  · exact aside_refl s

theorem aside_asyncCommit (c : Commit) (s : State) : Aside s (asyncCommit c s) := by
  refine pred_ite (P := Aside s) (aside_trans (aside_of_eq rfl rfl rfl) (aside_bandSettled c _)) ?_
  rw [flashCommit]
  refine iteInduction (motive := fun x : Option Nat × State => Aside s x.2) (fun _ => ?_) fun _ => ?_
  · cases c <;> exact aside_of_eq rfl rfl rfl
  · refine aside_trans ?_ (aside_bandSettled c _)
    exact aside_trans (aside_of_eq (t := { s with pwr := { s.pwr with
        deferred := s.pwr.deferred ++ [c], deferredCount := satAdd 0xFFFF s.pwr.deferredCount 1 } }) rfl rfl rfl)
      (aside_completes (completes_mem (memChange_log (writeRec_shape ..))))

theorem aside_finishErrR (r : CmdRef) (st : Status) (k o d v : Nat) (s : State) : Aside s (finishErrR r st k o d v s) :=
  aside_completes (finishRecR_completes r st none k o d v s)

theorem aside_land (p : FlightKind → Bool) {f : CmdRef → State → State} (hf : ∀ r s, Aside s (f r s)) (s : State) : Aside s (land p f s) :=
  aside_foldl (fun s x => hf (refOf x) s) _ s

theorem aside_drainCheckUnit (u : Nat) (s : State) : Aside s (drainCheckUnit u s) := by
  have hd : ∀ f s, Aside s (modDev u f s) := fun _ _ => aside_of_eq rfl rfl rfl
  have hz : ∀ s, Aside s (zeroDevice u s) := fun _ => aside_of_eq rfl rfl rfl
  have hf : ∀ r v s, Aside s (finishOk r v s) := fun r v s => aside_completes (finish_completes ..)
  unfold drainCheckUnit
  extract_lets left mine
  clear_value left mine
  split
  · exact aside_refl s
  split
  · refine pred_ite (P := Aside s) (aside_refl s) (aside_foldl (fun v x => ?_) _ s)
    split
    · exact aside_trans (hd ..) (hf ..)
    · extract_lets w m
      exact aside_trans (aside_trans (hd ..) (hz _)) (aside_trans (pred_ite (P := Aside w) (aside_asyncCommit ..) (aside_refl _)) (hf ..))
    · exact aside_trans (hd ..) (aside_trans (aside_asyncCommit ..) (aside_finishErrR ..))
    · exact aside_refl v
  · exact aside_land mine (fun r v => pred_ite (P := Aside v) (aside_finishErrR ..) (aside_finishErrR ..)) s

/-- The end of a copy, and what waited for it (R220 to R223). -/
theorem aside_stopCopy (key : Nat) (st : Status) (i : Option Nat) (s : State) : Aside s (stopCopy key st i s) := by
  have hf : ∀ r v n s, Aside s (finish r st v n s) := fun r v n s => aside_completes (finish_completes ..)
  refine aside_trans (pred_ite (P := Aside s) (aside_refl s) ?_) (aside_foldl (fun s u => aside_drainCheckUnit u s) ..)
  refine aside_trans (aside_of_eq (t := modReg key (fun r => { r with target := none, copied := 0 }) s) rfl rfl rfl) (aside_land _ (fun r v => ?_) _)
  split
  · exact hf ..
  · exact pred_ite (P := Aside v) (hf ..) (aside_finishErrR ..)

theorem aside_endCopies (keys : List Nat) (s : State) : Aside s (endCopies keys s) :=
  aside_foldl (fun s k => aside_stopCopy k .busy none s) keys s

theorem queueFrame_chans (l : Nat) (f : Frame) (s : State) : (queueFrame l f s).chans = s.chans := state_ite (g := State.chans) rfl rfl

theorem freeHeld_chans (ch : Chan) (s : State) : (freeHeld ch s).chans = s.chans := by
  have hb : ∀ l c n u, (freeBodies l c n u).chans = u.chans := fun l c n => by
    induction n with
    | zero => exact fun _ => rfl
    | succ n ih => exact fun u => ih _
  have hc := foldl_keeps (g := State.chans) (fun s l => hb l 0 (tget {} ch.edgeQ l).red.length s) (chChildren ch) s
  unfold freeHeld
  split
  · exact (hb ..).trans hc
  · exact hc

theorem failWaiters_chans (s : State) : (failWaiters s).chans = s.chans := by
  have hc : ∀ k n a b d w e u, (ctxFault k n a b d w e u).chans = u.chans := fun k n a b d w e u => by rw [ctxFault, jobFatal_chans]; rfl
  exact foldl_keeps (g := State.chans) (fun s (x : Nat × Plinth) => foldl_keeps (g := State.chans) (fun s e => state_ite (g := State.chans) (hc ..) rfl) x.2.ctxs s) _ s

/-- A fault leaves a channel without work (R264). -/
theorem chanFault_chan (c cause link rank det unit : Nat) (step : Bool) (s : State) :
    getChan (chanFault c cause link rank det unit step s) c = { dropWork (getChan s c) with st := .fault, cause := cause } := by
  generalize ht : chanFault c cause link rank det unit step s = t
  unfold chanFault at ht
  extract_lets ch s1 s2 s3 s4 at ht
  have h1 : s1.chans = s.chans := logDeferred_chans ..
  have h2 : s2.chans = s1.chans := by
    dsimp only [s2]
    split
    · exact failWaiters_chans _
    · rfl
  have h3 : s3.chans = s2.chans := by
    dsimp only [s3]
    split
    · exact queueFrame_chans ..
    · rfl
  have h4 : s4.chans = s1.chans := state_ite (g := State.chans)
    ((foldl_keeps (g := State.chans) (fun _ _ => queueFrame_chans ..) _ _).trans (h3.trans h2)) rfl
  rw [← ht, getChan_modChan, getChan, freeHeld_chans, h4, h1, ← getChan]

/-- The leave of a channel takes its steps from the region's and leaves every channel as it is (R255). -/
theorem leaveRegion_served (c : Nat) (s : State) : Served s (leaveRegion c s) ∧ (leaveRegion c s).chans = s.chans := by
  rw [leaveRegion]
  dsimp only
  split
  · exact ⟨served_trans (served_modReg ..) (served_modReg ..), rfl⟩
  · exact ⟨served_refl s, rfl⟩

/-- A CHANNEL_OPEN that is carried out (R253). -/
theorem openChan_opens (c : Nat) (s : State) : (getChan (openChan c s) c).st = .open_ ∧ (getChan (openChan c s) c).gen = (getChan s c).nextGen ∧
    (getChan (openChan c s) c).fold = 0 ∧ (getChan (openChan c s) c).steps = 0 ∧ Later s (openChan c s) := by
  generalize ht : openChan c s = t
  unfold openChan at ht
  extract_lets ch keys s1 s2 n at ht
  have h1 : Aside s s1 := aside_endCopies keys s
  have h2 : s2.chans = s1.chans ∧ Later s1 s2 := by
    dsimp only [s2]
    split
    · exact ⟨rfl, later_of_eq rfl rfl⟩
    · exact ⟨rfl, later_of_eq rfl rfl⟩
  have hk : s1.chans = s.chans := (congrArg State.chans h1.1 :)
  have hc : getChan s2 c = getChan s c := by rw [getChan, h2.1, hk, getChan]
  rw [← ht, getChan_modChan, hc]
  exact ⟨rfl, rfl, rfl, rfl, later_trans h1.2 (later_trans h2.2 (later_of_eq rfl rfl))⟩

theorem tget_map {α : Type} (d : α) (f : α → α) (hf : f d = d) (t : Tbl α) (k : Nat) :
    tget d (t.map (fun x => (x.1, f x.2))) k = f (tget d t k) := by
  induction t with
  | nil => exact hf.symm
  | cons x r ih =>
    rw [List.map_cons, tget, tget, ih]
    split <;> rfl

/-- A CHANNEL_CLOSE of a channel some of whose children have not drained (R254, R255). -/
theorem closeChan_drains {c : Nat} {s : State} (hc : Carries s c)
    (hd : ∃ k ∈ chChildren (getChan s c), (tget {} (getChan s c).edgeQ k).drained = false) :
    (getChan (closeChan c s) c).st = .draining ∧ (getChan (closeChan c s) c).localQ = [] ∧ (getChan (closeChan c s) c).outQ = [] ∧
      Later s (closeChan c s) := by
  have hn : closeChan c s = _ := if_neg (by rcases hc with h | h <;> simp [h])
  obtain ⟨u, hu, hul, hue, hur⟩ : ∃ u, u = (if (getChan s c).st = .active then
      chanFault c 5 0xFF (chRank (getChan s c)) (chRank (getChan s c)) (foldUnit (getChan s c)) true s else s) ∧ Later s u ∧
      (∀ k, (tget {} (dropWork (getChan u c)).edgeQ k).drained = (tget {} (getChan s c).edgeQ k).drained) ∧
      (getChan u c).edges = (getChan s c).edges := by
    refine ⟨_, rfl, pred_ite (P := Later s) (served_chanFault ..).2 (later_of_eq rfl rfl), fun k => ?_, ?_⟩
    · have hm : ∀ (t : Tbl EdgeQ) (k : Nat), (tget {} (t.map (fun x => (x.1, { x.2 with red := [], reports := [], skip := 0 }))) k : EdgeQ) =
          { tget {} t k with red := [], reports := [], skip := 0 } := fun t k =>
        tget_map {} (fun e : EdgeQ => { e with red := [], reports := [], skip := 0 }) rfl t k
      split
      · rw [chanFault_chan, dropWork, hm, dropWork, hm]
      · rw [dropWork, hm]
    · exact state_ite (g := fun t => (getChan t c).edges) (by rw [chanFault_chan]; rfl) rfl
  rw [hn, ← hu]
  have hw : getChan (leaveRegion c (modChan c (fun ch => { dropWork ch with st := .draining }) (freeHeld (getChan u c) u))) c =
      { dropWork (getChan u c) with st := .draining } := by
    rw [getChan, (leaveRegion_served ..).2, ← getChan, getChan_modChan, getChan, freeHeld_chans, ← getChan]
  have hl : Later u (leaveRegion c (modChan c (fun ch => { dropWork ch with st := .draining }) (freeHeld (getChan u c) u))) :=
    later_trans (served_freeHeld ..).2 (later_trans (served_modChan ..).2 (leaveRegion_served ..).1.2)
  obtain ⟨k, hk, hd⟩ := hd
  have hk' : k ∈ chChildren { dropWork (getChan u c) with st := .draining } := by
    simp only [chChildren, edgeRole, dropWork, hur] at hk ⊢
    exact hk
  have hid : ∀ v, getChan v c = { dropWork (getChan u c) with st := .draining } → drainCheck c v = v := fun v hv => if_neg fun h => by
    rw [hv, List.all_eq_true] at h
    exact absurd ((hue k).symm.trans (h.2 k hk')) (by rw [hd]; exact Bool.false_ne_true)
  rw [hid _ hw, hw]
  exact ⟨rfl, rfl, rfl, later_trans hul hl⟩

/-- Settles O37: the fields a new generation starts with, and those of a close some child of which still sends. -/
theorem channelsOpenAndClose : Obligations.ChannelsOpenAndClose := by
  unfold Obligations.ChannelsOpenAndClose
  intro h c s hc
  refine ⟨fun ha hst hp hf hb hl => ?_, fun ha hs hd => ?_⟩
  · have hres : resolve (taken h s) = resolve s := by
      have hx : ∀ n k, resolveAux (taken h s) n k = resolveAux s n k := fun n => by
        induction n with
        | zero => exact fun _ => rfl
        | succ n ih => exact fun k => by simp only [resolveAux, ih, getReg, taken_regions] <;> rfl
      exact funext fun p => funext fun k => hx ..
    obtain ⟨h1, h2, h3, h4, h5⟩ := openChan_opens c (taken h s)
    refine ⟨announce s (finishOk (slotOf h 0x40 s) (getChan s c).nextGen (openChan c (taken h s))),
      congrArg Host.Outcome.next ((command_inRange ha hc).trans (congrArg (announce s) ?_)), ?_⟩
    · have hx : ∀ u, resolve u = resolve s → chanFields u (getChan s c) = chanFields s (getChan s c) ∧
          chanBound u (getChan s c) = chanBound s (getChan s c) := fun u hu => by
        unfold chanFields chanBound
        rw [hu]
        exact ⟨rfl, rfl⟩
      obtain ⟨hf', hb'⟩ := hx _ hres
      rw [hf] at hf'
      rw [hb] at hb'
      dsimp only
      rw [getChan_taken, if_neg (by rw [hst]; decide), if_neg (not_not.2 hst), getPart_taken, if_neg (by rcases hp with h | h <;> simp [h]), hf', hb']
      refine (if_neg (by decide)).trans ((if_neg (by decide)).trans (if_neg ?_))
      rw [Bool.not_eq_true', Bool.not_eq_false, List.all_eq_true]
      intro l hm
      rw [List.mem_filter, List.mem_range, bne_iff_ne] at hm
      rw [getLink_taken, hl l hm.1 hm.2]
      rfl
    · rw [getChan_announce, finishOk, getChan, finish_chans, ← getChan]
      rw [getChan_taken] at h2
      exact ⟨h1, h2, h3, h4, replied_command h5 (finish_replied ..)⟩
  · have hs' : Carries (taken h s) c := by rwa [Carries, getChan_taken]
    obtain ⟨h1, h2, h3, h4⟩ := closeChan_drains hs' (by rwa [getChan_taken])
    refine ⟨_, congrArg Host.Outcome.next (command_inRange ha ⟨hc, by rcases hs with h | h <;> simp [h]⟩), ?_⟩
    rw [getChan_announce, finishOk, getChan, finish_chans, ← getChan, getChan_taken]
    exact ⟨h1, h2, h3, replied_command h4 (finish_replied ..)⟩

end Sys2Proof.Machine

end

section
/-! SUPPORT. Frames and messages that a channel takes in order (R248, R256 to R266, R270 to R274). -/

-- One proof after another: many at a time need more memory than the check of the whole text has.
set_option Elab.async false

namespace Sys2Proof.Machine

/-- What a frame in order changes of its link. -/
def heardLink (cls now : Nat) (x : Link) : Link := { x with
  rxSeq := (x.rxSeq + 1) % 4096, nakSent := false
  accepted := x.accepted + 1, acceptedFrom := if x.accepted = 0 then now else x.acceptedFrom
  received := tset 0 x.received cls (tget 0 x.received cls + 1) }

/-- The bytes that a link has received count (R246). -/
def rxCounted (l : Nat) (s : State) : State := { s with
  patina := { s.patina with live := { s.patina.live with link := tmod {} s.patina.live.link l (fun y => { y with rx := cnt y.rx 256 }) } } }

/-- The state after a frame in order: the link has counted and acknowledged it (R246, R248). -/
def frameHeard (l cls : Nat) (s : State) : State := queueCtrl l .ack (rxCounted l (modLink l (heardLink cls s.clk.gtc) s))

theorem acceptFrame_inOrder {l seq cls : Nat} {s : State} (h : InOrder l seq cls s) (typ chan gen : Nat) (f : State → State) :
    acceptFrame l (seq % 4096) cls typ chan gen f s = f (frameHeard l cls s) := by
  obtain ⟨hf, hs, hc⟩ := h
  have h1 : acceptFrame l (seq % 4096) cls typ chan gen f s = _ := if_neg (by rw [hf]; decide)
  rw [h1, if_pos hs]
  exact if_neg (c := decide (tget 0 (getLink s l).received cls ≥
    if tget 0 (getLink s l).given cls = 0 then clsBodies cls else tget 0 (getLink s l).given cls) = true) (by rw [decide_eq_true_iff]; omega)

/-- Neither the state of a link nor its number of the next frame. -/
theorem queueCtrl_link (l : Nat) (m : Ctrl) (s : State) : (getLink (queueCtrl l m s) l).rxSeq = (getLink s l).rxSeq ∧
    (getLink (queueCtrl l m s) l).st = (getLink s l).st := by
  rw [queueCtrl, getLink_modLink]
  split <;> exact ⟨rfl, rfl⟩

theorem frameHeard_link (l cls : Nat) (s : State) : (getLink (frameHeard l cls s) l).rxSeq = ((getLink s l).rxSeq + 1) % 4096 ∧
    (getLink (frameHeard l cls s) l).st = (getLink s l).st := by
  have he : ∀ w, getLink (rxCounted l w) l = getLink w l := fun _ => rfl
  obtain ⟨h1, h2⟩ := queueCtrl_link l .ack (rxCounted l (modLink l (heardLink cls s.clk.gtc) s))
  rw [he, getLink_modLink] at h1 h2
  exact ⟨h1, h2⟩

/-- What of a link neither frames in order nor credits change, but for its count of frames. -/
def msgView (x : Link) : LinkSt × List Frame × Bool × List (Nat × Frame) × Nat × Option Nat :=
  (x.st, x.queue, x.drain, x.unacked, x.viol, x.errorGtc)

theorem modLink_msgView (l k : Nat) {g : Link → Link} (w : State) (hg : ∀ x, msgView (g x) = msgView x) :
    msgView (getLink (modLink l g w) k) = msgView (getLink w k) := by
  obtain rfl | hk := eq_or_ne l k
  · rw [getLink_modLink, hg]
  · rw [getLink_modLink_other _ _ hk]

theorem served_rxSeq {s t : State} (h : Served s t) (l : Nat) : (getLink t l).rxSeq = (getLink s l).rxSeq :=
  congrArg (fun v : (Nat → LinkSt × Nat × Nat) × Tbl Laser × Clock => (v.1 l).2.2) h.1

/-- The number of the frame whose entries are messages. -/
def msgAt (n : Option Nat) (x : Link) : Link := { x with msgSeq := n }

/-- A state without its links and counters. -/
def besideLinks (s : State) : State := { s with links := [], patina := {} }

theorem besideLinks_modLink (l : Nat) (f : Link → Link) (s : State) : besideLinks (modLink l f s) = besideLinks s := rfl

theorem besideLinks_frameHeard (l cls : Nat) (s : State) : besideLinks (frameHeard l cls s) = besideLinks s := by
  have hr : ∀ w, besideLinks (rxCounted l w) = besideLinks w := fun _ => rfl
  exact (besideLinks_modLink ..).trans ((hr _).trans (besideLinks_modLink ..))

theorem beside_fields {s t : State} (h : besideLinks t = besideLinks s) : t.chans = s.chans ∧ t.parts = s.parts ∧ t.clk = s.clk ∧
    t.castSeen = s.castSeen ∧ t.mem = s.mem ∧ t.log = s.log ∧ t.flights = s.flights ∧ Later s t :=
  ⟨(congrArg State.chans h :), (congrArg State.parts h :), (congrArg State.clk h :), (congrArg State.castSeen h :), (congrArg State.mem h :),
    (congrArg State.log h :), (congrArg State.flights h :), later_of_eq (congrArg State.out h :) (congrArg State.pcie h :)⟩

theorem freeBody_beside (l n : Nat) (s : State) : besideLinks (freeBody l n s) = besideLinks s :=
  (besideLinks_modLink ..).trans (besideLinks_modLink ..)

/-- A message in order is carried out, and its place is free again (R248, R249). -/
theorem acceptMsg_inOrder {l seq : Nat} {s : State} (h : InOrder l seq 2 s) (hs : seq < 4096) (typ chan gen : Nat) (f : State → State) :
    ∃ u, acceptMsg l seq typ chan gen f s = freeBody l 2 (f u) ∧ besideLinks u = besideLinks s ∧
      (∀ k, msgView (getLink u k) = msgView (getLink s k)) ∧ (getLink u l).rxSeq = ((getLink s l).rxSeq + 1) % 4096 := by
  have hi : InOrder l seq 2 (modLink l (msgAt none) s) := by
    rw [InOrder, getLink_modLink]
    exact h
  have ha := acceptFrame_inOrder hi typ chan gen (fun s => freeBody l 2 (f (modLink l (msgAt (some seq)) s)))
  rw [Nat.mod_eq_of_lt hs] at ha
  have hp : acceptMsg l seq typ chan gen f s = _ := if_pos (Nat.div_eq_of_lt hs)
  have hr : ∀ w k, getLink (rxCounted l w) k = getLink w k := fun _ _ => rfl
  refine ⟨modLink l (msgAt (some seq)) (frameHeard l 2 (modLink l (msgAt none) s)), hp.trans ha,
    (besideLinks_modLink ..).trans ((besideLinks_frameHeard ..).trans (besideLinks_modLink ..)), fun k => ?_, ?_⟩
  · have hm : ∀ n w, msgView (getLink (modLink l (msgAt n) w) k) = msgView (getLink w k) := fun n w => modLink_msgView l k w fun _ => rfl
    have hq : ∀ w, msgView (getLink (queueCtrl l .ack w) k) = msgView (getLink w k) := fun w =>
      modLink_msgView l k w fun x => by split <;> rfl
    have hl : ∀ n w, msgView (getLink (modLink l (heardLink 2 n) w) k) = msgView (getLink w k) := fun n w => modLink_msgView l k w fun _ => rfl
    rw [hm, frameHeard, hq, hr, hl, hm]
  · rw [getLink_modLink, msgAt, (frameHeard_link ..).1, getLink_modLink, msgAt]

/-- The capture of a body (R371) shows in no channel and on no port. -/
theorem captureFrame_keeps (l typ c off : Nat) (body : List Byte) (s : State) :
    (captureFrame l typ c off body s).chans = s.chans ∧ Served s (captureFrame l typ c off body s) := by
  have hs : ∀ p u, (storeCapture p u).chans = u.chans ∧ Served u (storeCapture p u) := fun p u => by
    rw [storeCapture]
    split
    · next a st c _ _ =>
      have h := completes_mem (memChange_memWrite { src := 0, part := some p, ctx := none, pol := 1 } (unitBase a + st) c.2.flatten u)
      exact ⟨(congrArg State.chans (workView_completes h) :), served_completes h⟩
    · exact ⟨rfl, served_refl u⟩
  have hp : ∀ p f u, Served u (modPart p f u) := fun _ _ _ => served_of_eq rfl rfl rfl (later_of_eq rfl rfl)
  rw [captureFrame]
  split
  · split
    · extract_lets es v
      have hv : v.chans = s.chans ∧ Served s v := by
        dsimp only [v]
        split
        · exact ⟨rfl, served_of_eq rfl rfl rfl (later_of_eq rfl rfl)⟩
        · exact ⟨rfl, served_refl s⟩
      exact ⟨(hs ..).1.trans hv.1, served_trans hv.2 (served_trans (hp ..) (hs ..).2)⟩
    · exact ⟨rfl, served_refl s⟩
  · exact ⟨rfl, served_refl s⟩

/-- A RED body that nobody waits for: its unit is folded already, or its worker's backup has taken its place (R263). -/
def redGone (l : Nat) (ch : Chan) : Bool :=
  decide ((tget {} ch.edgeQ l).next < ch.fold) || (edgeRole ch l == 1 && ch.switched.contains (edgeRank ch l) &&
    (tget {} ch.edgeQ l).next / ch.units == ch.fold / ch.units)

/-- A RED body counted on its edge. -/
def redCounted (l c : Nat) (body : List Byte) (gone : Bool) (s : State) : State :=
  let u := (tget {} (getChan s c).edgeQ l).next
  let v := if gone then s else stepStarts c u s
  modChan c (fun ch => { ch with edgeQ := tmod {} ch.edgeQ l (fun e => { e with
    next := u + 1, red := if gone then e.red else e.red ++ [{ offset := u, body := body, gtc := v.clk.gtc }] }) }) v

/-- A RED body taken: counted on its edge, and dropped when nobody waits for it. -/
def redTaken (l c off : Nat) (body : List Byte) (gone : Bool) (s : State) : State :=
  captureFrame l 3 c off body (if gone then freeBody l 0 (redCounted l c body gone s) else redCounted l c body gone s)

/-- A RED body in order counts on its edge, and waits there while its unit is still to be folded (R256, R257, R261). -/
theorem redBody_counts {l seq c off : Nat} {body : List Byte} {s : State} (hc : Carries s c)
    (hr : edgeRole (getChan s c) l = 1 ∨ edgeRole (getChan s c) l = 2) (hu : 0 < (getChan s c).units)
    (ho : off = (tget {} (getChan s c).edgeQ l).next % (getChan s c).units) :
    (tget {} (getChan (redBody l seq c (getChan s c).gen off body s) c).edgeQ l).next = (tget {} (getChan s c).edgeQ l).next + 1 ∧
      Served s (redBody l seq c (getChan s c).gen off body s) ∧
      ((getChan s c).fold ≤ (tget {} (getChan s c).edgeQ l).next →
        (edgeRole (getChan s c) l = 1 → (getChan s c).switched.contains (edgeRank (getChan s c) l) = false) →
        (getChan (redBody l seq c (getChan s c).gen off body s) c).st = .active ∧
        (tget {} (getChan (redBody l seq c (getChan s c).gen off body s) c).edgeQ l).red = (tget {} (getChan s c).edgeQ l).red ++ [{
          offset := (tget {} (getChan s c).edgeQ l).next, body := body, gtc := s.clk.gtc }]) := by
  have hm := Nat.mod_lt (tget {} (getChan s c).edgeQ l).next hu
  have hb : redBody l seq c (getChan s c).gen off body s = redTaken l c off body (redGone l (getChan s c)) s := by
    rw [redBody, redTaken, redGone, ho]
    rcases hc with h | h
    all_goals
      rw [h]
      dsimp only
      rw [if_neg (not_not.2 rfl), if_neg (by omega), if_neg (by omega)]
      rfl
  have hk : ∀ g, getChan (redTaken l c off body g s) c = getChan (redCounted l c body g s) c := fun g => by
    have hq : (if g then freeBody l 0 (redCounted l c body g s) else redCounted l c body g s).chans = (redCounted l c body g s).chans :=
      state_ite (g := State.chans) (beside_fields (freeBody_beside ..)).1 rfl
    rw [redTaken, getChan, (captureFrame_keeps ..).1, hq, getChan]
  rw [hb, hk]
  refine ⟨?_, ?_, fun hf hr => ?_⟩
  · rw [redCounted, getChan_modChan, tget_tmod_same]
  · refine served_trans (t := redCounted l c body (redGone l (getChan s c)) s) (served_trans ?_ (served_modChan ..)) ?_
    · exact pred_ite (P := Served s) (served_refl s) (served_modChan ..)
    · exact served_trans (pred_ite (P := Served _) (served_freeBody ..) (served_refl _)) (captureFrame_keeps ..).2
  · have hg : redGone l (getChan s c) = false := by
      rw [redGone, decide_eq_false (by omega), Bool.false_or, Bool.and_eq_false_iff, Bool.and_eq_false_iff]
      by_cases h1 : edgeRole (getChan s c) l = 1
      · exact .inl (.inr (hr h1))
      · exact .inl (.inl (beq_eq_false_iff_ne.2 h1))
    rw [hg, redCounted, getChan_modChan, tget_tmod_same]
    dsimp only
    rw [if_neg Bool.false_ne_true, if_neg Bool.false_ne_true, stepStarts, getChan_modChan]
    exact ⟨rfl, rfl⟩

/-- A PARAM body in order goes to the units to forward (R266). -/
theorem paramBody_forwards {l seq c off : Nat} {body : List Byte} {s : State} (hc : Carries s c) (hr : chOutput (getChan s c) = some l)
    (hp : 0 < chParams (getChan s c)) (ho : off = (getChan s c).paramNext % chParams (getChan s c)) :
    (getChan (paramBody l seq c (getChan s c).gen off body s) c).outQ = (getChan s c).outQ ++ [{
        offset := (getChan s c).paramNext, body := body, gtc := s.clk.gtc }] ∧
      (getChan (paramBody l seq c (getChan s c).gen off body s) c).paramNext = (getChan s c).paramNext + 1 ∧
      Served s (paramBody l seq c (getChan s c).gen off body s) := by
  have hm := Nat.mod_lt (getChan s c).paramNext hp
  have hb : paramBody l seq c (getChan s c).gen off body s = captureFrame l 4 c off body (modChan c (fun ch =>
      withOut (ch.outQ ++ [{ offset := ch.paramNext, body := body, gtc := s.clk.gtc }])
        { ch with st := .active, paramNext := ch.paramNext + 1 }) s) := by
    rw [paramBody, ho]
    rcases hc with h | h
    all_goals
      rw [h]
      dsimp only
      rw [if_neg (not_not.2 rfl), if_neg (not_not.2 hr), if_neg (by omega)]
  rw [hb, getChan, (captureFrame_keeps ..).1, ← getChan, getChan_modChan]
  exact ⟨rfl, rfl, served_trans (served_modChan ..) (captureFrame_keeps ..).2⟩

/-- Settles O38: a body in order on its edge, and one for the units to forward. -/
theorem channelFrames : Obligations.ChannelFrames := by
  unfold Obligations.ChannelFrames
  intro l seq c gen body s hc hg hb hs hgen
  subst hgen
  have hh := fun cls => beside_fields (besideLinks_frameHeard l cls s)
  have hchan : ∀ cls, getChan (frameHeard l cls s) c = getChan s c := fun cls => by rw [getChan, (hh cls).1, getChan]
  have hx : ∀ cls t, Served (frameHeard l cls s) t → (getLink (announce s t) l).rxSeq = ((getLink s l).rxSeq + 1) % 4096 := fun cls t h => by
    rw [getLink_announce, served_rxSeq h, (frameHeard_link ..).1]
  refine ⟨fun hi hr hu => ?_, fun hi hr hp => ?_⟩
  · refine ⟨_, congrArg (fun t => Host.Outcome.next (announce s t)) (acceptFrame_inOrder hi ..), ?_⟩
    rw [Nat.mod_eq_of_lt hc, Nat.mod_eq_of_lt hg, fit_exact _ _ hb, ← hchan 0]
    obtain ⟨h1, h2, h3⟩ := redBody_counts (l := l) (seq := seq) (c := c) (body := body) (s := frameHeard l 0 s)
      (by rwa [Carries, hchan]) (by rwa [hchan]) (by rwa [hchan]) rfl
    rw [(hh 0).2.2.1] at h3
    rw [getChan_announce]
    exact ⟨h1, hx _ _ h2, h3⟩
  · refine ⟨_, congrArg (fun t => Host.Outcome.next (announce s t)) (acceptFrame_inOrder hi ..), ?_⟩
    rw [Nat.mod_eq_of_lt hc, Nat.mod_eq_of_lt hg, fit_exact _ _ hb, ← hchan 1]
    obtain ⟨h1, h2, h3⟩ := paramBody_forwards (l := l) (seq := seq) (c := c) (body := body) (s := frameHeard l 1 s)
      (by rwa [Carries, hchan]) (by rwa [hchan]) (by rwa [hchan]) rfl
    rw [(hh 1).2.2.1] at h1
    rw [getChan_announce]
    exact ⟨h1, h2, hx _ _ h3⟩

end Sys2Proof.Machine

end

section
/-! SUPPORT. Messages of channels (R264, R270 to R274, R380). -/

-- One proof after another: many at a time need more memory than the check of the whole text has.
set_option Elab.async false

namespace Sys2Proof.Machine

theorem queueFrame_beside (l : Nat) (f : Frame) (s : State) : besideLinks (queueFrame l f s) = besideLinks s :=
  state_ite (g := besideLinks) rfl rfl

/-- A message in order that a rule knows: its effect on a channel is that of the rule on a state with the same channels. -/
theorem acceptMsg_chan {l seq : Nat} {s : State} (h : InOrder l seq 2 s) (hs : seq < 4096) (typ chan gen c : Nat) (f : State → State) :
    ∃ u, besideLinks u = besideLinks s ∧ getChan u c = getChan s c ∧ getChan (acceptMsg l seq typ chan gen f s) c = getChan (f u) c ∧
      (acceptMsg l seq typ chan gen f s).parts = (f u).parts := by
  obtain ⟨u, hu, hb, -⟩ := acceptMsg_inOrder h hs typ chan gen f
  have h1 := beside_fields (freeBody_beside l 2 (f u))
  refine ⟨u, hb, ?_, ?_, ?_⟩
  · rw [getChan, (beside_fields hb).1, getChan]
  · rw [hu, getChan, h1.1, getChan]
  · rw [hu, h1.2.1]

/-- A FAIL or a STEP_FAIL of the step's generation is a fault of the channel (R264). -/
theorem failMsg_faults (l seq rank : Nat) {c : Nat} {s : State} (hc : Carries s c) :
    (getChan (failMsg l seq c (getChan s c).gen rank s) c).st = .fault ∧ (getChan (failMsg l seq c (getChan s c).gen rank s) c).cause = 6 := by
  have hf : failMsg l seq c (getChan s c).gen rank s = chanFault c 6 l rank rank (foldUnit (getChan s c)) true s := by
    rw [failMsg]
    rcases hc with h | h
    all_goals
      rw [h]
      exact if_neg (not_not.2 rfl)
  rw [hf, chanFault_chan]
  exact ⟨rfl, rfl⟩

/-- A report of a NaN waits on its edge while an earlier one of it is not to be left out (R265). -/
theorem nanMsg_waits (l seq : Nat) (rep : Bool × Nat × Nat) {c : Nat} {s : State} (hc : Carries s c) (hd : (getChan s c).repDue = [])
    (hk : (tget {} (getChan s c).edgeQ l).skip = 0) :
    (tget {} (getChan (nanMsg l seq c rep s) c).edgeQ l).reports = (tget {} (getChan s c).edgeQ l).reports ++ [rep] := by
  obtain ⟨u, hu⟩ : ∃ u, u = modChan c (fun ch => { ch with edgeQ := tmod {} ch.edgeQ l (fun e =>
      if e.skip > 0 then { e with skip := e.skip - 1 } else { e with reports := e.reports ++ [rep] }) }) s := ⟨_, rfl⟩
  have hn : nanMsg l seq c rep s = reportCheck c u := by
    rw [nanMsg, hu]
    rcases hc with h | h
    all_goals rw [h]
  have hr : reportCheck c u = u := by
    rw [reportCheck, hu, getChan_modChan, hd]
    rfl
  rw [hn, hr, hu, getChan_modChan, tget_tmod_same, if_neg (by omega)]

/-- A drain token that comes while the channel carries no step is a fault of it, and its edge has drained (R254, R272). -/
theorem drainMsg_open (l seq : Nat) {c : Nat} {s : State} (ho : (getChan s c).st = .open_) :
    (getChan (drainMsg l seq c (getChan s c).gen s) c).st = .fault ∧
      (tget {} (getChan (drainMsg l seq c (getChan s c).gen s) c).edgeQ l).drained = true := by
  obtain ⟨u, hu⟩ : ∃ u, u = modChan c (fun ch => { ch with edgeQ := tmod {} ch.edgeQ l (fun e => { e with drained := true }) })
      (chanFault c 5 l (termRank (getChan s c) l) (chRank (getChan s c)) (foldUnit (getChan s c)) false s) := ⟨_, rfl⟩
  have hc : (getChan u c).st = .fault ∧ (tget {} (getChan u c).edgeQ l).drained = true := by
    rw [hu, getChan_modChan, chanFault_chan, tget_tmod_same]
    exact ⟨rfl, rfl⟩
  have hd : drainMsg l seq c (getChan s c).gen s = drainCheck c u := by
    rw [drainMsg, ho, hu]
    exact (if_neg (by decide)).trans (if_neg (not_not.2 rfl))
  have hk : drainCheck c u = u := if_neg (by rw [hc.1]; exact fun h => nomatch h.1)
  rw [hd, hk]
  exact hc

/-- The answer of the output closes a channel all of whose children have drained (R254, R272). -/
theorem drainDoneMsg_frees {l seq c : Nat} {s : State} (hs : (getChan s c).st = .draining) (ho : chOutput (getChan s c) = some l)
    (hd : ∀ k ∈ chChildren (getChan s c), (tget {} (getChan s c).edgeQ k).drained = true) :
    (getChan (drainDoneMsg l seq c (getChan s c).gen s) c).st = .free := by
  obtain ⟨u, hu⟩ : ∃ u, u = modChan c (fun ch => { ch with edgeQ := tmod {} ch.edgeQ l (fun e => { e with drained := true }) }) s := ⟨_, rfl⟩
  have hc : getChan u c = { getChan s c with edgeQ := tmod {} (getChan s c).edgeQ l (fun e => { e with drained := true }) } := by
    rw [hu, getChan_modChan]
  have hm : drainDoneMsg l seq c (getChan s c).gen s = drainCheck c u := by
    rw [drainDoneMsg, hs, hu]
    exact (if_neg (by decide)).trans (if_neg (by simp))
  have ha : (chChildren (getChan u c)).all (fun k => (tget {} (getChan u c).edgeQ k).drained) = true := by
    refine List.all_eq_true.2 fun k hk => ?_
    rw [hc] at hk ⊢
    obtain rfl | hn := eq_or_ne l k
    · dsimp only
      rw [tget_tmod_same]
    · dsimp only
      rw [tget_tmod_other _ _ _ hn]
      exact hd k hk
  have ho' : chOutput (getChan u c) = some l := by
    rw [hc]
    exact ho
  have hl : (tget {} (getChan u c).edgeQ l).drained = true := by
    rw [hc, tget_tmod_same]
  have hk : drainCheck c u = modChan c chanFree ((chChildren (getChan u c)).foldl (fun s l => queueFrame l (.msg (.drainDone c (getChan u c).gen)) s) u) := by
    have h1 : drainCheck c u = _ := if_pos ⟨by rw [hc]; exact hs, ha⟩
    rw [h1, ho']
    exact if_pos hl
  rw [hm, hk, getChan_modChan]
  rfl

/-- A CAST_AT in time asks for the cast of the partition at its count (R380). -/
theorem castAtMsg_asks (l seq : Nat) {c a : Nat} {s : State} (hc : Carries s c) (ha : a < 2 ^ 45) (hg : s.clk.gtc ≤ a)
    (hs : s.castSeen.contains a = false) (hal : aligned s = true) (hp : (getPart s (chPart (getChan s c))).st = .running)
    (hn : (getPart s (chPart (getChan s c))).castGtc = none) :
    (getPart (castAtMsg l seq c a s) (chPart (getChan s c))).castGtc = some (a, .castAt) := by
  have ht : (a + 2 ^ 46 - s.clk.gtc % 2 ^ 46) % 2 ^ 46 = a - s.clk.gtc := by omega
  have hlate : decide (a - s.clk.gtc ≥ 2 ^ 45) = false := decide_eq_false (by omega)
  have hfull : s.clk.gtc + (a - s.clk.gtc) = a := by omega
  have hq : ∀ (ls : List Nat) f u, besideLinks (ls.foldl (fun s k => queueFrame k f s) u) = besideLinks u := fun ls f u =>
    foldl_keeps (g := besideLinks) (fun _ _ => queueFrame_beside ..) ls u
  obtain ⟨v, hv, hb⟩ : ∃ v, v = ((List.range 32).filter (fun k => edgeRole (getChan s c) k != 0 && k != l)).foldl
      (fun s k => queueFrame k (.msg (.castAt c (a % 2 ^ 46))) s) { s with castSeen := a :: s.castSeen } ∧
      besideLinks v = besideLinks { s with castSeen := a :: s.castSeen } := ⟨_, rfl, hq ..⟩
  obtain ⟨-, h2, h3, -⟩ := beside_fields hb
  have hpart : getPart v (chPart (getChan s c)) = getPart s (chPart (getChan s c)) := by rw [getPart, h2, getPart]
  have hav : aligned v = true := by
    rw [aligned, h3]
    exact hal
  have hm : castAtMsg l seq c a s = modPart (chPart (getChan s c)) (askGtc a .castAt) v := by
    rw [castAtMsg]
    rcases hc with h | h
    all_goals
      rw [h]
      dsimp only
      rw [ht, hlate, if_neg Bool.false_ne_true, hfull, hs, if_neg Bool.false_ne_true, ← hv, hav,
        show (false || !true) = false from rfl, if_neg Bool.false_ne_true, if_neg Bool.false_ne_true, hpart, hp]
      exact if_neg (by simp)
  rw [hm, getPart_modPart, hpart, askGtc, hn]

/-- Settles O39: the channel after each message that it takes. -/
theorem channelMessages : Obligations.ChannelMessages := by
  unfold Obligations.ChannelMessages
  intro l seq c gen s hc hg hi hs hgen
  subst hgen
  have hm := fun gen f => acceptMsg_chan hi hs 5 c gen c f
  have hcm := Nat.mod_eq_of_lt hc
  have hgm := Nat.mod_eq_of_lt hg
  refine ⟨fun cause rank hk => ?_, fun v rank el hk hd h0 => ⟨_, rfl, ?_⟩, fun ho => ⟨_, rfl, ?_⟩, fun hd ho hch => ⟨_, rfl, ?_⟩,
    fun a hk ha hle hgt hcs hal hp hn => ⟨_, rfl, ?_⟩⟩
  · obtain ⟨u, -, hu, h1, -⟩ := hm (getChan s c).gen (failMsg l seq (c % 1024) ((getChan s c).gen % 65536) (rank % 4096))
    have hf := failMsg_faults l seq (rank % 4096) (c := c) (s := u) (by rwa [Carries, hu])
    refine ⟨⟨_, rfl, ?_⟩, ⟨_, rfl, ?_⟩⟩
    all_goals
      rw [getChan_announce, h1, hcm, hgm, ← hu]
      exact hf
  · obtain ⟨u, -, hu, h1, -⟩ := hm 0 (nanMsg l seq (c % 1024) (v, rank % 4096, el % 2 ^ 28))
    rw [← hu] at hd h0
    rw [h1, hcm, ← hu]
    exact nanMsg_waits l seq _ (by rwa [Carries, hu]) hd h0
  · obtain ⟨u, -, hu, h1, -⟩ := hm (getChan s c).gen (drainMsg l seq (c % 1024) ((getChan s c).gen % 65536))
    rw [getChan_announce, h1, hcm, hgm, ← hu]
    exact drainMsg_open l seq (by rwa [hu])
  · obtain ⟨u, -, hu, h1, -⟩ := hm (getChan s c).gen (drainDoneMsg l seq (c % 1024) ((getChan s c).gen % 65536))
    rw [← hu] at hd ho hch
    rw [getChan_announce, h1, hcm, hgm, ← hu]
    exact drainDoneMsg_frees hd ho hch
  · obtain ⟨u, hb, hu, -, h2⟩ := hm 0 (castAtMsg l seq (c % 1024) (a % 2 ^ 46))
    obtain ⟨-, b2, b3, b4, -⟩ := beside_fields hb
    have hpu : ∀ p, getPart u p = getPart s p := fun p => by rw [getPart, b2, getPart]
    have hx := castAtMsg_asks l seq (c := c) (a := a) (s := u) (by rwa [Carries, hu]) ha (by rwa [b3]) (by rwa [b4])
      (by rw [aligned, b3]; exact hal) (by rwa [hpu, hu]) (by rwa [hpu, hu])
    rw [getPart, h2, hcm, Nat.mod_eq_of_lt (show a < 2 ^ 46 by omega), ← hu]
    exact hx

end Sys2Proof.Machine

end

section
/-! SUPPORT. The work of a node of a channel (R259 to R266). -/

-- One proof after another: many at a time need more memory than the check of the whole text has.
set_option Elab.async false

namespace Sys2Proof.Machine

theorem memChange_chans {s t : State} (h : MemChange s t) : t.chans = s.chans := by
  obtain ⟨_, _, _, _, _, _, _, _, rfl, -⟩ := h
  rfl

theorem memChange_regionRead (w : MemWho) (r : Region) (hw : w.pol ≠ 2) (n : Nat) :
    ∀ (off : Nat) (s : State), MemChange s (regionRead w r off n s).2.2 := by
  induction n with
  | zero => exact fun _ s => memChange_refl s
  | succ n ih => exact fun off s => memChange_trans (readChange_memRead w _ 64 s hw).1 (ih ..)

theorem memChange_regionWrite (w : MemWho) (r : Region) (n : Nat) :
    ∀ (off : Nat) (bs : List Byte) (s : State), MemChange s (regionWrite w r off n bs s).2 := by
  induction n with
  | zero => exact fun _ _ s => memChange_refl s
  | succ n ih =>
    intro off bs s
    rw [regionWrite]
    split
    · exact memChange_refl s
    · exact memChange_trans (memChange_memWrite ..) (ih ..)

theorem chargeRegion_chans (r : Region) (off n : Nat) (s : State) : (chargeRegion r off n s).chans = s.chans := by
  unfold chargeRegion
  split
  · exact state_ite (g := State.chans) rfl rfl
  · rfl

section
variable {γ : Type} {h : Chan → γ} (c : Nat)

theorem noteSwitch_chan (hh : ∀ (ch : Chan) l n, h { ch with switched := l, switches := n } = h ch) (r : Nat) (s : State) :
    h (getChan (noteSwitch c r s) c) = h (getChan s c) := by
  rw [noteSwitch, getChan_modChan, hh, getChan, logDeferred_chans, ← getChan]

/-- The reports of a step that are sent (R265) show in no `h` that sees neither them nor the source of NaNs. -/
theorem reportCheck_chan (hh : ∀ (ch : Chan) d q r, h { ch with repDue := d, edgeQ := q, src := r } = h ch) (s : State) :
    h (getChan (reportCheck c s) c) = h (getChan s c) := by
  have hs : ∀ low es rest u, h (getChan (reportStep c low es rest u) c) = h (getChan u c) := fun low es rest u => by
    unfold reportStep
    extract_lets ch src v
    have hv : h (getChan v c) = h (getChan u c) := by
      dsimp only [v]
      rw [getChan_modChan, hh]
    split
    · rw [getChan, queueFrame_chans, ← getChan, hv]
    · exact hv
  have hn : ∀ n u, h (getChan (reportsDue c n u) c) = h (getChan u c) := fun n => by
    induction n with
    | zero => exact fun _ => rfl
    | succ n ih =>
      intro u
      rw [reportsDue]
      split
      · rfl
      · split
        · rw [ih, hs]
        · rfl
  exact hn _ s

end

/-- A unit all of whose terms have come is folded (R259 to R263). -/
theorem foldOne_folds {c : Nat} {s : State} {ps : List (Nat × Picked)} (ha : (getChan s c).st = .active) (ht : chTerms (getChan s c) ≠ [])
    (hu : (getChan s c).units ≠ 0) (hp : pickAll (getChan s c) s.clk.gtc (chTerms (getChan s c)) = some ps) :
    (getChan (foldOne c s) c).fold = (getChan s c).fold + 1 := by
  have hf : ∀ u, (getChan (stepFolded c u) c).fold = (getChan u c).fold := fun u => by
    rw [stepFolded, reportCheck_chan (h := Chan.fold) c (fun _ _ _ _ => rfl), getChan_modChan]
  generalize ht' : foldOne c s = t
  unfold foldOne at ht'
  extract_lets ch ts u uo at ht'
  rw [if_neg (by simp [ch, ts, ha, ht, hu]), hp] at ht'
  dsimp -zeta only at ht'
  extract_lets s1 sum loc nans s2 s3 p1 p2 s4 at ht'
  have h3 : (getChan s3 c).fold = u + 1 := by
    dsimp only [s3]
    rw [getChan_modChan]
  have h4 : (getChan s4 c).fold = u + 1 := by
    dsimp only [s4]
    split
    · rw [getChan, queueFrame_chans, ← getChan, h3]
    · rw [getChan_modChan]
      exact h3
  rw [← ht']
  refine state_ite (g := fun t => (getChan t c).fold) ?_ ?_
  · rw [hf, getChan_modChan, h4]
  · rw [getChan_modChan, h4]

/-- A local term that has not come by the deadline is a fault (R262). -/
theorem deadlineOp_faults {c w r : Nat} {s : State} (ha : (getChan s c).st = .active) (hw : (getChan s c).waitFrom = some w)
    (hd : (getChan s c).deadline ≠ 0) (ht : w + (getChan s c).deadline * 1000 ≤ s.clk.gtc) (hm : (r, Term.localTerm) ∈ chTerms (getChan s c))
    (hp : pickTerm (getChan s c) s.clk.gtc (r, .localTerm) = none) :
    (getChan (deadlineOp c s) c).st = .fault ∧ (getChan (deadlineOp c s) c).cause = 1 := by
  have hin : (r, Term.localTerm) ∈ (chTerms (getChan s c)).filter (fun x => (pickTerm (getChan s c) s.clk.gtc x).isNone) :=
    List.mem_filter.2 ⟨hm, by rw [hp]; rfl⟩
  generalize ht' : deadlineOp c s = t
  unfold deadlineOp at ht'
  extract_lets ch now d missing at ht'
  rw [show ch.waitFrom = some w from hw] at ht'
  dsimp -zeta only at ht'
  rw [if_neg (by simp [ch, now, d, ha, hd, ht])] at ht'
  extract_lets hard at ht'
  obtain ⟨⟨q, e⟩, he⟩ : ∃ x, hard = some x := Option.isSome_iff_exists.1 (List.find?_isSome.2 ⟨_, hin, rfl⟩)
  rw [he] at ht'
  rw [← ht', chanFault_chan]
  exact ⟨rfl, rfl⟩

/-- The optimiser takes the unit that is reduced (R265). -/
theorem updateOne_updates {c u : Nat} {sum : List W32} {km ks : Nat} {mr sr : Region} {s : State} {x y : List Byte × State}
    (hr : (getChan s c).reduced = [(u, sum)]) (hm : resolve s (chPart (getChan s c)) (getChan s c).mreg = some (km, mr))
    (hs : resolve s (chPart (getChan s c)) (getChan s c).sreg = some (ks, sr))
    (hx : regionBytes { src := 1, part := some (chPart (getChan s c)), ctx := none, pol := 1 } mr
        ((getChan s c).mbase * 64 + u % (getChan s c).units * 256) 256 s = (x.1, true, x.2))
    (hy : regionBytes { src := 1, part := some (chPart (getChan s c)), ctx := none, pol := 1 } sr
        ((getChan s c).sbase * 64 + u % (getChan s c).units * (if chOpt (getChan s c) = 0 then 256 else 512))
        (if chOpt (getChan s c) = 0 then 256 else 512) x.2 = (y.1, true, y.2)) :
    (getChan (updateOne c s) c).updated = u + 1 ∧ (getChan (updateOne c s) c).reduced = [] := by
  generalize ht : updateOne c s = t
  unfold updateOne at ht
  extract_lets ch o opt n who at ht
  rw [show ch.reduced = [(u, sum)] from hr] at ht
  dsimp -zeta only at ht
  extract_lets first pw1 pw2 c1 c2 uo at ht
  rw [show resolve s (chPart ch) ch.mreg = some (km, mr) from hm, show resolve s (chPart ch) ch.sreg = some (ks, sr) from hs] at ht
  dsimp -zeta only at ht
  rw [show regionBytes who mr (ch.mbase * 64 + uo * 256) 256 s = (x.1, true, x.2) from hx] at ht
  dsimp -zeta only at ht
  rw [show regionBytes who sr (ch.sbase * 64 + uo * n) n x.2 = (y.1, true, y.2) from hy] at ht
  dsimp -zeta only at ht
  rw [if_neg (by decide)] at ht
  rw [← ht]
  dsimp only
  rw [getChan_modChan]
  exact ⟨rfl, rfl⟩

/-- Units whose children have room are passed on (R266). -/
theorem transferOne_returns {c : Nat} {s : State} (ha : (getChan s c).st = .active) (hn : transferLen (getChan s c) ≠ 0)
    (hl : lagging s (getChan s c) (transferLen (getChan s c)) = []) :
    (getChan (transferOne c s) c).outQ = (getChan s c).outQ.drop (transferLen (getChan s c)) ∧
      (getChan (transferOne c s) c).returned = (if (getChan s c).returned + transferLen (getChan s c) = chParams (getChan s c) then 0
        else (getChan s c).returned + transferLen (getChan s c)) := by
  have hd : ∀ u, ((getChan (stepDone c u) c).outQ, (getChan (stepDone c u) c).returned) = ((getChan u c).outQ, 0) := fun u => by
    have hc : (noteDone c u).chans = u.chans := by
      rw [noteDone]
      split <;> rfl
    rw [stepDone, getChan_modChan]
    exact congrArg (fun t : Tbl Chan => ((tget {} t c).outQ, 0)) hc
  generalize ht : transferOne c s = t
  unfold transferOne at ht
  extract_lets ch n us who s1 s2 s3 at ht
  rw [if_neg (by simp [ch, n, ha, hn, hl])] at ht
  have h1 : s1.chans = s.chans := by
    refine foldl_keeps (g := State.chans) (fun v x => ?_) us s
    extract_lets o v1 v2
    have e1 : v1.chans = v.chans := foldl_keeps (g := State.chans) (fun _ _ => queueFrame_chans ..) _ v
    have e2 : v2.chans = v1.chans := by
      dsimp only [v2]
      split
      · exact (beside_fields (freeBody_beside ..)).1
      · rfl
    split
    · exact (memChange_chans (memChange_regionWrite ..)).trans (e2.trans e1)
    · exact e2.trans e1
  have h2 : s2.chans = s.chans := by
    dsimp only [s2]
    split
    · exact (chargeRegion_chans ..).trans h1
    · exact h1
  have h3 : getChan s3 c = withOut ((getChan s c).outQ.drop n) { getChan s c with returned := (getChan s c).returned + n } := by
    dsimp only [s3]
    rw [getChan_modChan, getChan, h2, ← getChan]
  rw [← ht]
  by_cases hr : ch.returned + n = chParams ch
  · obtain ⟨e1, e2⟩ := Prod.mk.inj (hd s3)
    rw [if_pos hr, if_pos hr, e1, e2, h3]
    exact ⟨rfl, rfl⟩
  · rw [if_neg hr, if_neg hr, h3]
    exact ⟨rfl, rfl⟩

/-- Settles O40: the channel after each piece of a node's work. -/
theorem channelWork : Obligations.ChannelWork := by
  unfold Obligations.ChannelWork
  intro c s ha
  refine ⟨fun ps ht hu hp => ⟨_, rfl, foldOne_folds ha ht hu hp⟩, fun w r hw hd ht hm hp => ⟨_, rfl, deadlineOp_faults ha hw hd ht hm hp⟩,
    fun u sum km ks mr sr x y hr hm hs hx hy => ⟨_, rfl, ?_⟩, fun n hn h0 hl => ⟨_, rfl, ?_⟩, fun g hg hn hl ht => ⟨_, rfl, ?_⟩⟩
  · obtain ⟨h1, h2⟩ := updateOne_updates hr hm hs hx hy
    have hi : updateOne c (updateOne c s) = updateOne c s := by rw [updateOne, h2]
    have hk : ∀ n, updateMany c n (updateOne c s) = updateOne c s := fun n => by
      induction n with
      | zero => rfl
      | succ n ih => rw [updateMany, hi, ih, ite_self]
    rw [updateMany, if_pos ha, hk]
    exact ⟨h1, h2⟩
  · subst hn
    exact transferOne_returns ha h0 hl
  · obtain ⟨l, r, hlr⟩ := List.exists_cons_of_ne_nil hl
    have ht' : transferTimeout c s = chanFault c 3 l (termRank (getChan s c) l) (chRank (getChan s c))
        (paramUnit (getChan s c) (((getChan s c).outQ.map (·.offset)).headD 0)) true s := by
      rw [transferTimeout, hg, hlr]
      exact if_pos ⟨ha, hn, ht⟩
    rw [ht', chanFault_chan]
    exact ⟨rfl, rfl⟩

end Sys2Proof.Machine

end

section
/-! SUPPORT. Management messages of a link, and messages that no rule knows (R244, R250 to R252). -/

-- One proof after another: many at a time need more memory than the check of the whole text has.
set_option Elab.async false

namespace Sys2Proof.Machine

theorem modLink_view {γ : Type} {h : Link → γ} {l : Nat} {f : Link → Link} (hf : ∀ x, h (f x) = h x) (k : Nat) (s : State) :
    h (getLink (modLink l f s) k) = h (getLink s k) := by
  obtain rfl | hk := eq_or_ne l k
  · rw [getLink_modLink, hf]
  · rw [getLink_modLink_other _ _ hk]

theorem freeBody_view {γ : Type} {h : Link → γ} (hh : ∀ (x : Link) c g n, h { x with ctrl := c, given := g, creditFrom := n } = h x)
    (l n k : Nat) (s : State) : h (getLink (freeBody l n s) k) = h (getLink s k) := by
  refine (modLink_view (fun x => ?_) k _).trans (modLink_view (fun x => hh x x.ctrl _ _) k s)
  split
  · rfl
  · exact hh x _ x.given x.creditFrom

theorem queueFrame_view {γ : Type} {h : Link → γ} (hh : ∀ (x : Link) q, h { x with queue := q } = h x) (l : Nat) (f : Frame) (k : Nat) (s : State) :
    h (getLink (queueFrame l f s) k) = h (getLink s k) :=
  state_ite (g := fun t => h (getLink t k)) (modLink_view (fun x => hh x _) k s) rfl

/-- A record enters the log, or is counted as suppressed (R389). -/
theorem logDeferred_counts (code : Nat) (u p : Option Nat) (ctx : List (Nat × Nat)) (s : State) :
    (logDeferred code u p ctx s).log.head = (s.log.head + 1) % 2 ^ 32 ∨
      (logDeferred code u p ctx s).log.suppressed = satAdd 0xFFFF s.log.suppressed 1 := by
  have hw : ∀ r, (writeRec r s).log.head = (s.log.head + 1) % 2 ^ 32 := fun r => by
    unfold writeRec
    simp only [apply_ite State.log, signal_log, ite_self]
  rw [logDeferred, logRec]
  split
  · exact .inr rfl
  · exact .inl (hw _)

/-- A violation counts on the link, and shows in no channel and not in the number of the next frame (R250). -/
theorem violation_counts {code : Nat} (hc : code ≠ 0) (l typ seq chan gen : Nat) (s : State) :
    (getLink (violation l code typ seq chan gen s) l).viol = satAdd 0xFFFF (getLink s l).viol 1 ∧
      (getLink (violation l code typ seq chan gen s) l).violLast = code ∧
      (getLink (violation l code typ seq chan gen s) l).rxSeq = (getLink s l).rxSeq ∧ (violation l code typ seq chan gen s).chans = s.chans := by
  obtain ⟨u, hu⟩ : ∃ u, u = modLink l (fun x => { x with viol := satAdd 0xFFFF x.viol 1, violLast := if code = 0 then x.violLast else code }) s :=
    ⟨_, rfl⟩
  have hv : ((getLink (violation l code typ seq chan gen s) l).viol, (getLink (violation l code typ seq chan gen s) l).violLast,
      (getLink (violation l code typ seq chan gen s) l).rxSeq) = ((getLink u l).viol, (getLink u l).violLast, (getLink u l).rxSeq) ∧
      (violation l code typ seq chan gen s).chans = u.chans := by
    rw [violation, ← hu, if_neg hc]
    refine pred_ite (P := fun t => ((getLink t l).viol, (getLink t l).violLast, (getLink t l).rxSeq) =
      ((getLink u l).viol, (getLink u l).violLast, (getLink u l).rxSeq) ∧ t.chans = u.chans) ?_ ⟨rfl, rfl⟩
    rw [violRecord, getLink, logDeferred_links, ← getLink, logDeferred_chans]
    exact ⟨(queueFrame_view (h := fun x => (x.viol, x.violLast, x.rxSeq)) (fun _ _ => rfl) ..).trans
      (modLink_view (h := fun x => (x.viol, x.violLast, x.rxSeq)) (f := fun x => { x with errorGtc := some u.clk.gtc }) (fun _ => rfl) l u),
      queueFrame_chans ..⟩
  simp only [Prod.mk.injEq] at hv
  obtain ⟨⟨h1, h2, h3⟩, h4⟩ := hv
  rw [h1, h2, h3, h4, hu, getLink_modLink, if_neg hc]
  exact ⟨rfl, rfl, rfl, rfl⟩

/-- Commands that land may be ended by any function that does the same in the states that the landing passes through. -/
theorem land_congr {I : State → Prop} {p : FlightKind → Bool} {f g : CmdRef → State → State} (h : ∀ r s, I s → f r s = g r s ∧ I (g r s))
    {s : State} (hs : I s) : land p f s = land p g s := by
  rw [land, land]
  generalize s.flights.filter (fun x => p x.kind) = l
  induction l generalizing s with
  | nil => rfl
  | cons x r ih =>
    obtain ⟨h1, h2⟩ := h (refOf x) s hs
    rw [List.foldl_cons, List.foldl_cons, h1]
    exact ih h2

theorem getLink_completes {s t : State} (h : Completes s t) (k : Nat) : getLink t k = getLink s k :=
  (congrArg (fun w => getLink w k) (workView_completes h) :)

/-- A drain that ends without the link drained (R244): the link stays as it is, and each command for it is answered. -/
theorem drainEnds_ends (l : Nat) (st : Status) (s : State) : (getLink (drainEnds l st s) l).drain = false ∧
    (getLink (drainEnds l st s) l).st = (getLink s l).st ∧
    ∀ x ∈ s.flights, x.kind = .link l true → Replied (refOf x) st (linkCode (getLink s l).st) s (drainEnds l st s) := by
  obtain ⟨u, hu⟩ : ∃ u, u = modLink l (fun x => { x with drain := false, drainOk := false }) s := ⟨_, rfl⟩
  obtain ⟨g, hg⟩ : ∃ g : CmdRef → State → State, g = fun r w => if st = .busy then finish r st (linkCode (getLink s l).st) noRec w
      else finishErrR r st 7 l 5 (linkCode (getLink s l).st) w := ⟨_, rfl⟩
  have hg1 : ∀ r w, Completes w (g r w) := fun r w => by
    rw [hg]
    exact pred_ite (P := Completes w) (finish_completes ..) (finishRecR_completes r st none ..)
  have hg2 : ∀ r w, Replied r st (linkCode (getLink s l).st) w (g r w) := fun r w => by
    rw [hg]
    exact pred_ite (P := Replied r st _ w) (finish_replied ..)
      (replied_between (completes_mem (memChange_log (writeRec_shape _ w))) (finish_replied ..) (completes_refl _))
  have hd : drainEnds l st s = land (fun k => k == .link l true) g u := by
    rw [drainEnds, ← hu]
    refine land_congr (I := fun w => (getLink w l).st = (getLink s l).st) (fun r w hw => ⟨?_, ?_⟩) ?_
    · rw [hg, hw]
    · rw [← hw, getLink_completes (hg1 r w)]
    · rw [hu, getLink_modLink]
  have hl : getLink (land (fun k => k == .link l true) g u) l = getLink u l := by
    exact getLink_completes (land_completes hg1 _ u) l
  rw [hd, hl, hu, getLink_modLink, ← hu]
  refine ⟨rfl, rfl, fun x hx hk => replied_later (t := u) (later_of_eq ?_ ?_) (land_replied hg1 hg2 ?_ hk) (later_of_eq rfl rfl)⟩
  · rw [hu, modLink_out]
  · rw [hu, modLink_pcie]
  · rwa [hu, modLink_flights]

/-- A message in order shows in what its rule does with the link and with the rest of the state. -/
theorem acceptMsg_link {γ : Type} {h : Link → γ} (hh : ∀ (x : Link) c g n, h { x with ctrl := c, given := g, creditFrom := n } = h x)
    {l seq : Nat} {s : State} (hi : InOrder l seq 2 s) (hs : seq < 4096) (typ chan gen : Nat) (f : State → State) :
    ∃ u, (∀ w, h (getLink (announce w (acceptMsg l seq typ chan gen f s)) l) = h (getLink (f u) l)) ∧
      h (getLink (acceptMsg l seq typ chan gen f s) l) = h (getLink (f u) l) ∧ besideLinks u = besideLinks s ∧
      msgView (getLink u l) = msgView (getLink s l) ∧ (getLink u l).rxSeq = ((getLink s l).rxSeq + 1) % 4096 ∧
      besideLinks (acceptMsg l seq typ chan gen f s) = besideLinks (f u) := by
  obtain ⟨u, hu, hb, hv, hr⟩ := acceptMsg_inOrder hi hs typ chan gen f
  rw [hu]
  exact ⟨u, fun w => (congrArg h (getLink_announce ..)).trans (freeBody_view hh ..), freeBody_view hh .., hb, hv l, hr, freeBody_beside ..⟩

theorem msgView_fields {x y : Link} (h : msgView x = msgView y) : x.st = y.st ∧ x.queue = y.queue ∧ x.drain = y.drain ∧ x.unacked = y.unacked ∧
    x.viol = y.viol :=
  ⟨congrArg (·.1) h, congrArg (·.2.1) h, congrArg (·.2.2.1) h, congrArg (·.2.2.2.1) h, congrArg (·.2.2.2.2.1) h⟩

def drainView (x : Link) : LinkSt × Bool × Bool × Nat := (x.st, x.drain, x.drainOk, x.rxSeq)

theorem drainView_fields {x y : Link} (h : drainView x = drainView y) : x.drain = y.drain ∧ x.drainOk = y.drainOk ∧ x.rxSeq = y.rxSeq :=
  ⟨congrArg (·.2.1) h, congrArg (·.2.2.1) h, congrArg (·.2.2.2) h⟩

/-- A partner's drain is taken up where no channel goes over the link, and refused where one does (R244). -/
theorem quiesceOp_drains (l : Nat) (u : State) :
    (routesOver u l = false → (getLink (quiesceOp l u) l).drain = true ∧ (getLink (quiesceOp l u) l).drainOk = true ∧
      (getLink (quiesceOp l u) l).rxSeq = (getLink u l).rxSeq) ∧
    (routesOver u l = true → (getLink u l).st = .active → (getLink (quiesceOp l u) l).queue = (getLink u l).queue ++ [.msg .quiesceRefuse] ∧
      (getLink (quiesceOp l u) l).drain = (getLink u l).drain) := by
  refine ⟨fun h => ?_, fun h ha => ?_⟩
  · rw [quiesceOp, if_neg (by rw [h]; exact Bool.false_ne_true), getLink_modLink]
    exact ⟨rfl, rfl, queueFrame_view (h := Link.rxSeq) (fun _ _ => rfl) ..⟩
  · rw [quiesceOp, if_pos h, queueFrame]
    simp only [ha, true_or, if_true, getLink_modLink, and_self]

/-- The link is drained once the partner has agreed and everything sent is acknowledged. -/
theorem drainDoneCheck_drains {l : Nat} {s : State} (h : (getLink s l).st = .active) (hd : (getLink s l).drain = true)
    (ho : (getLink s l).drainOk = true) (hu : (getLink s l).unacked = []) :
    (getLink (drainDoneCheck l s) l).st = .drained ∧ (getLink (drainDoneCheck l s) l).drain = false := by
  rw [drainDoneCheck]
  simp only [h, hd, ho, hu, and_self, if_true]
  rw [getLink_completes (land_ok_completes ..), getLink_modLink]
  exact ⟨rfl, rfl⟩

/-- What a link that waits for its drain does with the partner's agreement. -/
def drainAgreed (l : Nat) (s : State) : State :=
  if (getLink s l).drain then drainDoneCheck l (modLink l (fun x => { x with drainOk := true }) s) else s

theorem drainOk_drains {l : Nat} {s : State} (h : (getLink s l).st = .active) (hd : (getLink s l).drain = true)
    (hu : (getLink s l).unacked = []) : (getLink (drainAgreed l s) l).st = .drained ∧ (getLink (drainAgreed l s) l).drain = false := by
  rw [drainAgreed, if_pos hd]
  refine drainDoneCheck_drains ?_ ?_ ?_ ?_ <;> rw [getLink_modLink]
  exacts [h, hd, hu]

/-- Settles O36: a message in order shows in the link as its rule says, and what no rule knows is a violation or a record. -/
theorem linkManagementMessages : Obligations.LinkManagementMessages := by
  unfold Obligations.LinkManagementMessages
  refine ⟨fun l seq s hi hs => ⟨fun hr => ?_, fun hr ha => ?_, fun hd ha hu => ?_, fun hd => ?_, fun entry => ?_, fun chan bad hb => ?_⟩,
    fun l seq chan bad s hq hf hb hm => ?_, fun l seq chan typ s hf => ?_, fun l s hd hg => ?_⟩
  · obtain ⟨u, hv, -, hb, -, hx, -⟩ := acceptMsg_link (h := drainView) (fun _ _ _ _ => rfl) hi hs 5 0 0 (quiesceOp l)
    obtain ⟨hc, -⟩ := beside_fields hb
    obtain ⟨h1, h2, h3⟩ := (quiesceOp_drains l u).1 (by rw [routesOver, hc]; exact hr)
    obtain ⟨hd, ho, hn⟩ := drainView_fields (hv s)
    exact ⟨_, rfl, hd.trans h1, ho.trans h2, hn.trans (h3.trans hx)⟩
  · obtain ⟨u, hv, -, hb, hm, -⟩ := acceptMsg_link (h := fun x => (x.queue, x.drain)) (fun _ _ _ _ => rfl) hi hs 5 0 0 (quiesceOp l)
    obtain ⟨hc, -⟩ := beside_fields hb
    obtain ⟨hst, hqu, hdr, -⟩ := msgView_fields hm
    obtain ⟨hv1, hv2⟩ := Prod.mk.inj (hv s)
    obtain ⟨h1, h2⟩ := (quiesceOp_drains l u).2 (by rw [routesOver, hc]; exact hr) (hst.trans ha)
    exact ⟨_, rfl, hv1.trans (h1.trans (congrArg (· ++ _) hqu)), hv2.trans (h2.trans hdr)⟩
  · obtain ⟨u, hv, -, -, hm, -⟩ := acceptMsg_link (h := fun x => (x.st, x.drain)) (fun _ _ _ _ => rfl) hi hs 5 0 0 (drainAgreed l)
    obtain ⟨hst, -, hdr, hun, -⟩ := msgView_fields hm
    obtain ⟨hv1, hv2⟩ := Prod.mk.inj (hv s)
    obtain ⟨h1, h2⟩ := drainOk_drains (hst.trans ha) (hdr.trans hd) (hun.trans hu)
    exact ⟨_, rfl, hv1.trans h1, hv2.trans h2⟩
  · obtain ⟨u, hv, -, -, hm, -⟩ := acceptMsg_link (h := fun x => (x.st, x.drain)) (fun _ _ _ _ => rfl) hi hs 5 0 0
      (fun s => if (getLink s l).drain then drainEnds l .busy s else s)
    obtain ⟨hst, -, hdr, -⟩ := msgView_fields hm
    obtain ⟨hv1, hv2⟩ := Prod.mk.inj (hv s)
    obtain ⟨h1, h2, -⟩ := drainEnds_ends l .busy u
    rw [if_pos (hdr.trans hd)] at hv1 hv2
    exact ⟨_, rfl, hv2.trans h1, hv1.trans (h2.trans hst)⟩
  · obtain ⟨u, -, hv, hb, -, hx, ht⟩ := acceptMsg_link (h := Link.rxSeq) (fun _ _ _ _ => rfl) hi hs 6 0 0
      (logDeferred 0x0602 (some l) none [(0, entry.toNat), (8, 1)])
    obtain ⟨tc, tp, -, -, tm, tl, -⟩ := beside_fields ht
    obtain ⟨uc, up, -, -, um, ul, -⟩ := beside_fields hb
    refine ⟨_, congrArg Host.Outcome.next (if_neg (not_not.2 (Nat.div_eq_of_lt hs))), ?_⟩
    rw [tl, ← ul]
    exact ⟨hv.trans ((congrArg (fun x => (tget {} x l).rxSeq) (logDeferred_links ..)).trans hx), tp.trans ((logDeferred_parts ..).trans up),
      tc.trans ((logDeferred_chans ..).trans uc), tm.trans ((logDeferred_mem ..).trans um), logDeferred_counts ..⟩
  · have hviol : ∀ typ c, ∃ t, acceptMsg l seq typ chan 0 (violation l 3 typ seq c 0) s = t ∧
        (getLink t l).viol = satAdd 0xFFFF (getLink s l).viol 1 ∧ (getLink t l).violLast = 3 ∧ t.chans = s.chans := fun typ c => by
      obtain ⟨u, -, hv, hbs, hm, -, ht⟩ := acceptMsg_link (h := fun x => (x.viol, x.violLast)) (fun _ _ _ _ => rfl) hi hs typ chan 0
        (violation l 3 typ seq c 0)
      obtain ⟨h1, h2, -, h4⟩ := violation_counts (code := 3) (by decide) l typ seq c 0 u
      obtain ⟨-, -, -, -, hvi⟩ := msgView_fields hm
      obtain ⟨hv1, hv2⟩ := Prod.mk.inj hv
      exact ⟨_, rfl, hv1.trans (h1.trans (congrArg (satAdd 0xFFFF · 1) hvi)), hv2.trans h2,
        (beside_fields ht).1.trans (h4.trans (beside_fields hbs).1)⟩
    cases bad with
    | kind => exact (hviol 5 chan).imp fun _ h => ⟨congrArg Host.Outcome.next h.1, h.2⟩
    | count => exact (hviol 5 0).imp fun _ h => ⟨congrArg Host.Outcome.next h.1, h.2⟩
    | errorCount => exact (hviol 6 0).imp fun _ h => ⟨congrArg Host.Outcome.next h.1, h.2⟩
    | reserved typ => exact absurd rfl (hb typ)
  · have hviol : ∀ typ c, ∃ t, acceptMsg l seq typ chan 0 (violation l 3 typ seq c 0) s = t ∧
        (getLink t l).viol = satAdd 0xFFFF (getLink s l).viol 1 ∧ (getLink t l).rxSeq = (getLink s l).rxSeq ∧ t.chans = s.chans := fun typ c => by
      have ha : acceptMsg l seq typ chan 0 (violation l 3 typ seq c 0) s = violation l 3 typ seq c 0 s := by
        rw [acceptMsg, if_neg (by omega), hf, hm, if_pos (by simp)]
      obtain ⟨h1, -, h3, h4⟩ := violation_counts (code := 3) (by decide) l typ seq c 0 s
      exact ⟨_, ha, h1, h3, h4⟩
    cases bad with
    | kind => exact (hviol 5 chan).imp fun _ h => ⟨congrArg Host.Outcome.next h.1, h.2⟩
    | count => exact (hviol 5 0).imp fun _ h => ⟨congrArg Host.Outcome.next h.1, h.2⟩
    | errorCount => exact (hviol 6 0).imp fun _ h => ⟨congrArg Host.Outcome.next h.1, h.2⟩
    | reserved typ => exact absurd rfl (hb typ)
  · exact ⟨_, congrArg Host.Outcome.next (if_pos hf), logDeferred_links .., logDeferred_chans .., logDeferred_counts ..⟩
  · obtain ⟨h1, h2, h3⟩ := drainEnds_ends l .timeout s
    refine ⟨_, congrArg Host.Outcome.next (congrArg (announce s) (if_pos ⟨hd, hg⟩)), ?_⟩
    rw [getLink_announce]
    exact ⟨h1, h2, fun x hx hk => replied_announce (h3 x hx hk)⟩

end Sys2Proof.Machine

end

section
/-! SUPPORT. Fabric time: stamps, and the root that a module hears or becomes (R246 to R250). -/

-- One proof after another: many at a time need more memory than the check of the whole text has.
set_option Elab.async false

namespace Sys2Proof.Machine

theorem queueCtrl_keeps (l : Nat) (m : Ctrl) (s : State) {k : Nat} {c : Ctrl} (h : c ∈ (getLink s k).ctrl) :
    c ∈ (getLink (queueCtrl l m s) k).ctrl := by
  rw [queueCtrl]
  obtain rfl | hk := eq_or_ne l k
  · rw [getLink_modLink]
    split
    · exact h
    · exact List.mem_append_left _ h
  · rwa [getLink_modLink_other _ _ hk]

theorem queueCtrl_mem (l : Nat) (m : Ctrl) (s : State) : m ∈ (getLink (queueCtrl l m s) l).ctrl := by
  rw [queueCtrl, getLink_modLink]
  split
  · next h => exact List.contains_iff_mem.1 h
  · exact List.mem_append_right _ (List.mem_singleton_self m)

theorem queueCtrl_st (l : Nat) (m : Ctrl) (k : Nat) (s : State) : (getLink (queueCtrl l m s) k).st = (getLink s k).st :=
  modLink_view (h := Link.st) (fun x => by split <;> rfl) k s

/-- The root is advertised on a link that is up (R248). -/
def advertise (s : State) (l : Nat) : State := if (getLink s l).st = .active then queueCtrl l .root s else s

theorem advertise_st (s : State) (l k : Nat) : (getLink (advertise s l) k).st = (getLink s k).st :=
  state_ite (g := fun t => (getLink t k).st) (queueCtrl_st ..) rfl

theorem advertise_keeps (s : State) (l : Nat) {k : Nat} (h : .root ∈ (getLink s k).ctrl) : .root ∈ (getLink (advertise s l) k).ctrl :=
  pred_ite (P := fun t => .root ∈ (getLink t k).ctrl) (queueCtrl_keeps l .root s h) h

theorem advertised {ls : List Nat} {l : Nat} (hl : l ∈ ls) {s : State} (h : (getLink s l).st = .active) :
    .root ∈ (getLink (ls.foldl advertise s) l).ctrl := by
  obtain ⟨before, after, rfl⟩ := List.append_of_mem hl
  have hs : (getLink (before.foldl advertise s) l).st = .active :=
    (foldl_keeps (g := fun t => (getLink t l).st) (fun t k => advertise_st t k l) before s).trans h
  rw [List.foldl_append, List.foldl_cons, advertise.eq_def _ l, if_pos hs]
  have hu : .root ∈ (getLink (queueCtrl l .root (before.foldl advertise s)) l).ctrl := queueCtrl_mem ..
  clear hl
  generalize queueCtrl l .root (before.foldl advertise s) = u at hu ⊢
  induction after generalizing u with
  | nil => exact hu
  | cons k r ih => exact ih _ (advertise_keeps u k hu)

theorem advertise_fab (ls : List Nat) (s : State) : (ls.foldl advertise s).fab = s.fab :=
  foldl_keeps (g := State.fab) (fun t l => (state_ite (g := State.fab) rfl rfl : (advertise t l).fab = t.fab)) ls s

theorem setParent_link {γ : Type} {h : Link → γ} (hh : ∀ (x : Link) b, h { x with parent := b } = h x) (v : Option Nat) (k : Nat) (s : State) :
    h (getLink (setParent v s) k) = h (getLink s k) := by
  have hf : ∀ (w : State) f, getLink { w with fab := f } k = getLink w k := fun _ _ => rfl
  rw [setParent, hf]
  generalize List.range 32 = ls
  exact foldl_keeps (g := fun t => h (getLink t k)) (fun t _ => modLink_view (fun x => hh x _) k t) ls s

theorem chooseRoot_link {γ : Type} {h : Link → γ} (hh : ∀ (x : Link) b, h { x with parent := b } = h x) (k : Nat) (s : State) :
    h (getLink (chooseRoot s) k) = h (getLink s k) := by
  have ht : ∀ n w, h (getLink (setTime n w) k) = h (getLink w k) := fun _ _ => rfl
  have hf : ∀ n (w : State) f, h (getLink (setTime n { w with fab := f }) k) = h (getLink w k) := fun _ _ _ => rfl
  have hp := fun v w => setParent_link hh v k w
  unfold chooseRoot
  extract_lets own best parent st fab far lone s1 fab1
  have h1 : h (getLink s1 k) = h (getLink s k) := hp ..
  have hl : ∀ w, h (getLink (lone w) k) = h (getLink w k) := by
    unfold lone
    clear_value far own
    intro w
    split <;> rfl
  clear_value parent lone s1
  split
  · next p i n l =>
    extract_lets s2
    have h2 : h (getLink s2 k) = h (getLink s k) := hp ..
    clear_value s2
    exact state_ite (g := fun t => h (getLink t k)) ((ht ..).trans h2) (state_ite (g := fun t => h (getLink t k)) ((ht ..).trans h2) h2)
  · exact state_ite (g := fun t => h (getLink t k)) (state_ite (g := fun t => h (getLink t k)) ((hl _).trans h1) ((hf ..).trans h1))
      (state_ite (g := fun t => h (getLink t k)) h1 ((hl _).trans h1))

/-- A link hears, beyond the hops that count, a root that is better than this module. -/
def hearsFar (s : State) (l : Nat) : Bool :=
  match heardFar s l with
  | some a => betterRoot a (s.fab.rootPrio, s.ident.fabId)
  | none => false

/-- Where no root is heard the module becomes the root, or waits where a better root is heard too far away (R247, R249). -/
theorem chooseRoot_unheard {s : State} (hb : bestHeard s = none) (hp : s.fab.rootPrio ≠ 0) (h1 : s.clk.timeState ≠ 1)
    (h2 : s.clk.timeState ≠ 2) (h3 : s.clk.timeState ≠ 3) :
    chooseRoot s = if (List.range 32).any (hearsFar s) then
      setTime 0 { setParent none s with fab := { (setParent none s).fab with hops := 0, rootId := 0, rootPrioOf := 0 } }
    else setTime 4 { setParent none s with fab := { (setParent none s).fab with hops := 0, rootId := s.ident.fabId, rootPrioOf := s.fab.rootPrio } } := by
  unfold chooseRoot
  extract_lets own best parent st fab far lone s1 fab1
  have hn : parent = none := by
    unfold parent best
    rw [hb]
  have ho : own = some (s.fab.rootPrio, s.ident.fabId) := if_neg hp
  have hf : far = (List.range 32).any (hearsFar s) := by
    unfold far
    rw [ho]
    refine congrArg (List.any _) (funext fun l => ?_)
    rw [hearsFar]
    cases heardFar s l <;> rfl
  rw [hn]
  dsimp only
  rw [if_neg (not_or.2 ⟨h1, h2⟩), if_neg h3]
  unfold lone
  rw [hf, ho]
  cases (List.range 32).any (hearsFar s) <;> rfl

theorem hearsFar_none {s : State} (h : ∀ l < 32, ∀ a, heardFar s l = some a → betterRoot a (s.fab.rootPrio, s.ident.fabId) = false) :
    (List.range 32).any (hearsFar s) = false := by
  rw [List.any_eq_false]
  intro l hl
  rw [hearsFar]
  split
  · next a ha => rw [h l (List.mem_range.1 hl) a ha]; exact Bool.false_ne_true
  · exact Bool.false_ne_true

theorem hearsFar_some {s : State} {l : Nat} {a : Nat × Nat} (hl : l < 32) (h : heardFar s l = some a)
    (hb : betterRoot a (s.fab.rootPrio, s.ident.fabId) = true) : (List.range 32).any (hearsFar s) = true :=
  List.any_eq_true.2 ⟨l, List.mem_range.2 hl, by rw [hearsFar, h]; exact hb⟩

/-- A stamp that came back adds an offset, and moves no clock before sixteen are there (R249). -/
theorem timeOp_measures {l t2 t3 frac : Nat} {s : State} (hp : s.fab.parent = some l) (ht : s.clk.timeState = 1) (hn : s.fab.offsets.length < 15) :
    (timeOp l t2 t3 frac s).clk = s.clk ∧ (timeOp l t2 t3 frac s).fab.offsets =
      (stampDiff t2 (getLink s l).t1 - stampDiff (stamp s frac) t3).fdiv 2 :: s.fab.offsets := by
  unfold timeOp
  extract_lets t4 ofs os mean fab s1
  have hos : os = ofs :: s.fab.offsets := List.take_of_length_le (by rw [List.length_cons]; omega)
  have hlen : ¬os.length = 16 := by rw [hos, List.length_cons]; omega
  rw [if_neg (not_not.2 hp), ht]
  rw [if_neg (fun h => hlen h.1)]
  exact ⟨rfl, hos⟩

/-- Settles O34: what is sent stays on the link's list, and the choice of the root turns on what is heard, near and far. -/
theorem fabricTime : Obligations.FabricTime := by
  unfold Obligations.FabricTime
  refine fun s => ⟨fun l t1 t2 t3 hf => ⟨_, congrArg Host.Outcome.next (if_pos hf), queueCtrl_mem .., fun m hm => queueCtrl_keeps _ _ s hm⟩,
    fun l t2 t3 t4 hf hp ht hn => ⟨_, congrArg (fun x => Host.Outcome.next (announce s x)) (if_pos hf), ?_⟩,
    fun l hops prio id hf => ⟨_, congrArg (fun x => Host.Outcome.next (announce s x)) (if_pos hf), ?_⟩,
    fun l hl ha => ⟨_, rfl, ?_, ?_⟩, fun l t1 hp hf => ?_,
    fun hb hr h1 h2 h3 => ⟨fun hn => ⟨_, rfl, ?_⟩, fun ⟨l, hl, a, ha, hba⟩ => ⟨_, rfl, ?_⟩⟩, fun hb hr h3 hn hg => ?_⟩
  · rw [announce_clk, announce_fab]
    exact timeOp_measures hp ht hn
  · rw [getLink_announce, chooseRoot_link (h := Link.root) (fun _ _ => rfl), getLink_modLink]
  · rw [getLink_announce]
    exact advertised (List.mem_range.2 hl) ha
  · rw [announce_fab]
    exact advertise_fab ..
  · refine ⟨_, congrArg Host.Outcome.next ?_, queueCtrl_mem l (.timeReq (t1 % 16)) s⟩
    rw [hp]
    exact if_pos hf
  · rw [announce_clk, announce_fab, chooseRoot_unheard hb hr h1 h2 h3, hearsFar_none hn]
    exact ⟨rfl, rfl, rfl, rfl⟩
  · rw [announce_clk, announce_fab, chooseRoot_unheard hb hr h1 h2 h3, hearsFar_some hl ha hba]
    exact ⟨rfl, rfl, rfl⟩
  · have hc := chooseRoot_unheard (s := setTime 0 s) hb hr (by decide : (0 : Nat) ≠ 1) (by decide : (0 : Nat) ≠ 2) (by decide : (0 : Nat) ≠ 3)
    refine ⟨_, congrArg (fun x => Host.Outcome.next (announce s x)) (if_pos ⟨h3, hg⟩), ?_⟩
    rw [announce_clk, announce_fab, hc, hearsFar_none (s := setTime 0 s) hn]
    exact ⟨rfl, rfl⟩

end Sys2Proof.Machine

end

section
/-! SUPPORT. The commands on a region's placement (R222 to R227). -/

-- One proof after another: many at a time need more memory than the check of the whole text has.
set_option Elab.async false

namespace Sys2Proof.Machine

theorem getReg_of_regions {s t : State} (h : t.regions = s.regions) (key : Nat) : getReg t key = getReg s key :=
  congrArg (tget ({} : Region) · key) h

theorem resolveAux_of_regions {s t : State} (h : t.regions = s.regions) (n key : Nat) : resolveAux t n key = resolveAux s n key := by
  induction n generalizing key with
  | zero => rfl
  | succ n ih =>
    rw [resolveAux, resolveAux, getReg_of_regions h]
    cases (getReg s key).attached with
    | none => rfl
    | some x =>
      dsimp only
      rw [ih]

theorem regions_completes {s t : State} (h : Completes s t) : t.regions = s.regions := (congrArg State.regions (workView_completes h) :)

theorem onRegion_bound {r : CmdRef} {p n key : Nat} {g : Region} {f : Region → Nat → Region → State → State} {s : State}
    (hr : resolve s p n = some (key, g)) (hb : (getReg s (regKey p n)).bound = true) : onRegion r p n f s = f (getReg s (regKey p n)) key g s := by
  rw [onRegion, hr]
  exact if_pos hb

/-- A region is pinned, or has its loaded setting again. -/
def pinRegion (f : Region → Bool) (key : Nat) (s : State) : State := modReg key (fun g => { g with pinned := f g }) s

theorem pinRegion_pinned (f : Region → Bool) (key : Nat) (s : State) : (getReg (pinRegion f key s) key).pinned = f (getReg s key) :=
  congrArg Region.pinned (getReg_modReg ..)

theorem okReplied {h : CmdHdr} {s u : State} (hl : Later (taken h s) u) (r : CmdRef) (v : Nat) :
    (∀ k, getReg (announce s (finishOk r v u)) k = getReg u k) ∧ Replied r .ok v s (announce s (finishOk r v u)) :=
  ⟨getReg_of_regions ((announce_regions ..).trans (regions_completes (finish_completes ..))), replied_command hl (finish_replied ..)⟩

/-- Settles O13: each form of the command reaches the region that the handle names. -/
theorem regionMapCommands : Obligations.RegionMapCommands := by
  unfold Obligations.RegionMapCommands
  intro h part handle s hp hh
  have hres : ∀ p n, resolve (taken h s) p n = resolve s p n := fun _ _ => resolveAux_of_regions (taken_regions h s) ..
  have hreg : ∀ n, getReg (taken h s) n = getReg s n := getReg_of_regions (taken_regions h s)
  refine ⟨fun key g hr hb => ?_, fun sp sh k g hsp hsh hne hst ha hgb hr hi hz => ?_⟩
  · have hon : ∀ f : Region → Nat → Region → State → State, onRegion (slotOf h 0x20 s) part handle f (taken h s) =
        f (getReg s (regKey part handle)) key g (taken h s) := by
      intro f
      rw [onRegion_bound ((hres ..).trans hr) ((congrArg Region.bound (hreg _)).trans hb), hreg]
    have hrun : ∀ {c : CmdSpec} {f : CmdRef → Region → Nat → Region → State → State}, Accepted h c s → c.op = 0x20 → command h { c with params := decide (part < 4 ∧ handle < 65536) }
        (fun r s => onRegion r part handle (f r) s) s = announce s (f (slotOf h 0x20 s) (getReg s (regKey part handle)) key g (taken h s)) :=
      fun ha ho => ((command_inRange ha ⟨hp, hh⟩).trans (congrArg (announce s) (by rw [ho, hon])))
    refine ⟨fun ha => ⟨_, congrArg Host.Outcome.next (hrun ha rfl), ?_, ?_⟩, fun ha => ⟨_, congrArg Host.Outcome.next (hrun ha rfl), ?_⟩,
      fun ha => ⟨_, congrArg Host.Outcome.next (hrun ha rfl), ?_⟩⟩
    · exact (announce_regions ..).trans ((regions_completes (finish_completes ..)).trans (taken_regions h s))
    · exact replied_taken (finish_replied ..)
    · obtain ⟨h1, h2⟩ := okReplied (h := h) (s := s) (u := pinRegion (fun _ => true) key (endCopies [key] (taken h s))) (aside_endCopies ..).2
        (slotOf h 0x20 s) (regionResult (getReg s (regKey part handle)) (getReg (pinRegion (fun _ => true) key (endCopies [key] (taken h s))) key))
      exact ⟨(congrArg Region.pinned (h1 key)).trans (pinRegion_pinned ..), _, h2⟩
    · obtain ⟨h1, h2⟩ := okReplied (h := h) (s := s) (u := pinRegion Region.pinFlag key (taken h s)) (later_of_eq rfl rfl) (slotOf h 0x20 s) 0
      exact ⟨(congrArg Region.pinned (h1 key)).trans ((pinRegion_pinned ..).trans (congrArg _ (hreg key))), h2⟩
  · obtain ⟨h1, h2⟩ := okReplied (h := h) (s := s) (u := modReg (regKey part handle) (fun x => { x with attached := some (sp, sh) }) (taken h s))
      (later_of_eq rfl rfl) (slotOf h 0x20 s) 0
    refine ⟨_, congrArg Host.Outcome.next ((command_inRange ha ⟨hp, hh, hsp, hsh, hne⟩).trans (congrArg (announce s) ?_)),
      (congrArg Region.attached (h1 _)).trans (congrArg Region.attached (getReg_modReg ..)), h2⟩
    dsimp only
    rw [getPart_taken, hst, hreg, hgb, hres, hr, hreg, hi]
    exact if_neg (not_lt.2 hz)

end Sys2Proof.Machine

end

section
/-! SUPPORT. Vendor requests inside a session (R356, R357), and what a module-fatal error leaves. -/

-- One proof after another: many at a time need more memory than the check of the whole text has.
set_option Elab.async false

namespace Sys2Proof.Machine

theorem modParts_parts (f : Part → Part) (l : List Nat) (s : State) : ∃ ps, l.foldl (fun s p => modPart p f s) s = { s with parts := ps } := by
  induction l generalizing s with
  | nil => exact ⟨s.parts, rfl⟩
  | cons p l ih =>
    obtain ⟨ps, h⟩ := ih (modPart p f s)
    exact ⟨ps, h⟩

/-- A module-fatal error writes its record, and asks the partitions that run for a cast (R388). -/
theorem moduleFatal_shape (code : Nat) (u : Option Nat) (ctx : List (Nat × Nat)) (s : State) :
    ∃ ps, moduleFatal code u ctx s = { writeRec (mkRec s .moduleFatal code u none ctx) s with parts := ps } := by
  unfold moduleFatal moduleFatalOf
  extract_lets c w
  refine iteInduction (motive := fun t : State => ∃ ps, t = { w with parts := ps }) (fun _ => ⟨w.parts, rfl⟩) fun _ => ?_
  exact modParts_parts _ _ w

theorem writeRec_fatal {r : ErrRec} (h : r.sev = .moduleFatal) (s : State) : (writeRec r s).log.modFatal = true := by
  unfold writeRec
  simp only [apply_ite State.log, signal_log, ite_self, h, decide_true, Bool.or_true]

theorem moduleFatal_fatal (code : Nat) (u : Option Nat) (ctx : List (Nat × Nat)) (s : State) :
    (moduleFatal code u ctx s).log.modFatal = true ∧ Recorded s.log.head code (moduleFatal code u ctx s) ∧
      (moduleFatal code u ctx s).sec = s.sec ∧ s.out <:+ (moduleFatal code u ctx s).out := by
  obtain ⟨ps, h⟩ := moduleFatal_shape code u ctx s
  obtain ⟨g, m, o, hw⟩ := writeRec_shape (mkRec s .moduleFatal code u none ctx) s
  have hs : (writeRec (mkRec s .moduleFatal code u none ctx) s).sec = s.sec := by rw [hw]
  have ho : s.out <:+ (writeRec (mkRec s .moduleFatal code u none ctx) s).out := ⟨o, by rw [hw]⟩
  rw [Recorded, h]
  exact ⟨writeRec_fatal rfl s, congrArg ErrRec.code (writeRec_slot ..), hs, ho⟩

theorem vendorRequest_refused {tr : Transport} {m : SessionMsg} {x : Session} {s : State} (hr : spdmReach s tr = true)
    (hp : spdmPhase s tr = .negotiated) (hx : findSession s tr m.id = some x) (he : x.established = true)
    (hk : sealOk x vendorCode m = true) (hs : s.sec.st ≠ .operational) (f : Session → State → State) :
    vendorRequest tr m f s = answer tr (.vendor 1) (received tr m.id s) := by
  rw [vendorRequest, hr, hx]
  dsimp only
  rw [hp, he, hk]
  simp [hs]

theorem vendorRequest_runs {tr : Transport} {m : SessionMsg} {x : Session} {s : State} (h : InSession tr vendorCode m x s)
    (f : Session → State → State) : vendorRequest tr m f s = f x (received tr m.id s) := by
  obtain ⟨⟨hr, hp, hs⟩, hx, he, hk⟩ := h
  rw [vendorRequest, hr, hx]
  dsimp only
  rw [hp, he, hk, hs]
  simp

theorem mayZeroise_received (tr : Transport) (n : Nat) (s : State) (x : Session) : mayZeroise (received tr n s) x = mayZeroise s x := rfl

/-- Settles O51: in a session that stands each request is answered, and only the ones that may change the block do. -/
theorem vendorRequests : Obligations.VendorRequests := by
  unfold Obligations.VendorRequests
  refine ⟨fun tr m x s hr hp hx he hk hs f keyHash suite reqMaq reqApp ok c hc => ?_, fun tr m x s hi => ?_⟩
  · have hv := vendorRequest_refused hr hp hx he hk hs
    have hout : Sent (.spdm tr (.vendor 1)) s (answer tr (.vendor 1) (received tr m.id s)) := sent_emit_of rfl
    simp only [List.mem_cons, List.not_mem_nil, or_false] at hc
    rcases hc with rfl | rfl | rfl | rfl
    · exact ⟨_, congrArg (fun w => Host.Outcome.next (announce s w)) (hv _), (announce_sec ..).trans rfl, (announce_flash ..).trans rfl, sent_announce hout⟩
    · exact ⟨_, congrArg Host.Outcome.next (hv _), rfl, rfl, hout⟩
    · exact ⟨_, congrArg Host.Outcome.next (hv _), rfl, rfl, hout⟩
    · exact ⟨_, congrArg Host.Outcome.next (hv _), rfl, rfl, hout⟩
  · have hv := vendorRequest_runs hi
    have hans : ∀ a, Sent (.spdm tr a) s (answer tr a (received tr m.id s)) := fun a => sent_emit_of rfl
    refine ⟨?_, fun row => ?_, fun keyHash suite reqMaq reqApp ok => ⟨fun hn hok => ?_, fun hn => ?_⟩, fun hz => ⟨?_, ?_⟩, fun hz => ⟨?_, ?_⟩⟩
    · exact ⟨_, congrArg (fun w => Host.Outcome.next (announce s w)) (hv _), (announce_sec ..).trans rfl, sent_announce (hans _)⟩
    · have hf := moduleFatal_fatal 0x0A01 none [(0, row % 256)]
      obtain ⟨h1, h2, h3, h4⟩ := hf { received tr m.id s with sec := { (received tr m.id s).sec with st := .error, approved := false } }
      have hout : Sent (.spdm tr (.vendor 2)) s (answer tr (.vendor 2) (selfTestFails row (received tr m.id s))) :=
        sent_of_suffix h4 (sent_emit ..)
      refine ⟨_, congrArg (fun w => Host.Outcome.next (announce s w)) (hv _), ?_, ?_, ?_, ?_, sent_announce hout⟩
      · exact (congrArg Sec.st (announce_sec ..)).trans (congrArg Sec.st h3)
      · exact (congrArg Sec.approved (announce_sec ..)).trans (congrArg Sec.approved h3)
      · exact (congrArg ErrLog.modFatal (announce_log ..)).trans h1
      · rw [Recorded, announce_log]
        exact h2
    · have hp : provisionOp tr keyHash suite reqMaq reqApp ok (received tr m.id s) = answer tr (.vendor 0) { received tr m.id s with sec := { (received tr m.id s).sec with
          provisioned := true, custHash := fit 48 keyHash, custSuite := suite, reqMaq := reqMaq, reqApp := reqApp } } := by
        rw [provisionOp, if_neg (by rw [show (received tr m.id s).sec.provisioned = false from hn]; exact Bool.false_ne_true), hok]
        rfl
      exact ⟨_, congrArg Host.Outcome.next ((hv _).trans hp), rfl, rfl, rfl, rfl, rfl, sent_emit_of rfl⟩
    · exact ⟨_, congrArg Host.Outcome.next ((hv _).trans (if_pos hn)), rfl, hans _⟩
    · exact ⟨_, congrArg Host.Outcome.next ((hv _).trans (if_pos hz)), rfl, rfl, rfl, rfl, rfl, rfl, rfl, rfl, rfl, rfl, sent_emit_of rfl⟩
    · exact ⟨_, congrArg Host.Outcome.next ((hv _).trans (if_pos hz)), rfl, rfl, rfl, sent_emit_of rfl⟩
    · exact ⟨_, congrArg Host.Outcome.next ((hv _).trans (if_neg (by rw [mayZeroise_received, hz]; exact Bool.false_ne_true))), rfl, rfl, hans _⟩
    · exact ⟨_, congrArg Host.Outcome.next ((hv _).trans (if_neg (by rw [mayZeroise_received, hz]; exact Bool.false_ne_true))), rfl, rfl, hans _⟩

end Sys2Proof.Machine

end

section
/-! SUPPORT. The SPDM exchange and its sessions (R346, R347). -/

-- One proof after another: many at a time need more memory than the check of the whole text has.
set_option Elab.async false

namespace Sys2Proof.Machine

/-- What a session signs with, and what has been sent. -/
def signView (s : State) : List Out × List Session × Nat × Nat × List Byte :=
  (s.out, s.sec.sessions, s.sec.suiteDoe, s.sec.suiteMctp, s.sec.aliasKey)

theorem freeBytes_signView (n : Nat) (s : State) : signView (freeBytes n s).2 = signView s := by
  induction n generalizing s with
  | zero => rfl
  | succ n ih => exact ih (takeFree s).2

/-- Random bytes change the generator, and nothing of what a session signs or sends. -/
theorem drbgBytes_signView (n : Nat) (s : State) : signView (drbgBytes n s).2 = signView s :=
  state_ite (g := signView) (freeBytes_signView 48 s) rfl

theorem aliasSign_signView {s t : State} (h : signView t = signView s) (tr : Transport) (bs : List Byte) : aliasSign t tr bs = aliasSign s tr bs := by
  simp only [signView, Prod.mk.injEq] at h
  obtain ⟨-, -, h1, h2, h3⟩ := h
  have hsuite : suiteOf t tr = suiteOf s tr := by
    cases tr
    exacts [h1, h2, h2]
  rw [aliasSign, aliasSign, hsuite, h3]

theorem drbgBytes_keeps (n : Nat) (s : State) : (drbgBytes n s).2.out = s.out ∧ (drbgBytes n s).2.sec.sessions = s.sec.sessions ∧
    ∀ tr bs, aliasSign (drbgBytes n s).2 tr bs = aliasSign s tr bs :=
  ⟨congrArg (·.1) (drbgBytes_signView n s), congrArg (·.2.1) (drbgBytes_signView n s), aliasSign_signView (drbgBytes_signView n s)⟩

theorem spdmPhase_setPhase (tr : Transport) (x : SpdmPhase) (s : State) : spdmPhase (setPhase tr x s) tr = x := by cases tr <;> rfl
theorem spdmPhase_setSuite (tr : Transport) (n : Nat) (s : State) : spdmPhase (setSuite tr n s) tr = spdmPhase s tr := by cases tr <;> rfl
theorem suiteOf_setSuite (tr : Transport) (n : Nat) (s : State) : suiteOf (setSuite tr n s) tr = n := by cases tr <;> rfl
theorem setPhase_out (tr : Transport) (x : SpdmPhase) (s : State) : (setPhase tr x s).out = s.out := by cases tr <;> rfl
theorem setSuite_out (tr : Transport) (n : Nat) (s : State) : (setSuite tr n s).out = s.out := by cases tr <;> rfl

theorem spdmRequest_runs {tr : Transport} {s : State} (h : Negotiated tr s) (f : State → State) : spdmRequest tr f s = f s := by
  obtain ⟨hr, hp, hs⟩ := h
  rw [spdmRequest, hr, hp, hs]
  simp

theorem spdmRequest_early {tr : Transport} {s : State} (hr : spdmReach s tr = true) (hp : spdmPhase s tr ≠ .negotiated) (f : State → State) :
    spdmRequest tr f s = spdmError tr .errUnexpected s := by
  rw [spdmRequest, hr, Bool.not_true, if_neg Bool.false_ne_true, if_pos (.inl hp)]

theorem inSession_runs {tr : Transport} {code : Nat} {m : SessionMsg} {x : Session} {s : State} (h : InSession tr code m x s) (f : State → State) :
    inSession tr code m f s = f (received tr m.id s) := by
  obtain ⟨hn, hx, he, hk⟩ := h
  rw [inSession, spdmRequest_runs hn, hx]
  dsimp only
  rw [he, hk]
  rfl

theorem inSession_malformed {tr : Transport} {code : Nat} {m : SessionMsg} {x : Session} {s : State} (hn : Negotiated tr s)
    (hx : findSession s tr m.id = some x) (he : x.established = true) (hk : sealOk x code m = false) (f : State → State) :
    inSession tr code m f s = spdmError tr .errInvalid s := by
  rw [inSession, spdmRequest_runs hn, hx]
  dsimp only
  rw [he, hk]
  rfl

theorem sent_spdmError {tr : Transport} {a : SpdmAns} {s t : State} (h : t.out = s.out) : Sent (.spdm tr a) s (spdmError tr a t) :=
  sent_emit_of (t := { t with sec := { t.sec with rejSpdm := satAdd 0xFFFF t.sec.rejSpdm 1 } }) h

/-- Entropy that fails its test ends the services, and the request gets an error (R349). -/
theorem withEntropy_fails (tr : Transport) (row : Nat) (f : State → State) (s : State) :
    (withEntropy tr (some row) f s).sec.st = .error ∧ (withEntropy tr (some row) f s).log.modFatal = true ∧
      (withEntropy tr (some row) f s).sec.sessions = s.sec.sessions ∧ Sent (.spdm tr .errUnexpected) s (withEntropy tr (some row) f s) := by
  obtain ⟨h1, -, h3, h4⟩ := moduleFatal_fatal 0x0A01 none [(0, row % 256)] { s with sec := { s.sec with st := .error, approved := false } }
  exact ⟨(congrArg Sec.st h3 :), h1, (congrArg Sec.sessions h3 :), sent_of_suffix h4 (sent_spdmError rfl)⟩

/-- The session with an identifier after one that is changed in its place. -/
theorem find_modified (p : Session → Bool) (f : Session → Session) (hf : ∀ x, p (f x) = p x) (l : List Session) :
    (l.filterMap (fun x => if p x then some (f x) else some x)).find? p = (l.find? p).map f := by
  induction l with
  | nil => rfl
  | cons x l ih =>
    cases hp : p x with
    | true => simp [hp, hf]
    | false => simp [hp, ih]

theorem findSession_modSession {tr : Transport} {n : Nat} {f : Session → Session} (hf : ∀ x, (f x).tr = x.tr ∧ (f x).id = x.id) (s : State) :
    findSession (modSession tr n (fun x => some (f x)) s) tr n = (findSession s tr n).map f :=
  find_modified (fun x => x.tr == seat tr && x.id == n) f (fun x => by rw [(hf x).1, (hf x).2]) s.sec.sessions

theorem findSession_ended (tr : Transport) (n : Nat) (s : State) : findSession (modSession tr n (fun _ => none) s) tr n = none := by
  refine List.find?_eq_none.2 fun x hx => ?_
  obtain ⟨y, -, hy⟩ := List.mem_filterMap.1 hx
  split at hy
  · cases hy
  · next h => cases hy; exact h

theorem findSession_received {tr : Transport} {n : Nat} {x : Session} {s : State} (h : findSession s tr n = some x) :
    findSession (received tr n s) tr n = some { x with received := x.received + 1 } := by
  rw [received, findSession_modSession (f := fun x => { x with received := x.received + 1 }) (fun _ => ⟨rfl, rfl⟩), h]
  rfl

/-- SET_CERTIFICATE with a certificate for a key of this module is committed, deferred or kept waiting (R346, R338). -/
theorem setCertOp_own {tr : Transport} {slot : Nat} {chain k : List Byte} {s : State} (hk : k = s.sec.aliasPub ∨ k = s.sec.devicePub) (h1 : 1 ≤ slot)
    (h8 : slot < 8) : setCertOp tr slot chain ⟨true, k⟩ s =
      if bankUnknown s then { s with pwr := { s.pwr with waiting := s.pwr.waiting ++ [.keys tr slot (wrapBytes s chain)] } }
      else keyCommit tr (.keys tr slot (wrapBytes s chain)) s := by
  refine if_neg fun h => ?_
  rcases h with h | h | h | ⟨ha, hd⟩
  · omega
  · omega
  · cases h
  · exact hk.elim ha hd

theorem mayCommit_known {s : State} {n : Nat} (h : mayCommit s n = true) : bankUnknown s = false := by
  simp only [mayCommit, Bool.and_eq_true, Bool.not_eq_true'] at h
  rw [bankUnknown, h.1.1.1, h.1.1.2]
  rfl

/-- The measurements that a requester asked for, with a nonce of the module's own, signed (R348). -/
def measured (tr : Transport) (bs : List (Nat × List Byte)) (nonce : List Byte) (s : State) : State :=
  answer tr (.measurements bs (drbgBytes 32 s).1 (aliasSign (drbgBytes 32 s).2 tr (nonce ++ (drbgBytes 32 s).1 ++ bs.flatMap (·.2)))) (drbgBytes 32 s).2

theorem measureOp_one {tr : Transport} {index : Nat} {m : List Byte} {s : State} (h0 : index ≠ 0) (hff : index ≠ 0xFF)
    (hm : measurement s index = some m) (nonce : Nonce) :
    measureOp tr index nonce s = withEntropy tr nonce.failing (measured tr [(index, m)] nonce.bytes) s := by
  rw [measureOp, if_neg hff, if_neg h0]
  dsimp only
  rw [if_pos (by rw [List.all_cons, hm]; rfl)]
  cases hf : nonce.failing with
  | some row => rfl
  | none =>
    rw [withEntropy, List.map_cons, hm]
    rfl

/-- KEY_EXCHANGE with entropy that passes: the new session, its private key kept in the block's memory (R347). -/
def keyExchanged (tr : Transport) (x : KeyShare) (s : State) : State :=
  let n := freeSession (sessionsOf s tr) 0 4
  let (seed, s) := drbgBytes 48 s
  let key := Config.p384Key seed
  let point := Config.p384Public key
  let s := privWrite (privSlot tr n) (fit 48 key) s
  answer tr (.keyExchangeRsp n point (aliasSign s tr (x.point ++ point))) { s with sec := { s.sec with
    sessions := s.sec.sessions ++ [{
      tr := seat tr, id := n, peerKey := x.peer, secret := Config.hkdf (Config.ecdh key x.point) (x.point ++ point)
      established := false, updates := 0 }] } }

theorem keyExchangeOp_room {tr : Transport} (x : KeyShare) {s : State} (h : (sessionsOf s tr).length < 4) :
    keyExchangeOp tr x s = withEntropy tr x.failing (keyExchanged tr x) s := by
  rw [keyExchangeOp, if_neg (by omega)]
  cases x.failing <;> rfl

theorem keyExchanged_shape (tr : Transport) (x : KeyShare) (s : State) : (keyExchanged tr x s).sec.sessions = s.sec.sessions ++ [{
      tr := seat tr, id := freeSession (sessionsOf s tr) 0 4, peerKey := x.peer
      secret := Config.hkdf (Config.ecdh (Config.p384Key (drbgBytes 48 s).1) x.point) (x.point ++ Config.p384Public (Config.p384Key (drbgBytes 48 s).1))
      established := false, updates := 0 }] ∧
    Sent (.spdm tr (.keyExchangeRsp (freeSession (sessionsOf s tr) 0 4) (Config.p384Public (Config.p384Key (drbgBytes 48 s).1))
      (aliasSign s tr (x.point ++ Config.p384Public (Config.p384Key (drbgBytes 48 s).1))))) s (keyExchanged tr x s) := by
  obtain ⟨h1, h2, h3⟩ := drbgBytes_keeps 48 s
  refine ⟨congrArg (· ++ _) h2, ?_⟩
  rw [← h3]
  exact sent_emit_of h1

/-- KEY_UPDATE derives the session's next secret (R347). -/
def keyUpdated (x : Session) : Session := { x with
  secret := Config.hkdf x.secret (labelBytes "traffic upd"), updates := x.updates + 1, received := 0 }

/-- Settles O50: a request that the phase allows is answered, and one in a session moves the session that it names. -/
theorem spdmExchange : Obligations.SpdmExchange := by
  unfold Obligations.SpdmExchange
  refine fun tr s hr => ⟨?_, fun hp => ?_, fun offered hp ho => ?_, fun hp => ?_, fun hn => ⟨?_, fun slot c nonce hc => ⟨?_, ?_, fun row => ?_⟩,
    fun index nonce m h0 hff hm => ⟨?_, fun row => ?_⟩, fun x hl => ⟨fun hx => ?_, fun row hx => ?_⟩, fun m x hx he => ⟨fun hp => ?_, fun hp => ?_⟩,
    fun slot chain k hk h1 h8 => ⟨fun hm => ?_, fun hb hm => ?_, fun hb => ?_⟩, fun slot chain leaf ha hd => ?_,
    fun m x hx he => ⟨fun hk => ?_, fun hk => ?_, fun hk => ?_⟩⟩, fun m x => ⟨fun h => ?_, fun h => ?_, fun h => ?_⟩⟩
  · exact ⟨_, congrArg Host.Outcome.next (if_pos hr), spdmPhase_setPhase .., sent_emit_of (setPhase_out ..)⟩
  · refine ⟨answer tr (.capabilities true false false) (setPhase tr .capabilities s), congrArg Host.Outcome.next ?_, spdmPhase_setPhase ..,
      sent_emit_of (setPhase_out ..)⟩
    rw [hr, hp]
    rfl
  · obtain ⟨n, hsuite⟩ : ∃ n, n = if offered.contains 2 then 2 else 1 := ⟨_, rfl⟩
    rw [← hsuite]
    refine ⟨answer tr (.algorithms n "AES-256-GCM" "secp384r1") (setSuite tr n (setPhase tr .negotiated s)), congrArg Host.Outcome.next ?_,
      (spdmPhase_setSuite tr n _).trans (spdmPhase_setPhase ..), suiteOf_setSuite tr n _, sent_emit_of ((setSuite_out ..).trans (setPhase_out ..))⟩
    have hany : offered.any (fun n => n == 1 || n == 2) = true := by
      rw [List.any_eq_true]
      exact ho.elim (fun h => ⟨1, h, rfl⟩) (fun h => ⟨2, h, rfl⟩)
    rw [hr, hp, hany, hsuite]
    rfl
  · exact ⟨_, congrArg Host.Outcome.next (spdmRequest_early hr hp _), sent_spdmError rfl, rfl⟩
  · exact ⟨_, congrArg Host.Outcome.next (spdmRequest_runs hn _), sent_emit_of rfl⟩
  · refine ⟨answer tr (.certificate slot c) s, congrArg Host.Outcome.next ((spdmRequest_runs hn _).trans ?_), sent_emit ..⟩
    rw [hc]
  · obtain ⟨h1, -, h3⟩ := drbgBytes_keeps 32 s
    refine ⟨announce s (answer tr (.challengeAuth slot (drbgBytes 32 s).1 (aliasSign s tr (nonce ++ (drbgBytes 32 s).1 ++ c))) (drbgBytes 32 s).2),
      congrArg (fun w => Host.Outcome.next (announce s w)) ((spdmRequest_runs hn _).trans ?_), sent_announce (sent_emit_of h1)⟩
    rw [hc, ← h3]
    rfl
  · obtain ⟨h1, h2, -, h4⟩ := withEntropy_fails tr row (fun s =>
      let (own, s) := drbgBytes 32 s
      answer tr (.challengeAuth slot own (aliasSign s tr (nonce ++ own ++ c))) s) s
    refine ⟨_, congrArg (fun w => Host.Outcome.next (announce s w)) ((spdmRequest_runs hn _).trans ?_),
      (congrArg Sec.st (announce_sec ..)).trans h1, (congrArg ErrLog.modFatal (announce_log ..)).trans h2, sent_announce h4⟩
    rw [hc]
  · obtain ⟨h1, -, h3⟩ := drbgBytes_keeps 32 s
    refine ⟨announce s (answer tr (.measurements [(index, m)] (drbgBytes 32 s).1 (aliasSign s tr (nonce ++ (drbgBytes 32 s).1 ++ m))) (drbgBytes 32 s).2),
      congrArg (fun w => Host.Outcome.next (announce s w)) ((spdmRequest_runs hn _).trans ?_), sent_announce (sent_emit_of h1)⟩
    rw [measureOp_one h0 hff hm, ← h3]
    exact congrArg (fun bs => answer tr (.measurements [(index, m)] (drbgBytes 32 s).1
      (aliasSign (drbgBytes 32 s).2 tr (nonce ++ (drbgBytes 32 s).1 ++ bs))) (drbgBytes 32 s).2) (List.append_nil m)
  · have he := measureOp_one (tr := tr) h0 hff hm ⟨nonce, some row⟩
    obtain ⟨h1, h2, -, h4⟩ := withEntropy_fails tr row (measured tr [(index, m)] nonce) s
    exact ⟨_, congrArg (fun w => Host.Outcome.next (announce s w)) ((spdmRequest_runs hn _).trans he),
      (congrArg Sec.st (announce_sec ..)).trans h1, (congrArg ErrLog.modFatal (announce_log ..)).trans h2, sent_announce h4⟩
  · have he := keyExchangeOp_room x hl
    rw [hx] at he
    obtain ⟨h1, h2⟩ := keyExchanged_shape tr x s
    exact ⟨_, _, _, congrArg (fun w => Host.Outcome.next (announce s w)) ((spdmRequest_runs hn _).trans he), rfl, rfl,
      (congrArg Sec.sessions (announce_sec ..)).trans h1, sent_announce h2⟩
  · have he := keyExchangeOp_room x hl
    rw [hx] at he
    obtain ⟨h1, h2, h3, h4⟩ := withEntropy_fails tr row (keyExchanged tr x) s
    exact ⟨_, congrArg (fun w => Host.Outcome.next (announce s w)) ((spdmRequest_runs hn _).trans he),
      (congrArg Sec.st (announce_sec ..)).trans h1, (congrArg ErrLog.modFatal (announce_log ..)).trans h2,
      (congrArg Sec.sessions (announce_sec ..)).trans h3, sent_announce h4⟩
  · refine ⟨answer tr .finishRsp (modSession tr m.id (fun x => some { x with established := true }) s),
      congrArg Host.Outcome.next ((spdmRequest_runs hn _).trans ?_), ?_, sent_emit_of rfl⟩
    · rw [finishOp, hx]
      dsimp only
      rw [he, hp]
      rfl
    · exact (findSession_modSession (f := fun x => { x with established := true }) (fun _ => ⟨rfl, rfl⟩) s).trans (congrArg (Option.map _) hx)
  · refine ⟨spdmError tr .errInvalid s, congrArg Host.Outcome.next ((spdmRequest_runs hn _).trans ?_), rfl, sent_spdmError rfl⟩
    rw [finishOp, hx]
    dsimp only
    rw [he, hp]
    rfl
  · refine ⟨_, congrArg Host.Outcome.next ((spdmRequest_runs hn _).trans ((setCertOp_own hk h1 h8).trans ((if_neg ?_).trans (if_pos hm)))), ?_, sent_emit_of rfl⟩
    · rw [mayCommit_known hm]
      exact Bool.false_ne_true
    · exact tget_tset_same ..
  · refine ⟨_, congrArg Host.Outcome.next ((spdmRequest_runs hn _).trans ((setCertOp_own hk h1 h8).trans
      ((if_neg (by rw [hb]; exact Bool.false_ne_true)).trans (if_neg ?_)))), rfl, rfl⟩
    rw [show mayCommit s (commitNeed (.keys tr slot (wrapBytes s chain))) = false from hm]
    exact Bool.false_ne_true
  · exact ⟨_, congrArg Host.Outcome.next ((spdmRequest_runs hn _).trans ((setCertOp_own hk h1 h8).trans (if_pos hb))), rfl, rfl, rfl⟩
  · exact ⟨_, congrArg Host.Outcome.next ((spdmRequest_runs hn _).trans (if_pos (.inr (.inr (.inr ⟨ha, hd⟩))))), rfl, sent_spdmError rfl⟩
  · exact ⟨_, congrArg Host.Outcome.next (inSession_malformed hn hx he hk _), rfl, sent_spdmError rfl⟩
  · exact ⟨_, congrArg Host.Outcome.next (inSession_malformed hn hx he hk _), rfl, sent_spdmError rfl⟩
  · exact ⟨_, congrArg Host.Outcome.next (inSession_malformed hn hx he hk _), rfl, sent_spdmError rfl⟩
  · exact ⟨_, congrArg Host.Outcome.next (inSession_runs h _), findSession_received h.2.1, sent_emit_of rfl⟩
  · exact ⟨_, congrArg Host.Outcome.next (inSession_runs h _), (findSession_modSession (f := keyUpdated) (fun _ => ⟨rfl, rfl⟩) _).trans
      (congrArg (Option.map _) (findSession_received h.2.1)), sent_emit_of rfl⟩
  · exact ⟨_, congrArg Host.Outcome.next (inSession_runs h _), findSession_ended .., sent_emit_of rfl⟩

end Sys2Proof.Machine

end

section
/-! SUPPORT. Operands of a command in memory, and Flomor images (R338, R339, R352). -/

-- One proof after another: many at a time need more memory than the check of the whole text has.
set_option Elab.async false

namespace Sys2Proof.Machine

/-- What a read of memory or of a window leaves: the host attachment and the partitions. -/
def readView (s : State) : Pcie × Tbl Part := (s.pcie, s.parts)

theorem readView_memChange {s t : State} (h : MemChange s t) : readView t = readView s := by
  obtain ⟨_, _, _, _, _, _, _, _, rfl, -⟩ := h
  rfl

theorem windowHalf_readView (cell word half : Nat) (fix : Bool) (s : State) : readView (windowHalf cell word half fix s).2.2 = readView s := by
  rcases hd : spDecode (spNow (getCell s cell)) (jccOf s (partOf s (cell / 128))) word half with ⟨b, e⟩
  cases e with
  | clean => rw [windowHalf_clean fix hd]
  | corrected i v =>
    obtain ⟨u, hu, e⟩ := windowHalf_corrected fix hd
    rw [e]
    exact (state_ite (g := readView) rfl rfl : readView (if fix then putHalf cell word half b u else u) = readView u).trans (readView_memChange hu)
  | uncorrectable =>
    obtain ⟨u, hu, e⟩ := windowHalf_uncorrectable fix hd
    rw [e]
    exact readView_memChange hu

theorem windowRead_readView (a n : Nat) (s : State) : readView (windowRead a n s).2 = readView s := by
  unfold windowRead
  extract_lets o cell
  split
  · next word _ _ =>
    have h0 := windowHalf_readView cell word 0 true s
    generalize windowHalf cell word 0 true s = r0 at h0
    obtain ⟨b0, ok0, s0⟩ := r0
    have h1 := windowHalf_readView cell word 1 true s0
    dsimp only
    generalize windowHalf cell word 1 true s0 = r1 at h1
    obtain ⟨b1, ok1, s1⟩ := r1
    exact h1.trans h0
  · exact readView_memChange (memChange_log (logDeferred_shape ..))
  · rfl

theorem spaceRead_readView (a f n : Nat) (s : State) : readView (spaceRead a f n s).2 = readView s := by
  induction f generalizing a n s with
  | zero => rfl
  | succ f ih =>
    rw [spaceRead]
    refine iteInduction (motive := fun x : Option (List Byte) × State => readView x.2 = readView s) (fun _ => rfl) fun _ => ?_
    extract_lets k
    generalize hp : (ite (inWindow a = true) _ _ : Option (List Byte) × State) = p
    have hpiece : readView p.2 = readView s := by
      rw [← hp]
      refine iteInduction (motive := fun x : Option (List Byte) × State => readView x.2 = readView s) (fun _ => windowRead_readView ..) fun _ => ?_
      refine iteInduction (motive := fun x : Option (List Byte) × State => readView x.2 = readView s) (fun _ => ?_) fun _ => rfl
      exact readView_memChange (memChange_trans (memChange_moveMem a k s) (readChange_memRead windowWho a k _ (by decide)).1)
    obtain ⟨_ | bs, u⟩ := p
    · exact hpiece
    · exact (ih ..).trans hpiece

theorem later_hostIn (addr n : Nat) (s : State) : Later s (hostIn addr n s) := by
  obtain ⟨en, hd, o, h⟩ := hostIn_shape addr n s
  rw [h]
  exact ⟨⟨o, rfl⟩, rfl, ⟨hd, rfl⟩⟩

/-- What a command reads of its operands sends or holds requests, and takes none back. -/
theorem later_bulkRead {loc addr n : Nat} {bs : Option (List Byte)} {s u : State} (h : BulkRead loc addr n bs s u) : Later s u := by
  rcases h with ⟨-, -, rfl⟩ | ⟨-, -, h⟩
  · exact later_hostIn ..
  · have hu : u = (spaceRead addr (n / 64 + 2) n s).2 := (congrArg Prod.snd h :)
    have hp : u.pcie = s.pcie := (congrArg State.pcie hu).trans (congrArg Prod.fst (spaceRead_readView ..) :)
    have ho : s.out <:+ u.out := spaceRead_out _ h.symm
    refine ⟨ho, ?_, ?_⟩
    · rw [quiet, quiet, hp]
    · rw [hp]

theorem bulkRead_parts {loc addr n : Nat} {bs : Option (List Byte)} {s u : State} (h : BulkRead loc addr n bs s u) : u.parts = s.parts := by
  rcases h with ⟨-, -, rfl⟩ | ⟨-, -, h⟩
  · obtain ⟨_, _, _, h⟩ := hostIn_shape addr n s
    rw [h]
  · exact (congrArg (fun x : Option (List Byte) × State => x.2.parts) h).trans (congrArg Prod.snd (spaceRead_readView ..) :)

theorem bulkIn_read {r : CmdRef} {loc addr n : Nat} {bs : Option (List Byte)} {s u : State} (h : BulkRead loc addr n bs s u)
    (f : Option (List Byte) → State → State) : bulkIn r loc addr n f s = f bs u := by
  rcases h with ⟨hl, rfl, rfl⟩ | ⟨hl, hb, h⟩
  · exact if_pos hl
  · obtain ⟨b, rfl⟩ := Option.isSome_iff_exists.1 hb
    rw [bulkIn, if_neg hl, ← h]

theorem flashCommit_may {c : Commit} {s : State} (h : mayCommit s (commitNeed c) = true) : flashCommit c s =
    (none, applyCommit c { s with pwr := { s.pwr with deferred := s.pwr.deferred.filter (fun d => !sameObject c d) } }) := if_pos h

theorem later_writeRec {s w : State} (h : Later s w) (r : ErrRec) : Later s (writeRec r w) :=
  later_trans h (later_completes (completes_mem (memChange_log (writeRec_shape r w))))

/-- An image that the bank does not carry waits among the deferred commits (R338). -/
theorem flashCommit_deferred {im : FlomorImage} {ok : Bool} {s : State} (h : mayCommit s 800 = false) : ∃ i w, flashCommit (.image im ok) s = (some i, w) ∧
    w.flash = s.flash ∧ .image im ok ∈ w.pwr.deferred ∧ Later s w := by
  refine ⟨_, _, if_neg (by rw [show commitNeed (.image im ok) = 800 from rfl, h]; exact Bool.false_ne_true), writeRec_flash .., ?_, ?_⟩
  · have hp : Commit.image im ok ∈ s.pwr.deferred ++ [.image im ok] := List.mem_append_right _ (List.mem_singleton_self _)
    exact (congrArg (fun p : Power => Commit.image im ok ∈ p.deferred) (writeRec_pwr ..)).mpr hp
  · exact later_writeRec (w := { s with pwr := { s.pwr with
      deferred := s.pwr.deferred ++ [.image im ok], deferredCount := satAdd 0xFFFF s.pwr.deferredCount 1 } }) (later_of_eq rfl rfl) _

/-- What FW_UPDATE does with an image that passes every check (R352). -/
theorem updateOp_passes {u : State} (r : CmdRef) {im : FlomorImage} (ok : Bool) (hs : u.sec.st = .operational) (hk : fwCheck u false im = 0) :
    updateOp r im ok u = commitThen r [.firmware] (.image im ok) (fwVersion im) (dropWaiting u) := by
  rw [updateOp, if_neg (not_not.2 hs)]
  exact if_neg (not_not.2 hk)

theorem updateOp_waits {u : State} (r : CmdRef) {im : FlomorImage} (ok : Bool) (hs : u.sec.st = .operational) (hk : fwCheck u false im = 0)
    (hb : bankUnknown u = true) : updateOp r im ok u = launch r [.firmware] (.flash (.image im ok) (fwVersion im)) (commitWaits (.image im ok) (dropWaiting u)) :=
  (updateOp_passes r ok hs hk).trans (if_pos hb)

/-- An image that is committed lies in flash, its journal complete where flash took it. -/
theorem updateOp_commits {u : State} (r : CmdRef) {im : FlomorImage} (ok : Bool) (hs : u.sec.st = .operational) (hk : fwCheck u false im = 0)
    (hb : bankUnknown u = false) (hm : mayCommit u 800 = true) : ∃ w, Later u w ∧ w.flash.image = some im ∧ w.flash.journal = journalOf im ok ∧
      w.pwr.armed = (u.pwr.armed && !ok) ∧
      updateOp r im ok u = if ok then finishOk r (fwVersion im) w else finishErr r .fault 0 0 0 w := by
  refine ⟨(flashCommit (.image im ok) (dropWaiting u)).2, ?_⟩
  have hf : flashCommit (.image im ok) (dropWaiting u) = _ := flashCommit_may (c := .image im ok) (s := dropWaiting u) hm
  have hu : updateOp r im ok u = _ := (updateOp_passes r ok hs hk).trans (if_neg (by rw [show bankUnknown (dropWaiting u) = false from hb]; exact Bool.false_ne_true))
  rw [hf] at hu
  rw [hf]
  exact ⟨later_of_eq rfl rfl, rfl, rfl, rfl, hu⟩

theorem updateOp_deferred {u : State} (r : CmdRef) {im : FlomorImage} (ok : Bool) (hs : u.sec.st = .operational) (hk : fwCheck u false im = 0)
    (hb : bankUnknown u = false) (hm : mayCommit u 800 = false) : ∃ i w, Later u w ∧ w.flash = u.flash ∧ .image im ok ∈ w.pwr.deferred ∧
      updateOp r im ok u = finish r .holdupLow (fwVersion im) i w := by
  obtain ⟨i, w, hf, h1, h2, h3⟩ := flashCommit_deferred (im := im) (ok := ok) (s := dropWaiting u) hm
  have hu : updateOp r im ok u = _ := (updateOp_passes r ok hs hk).trans (if_neg (by rw [show bankUnknown (dropWaiting u) = false from hb]; exact Bool.false_ne_true))
  rw [hf] at hu
  exact ⟨i, w, later_trans (later_of_eq rfl rfl) h3, h1, h2, hu⟩

theorem rejectImage_counts (k n o r : Nat) (u : State) : Later u (rejectImage k n o r u).2 ∧ (rejectImage k n o r u).2.flash = u.flash ∧
    (rejectImage k n o r u).2.sec.rejImages = satAdd 0xFFFF u.sec.rejImages 1 :=
  ⟨later_writeRec (w := { u with sec := { u.sec with rejImages := satAdd 0xFFFF u.sec.rejImages 1 } }) (later_of_eq rfl rfl) _,
    writeRec_flash .., congrArg Sec.rejImages (writeRec_sec ..)⟩

theorem updateOp_rejected {u : State} (r : CmdRef) {im : FlomorImage} (ok : Bool) (hs : u.sec.st = .operational) (hk : fwCheck u false im ≠ 0) :
    updateOp r im ok u = finish r .signatureRejected 0 (rejectImage (fwCheck u false im) 0 0x50 r.ring u).1
      (rejectImage (fwCheck u false im) 0 0x50 r.ring u).2 :=
  (if_neg (not_not.2 hs)).trans (if_pos hk)

theorem newerImage_taken (h : CmdHdr) (s : State) : newerImage (taken h s) = newerImage s := by
  rw [newerImage, newerImage, taken_flash, taken_sec]

theorem fwCheck_taken (h : CmdHdr) (slot : Bool) (i : FlomorImage) (s : State) : fwCheck (taken h s) slot i = fwCheck s slot i := by
  rw [fwCheck, fwCheck, taken_flash, taken_sec]

theorem othersRun_taken (h : CmdHdr) (s : State) : othersRun (taken h s) = othersRun s := by rw [othersRun, othersRun, taken_flights]

/-- The state after the new image has taken over (R338 step 6). -/
def handedOver (i : FlomorImage) (s : State) : State :=
  { s with sec := { s.sec with running := fwIdOf s.sec.imgKey i }, pwr := { s.pwr with recovered := false } }

theorem handover_verified {i : FlomorImage} {s : State} (hs : s.sec.st = .operational) (hk : fwCheck s true i = 0) (accepts : Bool) (ring : Nat) :
    handover i accepts ring s = if accepts then (none, true, handedOver i s) else (none, false, s) := by
  rw [handover, if_neg (not_not.2 hs), if_neg (not_not.2 hk)]
  rfl

theorem activateOp_verified {r : CmdRef} {i : FlomorImage} {s : State} (hi : newerImage s = some i) (ho : othersRun s = false)
    (hs : s.sec.st = .operational) (hk : fwCheck s true i = 0) (accepts : Bool) :
    activateOp r accepts s = if accepts then finishOk r (fwVersion i) (handedOver i s) else finishErr r .fault 0 0 0 s := by
  rw [activateOp, hi]
  dsimp only
  rw [ho, if_neg Bool.false_ne_true, handover_verified hs hk]
  cases accepts <;> rfl

theorem fwUpdate_runs {h : CmdHdr} {loc addr size : Nat} {img im : FlomorImage} {bs : Option (List Byte)} {s u : State} (hz : 1 ≤ size)
    (hl : locOk h loc = true) (hb : bulkOk s loc addr size = true) (ha : Accepted h {
      op := 0x50, fields := [(9, 1, loc), (16, 8, addr), (24, 8, size)], loc := some loc, claims := [.firmware] } s)
    (hr : BulkRead loc addr size bs (taken h s) u) (him : im = imageOf size (bs.getD (img.hdr ++ img.cipher))) (ok : Bool) :
    exec (.fwUpdate h loc addr size img ok) s = .next (announce s (updateOp (slotOf h 0x50 s) im ok u)) := by
  refine congrArg Host.Outcome.next ((command_params ha ?_).trans (congrArg (announce s) ((bulkIn_read hr _).trans ?_)))
  · rw [hl, hb, decide_eq_true hz]
    rfl
  · rw [him]

theorem fwActivate_runs {h : CmdHdr} {i : FlomorImage} {s : State} (ha : Accepted h { op := 0x51, fields := [(8, 1, 0)], claims := [.firmware, .module] } s)
    (hi : newerImage s = some i) (ho : othersRun s = false) (hs : s.sec.st = .operational) (hk : fwCheck s true i = 0) (accepts : Bool) :
    exec (.fwActivateLiveHandover h accepts) s = .next (announce s (if accepts then
      finishOk (slotOf h 0x51 s) (fwVersion i) (handedOver i (taken h s)) else finishErr (slotOf h 0x51 s) .fault 0 0 0 (taken h s))) :=
  congrArg Host.Outcome.next ((command_accepted h _ _ s ha rfl).trans (congrArg (announce s) (activateOp_verified ((newerImage_taken h s).trans hi)
    ((othersRun_taken h s).trans ho) ((congrArg Sec.st (taken_sec h s)).trans hs) ((fwCheck_taken h true i s).trans hk) accepts)))

theorem pldmUpdate_commits {img : FlomorImage} {s : State} (hrd : s.pwr.ready = true) (hst : s.pwr.st = .active) (hs : s.sec.st = .operational)
    (hf : ∀ x ∈ s.flights, Claim.firmware ∉ x.claims) (hk : fwCheck s false img = 0) (hb : bankUnknown s = false) (hm : mayCommit s 800 = true) :
    ∃ w, w.flash.image = some img ∧ w.out = s.out ∧ pldmUpdate img true s = emit (.pldmStatus true false) w := by
  have hn : s.flights.any (fun x => x.claims.contains .firmware) = false := by
    rw [List.any_eq_false]
    exact fun x hx h => hf x hx (List.contains_iff_mem.1 h)
  refine ⟨(flashCommit (.image img true) (dropWaiting s)).2, ?_⟩
  have hc : flashCommit (.image img true) (dropWaiting s) = _ := flashCommit_may (c := .image img true) (s := dropWaiting s) hm
  have hd : bankUnknown (dropWaiting s) = false := hb
  rw [hc, pldmUpdate, hrd, hst, hs, hn, hk]
  simp only [bne_self_eq_false, Bool.not_true, Bool.or_false, Bool.false_eq_true, if_false, ne_eq, not_true_eq_false, hd]
  rw [hc]
  exact ⟨rfl, rfl, rfl⟩

theorem pldmActivate_verified {i : FlomorImage} {s : State} (hrd : s.pwr.ready = true) (hst : s.pwr.st = .active) (hi : newerImage s = some i)
    (ho : othersRun s = false) (hs : s.sec.st = .operational) (hk : fwCheck s true i = 0) :
    pldmActivate true s = emit (.pldmStatus true false) (handedOver i s) := by
  rw [pldmActivate, hi]
  dsimp only
  rw [hrd, hst, ho, handover_verified hs hk]
  rfl

/-- Settles O52: an image that verifies is committed, deferred or kept waiting as the bank allows, and may take over where it is newer. -/
theorem firmwareImages : Obligations.FirmwareImages := by
  unfold Obligations.FirmwareImages
  refine fun s hs => ⟨fun h loc addr size img im bs u hz hl hb ha hr hu him => ⟨fun hk hbu ok => ?_, fun hk hbu => ⟨fun hm => ⟨?_, ?_⟩, fun hm => ?_⟩, fun hk ok => ?_⟩,
    fun h i hi ho => ⟨fun ha hk => ⟨?_, ?_⟩, fun ha => ?_⟩, fun h ha hi => ?_, fun img bus hbus hrd hst hfl hk hbu hm => ?_,
    fun i bus hbus hrd hst hi ho hk => ?_⟩
  · refine ⟨_, (fwUpdate_runs hz hl hb ha hr him ok).trans (congrArg (fun w => Host.Outcome.next (announce s w)) (updateOp_waits _ ok hu hk hbu)), ?_, ?_,
      waiting_announce (waiting_launch ..)⟩
    · rw [announce_flash]
      rfl
    · rw [announce_pwr]
      exact List.mem_append_right _ (List.mem_singleton_self _)
  · obtain ⟨w, hw, h1, h2, h3, he⟩ := updateOp_commits (slotOf h 0x50 s) true hu hk hbu hm
    refine ⟨_, (fwUpdate_runs hz hl hb ha hr him true).trans (congrArg (fun w => Host.Outcome.next (announce s w)) he), ?_, ?_, ?_,
      replied_command (later_trans (later_bulkRead hr) hw) (finish_replied ..)⟩
    · rw [announce_flash, if_pos rfl, finishOk, finish_flash, h1]
    · rw [announce_flash, if_pos rfl, finishOk, finish_flash, h2]
    · rw [announce_pwr, if_pos rfl, finishOk, finish_pwr, h3, Bool.not_true, Bool.and_false]
  · obtain ⟨w, hw, h1, h2, h3, he⟩ := updateOp_commits (slotOf h 0x50 s) false hu hk hbu hm
    refine ⟨_, (fwUpdate_runs hz hl hb ha hr him false).trans (congrArg (fun w => Host.Outcome.next (announce s w)) he), ?_, ?_,
      replied_command (later_trans (later_bulkRead hr) hw) (finishErr_replied ..)⟩
    · rw [announce_flash, if_neg Bool.false_ne_true, finishErr_flash, h2]
    · rw [announce_pwr, if_neg Bool.false_ne_true, finishErr_pwr, h3, Bool.not_false, Bool.and_true]
  · obtain ⟨i, w, hw, h1, h2, he⟩ := updateOp_deferred (slotOf h 0x50 s) true hu hk hbu hm
    refine ⟨_, (fwUpdate_runs hz hl hb ha hr him true).trans (congrArg (fun w => Host.Outcome.next (announce s w)) he), ?_, ?_,
      replied_command (later_trans (later_bulkRead hr) hw) (finish_replied ..)⟩
    · rw [announce_flash, finish_flash, h1]
    · rw [announce_pwr, finish_pwr]
      exact h2
  · obtain ⟨hw, h1, h2⟩ := rejectImage_counts (fwCheck u false im) 0 0x50 (slotOf h 0x50 s).ring u
    refine ⟨_, (fwUpdate_runs hz hl hb ha hr him ok).trans (congrArg (fun w => Host.Outcome.next (announce s w)) (updateOp_rejected _ ok hu hk)), ?_, ?_,
      replied_command (later_trans (later_bulkRead hr) hw) (finish_replied ..)⟩
    · rw [announce_flash, finish_flash, h1]
    · rw [announce_sec, finish_sec, h2]
  · refine ⟨_, (fwActivate_runs ha hi ho hs hk true).trans rfl, ?_, replied_command (u := handedOver i (taken h s)) (later_of_eq rfl rfl) (finish_replied ..)⟩
    rw [announce_sec, if_pos rfl, finishOk, finish_sec]
    exact congrArg (fun x : Sec => fwIdOf x.imgKey i) (taken_sec h s)
  · refine ⟨_, (fwActivate_runs ha hi ho hs hk false).trans rfl, ?_, replied_taken (finishErr_replied ..)⟩
    rw [announce_sec, if_neg Bool.false_ne_true, finishErr_sec, taken_sec]
  · refine ⟨announce s (finishOk (slotOf h 0x51 s) s.sec.running.version { taken h s with pwr := { (taken h s).pwr with armed := true } }),
      congrArg Host.Outcome.next ((command_accepted h _ _ s ha rfl).trans (congrArg (announce s) ?_)), ?_,
      replied_command (u := { taken h s with pwr := { (taken h s).pwr with armed := true } }) (later_of_eq rfl rfl) (finish_replied ..)⟩
    · rw [armOp, newerImage_taken, hi, ← taken_sec h s]
    · rw [announce_pwr, finishOk, finish_pwr]
  · refine ⟨announce s (finishErr (slotOf h 0x51 s) .noResource 0 0 0 (taken h s)),
      congrArg Host.Outcome.next ((command_accepted h _ _ s ha rfl).trans (congrArg (announce s) ?_)), ?_, replied_taken (finishErr_replied ..)⟩
    · rw [armOp, newerImage_taken, hi]
    · rw [announce_pwr, finishErr_pwr, taken_pwr]
  · obtain ⟨w, hw1, hw2, he⟩ := pldmUpdate_commits (img := img) hrd hst hs hfl hk hbu hm
    exact ⟨_, congrArg Host.Outcome.next ((if_pos hbus).trans he), hw1, sent_emit_of hw2⟩
  · refine ⟨_, congrArg Host.Outcome.next ((if_pos hbus).trans (pldmActivate_verified hrd hst hi ho hs hk)), rfl, sent_emit_of rfl⟩

end Sys2Proof.Machine

end

section
/-! SUPPORT. Loading and binding of a maquette (R49, R52): what a partition gives up for it, and the places it gets. -/

-- One proof after another: many at a time need more memory than the check of the whole text has.
set_option Elab.async false

namespace Sys2Proof.Machine

theorem finishRec_replied (r : CmdRef) (st : Status) (i : Option Nat) (s : State) : Replied r st 0 s (finishRec r st i s) := by
  unfold finishRec finishRecR
  split
  · exact finish_replied ..
  · exact replied_between (completes_mem (memChange_log (writeRec_shape _ s))) (finish_replied ..) (completes_refl _)

theorem aside_endCopy (key : Nat) (st : Status) (i : Option Nat) (s : State) : Aside s (endCopy key st i s) := by
  have hf : ∀ r v n s, Aside s (finish r st v n s) := fun r v n s => aside_completes (finish_completes ..)
  refine pred_ite (P := Aside s) (aside_refl s) ?_
  refine aside_trans (aside_of_eq (t := modReg key (fun r => { r with target := none, copied := 0 }) s) rfl rfl rfl) (aside_land _ (fun r v => ?_) _)
  split
  · exact hf ..
  · exact pred_ite (P := Aside v) (hf ..) (aside_finishErrR ..)

theorem later_releaseRegions (p : Nat) (s : State) : Later s (releaseRegions p s) := by
  unfold releaseRegions
  extract_lets mine u v
  have hu : Later s u := (aside_foldl (fun s (x : Nat × Region) => aside_endCopy x.1 .partitionState none s) mine s).2
  have hv : Later u v := later_of_eq rfl rfl
  exact later_trans (later_trans hu hv) (aside_foldl (fun s u => aside_drainCheckUnit u s) (List.range 28) v).2

theorem later_endDumps (p : Nat) (all : Bool) (s : State) : Later s (endDumps p all s) := by
  unfold endDumps
  extract_lets gone u
  have hu : Later s u := later_of_eq rfl rfl
  exact later_trans hu (aside_foldl (fun s x => aside_completes (finishErr_completes (refOf x) .timeout 1 p 0 s)) _ u).2

/-- A partition that is loaded gives up what it held, and has the image (R49). -/
theorem loadTo_loads (p : Nat) (m : Maquette) (s : State) : Later s (loadTo p m s) ∧ (getPart (loadTo p m s) p).st = .loaded ∧
    (getPart (loadTo p m s) p).maq = some m ∧ (getPart (loadTo p m s) p).runs = 0 := by
  have h1 : Later s (releaseContexts p s) := later_of_eq rfl rfl
  unfold loadTo
  extract_lets u v sec w
  have h2 : Later s u := later_trans h1 (later_trans (later_releaseRegions p (releaseContexts p s)) (later_endDumps p true _))
  clear_value u
  have h3 : Later u (modPart p (fun q => { q with
    st := .loaded, held := false, faultCast := false, faulted := false, cut := none, pendCast := none, pendFatal := none
    maq := some m, binding := [], bindOk := false, ctxMap := [], runs := 0, taps := [], sfaults := [] }) w) := later_of_eq rfl rfl
  rw [getPart_modPart]
  exact ⟨later_trans h2 h3, rfl, rfl, rfl⟩

/-- What the placement of a maquette leaves. -/
def sendView (s : State) : List Out × Pcie := (s.out, s.pcie)

/-- What the allocation of contexts and the load of the cells leave. -/
def boundView (s : State) : List Out × Pcie × Tbl Part := (s.out, s.pcie, s.parts)

theorem placeRegion_sendView {k zeroed uc : Nat} {x : Nat × Region} {s t : State} (h : placeRegion k zeroed uc x s = some t) :
    sendView t = sendView s := by
  simp only [placeRegion, Option.map_eq_some_iff] at h
  obtain ⟨y, -, rfl⟩ := h
  exact state_ite (g := sendView) rfl rfl

theorem placeAll_sendView {m : Maquette} {pl : List (Nat × Nat)} {l : List (Nat × Region)} {s t : State} (h : placeAll m pl l s = some t) :
    sendView t = sendView s := by
  induction l generalizing s with
  | nil => cases h; rfl
  | cons x r ih =>
    rw [placeAll] at h
    split at h
    · next hone => exact (ih h).trans (placeRegion_sendView hone)
    · cases h

theorem placeCapture_sendView {p : Nat} {s t : State} (h : placeCapture p s = some t) : sendView t = sendView s := by
  simp only [placeCapture, Option.map_eq_some_iff] at h
  obtain ⟨y, -, rfl⟩ := h
  rfl

theorem allocOne_boundView {p : Nat} {e : List Byte} {want : Option Nat} {x : Nat × Nat} {s t : State}
    (h : allocOne p e want s = some (x, t)) : boundView t = boundView s := by
  unfold allocOne at h
  extract_lets q at h
  split at h
  · cases h
  extract_lets k pl idx at h
  clear_value idx
  split at h
  · cases h
  · cases h
    rfl

theorem allocContexts_boundView {p : Nat} {l : List (List Byte)} {want xs : List (Nat × Nat)} {s t : State}
    (h : allocContexts p l want s = some (xs, t)) : boundView t = boundView s := by
  induction l generalizing want xs s with
  | nil => cases h; rfl
  | cons e r ih =>
    rw [allocContexts] at h
    split at h
    · cases h
    · next hone =>
      split at h
      · cases h
      · next hrest =>
        cases h
        exact (ih hrest).trans (allocOne_boundView hone)

theorem bindCells_boundView (m : Maquette) (lb b r : Nat) (s : State) : boundView (bindCells m lb b r s) = boundView s := by
  rw [bindCells]
  split
  · rfl
  · generalize List.range 128 = l
    refine foldl_keeps (g := boundView) (fun _ _ => ?_) l s
    rfl

/-- A partition that is bound has its places (R52). -/
theorem bindTo_binds {p : Nat} {m : Maquette} {pl : List (Nat × Nat)} {s t : State} (h : bindTo p m pl s = .ok t) :
    Later s t ∧ (getPart t p).st = .bound ∧ (getPart t p).binding = pl := by
  unfold bindTo at h
  extract_lets decl order at h
  split at h
  · cases h
  · split at h
    · cases h
    · next u hplaced =>
      obtain ⟨v, hall, hcapture⟩ := Option.bind_eq_some_iff.mp hplaced
      have hu : sendView u = sendView s := (placeCapture_sendView hcapture).trans (placeAll_sendView hall)
      extract_lets u1 u2 at h
      have hu2 : sendView u2 = sendView u := rfl
      have hb : (getPart u2 p).binding = pl := congrArg Part.binding (getPart_modPart ..)
      clear_value u2
      split at h
      · cases h
      · next cm w halloc =>
        extract_lets w1 w2 at h
        have hw : boundView w2 = boundView u2 := by
          have h1 : boundView w1 = boundView w := by
            refine (foldl_keeps (g := boundView) (fun t lb => ?_) (List.range pl.length) _).trans rfl
            split
            · exact (bindCells_boundView ..).trans rfl
            · rfl
          have h2 : boundView w2 = boundView w1 := state_ite (g := boundView) rfl rfl
          exact h2.trans (h1.trans (allocContexts_boundView halloc))
        clear_value w2
        obtain rfl := Except.ok.inj h
        have hs : sendView w2 = sendView s := (congrArg (fun x => (x.1, x.2.1)) hw).trans (hu2.trans hu)
        refine ⟨later_of_eq (congrArg Prod.fst hs) (congrArg Prod.snd hs), congrArg Part.st (getPart_modPart ..), ?_⟩
        refine (congrArg Part.binding (getPart_modPart ..)).trans ?_
        exact (congrArg (fun x : List Out × Pcie × Tbl Part => (tget ({} : Part) x.2.2 p).binding) hw).trans hb

theorem endCopies_none {s : State} {p : Nat} (h : ∀ x ∈ s.regions, x.1 / 65536 = p → x.2.imported = false) :
    endCopies ((s.regions.filter (fun x => x.1 / 65536 == p && x.2.imported)).filterMap (fun x => (resolve s p (x.1 % 65536)).map (·.1))) s = s := by
  have hf : s.regions.filter (fun x => x.1 / 65536 == p && x.2.imported) = [] := by
    rw [List.filter_eq_nil_iff]
    intro x hx hp
    rw [Bool.and_eq_true, beq_iff_eq] at hp
    exact Bool.false_ne_true ((h x hx hp.1).symm.trans hp.2)
  rw [hf]
  rfl

/-- BIND of a placement that fits ends well, but with FAULT where a program does not verify (R52, R72). -/
theorem bindOp_fits {r : CmdRef} {p loc : Nat} {ex : Bool} {tab pl : List (Nat × Nat)} {m : Maquette} {v u : State}
    (hst : (getPart v p).st = .loaded) (hm : (getPart v p).maq = some m)
    (hx : ex = true → m.bands.length ≤ tab.length ∧ ∀ x ∈ tab, x.1 < 32 ∧ x.2 < 128)
    (hi : ∀ x ∈ v.regions, x.1 / 65536 = p → x.2.imported = false) (hc : bindChoice v p m ex tab = .ok pl) (hb : bindTo p m pl v = .ok u) (bad : Bool) :
    bindOp r p loc ex tab 0 bad v =
      if bad then finishErr r .fault 1 p 0 v else finishOk r (pl.foldl (fun a x => a ||| 2 ^ x.1) 0) u := by
  have ht : (ex && (decide (tab.length < m.bands.length) || tab.any (fun x => decide (x.1 ≥ 32 ∨ x.2 ≥ 128)))) = false := by
    cases ex with
    | false => rfl
    | true =>
      obtain ⟨hl, hall⟩ := hx rfl
      rw [Bool.true_and, Bool.or_eq_false_iff, List.any_eq_false]
      refine ⟨decide_eq_false (by omega), fun x hx h => ?_⟩
      have := hall x hx
      have := of_decide_eq_true h
      omega
  rw [bindOp, hst, hm]
  dsimp only
  rw [ht, if_neg Bool.false_ne_true, endCopies_none hi, hc]
  dsimp only
  rw [hb]
  cases bad <;> rfl

section
variable {h : CmdHdr} {part loc addr size : Nat} {img : Maquette} {s : State}

theorem loadMaquette_runs (hp : part < 4) (hz : 1 ≤ size) (hl : locOk h loc = true) (hb : bulkOk s loc addr size = true) (ha : Accepted h {
      op := 0x10, fields := [(8, 1, part), (9, 1, loc), (16, 8, addr), (24, 8, size)], loc := some loc
      claims := partClaims s part, modFatal := true } s)
    (h1 : (getPart s part).st ≠ .running) (h2 : (getPart s part).st ≠ .paused) :
    exec (.loadMaquette h part loc addr size img) s = .next (announce s (bulkIn (slotOf h 0x10 s) loc addr size
      (fun bs u => if imageIs bs img then loadOp (slotOf h 0x10 s) part size img u else finish (slotOf h 0x10 s) .badParam 0 noRec u) (taken h s))) := by
  have hq : (decide (part < 4 ∧ 1 ≤ size) && locOk h loc && bulkOk s loc addr size) = true := by
    rw [hl, hb, decide_eq_true ⟨hp, hz⟩]
    rfl
  have hn : ¬((getPart (taken h s) part).st = .running ∨ (getPart (taken h s) part).st = .paused) := by
    rw [getPart_taken]
    exact not_or.2 ⟨h1, h2⟩
  exact congrArg Host.Outcome.next ((command_params ha hq).trans (congrArg (announce s) (if_neg hn)))
end

theorem loadOp_passes {r : CmdRef} {p size : Nat} {m : Maquette} {u : State} (hs : u.sec.st = .operational) (hc : loadCheck u p size m = none) :
    loadOp r p size m u = finishOk r 0 (loadTo p m u) := by
  rw [loadOp, hs, hc, bne_self_eq_false, Bool.and_false, if_neg Bool.false_ne_true]

theorem getPart_finished {r : CmdRef} {st : Status} {v n : Nat} (t w : State) (p : Nat) : getPart (announce t (finish r st v n w)) p = getPart w p := by
  rw [getPart_announce, getPart, completes_parts (finish_completes ..), ← getPart]

/-- The operands that BIND reads, or has (R52). -/
theorem bindOp_read {r : CmdRef} {part loc table : Nat} {ex : Bool} {tb tab : List (Nat × Nat)} {w v : State} {n : Nat}
    (hw : (getPart w part).st = .loaded) (hv : ex = false ∧ tab = tb ∧ v = w ∨ ex = true ∧ ∃ bs, BulkRead loc table n bs w v ∧ tab = (bs.map tableOf).getD tb)
    (go : Option (List Byte) → State → State) {f : List (Nat × Nat) → State → State} (hgo : ∀ bs, go bs = f ((bs.map tableOf).getD tb)) :
    (if ex && (getPart w part).st == .loaded then bulkIn r loc table n go w else go none w) = f tab v := by
  rcases hv with ⟨rfl, rfl, rfl⟩ | ⟨rfl, bs, hr, rfl⟩
  · exact (if_neg (by rw [Bool.false_and]; exact Bool.false_ne_true)).trans (congrFun (hgo none) _)
  · exact (if_pos (by rw [hw]; rfl)).trans ((bulkIn_read hr go).trans (congrFun (hgo bs) v))

/-- Settles O41: an image that passes every check is loaded, and one that fits is bound where its programs verify. -/
theorem loadAndBind : Obligations.LoadAndBind := by
  unfold Obligations.LoadAndBind
  refine fun h part s hp => ⟨fun loc addr size img hz hl hb ha h1 h2 => ⟨fun bs u hr => ⟨fun hi hs hc => ?_, fun hi => ?_⟩, fun hloc hn => ?_⟩,
    fun loc ex tb tab table m pl v u hl ha hst hv hvst hvm hx hi hc hb => ?_⟩
  · obtain ⟨h3, h4, h5, h6⟩ := loadTo_loads part img u
    have hop : ∀ w, (if imageIs bs img then loadOp (slotOf h 0x10 s) part size img u else w) = finishOk (slotOf h 0x10 s) 0 (loadTo part img u) :=
      fun w => (if_pos hi).trans (loadOp_passes hs hc)
    refine ⟨_, (loadMaquette_runs hp hz hl hb ha h1 h2).trans (congrArg (fun w => Host.Outcome.next (announce s w)) ((bulkIn_read hr _).trans (hop _))), ?_, ?_, ?_,
      replied_command (later_trans (later_bulkRead hr) h3) (finish_replied ..)⟩ <;> rw [finishOk, getPart_finished]
    exacts [h4, h5, h6]
  · have hn : ¬imageIs bs img = true := by rw [hi]; exact Bool.false_ne_true
    refine ⟨_, (loadMaquette_runs hp hz hl hb ha h1 h2).trans (congrArg (fun w => Host.Outcome.next (announce s w)) ((bulkIn_read hr _).trans (if_neg hn))), ?_,
      replied_command (later_bulkRead hr) (finish_replied ..)⟩
    rw [announce_parts, completes_parts (finish_completes ..), bulkRead_parts hr, taken_parts]
  · obtain ⟨u, hu⟩ : ∃ u, (spaceRead addr (size / 64 + 2) size (taken h s)) = (none, u) := ⟨_, Prod.ext hn rfl⟩
    have hw : u.parts = (taken h s).parts := (congrArg (fun x : Option (List Byte) × State => x.2.parts) hu).symm.trans
      (congrArg Prod.snd (spaceRead_readView ..) :)
    have hpc : u.pcie = (taken h s).pcie := (congrArg (fun x : Option (List Byte) × State => x.2.pcie) hu).symm.trans
      (congrArg Prod.fst (spaceRead_readView ..) :)
    have hlater : Later (taken h s) u := by
      refine ⟨spaceRead_out _ hu, ?_, ?_⟩
      · rw [quiet, quiet, hpc]
      · rw [hpc]
    have hrd : ∀ f, bulkIn (slotOf h 0x10 s) loc addr size f (taken h s) = finishRec (slotOf h 0x10 s) .fault (firstBad (taken h s) u) u := fun f => by
      rw [bulkIn, if_neg (by omega), hu]
    refine ⟨_, (loadMaquette_runs hp hz hl hb ha h1 h2).trans (congrArg (fun w => Host.Outcome.next (announce s w)) (hrd _)), ?_,
      replied_command hlater (finishRec_replied ..)⟩
    rw [getPart_announce, finishRec, getPart, completes_parts (finishRecR_completes ..), hw, taken_parts, ← getPart]
  · obtain ⟨h3, h4, h5⟩ := bindTo_binds hb
    have hst' : (getPart (taken h s) part).st = .loaded := by rw [getPart_taken]; exact hst
    have htb : tableBytes s part = tableBytes (taken h s) part := by rw [tableBytes, tableBytes, getPart_taken]
    have hlv : Later (taken h s) v := by
      rcases hv with ⟨-, -, rfl⟩ | ⟨-, -, bs, hr, -⟩
      · exact later_of_eq rfl rfl
      · exact later_bulkRead hr
    have hrun : ∀ bad, exec (.bind h part loc ex tb ⟨0, bad, table⟩) s = .next (announce s (if bad then finishErr (slotOf h 0x11 s) .fault 1 part 0 v
        else finishOk (slotOf h 0x11 s) (pl.foldl (fun a x => a ||| 2 ^ x.1) 0) u)) := fun bad => by
      refine congrArg Host.Outcome.next ((command_params ha ?_).trans (congrArg (announce s) ?_))
      · rw [decide_eq_true hp, hl]
        rcases hv with ⟨rfl, -⟩ | ⟨rfl, hbo, -⟩
        · rfl
        · rw [hbo]
          rfl
      · refine (bindOp_read (f := fun tab => bindOp (slotOf h 0x11 s) part loc ex tab 0 bad) hst' (hv.imp_right fun ⟨h1, _, h2⟩ => ⟨h1, htb ▸ h2⟩) _ fun bs => ?_).trans
          (bindOp_fits hvst hvm hx hi hc hb bad)
        cases bs <;> rfl
    refine ⟨⟨_, hrun false, ?_, ?_, replied_command (later_trans hlv h3) (finish_replied ..)⟩, ⟨_, hrun true, ?_, ?_, replied_command hlv (finishErr_replied ..)⟩⟩
    · rw [if_neg Bool.false_ne_true, finishOk, getPart_finished, h4]
    · rw [if_neg Bool.false_ne_true, finishOk, getPart_finished, h5]
    · rw [if_pos rfl, getPart_announce, getPart, completes_parts (finishErr_completes ..), ← getPart, hvst]
    · rw [if_pos rfl, announce_bands, finishErr_bands]

end Sys2Proof.Machine

end

section
/-! SUPPORT. Register writes and reads of the host and of the application cores (R11 to R13, R282). -/

-- One proof after another: many at a time need more memory than the check of the whole text has.
set_option Elab.async false

namespace Sys2Proof.Machine

/-- An agent's aligned write of a register of 32 bits comes to what `write4` says. -/
theorem agentRequest_write4 {a : Agent} {s : State} (h : CanAccess a s) {off : Nat} (v : W32) (ho : off % 4 = 0) (hc : a = .host ∨ coreMayWrite off = true)
    (q : HostReq) : agentRequest a q (bar0Write a off 4 v.toNat) s = settleWrite a off v.toNat (awake a s) (write4 off v.toNat (awake a s)) := by
  have hw : ∀ u, writeReg a off 4 v.toNat u = settleWrite a off v.toNat u (write4 off v.toNat u) := fun u => by
    rw [writeReg, if_pos rfl, Nat.mod_eq_of_lt v.isLt]
  rw [agentRequest_access h, ← hw]
  cases a with
  | host => exact bar0Write_access h _ ⟨.inl rfl, ho⟩ (.inl rfl)
  | core n =>
    rcases hc with hc | hc
    · cases hc
    · have hs : (!((4 == 4 || 4 == 8) && off % 4 == 0)) = false := by rw [ho]; rfl
      exact (if_neg (by rw [hs]; exact Bool.false_ne_true)).trans (if_pos hc)

theorem exec_registerWrite_host {s : State} (h : CanAccess .host s) {off size : Nat} (v : W64) (hb : off < 0x4000000)
    (ho : (size = 4 ∨ size = 8) ∧ off % size = 0) : exec (.registerWrite .host off size v) s = .next (announce s (writeReg .host off size v.toNat s)) := by
  have hn : ¬(Agent.host = Agent.host ∧ writesCfg ≤ off) := fun h => by
    have := h.2
    rw [writesCfg] at this
    omega
  refine congrArg (fun w => Host.Outcome.next (announce s w)) ((if_neg hn).trans ((agentRequest_access h _ _).trans ((if_pos hb).trans ?_)))
  exact bar0Write_access h _ ho (.inl rfl)

theorem exec_registerWrite_done {s u : State} (h : CanAccess .host s) {off : Nat} (v : W64) (hb : off < 0x4000000) (ho : off % 4 = 0)
    (hw : write4 off (v.toNat % 2 ^ 32) s = .done u) : exec (.registerWrite .host off 4 v) s = .next (announce s u) :=
  (exec_registerWrite_host h v hb ⟨.inl rfl, ho⟩).trans (congrArg (fun w => Host.Outcome.next (announce s w))
    ((if_pos rfl).trans (congrArg (settleWrite .host off (v.toNat % 2 ^ 32) s) hw)))

theorem write4_wdog (p : Fin 4) (v : Nat) (s : State) :
    write4 (0x50 + 4 * p) v s = .done { s with wdog := tset 0x01000000 s.wdog p (max 0x1000 v) } := by fin_cases p <;> rfl

/-- A ring's base moves while the ring is off (R303). -/
theorem write64_ringBase (n : Fin 16) (v : Nat) (s : State) : (reg64 s (0x400000 + 0x20 * n)).isSome = true ∧
    write64 (0x400000 + 0x20 * n) v s =
      if (getRing s n).enable then .refused else .done (modRing n (fun g => { g with base := BitVec.ofNat 64 (v / 64 * 64) }) s) := by
  fin_cases n <;> exact ⟨rfl, rfl⟩

theorem regRead_32 {s : State} {off w : Nat} (h : reg32 s off = some w) : regRead s off 4 = (w, true) := by
  rw [regRead, if_pos rfl]
  dsimp only
  rw [h]

theorem regRead_64 {s : State} {off w : Nat} (h : reg64 s off = some w) : regRead s off 8 = (w, true) := by
  rw [regRead, if_neg (by decide), h]

theorem bar0Read_register {s : State} {off size w : Nat} (hl : limited s = false) (hs : (size = 4 ∨ size = 8) ∧ off % size = 0)
    (hr : regRead s off size = (w, true)) : bar0Read off size s = (some (leBytes size w), s) := by
  have hf : (!((size == 4 || size == 8) && off % size == 0)) = false := by
    rcases hs with ⟨rfl | rfl, h⟩ <;> rw [h] <;> rfl
  rw [bar0Read, hf, hl, if_neg Bool.false_ne_true, Bool.false_and, if_neg Bool.false_ne_true, hr]
  rfl

/-- The host reads in BAR0 what a register holds. -/
theorem exec_bar0Read {s : State} (h : CanAccess .host s) {o off size w : Nat} (he : o = 0x1000000000 + off) (hb : off < 0x4000000)
    (hs : (size = 4 ∨ size = 8) ∧ off % size = 0) (hr : regRead s off size = (w, true)) :
    exec (.bar2Read o size) s = .next (emit (.completion (leBytes size w)) s) := by
  have hc : ¬readsCfg ≤ o := by rw [readsCfg]; omega
  have h2 : ¬o < bar2Size := by rw [bar2Size]; omega
  have h0 : readsBar0 ≤ o ∧ o < readsBar0 + bar0Size := by rw [readsBar0, bar0Size]; omega
  have ho : o - readsBar0 = off := by rw [readsBar0]; omega
  have hq : hostRequest (readReq o s) (hostLoad o size) s = hostLoad o size s := agentRequest_access h _ _
  have hl : hostLoad o size s = readBar0 (o - readsBar0) size s := (if_neg h2).trans (if_pos h0)
  have hread : readBar0 off size s = emit (.completion (leBytes size w)) s := by rw [readBar0, bar0Read_register h.2.2 hs hr]
  exact congrArg Host.Outcome.next ((if_neg hc).trans (hq.trans (hl.trans ((congrArg (fun x => readBar0 x size s) ho).trans hread))))

theorem cfgWord_bar0 (s : State) : cfgWord s 0x10 = barValue s.pcie.bar0 bar0Size false % 2 ^ 32 := by
  unfold cfgWord
  extract_lets p
  rw [if_neg (by decide), if_neg (by decide), if_neg (by decide), if_pos rfl]

theorem cfgPut_bar0 (v ones : Nat) (s : State) :
    cfgPut 0x10 v ones s = { s with pcie := { s.pcie with bar0 := withHalf false v s.pcie.bar0 / bar0Size * bar0Size } } := by
  unfold cfgPut
  extract_lets put
  rw [if_neg (by decide), if_pos (.inl rfl)]
  rfl

theorem cfgWrite_bar0 (v : Nat) (s : State) : ∃ ones, cfgWrite 0x10 4 v s = cfgPut 0x10 (v % 2 ^ 32) ones s := by
  have hm (k : Nat) : (k &&& (0xFFFFFFFF - (2 ^ (8 * 4) - 1) * 2 ^ (8 * (0x10 % 4))) ||| v % 2 ^ (8 * 4) * 2 ^ (8 * (0x10 % 4))) = v % 2 ^ 32 := by simp
  refine ⟨v % 2 ^ (8 * 4) * 2 ^ (8 * (0x10 % 4)), ?_⟩
  unfold cfgWrite
  extract_lets w mask ones
  rw [if_neg (by decide)]
  exact congrArg (fun k => cfgPut 0x10 k ones s) (hm _)

theorem bar0_written (v n : Nat) : barValue (withHalf false (v % 2 ^ 32) n / bar0Size * bar0Size) bar0Size false % 2 ^ 32 = v % 2 ^ 32 / 2 ^ 26 * 2 ^ 26 + 4 := by
  rw [barValue, withHalf, if_neg Bool.false_ne_true, bar0Size, b2n, if_neg Bool.false_ne_true]
  omega

theorem cfgRequest_up {s : State} (h : CanAccess .host s) (f : State → State) : cfgRequest f s = f s := by
  obtain ⟨h1, -, -⟩ := h
  have h1 : (endpointUp s && fnReady s) = true := h1
  rw [Bool.and_eq_true] at h1
  have he : (!endpointUp s) = false := by rw [h1.1]; rfl
  have hr : (!fnReady s) = false := by rw [h1.2]; rfl
  rw [cfgRequest, he, hr, if_neg Bool.false_ne_true, if_neg Bool.false_ne_true]

theorem exec_cfgWrite {s : State} (h : CanAccess .host s) {o : Nat} (he : o = 0x200000010) (v : W64) :
    exec (.registerWrite .host o 4 v) s = .next (announce s (cfgWrite 0x10 4 v.toNat s)) := by
  have hle : writesCfg ≤ o := by rw [writesCfg]; omega
  have ho : o - writesCfg = 0x10 := by rw [writesCfg]; omega
  have hc : exec (.registerWrite .host o 4 v) s = .next (announce s (cfgRequest (cfgWrite (o - writesCfg) 4 v.toNat) s)) :=
    congrArg (fun w => Host.Outcome.next (announce s w)) (if_pos ⟨rfl, hle⟩)
  rw [hc, ho, cfgRequest_up h]

theorem tget_filter_absent {α : Type} (d : α) {p : Nat → Bool} {i : Nat} (h : p i = false) (l : Tbl α) : tget d (l.filter (fun x => p x.1)) i = d := by
  induction l with
  | nil => rfl
  | cons x l ih =>
    obtain ⟨k, v⟩ := x
    rw [List.filter_cons]
    split
    · next hk =>
      have hi : k ≠ i := fun he => by
        subst he
        exact Bool.false_ne_true (h.symm.trans hk)
      rw [tget, if_neg hi, ih]
    · exact ih

theorem cores_reset {mask n : Nat} (s : State) (h : bitOf mask n = true) : tget {} (resetCores mask s).app.cores n = ({} : AppCore) :=
  tget_filter_absent {} (p := fun i => !bitOf mask i) (by rw [h]; rfl) s.app.cores

theorem msixHeld_awake (a : Agent) (s : State) (v : Nat) : msixHeld (awake a s) v = msixHeld s v ∧ (awake a s).msix = s.msix ∧ (awake a s).out = s.out := by
  cases a <;> exact ⟨rfl, rfl, rfl⟩

/-- The flags whose bits are ones are cleared, the rest of the low half stays (R113). -/
theorem arrNum_cleared (n v : Nat) (b : Bool) : (BitVec.ofNat 32 ((n % 2 ^ 16 &&& (0xFFFF - v % 2 ^ 16)) + (if b then 0 else n / 2 ^ 16 * 2 ^ 16))).toNat % 2 ^ 16 =
    n % 2 ^ 16 &&& (0xFFFF - v % 2 ^ 16) := by
  have hlt : n % 2 ^ 16 &&& (0xFFFF - v % 2 ^ 16) < 2 ^ 16 := Nat.and_lt_two_pow _ (by omega)
  generalize n % 2 ^ 16 &&& (0xFFFF - v % 2 ^ 16) = k at hlt
  rw [BitVec.toNat_ofNat]
  split <;> omega

/-- Settles O56: each register stands at its offset, and a write comes to what its rule says. -/
theorem registerWrites : Obligations.RegisterWrites := by
  unfold Obligations.RegisterWrites
  refine fun a s => ⟨fun v h => ⟨_, congrArg Host.Outcome.next (agentRequest_write4 h v rfl (.inr rfl) _), fun n _ hb => cores_reset _ hb⟩,
    fun v h hv he hf hq hm hl => ?_, fun h => ⟨fun off w ho => ⟨fun hr h4 => ?_, fun hr h8 => ?_⟩, fun v => ?_, fun p f v => ⟨fun h1 h2 => ?_, fun h1 => ?_⟩, fun v hv1 hv2 => ?_, fun b pos v => ?_, fun v => ?_,
      fun p v => ?_, fun v => ?_, fun n v hn => ?_, fun v => ?_⟩, fun n off v ha hr ho h4 hc => ?_⟩
  · have hc := msixHeld_awake a s (v.toNat % 256)
    have hn : msixHeld s (v.toNat % 256) = false := by rw [msixHeld, he, hf, hm, hq]; rfl
    have hw : write4 0x210 v.toNat (awake a s) = .done (signal (v.toNat % 256) (awake a s)) := if_pos hv
    refine ⟨_, congrArg Host.Outcome.next ((agentRequest_write4 h v rfl (.inr rfl) _).trans (congrArg (settleWrite a 0x210 v.toNat (awake a s)) hw)), ?_⟩
    exact sent_of_suffix (by rw [hc.2.2]) (sent_signal (hc.1.trans hn) ((congrArg (fun x : Msix => (tget {} x.vecs (v.toNat % 256)).last) hc.2.1).trans hl))
  · exact ⟨_, exec_bar0Read h rfl ho ⟨.inl rfl, h4⟩ (regRead_32 hr), sent_emit ..⟩
  · exact ⟨_, exec_bar0Read h rfl ho ⟨.inr rfl, h8⟩ (regRead_64 hr), sent_emit ..⟩
  · refine ⟨{ s with pcie := { s.pcie with apBase := v.toNat / 2 ^ 30 % 2 ^ 18 } },
      congrArg Host.Outcome.next ((agentRequest_access h _ _).trans ((bar0Write_access h _ ⟨.inr rfl, rfl⟩ (.inl rfl)).trans ?_)), rfl⟩
    exact (if_neg (by decide)).trans ((if_pos rfl).trans (congrArg (settleWrite .host 0x100 v.toNat s) (write64_apBase ..)))
  · have hw := (write4_flag p f v.toNat s).trans (if_neg (not_or.2 ⟨h1, h2⟩))
    refine ⟨_, congrArg Host.Outcome.next ((agentRequest_write4 h v (by omega) (.inl rfl) _).trans (congrArg (settleWrite .host _ v.toNat s) hw)), ?_⟩
    have hp := fun u : State => satisfy_parts f (BitVec.ofNat 32 v.toNat) (bandsOf u p) u
    rw [settleWrite, getPart, hp, ← getPart, getPart_modPart, BitVec.ofNat_toNat, BitVec.setWidth_eq]
    exact ⟨congrArg Flag.value (tget_tset_same ..), congrArg Flag.setter (tget_tset_same ..), fun x hx => tget_tset_other _ _ _ (Ne.symm hx)⟩
  · have hw := (write4_flag p f v.toNat s).trans (if_pos h1)
    obtain ⟨g, m, o, hr⟩ := refuseReg_host_shape (0x1000 + 0x100 * p + 4 * f) v.toNat s
    refine ⟨_, congrArg Host.Outcome.next ((agentRequest_write4 h v (by omega) (.inl rfl) _).trans ((congrArg (settleWrite .host _ v.toNat s) hw).trans hr)), rfl⟩
  · refine ⟨_, congrArg Host.Outcome.next ((agentRequest_write4 h v rfl (.inl rfl) _).trans (congrArg (settleWrite .host _ v.toNat s) (write4_errSts ..))), ?_, ?_, ?_, rfl, rfl, rfl⟩
    · exact (congrArg (fun x => s.log.overflow && !x) hv1).trans (Bool.and_false _)
    · exact (congrArg (fun x => s.log.firstValid && !x) hv2).trans (Bool.and_false _)
    · exact if_pos hv2
  · refine ⟨_, congrArg Host.Outcome.next ((agentRequest_write4 h v (by omega) (.inl rfl) _).trans (congrArg (settleWrite .host _ v.toNat s) (write4_arrNum ..))), ?_⟩
    rw [settleWrite, getCell_modCell]
    exact arrNum_cleared ..
  · exact ⟨_, exec_registerWrite_done h v (by decide) rfl (write4_errAck ..), congrArg ErrLog.ack (announce_log ..)⟩
  · have hb : 0x50 + 4 * (p : Nat) < 0x4000000 := by omega
    exact ⟨_, exec_registerWrite_done h v hb (by omega) (write4_wdog ..), (congrArg (fun x : Tbl Nat => tget 0x01000000 x p) (announce_wdog ..)).trans (tget_tset_same ..)⟩
  · obtain ⟨g, m, o, hr⟩ := refuseReg_host_shape 0 (v.toNat % 2 ^ 32) s
    have hw : write4 0 (v.toNat % 2 ^ 32) s = .refused := rfl
    refine ⟨_, (exec_registerWrite_host h v (by decide) ⟨.inl rfl, rfl⟩).trans (congrArg (fun w => Host.Outcome.next (announce s w))
      ((if_pos rfl).trans ((congrArg (settleWrite .host 0 (v.toNat % 2 ^ 32) s) hw).trans hr))), announce_ident .., announce_parts .., announce_rings .., announce_mem ..⟩
  · obtain ⟨hr, hw⟩ := write64_ringBase n v.toNat s
    have hb : 0x400000 + 0x20 * (n : Nat) < 0x4000000 := by omega
    refine ⟨_, (exec_registerWrite_host h v hb ⟨.inr rfl, by omega⟩).trans (congrArg (fun w => Host.Outcome.next (announce s w))
      ((if_neg (by decide)).trans ((if_pos hr).trans (congrArg (settleWrite .host _ v.toNat s) (hw.trans (if_neg (by rw [hn]; exact Bool.false_ne_true))))))), ?_⟩
    rw [settleWrite, getRing, announce_rings, ← getRing, getRing_modRing]
    refine ⟨?_, hn⟩
    have hv := v.isLt
    rw [BitVec.toNat_ofNat]
    omega
  · obtain ⟨ones, hw⟩ := cfgWrite_bar0 v.toNat s
    have hb := congrArg (fun p : Pcie => p.bar0) (announce_pcie s (cfgWrite 0x10 4 v.toNat s))
    rw [hw, cfgPut_bar0] at hb
    refine ⟨_, exec_cfgWrite h rfl v, ?_⟩
    rw [cfgWord_bar0, hw, cfgPut_bar0, hb]
    exact bar0_written v.toNat s.pcie.bar0
  · have hn : ¬(Agent.core n = Agent.host ∧ writesCfg ≤ off) := fun h => nomatch h.1
    obtain ⟨g, m, ap, o, hw⟩ := bar0Write_denied (n := n) (size := 4) v.toNat (wakeCore n s) hc
    refine ⟨_, congrArg (fun w => Host.Outcome.next (announce s w)) ((if_neg hn).trans ((if_pos hr).trans ((if_pos ho).trans hw))),
      sent_announce ⟨[], o, rfl⟩, announce_parts .., announce_partMap .., announce_rings .., announce_mem .., announce_pcie ..⟩

end Sys2Proof.Machine

end
